-- ==== Sys2Proof/Word.lean ====
section
/-! DEFINITION. The word types of the part and their plainest arithmetic (00 R9, R10; 02 R36). -/

namespace Sys2Proof

/-- One byte. -/
abbrev Byte := BitVec 8

/-- One 32-bit lane, scalar register, argument or counter. -/
abbrev Word := BitVec 32

/-- One 64-bit word: a predicate register, an instruction, a BX64 element. -/
abbrev DWord := BitVec 64

/-- The 64 lanes of a v register, lane 0 first (06 R144). -/
abbrev Lanes := List Word

/-- A part's status code (17 R437), as its number. -/
abbrev Code := Nat

end Sys2Proof
end

