-- ==== Sys2Proof/Syntax.lean ====
section
/-! DEFINITION. The commands of the block: one constructor of `Instr` per row of spec/opcode_table.json, and the types of
their operands. What the outside delivers (host data, message bodies, results of published standards, sensor readings) and
what the spec leaves to firmware or silicon (assigned identifiers, estimates, test results) are operands (log 6, 7, 9). -/

namespace Sys2Proof

/-- A physical bay: die 0-7, physical number 0-131 (00 R15). -/
structure BayRef where
  die : Nat
  bay : Nat
deriving DecidableEq, Repr

/-- The fields of a stroke instruction word below its opcode (05 R114). -/
structure Fields where
  dst : BitVec 6
  src1 : BitVec 6
  src2 : BitVec 6
  src3 : BitVec 6
  imm : BitVec 32
deriving DecidableEq, Repr

/-- A fabric port: Span port SP0-SP15 or Pier port PL0-PL1 (01 R19). -/
inductive PortRef where
  | sp (n : Nat)
  | pl (n : Nat)
deriving DecidableEq, Repr

/-- A Span or Pier message as delivered whole: the envelope's fields (14 R364; type by the command, length by the body) and
the body. -/
structure SpanMsg where
  kind : Nat
  flags : Nat
  dst : Nat
  src : Nat
  hops : Nat
  seq : Nat
  ecrcOk : Bool
  body : List Byte
deriving DecidableEq, Repr

/-- A Vobin command under execution: the host port and mailbox that posted it, and the firmware's estimate for a refusal
whose resource frees without host action (17 R434). -/
structure CmdRef where
  port : Nat
  mailbox : Nat
  retry : Nat
deriving DecidableEq, Repr

/-- A detected fault (12 R303): the table's row 1-12, the unit, and whether the same check failed before at the same
location (12 R316). -/
structure FaultDesc where
  detector : Nat
  die : Nat
  unit : Nat
  addr : Nat
  recurs : Bool
  detail : List Byte
deriving DecidableEq, Repr

/-- A damaged object and what its recovery delivers (12 R316): kind 0 replica working copy, 1 owner working copy, 2 record
pair, 3 buffer copied from a dry source, 4 buffer of a journalled stroke, 5 anything else. -/
structure DamageDesc where
  kind : Nat
  die : Nat
  bay : Nat
  addr : Nat
  job : Nat
  depth : Nat
deriving DecidableEq, Repr

/-- A record pair that Varnish reads: its block within the slot and, for a shard of the host tier, the 832 B that host memory returns
(11 R295, R296). -/
structure RecordRead where
  block : Nat
  data : List Byte := []
deriving DecidableEq, Repr

/-- What the leader Keystone holds when it compares digests (12 R317, R318): whether the two units' own second results
repeated their first (stage 2), and whether the field tests of stage 3 passed on this side and on the other. -/
structure DigestObs where
  ownRepeats : Bool
  peerRepeats : Bool
  ownTestOk : Bool
  peerTestOk : Bool
deriving DecidableEq, Repr

/-- A received Ethernet frame after the physical layer (15 R379-R384): MACsec fields and the cipher's verdict are operands. -/
structure Frame where
  len : Nat
  dstMac : Nat
  etherType : Nat
  secured : Bool
  an : Nat
  pn : Nat
  icvOk : Bool
  macControl : Bool
  ipDst : Nat
  nextHeader : Nat
  fragment : Bool
  udpDst : Nat
  udpOk : Bool
  payload : List Byte
deriving DecidableEq, Repr

/-- A picture as the codec's standard reconstructs it, in output order (13 R338 to R345, log 9): what the decoder finds, the PTS of its PES
packet, the ordinal of the segment of its first byte, its frame duration in ticks (0 unknown), which field comes first, the chroma
sample location as twice the offset from the first luma sample, and the samples by rows. -/
structure Picture where
  unsupported : Bool
  damaged : Bool
  dependsOnDropped : Bool
  randomAccess : Bool
  width : Nat
  height : Nat
  depth : Nat
  fieldPair : Bool
  bottomFirst : Bool
  frameTicks : Nat
  pts : Option Nat
  segment : Nat
  discontinuity : Bool
  matrixCode : Nat
  fullRange : Option Bool
  chromaX2 : Nat
  chromaY2 : Nat
  mono : Bool
  luma : List Nat
  cb : List Nat
  cr : List Nat
deriving DecidableEq, Repr

/-- Why a host link became unusable (16 R425). -/
inductive LinkEvent where
  | linkDown
  | hotReset
  | perst
  | d3hot
deriving DecidableEq, Repr

/-- A DOE object (16 R426): SPDM, or IDE_KM with the stream it keys and the responder's result (log 9). -/
inductive DoeObject where
  | spdm (request : List Byte)
  | ideKeyed (stream : Nat)
  | begun
  | done
deriving DecidableEq, Repr

/-- A signed structure as read from the flash, with the verdicts of the checks of 18 R447 that a cryptographic engine gives
(log 9). -/
structure SignedHdr where
  rootHashOk : Bool
  certOk : Bool
  sigOk : Bool
  digestOk : Bool
  kind : Nat
  version : Nat
  serial : Nat
  digest : List Byte
deriving DecidableEq, Repr

/-- The configuration record's body (18 R449). -/
structure ConfigRecord where
  order : Nat
  dies : Nat
  speedBin : Nat
  flags : Nat
  serial : Nat
  spares : List Nat
  identityHash : List Byte
  mctpIana : Nat
deriving DecidableEq, Repr

/-- What a Gesso stage finds (18 R450). Stage 1: self-test per die, AVSBus per die, coolest sensor below 95 °C, directory state and
Keystone header of both slots. Stage 2: record and Easel image. Stage 3: the PUF unwrap and the hash match. Stage 4: links and
slices. Stage 5: capacity per device in GB (0 where missing or untrained). Stage 6: bays that failed their test, as
die × 256 + bay. Stage 7: ports that trained. -/
inductive GessoObs where
  | rom (selfTest avsOk : List Bool) (cool : Bool) (state0 state1 : Nat) (h0 h1 : SignedHdr)
  | config (h : SignedHdr) (body : ConfigRecord) (easel : SignedHdr) (clusterOk : List Bool)
  | puf (unwrapped hashOk debugOpens : Bool)
  | links (linkOk sliceOk : List Bool)
  | memory (gb : List Nat)
  | stores (bad : List Nat)
  | ports (span : List Nat) (pier : List Nat)
  | ready
deriving DecidableEq, Repr

/-- A management message (18 R457): the transport, the header's fields, the verdicts of the owner's and Luotte's signatures
(log 9), and the body. -/
structure MgmtMsg where
  mctp : Bool
  serial : Nat
  nonce : List Byte
  ownerSigOk : Bool
  luotteSigOk : Bool
  body : List Byte
deriving DecidableEq, Repr

/-- The commands of the block, one per row of spec/opcode_table.json. -/
inductive Instr where
  /-- R130. Stroke instruction 0x00 that does nothing. -/
  | nop (b : BayRef) (f : Fields)
  /-- R130. Last instruction of a stroke; supplies the completion tag and ends issue. -/
  | seal (b : BayRef) (f : Fields)
  /-- R118. Issues one matrix tile with A and B natural; retires by conversion into C. -/
  | mxtNn (b : BayRef) (f : Fields)
  /-- R118. Issues one matrix tile with A natural and B transposed; retires into C. -/
  | mxtNt (b : BayRef) (f : Fields)
  /-- R118. Issues one matrix tile with A transposed and B natural; retires into C. -/
  | mxtTn (b : BayRef) (f : Fields)
  /-- R118. Issues one matrix tile with A and B transposed; retires into C. -/
  | mxtTt (b : BayRef) (f : Fields)
  /-- R121. Natural/natural tile retired by BX64 accumulate-store into a reduction buffer. -/
  | mxtNnAcc (b : BayRef) (f : Fields)
  /-- R121. Natural/transposed tile retired by BX64 accumulate-store into a reduction buffer. -/
  | mxtNtAcc (b : BayRef) (f : Fields)
  /-- R121. Transposed/natural tile retired by BX64 accumulate-store into a reduction buffer. -/
  | mxtTnAcc (b : BayRef) (f : Fields)
  /-- R242. Transposed/transposed tile retired by BX64 accumulate-store; forms weight gradients. -/
  | mxtTtAcc (b : BayRef) (f : Fields)
  /-- R94. A queued tile begins its product pass once the array and an accumulator set are free. -/
  | tileProductPassStart (b : BayRef)
  /-- R94. Product pass ends and the 64-cycle drain begins. -/
  | tileProductPassEnd (b : BayRef) (agree : Bool)
  /-- R94. After the drain, the tile retires through the write port, converting or accumulating into C. -/
  | tileRetire (b : BayRef)
  /-- R122. Loads 256 B of elements, or 64 side bytes, into a v register. -/
  | ld (b : BayRef) (f : Fields)
  /-- R122. Loads one 32-bit element into an s register. -/
  | ldS (b : BayRef) (f : Fields)
  /-- R134. Loads a stroke argument into an s register. -/
  | ldArg (b : BayRef) (f : Fields)
  /-- R122. Stores 256 B of a v register, or 64 side bytes, under predicate. -/
  | st (b : BayRef) (f : Fields)
  /-- R122. Stores one 32-bit element from an s register. -/
  | stS (b : BayRef) (f : Fields)
  /-- R207. Hands a copy, transpose, permute or encoding copy to a mover of the bay group. -/
  | mvCopy (b : BayRef) (f : Fields) (mv : Nat)
  /-- R214. Hands a gather by INT32 indices to a mover. -/
  | mvGather (b : BayRef) (f : Fields) (mv : Nat)
  /-- R215. Hands a scatter-replace by indices to a mover. -/
  | mvScatter (b : BayRef) (f : Fields) (mv : Nat)
  /-- R216. Hands a scatter-add into FP32 or BX64 to a mover. -/
  | mvScadd (b : BayRef) (f : Fields) (mv : Nat)
  /-- R217. Hands a segment sum over CSR offsets to a mover. -/
  | mvSegsum (b : BayRef) (f : Fields) (mv : Nat)
  /-- R217. Hands a segment maximum over CSR offsets to a mover. -/
  | mvSegmax (b : BayRef) (f : Fields) (mv : Nat)
  /-- R124. Hands a sketch pass of a source to a mover, writing a histogram record. -/
  | mvSketch (b : BayRef) (f : Fields) (mv : Nat)
  /-- R210. An overlapping copy takes a bounce buffer from free SRAM of the group once enough is free. -/
  | bounceBufferTake (die mover : Nat)
  /-- R216. Mover processes one locked 512-block range of an FP32 scatter-add. -/
  | scaddRound (die mover : Nat)
  /-- R124. A mover request writes its last byte with parity checked and completes. -/
  | moverRequestDone (die mover : Nat)
  /-- R125. Writes local data to a remote free range over Span. -/
  | spPut (b : BayRef) (f : Fields) (transfer : Nat)
  /-- R125. Reads a remote dry range into a local free range over Span. -/
  | spGet (b : BayRef) (f : Fields) (transfer : Nat)
  /-- R502. Sends a provisional BX64 contribution of local blocks to the owner's reduction slot. -/
  | spAcc (b : BayRef) (f : Fields)
  /-- R128. Accumulates 64 FP32 lanes as two blocks into a reduction buffer. -/
  | bxaV (b : BayRef) (f : Fields)
  /-- R128. Accumulates a BX64 or FP32 source range into a reduction buffer block by block. -/
  | bxaT (b : BayRef) (f : Fields)
  /-- R129. Writes a register value into a summary slot. -/
  | sum (b : BayRef) (f : Fields)
  /-- R129. Writes a word of a descriptor's histogram record into a summary slot. -/
  | sumH (b : BayRef) (f : Fields)
  /-- R129. Writes a fast exception counter or the strict flags into a summary slot. -/
  | sumX (b : BayRef) (f : Fields)
  /-- R150. FP32 lane addition. -/
  | vadd (b : BayRef) (f : Fields)
  /-- R150. FP32 lane subtraction. -/
  | vsub (b : BayRef) (f : Fields)
  /-- R150. FP32 lane multiplication. -/
  | vmul (b : BayRef) (f : Fields)
  /-- R150. FP32 fused multiply-add per lane. -/
  | vfma (b : BayRef) (f : Fields)
  /-- R150. FP32 fused negative multiply-add per lane. -/
  | vfnma (b : BayRef) (f : Fields)
  /-- R151. FP32 minimumNumber per lane. -/
  | vmin (b : BayRef) (f : Fields)
  /-- R151. FP32 maximumNumber per lane. -/
  | vmax (b : BayRef) (f : Fields)
  /-- R150. Clears the sign bit of each lane. -/
  | vabs (b : BayRef) (f : Fields)
  /-- R150. Inverts the sign bit of each lane. -/
  | vneg (b : BayRef) (f : Fields)
  /-- R152. Reciprocal per lane by table seed and Newton step, or correctly rounded under STRICT. -/
  | vrcp (b : BayRef) (f : Fields)
  /-- R152. Reciprocal square root per lane. -/
  | vrsqrt (b : BayRef) (f : Fields)
  /-- R153. FP32 comparison writing a predicate register. -/
  | vcmp (b : BayRef) (f : Fields)
  /-- R149. Selects lanes from two sources by a predicate. -/
  | vsel (b : BayRef) (f : Fields)
  /-- R154. INT32 wrapping addition per lane. -/
  | viadd (b : BayRef) (f : Fields)
  /-- R154. INT32 wrapping subtraction per lane. -/
  | visub (b : BayRef) (f : Fields)
  /-- R154. Low 32 bits of INT32 products per lane. -/
  | vimul (b : BayRef) (f : Fields)
  /-- R154. INT32 saturating addition per lane. -/
  | viadds (b : BayRef) (f : Fields)
  /-- R154. INT32 saturating subtraction per lane. -/
  | visubs (b : BayRef) (f : Fields)
  /-- R154. Signed minimum per lane. -/
  | vimin (b : BayRef) (f : Fields)
  /-- R154. Signed maximum per lane. -/
  | vimax (b : BayRef) (f : Fields)
  /-- R154. Bitwise AND per lane. -/
  | vand (b : BayRef) (f : Fields)
  /-- R154. Bitwise OR per lane. -/
  | vor (b : BayRef) (f : Fields)
  /-- R154. Bitwise XOR per lane. -/
  | vxor (b : BayRef) (f : Fields)
  /-- R154. Left shift per lane. -/
  | vshl (b : BayRef) (f : Fields)
  /-- R154. Logical right shift per lane. -/
  | vshr (b : BayRef) (f : Fields)
  /-- R154. Arithmetic right shift per lane. -/
  | vsra (b : BayRef) (f : Fields)
  /-- R153. Integer comparison writing a predicate register. -/
  | vicmp (b : BayRef) (f : Fields)
  /-- R154. Broadcasts an immediate to every lane. -/
  | vbci (b : BayRef) (f : Fields)
  /-- R154. Broadcasts an s register to every lane. -/
  | vbcs (b : BayRef) (f : Fields)
  /-- R155. Moves an immediate into an s register. -/
  | smovi (b : BayRef) (f : Fields)
  /-- R155. Adds an immediate to an s register. -/
  | saddi (b : BayRef) (f : Fields)
  /-- R155. Scalar integer addition. -/
  | sadd (b : BayRef) (f : Fields)
  /-- R155. Scalar integer subtraction. -/
  | ssub (b : BayRef) (f : Fields)
  /-- R155. Scalar integer multiplication, low 32 bits. -/
  | smul (b : BayRef) (f : Fields)
  /-- R155. Scalar bitwise AND. -/
  | sand (b : BayRef) (f : Fields)
  /-- R155. Scalar bitwise OR. -/
  | sor (b : BayRef) (f : Fields)
  /-- R155. Scalar bitwise XOR. -/
  | sxor (b : BayRef) (f : Fields)
  /-- R155. Scalar left shift by an immediate. -/
  | sshl (b : BayRef) (f : Fields)
  /-- R155. Scalar logical right shift by an immediate. -/
  | sshr (b : BayRef) (f : Fields)
  /-- R155. Scalar FP32 addition. -/
  | sfadd (b : BayRef) (f : Fields)
  /-- R155. Scalar FP32 multiplication. -/
  | sfmul (b : BayRef) (f : Fields)
  /-- R155. Scalar FP32 fused multiply-add. -/
  | sffma (b : BayRef) (f : Fields)
  /-- R155. Scalar FP32 minimumNumber. -/
  | sfmin (b : BayRef) (f : Fields)
  /-- R155. Scalar FP32 maximumNumber. -/
  | sfmax (b : BayRef) (f : Fields)
  /-- R155. Extracts one lane of a v register into an s register. -/
  | vext (b : BayRef) (f : Fields)
  /-- R156. FP32 sum of included lanes, exact and rounded once in the fast class. -/
  | vrsum (b : BayRef) (f : Fields)
  /-- R157. maximumNumber over included lanes. -/
  | vrmax (b : BayRef) (f : Fields)
  /-- R157. minimumNumber over included lanes. -/
  | vrmin (b : BayRef) (f : Fields)
  /-- R157. Largest magnitude over included lanes. -/
  | vramax (b : BayRef) (f : Fields)
  /-- R156. Wrapping INT32 sum of included lanes. -/
  | vrisum (b : BayRef) (f : Fields)
  /-- R158. Permutes lanes by an index register. -/
  | vperm (b : BayRef) (f : Fields)
  /-- R158. Rotates lanes by an immediate. -/
  | vrot (b : BayRef) (f : Fields)
  /-- R156. Logical operation on two predicate registers. -/
  | plogic (b : BayRef) (f : Fields)
  /-- R156. Sets predicate bits below a scalar count. -/
  | prange (b : BayRef) (f : Fields)
  /-- R156. Counts set bits of a predicate register. -/
  | pcount (b : BayRef) (f : Fields)
  /-- R159. Philox-4x32-10 random words into a v register. -/
  | rng (b : BayRef) (f : Fields)
  /-- R159. Philox-4x32-10 uniform FP32 values in [0, 1). -/
  | rngU (b : BayRef) (f : Fields)
  /-- R160. Converts among FP32, BF16, FP16 and INT32 between registers. -/
  | cvt (b : BayRef) (f : Fields)
  /-- R162. Converts a group to or from MX or BX64 using given side data. -/
  | xcvt (b : BayRef) (f : Fields)
  /-- R161. Computes target scale or anchor bytes of a group. -/
  | xside (b : BayRef) (f : Fields)
  /-- R163. Sets the source or target conversion tensor scale. -/
  | tscSet (b : BayRef) (f : Fields)
  /-- R163. Chooses a tensor scale from an amax operand. -/
  | tscale (b : BayRef) (f : Fields)
  /-- R163. Chooses a tensor scale from a histogram record's amax field. -/
  | tscaleH (b : BayRef) (f : Fields)
  /-- R79. Sketch pass of a bay-SRAM tensor by the vector engine into a histogram record. -/
  | vsketch (b : BayRef) (f : Fields)
  /-- R166. Built-in table evaluation of 2^x. -/
  | lutExp2 (b : BayRef) (f : Fields)
  /-- R166. Built-in table evaluation of log2 x. -/
  | lutLog2 (b : BayRef) (f : Fields)
  /-- R166. Built-in table evaluation of 1/x. -/
  | lutRcp (b : BayRef) (f : Fields)
  /-- R166. Built-in sigmoid composed of exp2 and rcp. -/
  | lutSig (b : BayRef) (f : Fields)
  /-- R166. Built-in hyperbolic tangent. -/
  | lutTanh (b : BayRef) (f : Fields)
  /-- R168. Loads a user table into a LUT bank. -/
  | lutLd (b : BayRef) (f : Fields)
  /-- R169. Evaluates a user table bank at each lane. -/
  | lutUsr (b : BayRef) (f : Fields)
  /-- R171. Binds three row-engine roles of a group to descriptors. -/
  | reBind (b : BayRef) (f : Fields)
  /-- R174. Sets a row-engine parameter from an s register. -/
  | reParm (b : BayRef) (f : Fields)
  /-- R182. Layer-norm forward over rows, writing statistics. -/
  | reLnF (b : BayRef) (f : Fields)
  /-- R184. Layer-norm backward, writing DX and accumulating DSCALE and DBIAS. -/
  | reLnB (b : BayRef) (f : Fields)
  /-- R182. RMS-norm forward over rows. -/
  | reRmsF (b : BayRef) (f : Fields)
  /-- R184. RMS-norm backward. -/
  | reRmsB (b : BayRef) (f : Fields)
  /-- R185. Soft-maximum forward in three passes. -/
  | reSmxF (b : BayRef) (f : Fields)
  /-- R187. Soft-maximum backward. -/
  | reSmxB (b : BayRef) (f : Fields)
  /-- R188. Cross-entropy loss and gradient per row. -/
  | reXent (b : BayRef) (f : Fields)
  /-- R191. Activation forward with bit-plane. -/
  | reActF (b : BayRef) (f : Fields)
  /-- R191. Activation backward from bit-plane. -/
  | reActB (b : BayRef) (f : Fields)
  /-- R192. Max pooling forward with selection plane. -/
  | rePoolF (b : BayRef) (f : Fields)
  /-- R192. Max pooling backward. -/
  | rePoolB (b : BayRef) (f : Fields)
  /-- R193. Stores a predicate register as two INT32 words. -/
  | rePst (b : BayRef) (f : Fields)
  /-- R193. Loads two INT32 words into a predicate register. -/
  | rePld (b : BayRef) (f : Fields)
  /-- R189. Reads and optionally clears the loss accumulator. -/
  | reLsum (b : BayRef) (f : Fields)
  /-- R133. Easel cores issue a queued stroke instance once its inputs are dry and room exists. -/
  | strokeIssue (b : BayRef)
  /-- R104. A stroke seals once instructions completed, Truss agreed and writes parity-clean. -/
  | strokeSeal (b : BayRef) (cycles : Nat)
  /-- R238. A slot fill starts once refcount is zero and the other slot's stroke no longer names it. -/
  | paletteFillStart (b : BayRef) (slot : Nat)
  /-- R238. A slot fill completes 64 cycles later and marks the slot valid. -/
  | paletteFillDone (b : BayRef) (slot : Nat)
  /-- R100. A named dry entry becomes free at the first moment its reader count is zero. -/
  | sealEntryRelease (b : BayRef) (start : Nat)
  /-- R99. A dry working copy is reopened wet for Varnish once readers and pending release finish. -/
  | wcReopen (die slot : Nat)
  /-- R138. STROKE node issues one instance per bay of its range. -/
  | graphStroke (die run : Nat)
  /-- R138. LOOP node starts a counted body. -/
  | graphLoop (die run : Nat)
  /-- R505. END_LOOP node increments the loop index and repeats or falls through. -/
  | graphEndLoop (die run : Nat)
  /-- R139. BRANCH node jumps if its condition holds. -/
  | graphBranch (die run : Nat)
  /-- R138. SET node writes a counter. -/
  | graphSet (die run : Nat)
  /-- R505. WAIT node holds the graph until its event. -/
  | graphWait (die run : Nat)
  /-- R505. A held WAIT resumes when its event occurs. -/
  | waitEventMet (die run : Nat)
  /-- R504. NOTIFY node raises a host event or delivers a tag to graphs or a pool. -/
  | graphNotify (die run : Nat)
  /-- R138. STEP node increments the step counter. -/
  | graphStep (die run : Nat)
  /-- R138. RELEASE node releases a reduction slot once earlier strokes seal. -/
  | graphRelease (die run : Nat)
  /-- R138. A pending RELEASE takes effect when the strokes naming the slot have sealed. -/
  | slotReleaseEffect (die slot : Nat)
  /-- R138. FREE node releases seal-table entries of a descriptor. -/
  | graphFree (die run : Nat)
  /-- R138. END node waits for strokes to seal and raises EV_GRAPH_DONE. -/
  | graphEnd (die run : Nat)
  /-- R256. Owner receives a contributor's request for a grant. -/
  | openReq (die : Nat) (m : SpanMsg)
  /-- R256. Contributor receives its grant and starts sending CONTRIB. -/
  | grant (die : Nat) (m : SpanMsg)
  /-- R263. Contributor is told its contribution is late and dropped; slot becomes HELD. -/
  | lateDrop (die : Nat) (m : SpanMsg)
  /-- R255. Owner or twin accumulates a contribution message atomically into the slot buffer. -/
  | contrib (die : Nat) (m : SpanMsg)
  /-- R257. Owner or twin receives SEAL making a contribution final. -/
  | reductionSeal (die : Nat) (m : SpanMsg)
  /-- R259. Receiver subtracts a previously applied CONTRIB. -/
  | retract (die : Nat) (m : SpanMsg)
  /-- R249. Owner or twin receives a contributor's withdrawal. -/
  | withdraw (die : Nat) (m : SpanMsg)
  /-- R268. Contributor resends its held contribution with the replay flag. -/
  | replayReq (die : Nat) (m : SpanMsg)
  /-- R270. Contributor slot leaves HELD or LOST and frees or recycles. -/
  | sliceDone (die : Nat) (m : SpanMsg)
  /-- R256. Twin learns of a grant and releases the contributor's credit. -/
  | grantNote (die : Nat) (m : SpanMsg)
  /-- R262. Twin receives the fixed inclusion set. -/
  | setFixed (die : Nat) (m : SpanMsg)
  /-- R268. Twin receives notice of a slice reset. -/
  | resetNote (die : Nat) (m : SpanMsg)
  /-- R261. Owner's deadline passes and it fixes the inclusion set. -/
  | deadlineExpiry (die slot : Nat)
  /-- R266. A held grant request proceeds when a slot opens or the pending limit frees. -/
  | heldRequestRelease (die slot : Nat)
  /-- R286. Norm pass completes and the slice is skipped or updated. -/
  | varnishNormPassDone (die slot : Nat)
  /-- R281. A slot waiting on an earlier-step slot of its shard begins consumption. -/
  | updatingWaitEnd (die slot : Nat)
  /-- R295. Varnish reads record A of a block into staging as room allows. -/
  | recordPrefetch (die slot : Nat) (block : RecordRead)
  /-- R288. Varnish applies catch-up and the rule to a staged block and writes record B. -/
  | varnishBlockUpdate (die slot block : Nat)
  /-- R298. Compressed working copy encoded whole after the last block is staged. -/
  | wcEncode (die slot : Nat)
  /-- R299. Consumption completes with gradient and update digests and a slice report. -/
  | varnishSliceDone (die slot : Nat)
  /-- R301. Easel firmware orthogonalises the whole-layer moment matrix. -/
  | wholeLayerOrtho (die slot : Nat)
  /-- R317. Leader Keystone compares owner and twin digests. -/
  | digestCompare (die slot : Nat) (obs : DigestObs)
  /-- R400. At the fragment offset the owner reads, encodes and queues its outer delta. -/
  | fragmentDeltaRead (frag : Nat)
  /-- R402. At the round boundary the owner closes the round for each fragment. -/
  | roundClosing (frag : Nat)
  /-- R300. Varnish applies the outer momentum update to a block. -/
  | outerUpdate (frag block : Nat)
  /-- R304. A detector reports a fault to the Easel cores and Keystone. -/
  | faultDetect (x : FaultDesc)
  /-- R313. Replay issued from the journal into the next free slot of the logical bay. -/
  | replayIssue (b : BayRef)
  /-- R107. A reserve spare finishes waking. -/
  | spareWakeDone (b : BayRef)
  /-- R309. Arbiter recomputation finishes and the verdict is applied. -/
  | arbitrationDone (b : BayRef) (arbEqHeld arbEqSums arbOwnOk : Bool)
  /-- R316. A damaged buffer is recovered by the first applicable method or lost. -/
  | damagedDataRecovery (x : DamageDesc)
  /-- R323. A queued nested fault is handled after the enclosing handling completes. -/
  | queuedFaultServe
  /-- R303. Keystone watchdog checks Easel heartbeat and slices every 10 µs. -/
  | watchdogCheck (die : Nat) (heartbeat sliceOk : Bool)
  /-- R324. A non-leader slice without leader contact for 20 µs fences its die's ports. -/
  | leaderContactLoss (die : Nat)
  /-- R324. Leader Keystone stops all issue and fences the part. -/
  | partFailStop (reason : Code)
  /-- R320. A field test completes and the unit passes or is retired or fenced. -/
  | fieldTestDone (unit die index : Nat) (pass : Bool) (pattern : Nat)
  /-- R319. Replica digests its dry working copy and sends it to the owner. -/
  | replicaDigestCompute (entry : Nat)
  /-- R357. A port receives a flit, checks CRC and replays or accepts it. -/
  | flitReceive (port : PortRef) (codewordOk : Bool) (flit : List Byte)
  /-- R357. No ack advance for 1 µs; sender resends from oldest unacknowledged flit. -/
  | linkAckTimeout (port : PortRef)
  /-- R357. Replay exhausted; the port retrains once or goes down. -/
  | replayExhausted (port : PortRef)
  /-- R355. A failing lane is removed and the port re-forms narrower. -/
  | laneRemove (port : PortRef) (lane : Nat)
  /-- R355. A port retrain or re-forming completes. -/
  | portRetrainDone (port : PortRef) (retrained : Bool)
  /-- R360. Each port sends a PROBE every 100 ms. -/
  | probeTimer (port : PortRef)
  /-- R362. A part forwards a message by cut-through per its route table. -/
  | messageForward (port : PortRef) (cls : Nat) (m : SpanMsg)
  /-- R366. No answer after 100 µs; source resends from the oldest unanswered message. -/
  | msgResendTimeout (dst chan : Nat)
  /-- R366. 10 µs after a NAK ST_DEFERRED the source resends the message. -/
  | deferredResend (dst chan seq : Nat)
  /-- R368. Receiver checks and writes a PUT into its memory. -/
  | put (die : Nat) (m : SpanMsg)
  /-- R367. Source receives the answer to a PUT. -/
  | putAck (die : Nat) (m : SpanMsg)
  /-- R369. Receiver serves or holds a GET. -/
  | get (die : Nat) (m : SpanMsg)
  /-- R367. Source receives data answering a GET. -/
  | getData (die : Nat) (m : SpanMsg)
  /-- R503. A held GET or GATHER_REQ sends data once the range becomes dry. -/
  | heldGetResume (die held : Nat)
  /-- R370. Makes wet-source PUT targets of a token dry. -/
  | srcSeal (die : Nat) (m : SpanMsg)
  /-- R370. Frees wet-source PUT targets of a token. -/
  | srcRetract (die : Nat) (m : SpanMsg)
  /-- R366. Source receives a refusal status for a message. -/
  | nak (die : Nat) (m : SpanMsg)
  /-- R372. Owner receives a replica's all-gather request and holds or answers it. -/
  | gatherReq (die : Nat) (m : SpanMsg)
  /-- R372. Replica writes gathered working-copy data. -/
  | gatherData (die : Nat) (m : SpanMsg)
  /-- R366. Source receives an end-to-end acknowledgement. -/
  | msgAck (die : Nat) (m : SpanMsg)
  /-- R360. A part records a neighbour's PROBE. -/
  | probe (port : PortRef) (m : SpanMsg)
  /-- R374. A part records a fenced node and floods the notice. -/
  | fenced (port : PortRef) (m : SpanMsg)
  /-- R319. Owner Keystone compares a replica's working-copy digest. -/
  | replicaDigest (die : Nat) (m : SpanMsg)
  /-- R319. Replica holds readers, frees and refetches its copy. -/
  | refetch (die : Nat) (m : SpanMsg)
  /-- R377. Part receives its twin's Pier heartbeat. -/
  | heartbeat (port : PortRef) (m : SpanMsg)
  /-- R377. Leader Keystone sends a Pier heartbeat every 100 µs. -/
  | heartbeatSend
  /-- R377. A 100 µs interval ends with no heartbeat; three misses cause takeover. -/
  | heartbeatMiss
  /-- R325. Twin takes over the fenced part's slots on a takeover notice. -/
  | takeover (port : PortRef) (m : SpanMsg)
  /-- R317. Owner Keystone receives the twin's digests over Pier. -/
  | digests (die : Nat) (m : SpanMsg)
  /-- R317. Twin receives the agreement result. -/
  | agree (die : Nat) (m : SpanMsg)
  /-- R404. Twin receives mirrored outer-update inputs and on kind 2 begins the update. -/
  | outerInput (die : Nat) (m : SpanMsg)
  /-- R316. Receives a mirror record pair for recovery or adoption. -/
  | recordPair (die : Nat) (m : SpanMsg)
  /-- R318. Receives working-copy blocks for adoption. -/
  | wcBlocks (die : Nat) (m : SpanMsg)
  /-- R384. Viaduct interface receives a frame and applies MACsec, IPv6 and UDP checks. -/
  | ethernetFrameReceive (port itf : Nat) (x : Frame)
  /-- R384. Answers a neighbour solicitation for its own addresses. -/
  | neighborSolicitation (port itf : Nat) (target : Nat)
  /-- R384. Answers an ICMPv6 echo request within rate. -/
  | echoRequest (port itf : Nat) (dst : Nat)
  /-- R384. Counts a Packet Too Big and raises EV_VIA_PATH_MTU. -/
  | packetTooBig (port itf : Nat) (mtu : Nat)
  /-- R381. MKA hello sent every 2 s; peer life time 6 s. -/
  | mkaHello (port itf : Nat) (peers : List Nat)
  /-- R381. Key server distributes a new SAK at the rotation interval. -/
  | sakRotation (port itf : Nat) (keyServer : Bool)
  /-- R382. Old receive SA retired 2 s after first frame under the new SAK. -/
  | receiveSaRetire (port itf : Nat) (an : Nat)
  /-- R393. Receiver handles a DATA segment into its receive map and area. -/
  | dataSeg (port : Nat) (seg : List Byte)
  /-- R392. Sender processes an ACK, updates srtt and releases entries. -/
  | ackSeg (port : Nat) (seg : List Byte)
  /-- R389. Receives a HEARTBEAT carried whole. -/
  | datagram (port : Nat) (seg : List Byte)
  /-- R386. Receives a session OPEN. -/
  | openSeg (port : Nat) (seg : List Byte)
  /-- R386. Receives an OPEN_ACK; session goes RUNNING or STANDBY. -/
  | openAck (port : Nat) (seg : List Byte)
  /-- R386. Receives a CLOSE segment. -/
  | closeSeg (port : Nat) (seg : List Byte)
  /-- R386. An OPENING session resends OPEN every 1 s. -/
  | openRetry (session : Nat)
  /-- R387. Session sends a HEARTBEAT at every 100 ms TAI multiple. -/
  | heartbeatTimer (session : Nat)
  /-- R386. No HEARTBEAT for 500 ms; session becomes SUSPENDED. -/
  | heartbeatLoss (session : Nat)
  /-- R392. A DATA segment is retransmitted after max(1 ms, 2 srtt). -/
  | retransmitTimer (session : Nat) (seq : Nat)
  /-- R393. An ACK is sent 200 µs after an unacknowledged DATA segment. -/
  | ackTimer (session : Nat)
  /-- R401. Owner's receiver accepts, defers or drops a peer fragment by staleness. -/
  | outerDelta (session : Nat) (msg : List Byte)
  /-- R405. Receives a peer's ROUND-CLOSE and logs it. -/
  | roundClose (session : Nat) (msg : List Byte)
  /-- R409. Donor answers a joiner's anchor request. -/
  | anchorReq (session : Nat) (msg : List Byte)
  /-- R409. Joiner installs anchors and outer momenta as new records. -/
  | anchorData (session : Nat) (msg : List Byte)
  /-- R411. A 1PPS rising edge disciplines the TAI counter. -/
  | ppsEdge (edge : Nat)
  /-- R410. A valid NMEA ZDA labels the last PPS edge. -/
  | zdaSentence (sentence : List Byte) (afterMs : Nat)
  /-- R411. Three missing edges move time to HOLDOVER. -/
  | ppsMissing
  /-- R333. Demultiplexer handles one transport-stream packet. -/
  | tsPacket (die stream : Nat)
  /-- R332. Atelier reads a submitted segment from host memory. -/
  | segmentRead (die stream : Nat) (data : Option (List Byte))
  /-- R341. A decode engine decodes one picture, dropping damaged ones. -/
  | pictureDecode (die stream : Nat) (pic : Picture)
  /-- R347. A completed clip is tokenised and written into a pool slot. -/
  | clipComplete (die pool stream : Nat)
  /-- R350. All slots of a bank filled; draw list written and ready tag delivered. -/
  | bankReady (die pool : Nat)
  /-- R352. A release-tag NOTIFY frees a bank for the next pass. -/
  | bankRelease (die pool pass : Nat)
  /-- R332. After an END segment the stream finishes its last clip and ends. -/
  | streamEnd (die stream : Nat)
  /-- R342. Decode engine redecodes after parity fault or is fenced on a second. -/
  | engineFault (die engine : Nat)
  /-- R417. Host posts a mailbox; the request goes to the firmware. -/
  | mbxPost (p : Nat) (value : Word) (hostBody : Option (List Byte))
  /-- R418. Host writes a request or response half; breaches freeze the host function. -/
  | mailboxRequestWrite (p off : Nat) (data : List Byte)
  /-- R417. Firmware writes the response, sets DONE and sends the vector. -/
  | mailboxResponse (p m : Nat) (hostOk : Bool)
  /-- R417. W1C write clears DONE bits. -/
  | mbxDone (p : Nat) (value : Word)
  /-- R416. Write enabling or disabling events and mailbox posts. -/
  | hifCtrl (p : Nat) (value : Word)
  /-- R11. Write to a register with no behaviour of its own. -/
  | registerWrite (p off size : Nat) (value : DWord)
  /-- R416. Misaligned or odd-size BAR0 access discarded or read as 0 and counted. -/
  | bar0BadSize (p off size : Nat) (isWrite : Bool)
  /-- R422. Host read through the device-memory window. -/
  | bar4Read (p off size : Nat)
  /-- R422. Host write through the device-memory window, checked rule by rule. -/
  | bar4Write (p off : Nat) (data : List Byte)
  /-- R425. FLR resets mailbox registers, HIF_CTRL and MSI-X of the port. -/
  | functionLevelReset (p : Nat)
  /-- R425. Host link down, hot reset, PERST or D3hot suspends the port. -/
  | linkDown (p : Nat) (why : LinkEvent)
  /-- R425. A part-initiated request times out after 50 ms. -/
  | completionTimeout (p req : Nat)
  /-- R423. Primary moves after its link is down, D3hot or frozen for 1 s. -/
  | primaryFailover
  /-- R426. A DOE object carrying SPDM or IDE_KM is processed. -/
  | doeObject (p : Nat) (x : DoeObject)
  /-- R427. A TLP failing IDE integrity is discarded; stream goes Insecure. -/
  | ideIntegrityFail (p stream : Nat)
  /-- R434. A posted standing-A command is admitted when a queue entry frees. -/
  | commandAdmit (p m : Nat)
  /-- R435. A D command not done after 1 ms completes with ST_DEFERRED. -/
  | deferralTimeout (p m token : Nat)
  /-- R435. A deferred command finishes and EV_CMD_DONE is raised. -/
  | deferredCommandEnd (die token : Nat)
  /-- R441. Returns order, dies, bin, serial, versions and spares. -/
  | devInfo (c : CmdRef)
  /-- R441. Returns bay conditions and logical map of a die. -/
  | devBays (c : CmdRef)
  /-- R441. Returns the last PROBE per Span port. -/
  | devProbes (c : CmdRef)
  /-- R441. Assigns the part's Span node ID. -/
  | devNode (c : CmdRef)
  /-- R441. Resets the part and runs Gesso. -/
  | devReset (c : CmdRef)
  /-- R422. Writes a HIF_WIN entry of the issuing port. -/
  | memWindow (c : CmdRef)
  /-- R441. Registers a free range dry. -/
  | memDry (c : CmdRef)
  /-- R100. Releases a dry range when its readers are zero. -/
  | memFree (c : CmdRef)
  /-- R441. Creates a job with host mask and grants. -/
  | jobCreate (c : CmdRef)
  /-- R440. Adds grant entries to a job. -/
  | jobGrant (c : CmdRef)
  /-- R441. Revokes grants once unused. -/
  | jobRevoke (c : CmdRef)
  /-- R441. Stops runs and frees the job's objects. -/
  | jobDestroy (c : CmdRef)
  /-- R441. Returns job state and counts. -/
  | jobStatus (c : CmdRef)
  /-- R111. Loads and checks a stroke image. -/
  | prgStroke (c : CmdRef) (id : Nat)
  /-- R142. Loads and checks a graph image. -/
  | prgGraph (c : CmdRef) (id : Nat)
  /-- R143. Unloads a stroke or graph image. -/
  | prgUnload (c : CmdRef)
  /-- R142. Starts a graph run after rechecking images. -/
  | runStart (c : CmdRef) (id : Nat)
  /-- R441. Stops a run; issued strokes seal. -/
  | runStop (c : CmdRef)
  /-- R441. Returns run state, node and counters. -/
  | runStatus (c : CmdRef)
  /-- R131. Returns a stroke completion record. -/
  | runRecord (c : CmdRef)
  /-- R504. Delivers a host notification as a die NOTIFY. -/
  | runNotify (c : CmdRef)
  /-- R331. Creates an Atelier stream. -/
  | atlStream (c : CmdRef)
  /-- R332. Submits a segment list to a stream. -/
  | atlSubmit (c : CmdRef) (hostData : Option (List Byte))
  /-- R348. Creates a shuffle pool. -/
  | atlPool (c : CmdRef)
  /-- R337. Sets and restarts a stream's audio buffer. -/
  | atlAudio (c : CmdRef)
  /-- R441. Closes a stream or pool. -/
  | atlClose (c : CmdRef)
  /-- R342. Returns a stream's counters. -/
  | atlStatus (c : CmdRef)
  /-- R244. Writes a reduction slot descriptor and opens it. -/
  | colSlot (c : CmdRef)
  /-- R271. Returns a slot descriptor and status record. -/
  | colRead (c : CmdRef)
  /-- R441. Frees a slot not gated, updating or reset. -/
  | colFree (c : CmdRef)
  /-- R361. Loads route table entries. -/
  | colRoute (c : CmdRef)
  /-- R363. Loads a multicast group entry. -/
  | colMcast (c : CmdRef)
  /-- R372. Loads a gather table entry. -/
  | colGather (c : CmdRef)
  /-- R266. Sets a die's pending limit. -/
  | colLimit (c : CmdRef)
  /-- R273. Loads a shard descriptor. -/
  | varShard (c : CmdRef)
  /-- R278. Initialises record pairs from FP32 masters. -/
  | varInit (c : CmdRef) (hostData : Option (List Byte))
  /-- R275. Binds a working-copy descriptor to a slot pair. -/
  | varBind (c : CmdRef)
  /-- R295. Sets the prefetch order of slots. -/
  | varSchedule (c : CmdRef)
  /-- R285. Gives the summed global norm total for a step. -/
  | varNorm (c : CmdRef)
  /-- R285. Returns the die's sq_fixed totals. -/
  | varTotals (c : CmdRef)
  /-- R302. Returns slice reports. -/
  | varReport (c : CmdRef)
  /-- R287. Rolls back a step on this part. -/
  | varRollback (c : CmdRef)
  /-- R318. Resolves a halted digest disagreement. -/
  | varResolve (c : CmdRef)
  /-- R302. Returns a shard's cumulative fast counters. -/
  | varCounters (c : CmdRef)
  /-- R378. Configures a Viaduct port and its interfaces. -/
  | viaPort (c : CmdRef)
  /-- R385. Loads a session descriptor. -/
  | viaSessionLoad (c : CmdRef)
  /-- R412. Opens a session, refused in time state FREE. -/
  | viaSessionOpen (c : CmdRef)
  /-- R386. Closes a session. -/
  | viaSessionClose (c : CmdRef)
  /-- R398. Sets the job's outer-loop parameters. -/
  | viaOuter (c : CmdRef)
  /-- R399. Loads fragment table entries. -/
  | viaFragments (c : CmdRef)
  /-- R405. Returns session log events. -/
  | viaLog (c : CmdRef)
  /-- R410. Sets UART rate, TAI offset, sigma and limit. -/
  | viaTime (c : CmdRef)
  /-- R441. Returns time state and session states. -/
  | viaStatus (c : CmdRef)
  /-- R320. Requests a field test of a unit. -/
  | chkTest (c : CmdRef)
  /-- R330. Thaws a frozen non-host master. -/
  | chkThaw (c : CmdRef)
  /-- R100. Returns seal-table entries. -/
  | chkSeal (c : CmdRef)
  /-- R328. Returns a freeze record. -/
  | chkFreeze (c : CmdRef)
  /-- R459. Returns fault log records. -/
  | chkFaults (c : CmdRef)
  /-- R441. Returns telemetry counters of a group. -/
  | telRead (c : CmdRef)
  /-- R438. Returns and removes event records. -/
  | evtRead (c : CmdRef)
  /-- R458. Returns a fresh 32 B nonce. -/
  | nonce (m : MgmtMsg) (fresh : List Byte)
  /-- R458. Returns status registers over management. -/
  | mgmtStatus (m : MgmtMsg)
  /-- R326. Thaws a frozen host function. -/
  | thawHost (m : MgmtMsg)
  /-- R423. Sets the primary host port. -/
  | setPrimary (m : MgmtMsg)
  /-- R324. Signed order to fail-stop the part. -/
  | failStop (m : MgmtMsg)
  /-- R320. Signed field test request. -/
  | fieldTest (m : MgmtMsg)
  /-- R381. Installs a MACsec connectivity association. -/
  | setCak (m : MgmtMsg) (cakOk : Bool)
  /-- R410. Sets TAI−UTC offsets. -/
  | setTai (m : MgmtMsg)
  /-- R458. Sets management network addresses. -/
  | setNetwork (m : MgmtMsg)
  /-- R452. Removes a retirement list entry. -/
  | clearRetirement (m : MgmtMsg)
  /-- R456. Enrols the owner key. -/
  | enrollOwner (m : MgmtMsg)
  /-- R456. Empties the owner record. -/
  | resetOwner (m : MgmtMsg)
  /-- R458. Writes image data into a non-booted slot. -/
  | updateChunk (m : MgmtMsg)
  /-- R458. Verifies a slot's images and marks it written or empty. -/
  | updateCommit (m : MgmtMsg) (ks es : SignedHdr)
  /-- R448. Advances a rollback floor counter. -/
  | advanceFloor (m : MgmtMsg)
  /-- R459. Batched fault records written to flash every 1 s. -/
  | faultLogFlush
  /-- R450. POR_N high starts the Gesso boot sequence. -/
  | porNRise
  /-- R450. A Gesso stage completes or fails and the next begins. -/
  | gessoStageEnd (g : GessoObs)
  /-- R488. POR_N low resets every domain of the part. -/
  | porNFall
  /-- R489. RAILS_OK low while running is a package fault and fail-stops. -/
  | railsOkLow
  /-- R468. Reference clock out of tolerance or absent 10 µs fail-stops the part. -/
  | referenceLoss (die : Nat)
  /-- R461. A domain idle for its hold time is gated. -/
  | domainIdleGate (die dom : Nat)
  /-- R465. A wake source powers up a gated domain, aborting any gating. -/
  | domainWake (die dom : Nat)
  /-- R465. A domain finishes power-up and waiting work proceeds. -/
  | domainWakeDone (die dom : Nat)
  /-- R465. A unit idle 64 cycles has its clock gated. -/
  | clockGate (die dom : Nat)
  /-- R471. Every 100 µs the leader adjusts the throttle level. -/
  | thermalEval (sensors : List Nat) (powerMw : Nat) (dieMw : List Nat)
  /-- R470. Every 1 ms the Keystone adjusts the core set-point. -/
  | avsEval (die : Nat) (margin : Int)
  /-- R425. A host port's link becomes usable again (link trained, PERST deasserted, or function returned to D0), letting held part-initiated requests and the port's mailboxes proceed. -/
  | hostLinkUp (p rate width : Nat) (flit msix : Bool) (bar4 : Nat)
  /-- R424. A host write clearing a vector's mask in the MSI-X table sends the message held pending for that vector. -/
  | msixVectorUnmask (p vector : Nat)
  /-- R416. A 4 B read of the low half of a 64-bit BAR0 register latches the high half for the next read. -/
  | bar0LowHalfRead (p off : Nat)
  /-- R412. The growing holdover error estimate passes the job's limit and EV_TIME_LIMIT is raised. -/
  | timeErrorLimitExceeded
  /-- R410. At the announced change time the TAI-UTC offset switches to its new value. -/
  | taiUtcOffsetChange
  /-- R457. The part answers an MCTP control message (type 0x00) received over I3C or SMBus. -/
  | mctpControlMessage (x : List Byte)
  /-- R455. The SPDM responder answers an SPDM request received over MCTP. -/
  | mctpSpdmMessage (x : List Byte)
  /-- R246. Zeroing and anchor writing of an opened or recycled reduction slot completes and the slot becomes OPEN. -/
  | slotOpenDone (die slot : Nat)
deriving DecidableEq, Repr

end Sys2Proof
end

