-- ==== Sys2Proof/Decode.lean ====
section
/-! DEFINITION. Words. No row of the opcode table gives bits, so `decodeTableWord` spells no command; the 64-bit stroke
instruction word of 05 R114, which a stroke image holds, is read and written here. -/

namespace Sys2Proof

/-- The command a word spells by the table's bits: the table gives no row any bits. -/
def decodeTableWord (nbits w : Nat) : Option Instr :=
  match nbits, w with
  | _, _ => none

/-- The opcode of an instruction word (05 R114). -/
def wordOp (w : DWord) : Nat := (w.toNat >>> 56) % 256

/-- The fields of an instruction word below its opcode (05 R114). -/
def wordFields (w : DWord) : Fields :=
  { dst := BitVec.ofNat 6 (w.toNat >>> 50), src1 := BitVec.ofNat 6 (w.toNat >>> 44), src2 := BitVec.ofNat 6 (w.toNat >>> 38),
    src3 := BitVec.ofNat 6 (w.toNat >>> 32), imm := BitVec.ofNat 32 w.toNat }

/-- The instruction word of an opcode and its fields (05 R114). -/
def encodeWord (op : Nat) (f : Fields) : DWord :=
  BitVec.ofNat 64 (op <<< 56 + f.dst.toNat <<< 50 + f.src1.toNat <<< 44 + f.src2.toNat <<< 38 + f.src3.toNat <<< 32 + f.imm.toNat)

end Sys2Proof
end

