-- ==== Sys2Proof/Machine/Bits.lean ====
section
/-! DEFINITION. Bit fields, byte order and sparse tables: the helpers every unit uses (00 R9 to R11). -/

namespace Sys2Proof.Machine

/-- The field [hi:lo] of a number (00 R9). -/
def bitsOf (n hi lo : Nat) : Nat := (n >>> lo) % 2 ^ (hi + 1 - lo)

/-- Bit `i` of a number. -/
def bitOf (n i : Nat) : Bool := n.testBit i

/-- 1 for true, 0 for false. -/
def b2n (b : Bool) : Nat := if b then 1 else 0

/-- A little-endian byte list as a number (00 R10). -/
def leNat : List Byte → Nat
  | [] => 0
  | b :: bs => b.toNat + 256 * leNat bs

/-- The `n` low bytes of a number, least significant first (00 R10). -/
def natLe : Nat → Nat → List Byte
  | 0, _ => []
  | n + 1, v => BitVec.ofNat 8 v :: natLe n (v / 256)

/-- A most-significant-byte-first list as a number (the network-order exception of 00 R10). -/
def beNat (bs : List Byte) : Nat := bs.foldl (fun a b => a * 256 + b.toNat) 0

/-- The `n` low bytes of a number, most significant first. -/
def natBe (n v : Nat) : List Byte := (natLe n v).reverse

/-- `n` bytes from offset `o`; bytes past the end read 0. -/
def sub (bs : List Byte) (o n : Nat) : List Byte :=
  let t := (bs.drop o).take n
  t ++ List.replicate (n - t.length) 0

/-- The `n`-byte little-endian field at offset `o` of a structure. -/
def fld (bs : List Byte) (o n : Nat) : Nat := leNat (sub bs o n)

/-- The `n`-byte network-order field at offset `o` of a structure. -/
def fldBe (bs : List Byte) (o n : Nat) : Nat := beNat (sub bs o n)

/-- Every byte of the `n` from offset `o` is 0: a reserved field as 00 R11 requires it. -/
def zeroAt (bs : List Byte) (o n : Nat) : Bool := fld bs o n == 0

/-- Overwrites bytes of a list from offset `o`. -/
def splice (bs : List Byte) (o : Nat) (xs : List Byte) : List Byte :=
  bs.take o ++ xs ++ bs.drop (o + xs.length)

/-- `n` zero bytes. -/
def zeros (n : Nat) : List Byte := List.replicate n 0

/-- A structure laid out from (size, value) pairs, little-endian (00 R10). -/
def pack (fs : List (Nat × Nat)) : List Byte := fs.flatMap fun (n, v) => natLe n v

/-- A structure laid out from (size, value) pairs, network order. -/
def packBe (fs : List (Nat × Nat)) : List Byte := fs.flatMap fun (n, v) => natBe n v

/-- Ceiling of a quotient. -/
def cdiv (a b : Nat) : Nat := (a + b - 1) / b

/-- `a` rounded up to a multiple of `b`. -/
def alignUp (a b : Nat) : Nat := cdiv a b * b

/-- `a` rounded down to a multiple of `b`. -/
def alignDown (a b : Nat) : Nat := a / b * b

/-- A saturating counter of `w` bits (02 R57, 03 R77). -/
def satAdd (w a b : Nat) : Nat := min (a + b) (2 ^ w - 1)

/-- Two's complement of `w` bits read as an integer. -/
def sgn (w n : Nat) : Int := if n < 2 ^ (w - 1) then n else (n : Int) - 2 ^ w

/-- An integer as two's complement of `w` bits. -/
def unsgn (w : Nat) (i : Int) : Nat := (i % 2 ^ w).toNat

/-- Replaces element `i` of a list; nothing when it has none. -/
def setAt {α : Type} (xs : List α) (i : Nat) (a : α) : List α := xs.set i a

/-- Element `i` of a list, or the default. -/
def at' {α : Type} (d : α) (xs : List α) (i : Nat) : α := xs.getD i d

/-- A sparse table: rising keys, each once. -/
abbrev SMap (α : Type) := List (Nat × α)

/-- Looks a key up. -/
def mget {α : Type} : SMap α → Nat → Option α
  | [], _ => none
  | (k, a) :: m, x => if x = k then some a else mget m x

/-- Looks a key up, with a default. -/
def mgetD {α : Type} (d : α) (m : SMap α) (k : Nat) : α := (mget m k).getD d

/-- Sets a key, keeping the keys rising. -/
def mset {α : Type} : SMap α → Nat → α → SMap α
  | [], x, a => [(x, a)]
  | (k, b) :: m, x, a =>
    if x < k then (x, a) :: (k, b) :: m
    else if x = k then (k, a) :: m
    else (k, b) :: mset m x a

/-- Removes a key. -/
def mdel {α : Type} (m : SMap α) (k : Nat) : SMap α := m.filter fun p => p.1 != k

/-- Applies a function to a key's entry, if it has one. -/
def mmod {α : Type} (m : SMap α) (k : Nat) (f : α → α) : SMap α :=
  m.map fun p => if p.1 = k then (p.1, f p.2) else p

/-- The keys of a table. -/
def mkeys {α : Type} (m : SMap α) : List Nat := m.map (·.1)

/-- The keys rise. -/
def mwf {α : Type} (m : SMap α) : Bool := (mkeys m).Pairwise (· < ·)

/-- The lowest of 0, 1, … below `n` that no key names. -/
def mfree {α : Type} (m : SMap α) (n : Nat) : Option Nat := (List.range n).find? fun i => (mget m i).isNone

/-- Two half-open ranges [a, a+m) and [b, b+n) share a number. -/
def overlaps (a m b n : Nat) : Bool := decide (0 < m ∧ 0 < n ∧ a < b + n ∧ b < a + m)

end Sys2Proof.Machine
end

