-- ==== Sys2Proof/Machine/Num.lean ====
section
/-! DEFINITION. Exact values and the single rounding: the part's floating-point arithmetic (02 R37, R38, R53, R55 to R59). -/

namespace Sys2Proof.Machine

/-- The exact value of an element: (-1)^neg · m / d · 2^e, an infinity, a NaN, or an element of a saturated BX64 block. -/
inductive Val where
  | fin (neg : Bool) (m d : Nat) (e : Int)
  | inf (neg : Bool)
  | nan
  | sat
deriving DecidableEq, Repr

/-- Rounding directions (02 R58). -/
inductive Rnd where
  | ne
  | tz
  | up
  | dn
deriving DecidableEq, Repr

/-- The direction that encoding 0-3 names (02 R58). -/
def rndOf (n : Nat) : Rnd := match n % 4 with | 0 => .ne | 1 => .tz | 2 => .up | _ => .dn

/-- Exception events of one element result: invalid, divide by zero, overflow, underflow, inexact (02 R57, R59). -/
structure Exc where
  inv : Nat := 0
  dz : Nat := 0
  ov : Nat := 0
  uf : Nat := 0
  nx : Nat := 0
deriving DecidableEq, Repr

/-- Sum of two event counts. -/
def Exc.add (a b : Exc) : Exc := ⟨a.inv + b.inv, a.dz + b.dz, a.ov + b.ov, a.uf + b.uf, a.nx + b.nx⟩

/-- Sum of a list of event counts. -/
def excSum (xs : List Exc) : Exc := xs.foldl Exc.add {}

/-- floor(log2(m / d)) for positive m and d. -/
def ilog2 (m d : Nat) : Int :=
  let l : Int := (m.log2 : Int) - d.log2
  if 0 ≤ l then (if d <<< l.toNat ≤ m then l else l - 1)
  else (if d ≤ m <<< (-l).toNat then l else l - 1)

/-- floor(log2) of a positive value m/d · 2^e. -/
def vlog2 (m d : Nat) (e : Int) : Int := ilog2 m d + e

/-- m/d · 2^e in units of 2^q as (whole part, remainder, divisor). -/
def scaleTo (m d : Nat) (e q : Int) : Nat × Nat × Nat :=
  if q ≤ e then
    let n := m <<< (e - q).toNat
    (n / d, n % d, d)
  else
    let d' := d <<< (q - e).toNat
    (m / d', m % d', d')

/-- m/d · 2^e rounded to a whole number of 2^q in a direction, and whether it was inexact (02 R53, R58). -/
def roundAt (r : Rnd) (neg : Bool) (m d : Nat) (e q : Int) : Nat × Bool :=
  let (w, rem, dv) := scaleTo m d e q
  let up := match r with
    | .ne => decide (2 * rem > dv) || (decide (2 * rem = dv) && decide (w % 2 = 1))
    | .tz => false
    | .up => !neg && decide (rem ≠ 0)
    | .dn => neg && decide (rem ≠ 0)
  (w + b2n up, decide (rem ≠ 0))

/-- A binary floating-point format: precision, exponent of the smallest subnormal, code of the largest finite magnitude,
sign bit's place, and whether codes above the largest are infinity and NaN (02 R37, R40). -/
structure Fmt where
  p : Nat
  qmin : Int
  maxCode : Nat
  signBit : Nat
  infCode : Option Nat
deriving DecidableEq, Repr

/-- binary32 (02 R37). -/
def fFP32 : Fmt := ⟨24, -149, 0x7F7FFFFF, 31, some 0x7F800000⟩
/-- BF16 (02 R37). -/
def fBF16 : Fmt := ⟨8, -133, 0x7F7F, 15, some 0x7F80⟩
/-- binary16 (02 R37). -/
def fFP16 : Fmt := ⟨11, -24, 0x7BFF, 15, some 0x7C00⟩
/-- MXFP8 E4M3 (02 R40). -/
def fE4M3 : Fmt := ⟨4, -9, 0x7E, 7, none⟩
/-- MXFP8 E5M2 (02 R40). -/
def fE5M2 : Fmt := ⟨3, -16, 0x7B, 7, some 0x7C⟩
/-- MXFP6 E3M2 (02 R40). -/
def fE3M2 : Fmt := ⟨3, -4, 0x1F, 5, none⟩
/-- MXFP6 E2M3 (02 R40). -/
def fE2M3 : Fmt := ⟨4, -3, 0x1F, 5, none⟩
/-- MXFP4 E2M1 (02 R40). -/
def fE2M1 : Fmt := ⟨2, -1, 0x7, 3, none⟩

/-- The magnitude code of n · 2^q, with n at most 2^p and n at or above 2^(p-1) unless q is the smallest exponent. -/
def Fmt.code (f : Fmt) (n : Nat) (q : Int) : Nat := (q - f.qmin).toNat * 2 ^ (f.p - 1) + n

/-- The exponent of the last place kept when m/d · 2^e is rounded to the precision. -/
def Fmt.ulp (f : Fmt) (m d : Nat) (e : Int) : Int := vlog2 m d e + 1 - f.p

/-- The exact value of a magnitude code that is finite. -/
def Fmt.mag (f : Fmt) (c : Nat) : Nat × Int :=
  let ex := c / 2 ^ (f.p - 1)
  let fr := c % 2 ^ (f.p - 1)
  if ex = 0 then (fr, f.qmin) else (fr + 2 ^ (f.p - 1), f.qmin + ex - 1)

/-- The exact value of a code (02 R37, R40); NaN codes of E4M3 and E5M2 as their table gives them. -/
def Fmt.val (f : Fmt) (code : Nat) : Val :=
  let neg := code.testBit f.signBit
  let c := code % 2 ^ f.signBit
  if c ≤ f.maxCode then
    let (m, e) := f.mag c
    .fin neg m 1 e
  else match f.infCode with
    | some i => if c = i then .inf neg else .nan
    | none => .nan

/-- Puts a sign on a magnitude code. -/
def Fmt.sign (f : Fmt) (neg : Bool) (c : Nat) : Nat := c + b2n neg * 2 ^ f.signBit

/-- The canonical quiet NaN of FP32, BF16 or FP16 (02 R38). -/
def Fmt.qnan (f : Fmt) : Nat := match f.infCode with
  | some i => i + 2 ^ (f.p - 2)
  | none => f.maxCode + 1

/-- Largest finite magnitude m · 2^e. -/
def Fmt.largest (f : Fmt) : Nat × Int := f.mag f.maxCode

/-- The finite value m/d · 2^e rounded once into FP32, BF16 or FP16: the code and its events (02 R55, R56 item 2, R57,
R59). `flush` is item 2's flushing, `strict` selects the strict class's underflow. -/
def Fmt.round (f : Fmt) (r : Rnd) (strict flush neg : Bool) (m d : Nat) (e : Int) : Nat × Exc :=
  if m = 0 then (f.sign neg 0, {})
  else
    let q0 := f.ulp m d e
    let q := max q0 f.qmin
    let (n, nx) := roundAt r neg m d e q
    let c := f.code n q
    let (n0, _) := roundAt r neg m d e q0
    -- rounded with unbounded exponent range, below the smallest normal
    let tiny := decide (vlog2 n0 1 q0 < f.qmin + f.p - 1)
    if c > f.maxCode then
      let toInf := match r with | .ne => true | .tz => false | .up => !neg | .dn => neg
      match toInf, f.infCode with
      | true, some i => (f.sign neg i, { ov := 1, nx := 1 })
      | _, _ => (f.sign neg f.maxCode, { ov := 1, nx := 1 })
    else if flush && tiny then (f.sign neg 0, { uf := 1, nx := 1 })
    else if strict then (f.sign neg c, { uf := b2n (tiny && nx), nx := b2n nx })
    else (f.sign neg c, { uf := b2n (decide (c = 0)), nx := b2n nx })

/-- A value into FP32, BF16 or FP16 in the fast class (02 R55, R56). A saturated element is a NaN, counted. -/
def Fmt.ofVal (f : Fmt) (flush : Bool) (v : Val) : Nat × Exc :=
  match v with
  | .fin neg m d e => f.round .ne false flush neg m d e
  | .inf neg => (f.sign neg (f.infCode.getD f.maxCode), {})
  | .nan => (f.qnan, {})
  | .sat => (f.qnan, { inv := 1 })

/-- A value into INT32 (02 R55): NaN and saturated give 0, out of range gives the nearest end, counted under invalid. -/
def i32OfVal (r : Rnd) (v : Val) : Nat × Exc :=
  match v with
  | .nan => (0, { inv := 1 })
  | .sat => (0, { inv := 1 })
  | .inf neg => (if neg then 0x80000000 else 0x7FFFFFFF, { inv := 1 })
  | .fin neg m d e =>
    let n := (roundAt r neg m d e 0).1
    if neg then (if n ≤ 2 ^ 31 then (unsgn 32 (-(n : Int)), {}) else (0x80000000, { inv := 1 }))
    else (if n < 2 ^ 31 then (n, {}) else (0x7FFFFFFF, { inv := 1 }))

/-- The exact value of an INT32 code. -/
def i32Val (n : Nat) : Val := let i := sgn 32 n; .fin (decide (i < 0)) i.natAbs 1 0

/-- The exact value of an FP32 word. -/
def fpVal (w : Word) : Val := fFP32.val w.toNat

/-- An exact integer multiple of 2^e as a value; zero is +0. -/
def intVal (i : Int) (e : Int) : Val := .fin (decide (i < 0)) i.natAbs 1 e

/-- Signed numerator of a finite value with divisor 1, on the grid 2^q where q is at most its exponent. -/
def onGrid (q : Int) (neg : Bool) (m : Nat) (e : Int) : Int :=
  let n : Int := (m <<< (e - q).toNat : Nat)
  if neg then -n else n

/-- Integer square root by bits, from bit `k` down. -/
def isqrtFrom (n : Nat) : Nat → Nat → Nat
  | 0, acc => acc
  | k + 1, acc => let t := acc + 2 ^ k; isqrtFrom n k (if t * t ≤ n then t else acc)

/-- floor(sqrt n). -/
def isqrt (n : Nat) : Nat := isqrtFrom n (n.log2 / 2 + 1) 0

end Sys2Proof.Machine
end

