-- ==== Sys2Proof/Machine/Flags.lean ====
section
/-! DEFINITION. FP32 operations with their events, in the fast and the strict class (02 R56 to R59; 06 R149 to R153, R157). -/

namespace Sys2Proof.Machine

/-- A word is an FP32 NaN. -/
def isNaN (w : Word) : Bool := decide (w.toNat % 2 ^ 31 > 0x7F800000)

/-- A word is a signalling FP32 NaN. -/
def isSNaN (w : Word) : Bool := isNaN w && !w.toNat.testBit 22

/-- A word is an FP32 infinity. -/
def isInf (w : Word) : Bool := decide (w.toNat % 2 ^ 31 = 0x7F800000)

/-- A word is an FP32 zero. -/
def isZero (w : Word) : Bool := decide (w.toNat % 2 ^ 31 = 0)

/-- The sign bit of a word. -/
def isNeg (w : Word) : Bool := w.toNat.testBit 31

/-- The canonical quiet NaN (02 R38). -/
def qNaN : Word := 0x7FC00000#32

/-- The result of an operation with a NaN operand: the canonical NaN in the fast class, the first NaN operand quieted in the
strict class, with invalid for a signalling operand (02 R56 item 3, R59). -/
def nanOut (strict : Bool) (ops : List Word) : Option (Word × Exc) :=
  match ops.find? isNaN with
  | none => none
  | some w =>
    if strict then some (w ||| 0x00400000#32, { inv := b2n (ops.any isSNaN) }) else some (qNaN, {})

/-- A word with its result events. -/
abbrev FRes := Word × Exc

/-- An invalid operation on operands that are not NaN (06 R150). -/
def invalidRes : FRes := (qNaN, { inv := 1 })

/-- Rounds an exact finite value into FP32 in a class and direction. -/
def fin32 (strict : Bool) (r : Rnd) (neg : Bool) (m d : Nat) (e : Int) : FRes :=
  let (c, x) := fFP32.round (if strict then r else .ne) strict false neg m d e
  (BitVec.ofNat 32 c, x)

/-- An FP32 infinity. -/
def inf32 (neg : Bool) : Word := if neg then 0xFF800000#32 else 0x7F800000#32

/-- An FP32 zero. -/
def zero32 (neg : Bool) : Word := if neg then 0x80000000#32 else 0#32

/-- The exact sum of two finite values, rounded once; an exact zero takes IEEE 754's sign. -/
def sumFin (strict : Bool) (r : Rnd) (n1 : Bool) (m1 : Nat) (e1 : Int) (n2 : Bool) (m2 : Nat) (e2 : Int) : FRes :=
  let q := min e1 e2
  let t := onGrid q n1 m1 e1 + onGrid q n2 m2 e2
  if t = 0 then (zero32 (if n1 = n2 then n1 else strict && decide (r = .dn)), {})
  else fin32 strict r (decide (t < 0)) t.natAbs 1 q

/-- Sum of two values that are not NaN. -/
def addVal (strict : Bool) (r : Rnd) (a b : Val) : FRes :=
  match a, b with
  | .inf x, .inf y => if x = y then (inf32 x, {}) else invalidRes
  | .inf x, _ => (inf32 x, {})
  | _, .inf y => (inf32 y, {})
  | .fin n1 m1 _ e1, .fin n2 m2 _ e2 => sumFin strict r n1 m1 e1 n2 m2 e2
  | _, _ => invalidRes

/-- FP32 a + b (06 R150, R59). -/
def fadd (strict : Bool) (r : Rnd) (a b : Word) : FRes :=
  (nanOut strict [a, b]).getD (addVal strict r (fpVal a) (fpVal b))

/-- The sign bit inverted. -/
def fneg (a : Word) : Word := a ^^^ 0x80000000#32

/-- The sign bit cleared. -/
def fabs (a : Word) : Word := a &&& 0x7FFFFFFF#32

/-- FP32 a − b. -/
def fsub (strict : Bool) (r : Rnd) (a b : Word) : FRes :=
  (nanOut strict [a, b]).getD (addVal strict r (fpVal a) (fpVal (fneg b)))

/-- The exact product of two values that are not NaN; none for 0 × ∞. -/
def mulVal (a b : Val) : Option Val :=
  match a, b with
  | .fin n1 m1 _ e1, .fin n2 m2 _ e2 => some (.fin (n1 != n2) (m1 * m2) 1 (e1 + e2))
  | .inf n1, .inf n2 => some (.inf (n1 != n2))
  | .inf n1, .fin n2 m _ _ => if m = 0 then none else some (.inf (n1 != n2))
  | .fin n1 m _ _, .inf n2 => if m = 0 then none else some (.inf (n1 != n2))
  | _, _ => none

/-- FP32 a × b. -/
def fmul (strict : Bool) (r : Rnd) (a b : Word) : FRes :=
  (nanOut strict [a, b]).getD (match mulVal (fpVal a) (fpVal b) with
    | none => invalidRes
    | some (.fin n m d e) => fin32 strict r n m d e
    | some (.inf n) => (inf32 n, {})
    | some _ => invalidRes)

/-- FP32 a × b + c with one rounding (06 R149). -/
def ffma (strict : Bool) (r : Rnd) (a b c : Word) : FRes :=
  (nanOut strict [a, b, c]).getD (match mulVal (fpVal a) (fpVal b) with
    | none => invalidRes
    | some p => addVal strict r p (fpVal c))

/-- FP32 a / b. -/
def fdiv (strict : Bool) (r : Rnd) (a b : Word) : FRes :=
  (nanOut strict [a, b]).getD (match fpVal a, fpVal b with
    | .inf _, .inf _ => invalidRes
    | .inf x, .fin y _ _ _ => (inf32 (x != y), {})
    | .fin x _ _ _, .inf y => (zero32 (x != y), {})
    | .fin x ma _ ea, .fin y mb _ eb =>
      if mb = 0 then (if ma = 0 then invalidRes else (inf32 (x != y), { dz := 1 }))
      else fin32 strict r (x != y) ma mb (ea - eb)
    | _, _ => invalidRes)

/-- 1/√(m·2^e) as a numerator on 2^-s with 48 or more bits, its last bit marking what lies below. -/
def rsqrtScaled (m : Nat) (e : Int) (bits : Nat) : Nat × Int :=
  -- s such that 2^s / √(m 2^e) has at least `bits` bits
  let s : Int := (bits : Int) + (vlog2 m 1 e) / 2 + 2
  -- x = 2^(2s - e) / m
  let k : Int := 2 * s - e
  let (num, den) := if 0 ≤ k then (1 <<< k.toNat, m) else (1, m <<< (-k).toNat)
  let x := num / den
  let y := isqrt x
  let exact := decide (x * den = num) && decide (y * y = x)
  (2 * y + b2n (!exact), -s - 1)

/-- The correctly rounded 1/√a of IEEE 754-2019 (06 R152, strict class). -/
def frsqrt (strict : Bool) (r : Rnd) (a : Word) : FRes :=
  (nanOut strict [a]).getD (match fpVal a with
    | .inf n => if n then invalidRes else (0#32, {})
    | .fin n m _ e =>
      if m = 0 then (inf32 n, { dz := 1 })
      else if n then invalidRes
      else let (y, q) := rsqrtScaled m e 60; fin32 strict r false y 1 q
    | _ => invalidRes)

/-- An order key of an FP32 word that is not NaN, −0 below +0 (06 R151). -/
def fkey (w : Word) : Int := if isNeg w then -((w.toNat % 2 ^ 31 : Nat) : Int) - 1 else (w.toNat : Int)

/-- minimumNumber (06 R151). -/
def fminN (strict : Bool) (a b : Word) : FRes :=
  let x : Exc := { inv := b2n (strict && (isSNaN a || isSNaN b)) }
  if isNaN a then (if isNaN b then (qNaN, x) else (b, x))
  else if isNaN b then (a, x)
  else (if fkey a ≤ fkey b then a else b, x)

/-- maximumNumber (06 R151). -/
def fmaxN (strict : Bool) (a b : Word) : FRes :=
  let x : Exc := { inv := b2n (strict && (isSNaN a || isSNaN b)) }
  if isNaN a then (if isNaN b then (qNaN, x) else (b, x))
  else if isNaN b then (a, x)
  else (if fkey b ≤ fkey a then a else b, x)

/-- Numeric order of two FP32 words that are not NaN, the zeros equal. -/
def flt (a b : Word) : Bool := if isZero a && isZero b then false else decide (fkey a < fkey b)

/-- Numeric equality, the zeros equal. -/
def feq (a b : Word) : Bool := (isZero a && isZero b) || decide (a = b)

/-- VCMP's conditions (06 R153). -/
def fcmp (strict : Bool) (cond : Nat) (a b : Word) : Bool × Exc :=
  let un := isNaN a || isNaN b
  let sig := isSNaN a || isSNaN b
  let x : Exc := { inv := b2n (strict && (if 2 ≤ cond ∧ cond ≤ 5 then un else sig)) }
  let v := match cond with
    | 0 => !un && feq a b
    | 1 => un || !feq a b
    | 2 => !un && flt a b
    | 3 => !un && (flt a b || feq a b)
    | 4 => !un && flt b a
    | 5 => !un && (flt b a || feq a b)
    | 6 => un
    | _ => !un
  (v, x)

/-- VICMP's conditions (06 R153). -/
def icmp (cond : Nat) (a b : Word) : Bool :=
  match cond with
  | 0 => a == b
  | 1 => a != b
  | 2 => a.slt b
  | 3 => a.sle b
  | 4 => a.ult b
  | 5 => a.ule b
  | 6 => b.slt a
  | _ => b.ult a

/-- A saturating INT32 result (06 R154). -/
def isat (i : Int) : Word :=
  if i > 2147483647 then 0x7FFFFFFF#32 else if i < -2147483648 then 0x80000000#32 else BitVec.ofInt 32 i

/-- Exact signed numerator of a finite FP32 word on the grid 2^-149 (07 R180); 0 for the others. -/
def exact149 (w : Word) : Int :=
  match fpVal w with
  | .fin n m _ e => onGrid (-149) n m e
  | _ => 0

/-- The markers of an exact sum (03 R70). -/
structure Marks where
  nan : Bool := false
  pinf : Bool := false
  ninf : Bool := false
deriving DecidableEq, Repr

/-- Both marker sets. -/
def Marks.or (a b : Marks) : Marks := ⟨a.nan || b.nan, a.pinf || b.pinf, a.ninf || b.ninf⟩

/-- Some marker is set. -/
def Marks.any (a : Marks) : Bool := a.nan || a.pinf || a.ninf

/-- What the markers decide (02 R51, 03 R70): NaN, or an infinity. -/
def Marks.val (a : Marks) : Val := if a.nan || (a.pinf && a.ninf) then .nan else .inf a.ninf

/-- The marker a value sets. -/
def marksOf (v : Val) : Marks :=
  match v with
  | .nan => { nan := true }
  | .sat => { nan := true }
  | .inf n => if n then { ninf := true } else { pinf := true }
  | .fin .. => {}

/-- VRSUM in the fast class: the exact sum of the included lanes, rounded once (06 R156, R157; 03 R69). -/
def exactSum (ws : List Word) : FRes :=
  let mk := (ws.map fun w => marksOf (fpVal w)).foldl Marks.or {}
  if mk.any then
    match mk.val with
    | .inf n => (inf32 n, {})
    | _ => (qNaN, { inv := b2n (!mk.nan) })
  else
    let t := (ws.map exact149).foldl (· + ·) 0
    if t = 0 then (zero32 (decide (ws ≠ []) && ws.all (fun w => w == 0x80000000#32)), {})
    else fin32 false .ne (decide (t < 0)) t.natAbs 1 (-149)

end Sys2Proof.Machine
end

