-- ==== Sys2Proof/Machine/Formats.lean ====
section
/-! DEFINITION. The eleven formats: element codes, packing, MX and BX64 blocks, scale choice and the exponent histogram
(02 R36 to R55; 03 R77 to R82; 06 R144). -/

namespace Sys2Proof.Machine

/-- Element bits of a format code (02 R36). -/
def elemBits (fmt : Nat) : Nat :=
  match fmt with
  | 0 => 32 | 1 => 16 | 2 => 16 | 3 => 8 | 4 => 8 | 5 => 6 | 6 => 6 | 7 => 4 | 8 => 8 | 9 => 32 | 10 => 64 | _ => 0

/-- A format code names one of the eleven formats (02 R36). -/
def fmtOk (fmt : Nat) : Bool := decide (fmt ≤ 10)

/-- The six MX formats. -/
def isMX (fmt : Nat) : Bool := decide (3 ≤ fmt ∧ fmt ≤ 8)

/-- FP32, BF16 and FP16. -/
def isFP (fmt : Nat) : Bool := decide (fmt ≤ 2)

/-- A format whose blocks carry a side byte: MX scale or BX64 anchor. -/
def hasSide (fmt : Nat) : Bool := isMX fmt || fmt == 10

/-- Codes of `w` bits packed from a number, element 0 lowest (02 R41, 06 R144). -/
def unpackCodes (w n big : Nat) : List Nat := (List.range n).map fun i => (big >>> (w * i)) % 2 ^ w

/-- Packs codes of `w` bits, element 0 lowest. -/
def packCodes (w : Nat) : List Nat → Nat
  | [] => 0
  | c :: cs => c + packCodes w cs <<< w

/-- The binary format behind a format code. -/
def fmtOf (fmt : Nat) : Fmt :=
  match fmt with
  | 1 => fBF16 | 2 => fFP16 | 3 => fE4M3 | 4 => fE5M2 | 5 => fE3M2 | 6 => fE2M3 | 7 => fE2M1 | _ => fFP32

/-- emax of an MX format (02 R40). -/
def mxEmax (fmt : Nat) : Int := match fmt with | 3 => 8 | 4 => 15 | 5 => 4 | 6 => 2 | 7 => 2 | _ => 0

/-- The value of an MX element code before its scale (02 R40). -/
def mxElem (fmt code : Nat) : Val :=
  if fmt = 8 then intVal (sgn 8 code) (-6) else (fmtOf fmt).val code

/-- A tensor scale word as a value with positive mantissa, or none (02 R44). -/
def tsVal (t : Word) : Nat × Int :=
  match fpVal t with
  | .fin _ m _ e => if m = 0 then (1, 0) else (m, e)
  | _ => (1, 0)

/-- A tensor scale is positive, finite and normal (02 R44). -/
def tsOk (t : Word) : Bool := decide (0x00800000 ≤ t.toNat ∧ t.toNat ≤ 0x7F7FFFFF)

/-- A value times 2^k · t. -/
def scaleVal (k : Int) (t : Nat × Int) (v : Val) : Val :=
  match v with
  | .fin n m d e => .fin n (m * t.1) d (e + k + t.2)
  | v => v

/-- A value divided by 2^k · t (02 R42 step 1). -/
def unscaleVal (k : Int) (t : Nat × Int) (v : Val) : Val :=
  match v with
  | .fin n m d e => .fin n m (d * t.1) (e - k - t.2)
  | v => v

/-- The value of an element of an MX block with scale byte `s` and tensor scale `t` (02 R39, R44). -/
def mxVal (fmt s : Nat) (t : Word) (code : Nat) : Val :=
  if s = 255 then .nan else scaleVal ((s : Int) - 127) (tsVal t) (mxElem fmt code)

/-- Magnitude order of finite values. -/
def magLt (m1 d1 : Nat) (e1 : Int) (m2 d2 : Nat) (e2 : Int) : Bool :=
  let q := min e1 e2
  decide ((m1 * d2) <<< (e1 - q).toNat < (m2 * d1) <<< (e2 - q).toNat)

/-- The largest finite magnitude of a list, as (m, d, e); m = 0 when there is none (02 R42). -/
def amaxOf (vs : List Val) : Nat × Nat × Int :=
  vs.foldl (fun (a : Nat × Nat × Int) v => match v with
    | .fin _ m d e => if m = 0 then a else if a.1 = 0 ∨ magLt a.1 a.2.1 a.2.2 m d e then (m, d, e) else a
    | _ => a) (0, 1, 0)

/-- Some value of the block is NaN (or of a saturated block) (02 R43, R55). -/
def anyNaN (vs : List Val) : Bool := vs.any fun v => v == .nan || v == .sat

/-- The scale byte chosen for a block (02 R42, R43). -/
def mxScale (fmt : Nat) (t : Word) (vs : List Val) : Nat :=
  if anyNaN vs then 255
  else
    let (m, d, e) := amaxOf (vs.map (unscaleVal 0 (tsVal t)))
    if m = 0 then 127
    else (max (-127) (min 127 (vlog2 m d e - mxEmax fmt)) + 127).toNat

/-- One value already divided by its scales into an MX element code (02 R42 steps 3 and 4, R43, R45). -/
def mxCode (fmt : Nat) (v : Val) : Nat × Exc :=
  let f := fmtOf fmt
  match v with
  | .nan => (0, {})
  | .sat => (0, { inv := 1 })
  | .inf n =>
    if fmt = 8 then (if n then 0x81 else 0x7F, { ov := 1 })
    else match f.infCode with
      | some i => (f.sign n i, {})
      | none => (f.sign n f.maxCode, { ov := 1 })
  | .fin neg m d e =>
    if fmt = 8 then
      let k := (roundAt .ne neg m d e (-6)).1
      if 127 < k then (if neg then 0x81 else 0x7F, { ov := 1 })
      else (unsgn 8 (if neg then -(k : Int) else k), { uf := b2n (decide (k = 0 ∧ m ≠ 0)) })
    else if m = 0 then (f.sign neg 0, {})
    else
      let q := max (f.ulp m d e) f.qmin
      let c := f.code (roundAt .ne neg m d e q).1 q
      if c > f.maxCode then (f.sign neg f.maxCode, { ov := 1 })
      else (f.sign neg c, { uf := b2n (decide (c = 0)) })

/-- A block into MX codes against scale byte `s` (02 R42, R43): every code 0 when the block holds a NaN or `s` is NaN. DESIGN CHOICE: for
a numeric block against the scale byte 0xFF that XCVT may be given nothing is counted, as the spec states no codes there (log 26). -/
def mxEncode (fmt s : Nat) (t : Word) (vs : List Val) : List Nat × Exc :=
  if s = 255 ∨ anyNaN vs then (vs.map fun _ => 0, { inv := (vs.filter (· == .sat)).length })
  else
    let rs := vs.map fun v => mxCode fmt (unscaleVal ((s : Int) - 127) (tsVal t) v)
    (rs.map (·.1), excSum (rs.map (·.2)))

/-! ### BX64 -/

/-- A BX64 block: its anchor byte and 32 raw 64-bit elements (02 R47). -/
structure Bx where
  anchor : Nat
  ns : List Nat
deriving DecidableEq, Repr

/-- A block of zeros on an anchor. -/
def bxZero (anchor : Nat) : Bx := ⟨anchor, List.replicate 32 0⟩

/-- A non-numeric block with a sub-code (02 R48). -/
def bxSpecial (code : Nat) : Bx := ⟨255, code :: List.replicate 31 0⟩

/-- The sub-code byte of a block. -/
def Bx.sub (b : Bx) : Nat := (b.ns.headD 0) % 256

/-- The block is non-numeric with a reserved sub-code, which reads as NaN and is counted (02 R48). -/
def Bx.reserved (b : Bx) : Bool := decide (b.anchor = 255 ∧ (b.sub = 0 ∨ 4 < b.sub))

/-- The values of a block's elements (02 R47, R48). -/
def Bx.vals (b : Bx) : List Val :=
  if b.anchor = 0 then b.ns.map fun _ => .fin false 0 1 0
  else if b.anchor = 255 then
    let v : Val := match b.sub with | 2 => .inf false | 3 => .inf true | 4 => .sat | _ => .nan
    b.ns.map fun _ => v
  else b.ns.map fun n => intVal (sgn 64 n) ((b.anchor : Int) - 171)

/-- The sub-code that a set of values decides, if any is not numeric (02 R51, R54). -/
def bxMarker (vs : List Val) : Option Nat :=
  let nan := vs.any (· == .nan)
  let p := vs.any (· == .inf false)
  let n := vs.any (· == .inf true)
  if nan || (p && n) then some 1
  else if p then some 2
  else if n then some 3
  else if vs.any (· == .sat) then some 4
  else none

/-- A finite value truncated toward zero onto the grid of an anchor (02 R49, R53). -/
def bxAlign (anchor : Nat) (v : Val) : Int :=
  match v with
  | .fin neg m d e =>
    let w := (scaleTo m d e ((anchor : Int) - 171)).1
    if neg then -(w : Int) else w
  | _ => 0

/-- 2^62, at which an element saturates its block (02 R49). -/
def bxLimit : Nat := 2 ^ 62

/-- Adds one aligned source element per destination element, and whether any source or sum reached the limit (02 R49). -/
def bxAdd (dst src : List Int) : List Int × Bool :=
  let s := List.zipWith (· + ·) dst src
  (s, src.any (fun a => decide (bxLimit ≤ a.natAbs)) || s.any (fun a => decide (bxLimit ≤ a.natAbs)))

/-- Accumulates 32 values into a block, never changing a numeric block's anchor (02 R49, R51). Whether the block is newly
saturated is the second part. -/
def bxAccum (b : Bx) (vs : List Val) : Bx × Bool :=
  if b.anchor = 255 then
    match bxMarker (b.vals.take 1 ++ vs.filter fun v => v matches .nan | .inf _ | .sat) with
    | some c => (bxSpecial c, false)
    | none => (b, false)
  else match bxMarker vs with
    | some c => (bxSpecial c, decide (c = 4))
    | none =>
      let (s, sat) := bxAdd (b.ns.map (sgn 64)) (vs.map (bxAlign b.anchor))
      if sat then (bxSpecial 4, true) else (⟨b.anchor, s.map (unsgn 64)⟩, false)

/-- The anchor a block chooses for itself (02 R54): 0 when all zero, 255 when not numeric. -/
def bxAnchor (vs : List Val) : Nat :=
  if (bxMarker vs).isSome then 255
  else
    let (m, d, e) := amaxOf vs
    if m = 0 then 0 else (max 1 (min 254 (127 + vlog2 m d e))).toNat

/-- A given anchor is legal for these values (02 R54). -/
def bxGivenOk (anchor : Nat) (vs : List Val) : Bool :=
  if anchor = 0 then decide ((amaxOf vs).1 = 0 ∧ bxMarker vs = none)
  else if anchor = 255 then (bxMarker vs).isSome
  else true

/-- 32 values into a block on an anchor (02 R53, R54); saturated when some element needs 2^62. -/
def bxFrom (anchor : Nat) (vs : List Val) : Bx :=
  match bxMarker vs with
  | some c => bxSpecial c
  | none =>
    if anchor = 0 then bxZero 0
    else
      let ns := vs.map (bxAlign anchor)
      if ns.any fun a => decide (bxLimit ≤ a.natAbs) then bxSpecial 4 else ⟨anchor, ns.map (unsgn 64)⟩

/-! ### Elements of any format -/

/-- The value of an element code of FP32, BF16, FP16 or INT32. -/
def plainVal (fmt code : Nat) : Val := if fmt = 9 then i32Val code else (fmtOf fmt).val code

/-- One value into FP32, BF16, FP16 or INT32 with the fast class's roundings (02 R53, R55; 06 R161). -/
def plainCode (fmt : Nat) (v : Val) : Nat × Exc :=
  if fmt = 9 then i32OfVal .ne v else (fmtOf fmt).ofVal (fmt != 0) v

/-- The values of a block of elements of any format, from its codes and its side byte (02 R39, R47). -/
def blockVals (fmt side : Nat) (t : Word) (codes : List Nat) : List Val :=
  if isMX fmt then codes.map (mxVal fmt side t)
  else if fmt = 10 then (Bx.mk side codes).vals
  else codes.map (plainVal fmt)

/-- t of 02 R44 for an amax word: amax / 2^floor(log2 amax), 1 for zero. -/
def tscaleOf (amax : Word) : Word :=
  match fpVal amax with
  | .fin _ m d e => if m = 0 then 0x3F800000#32
    else BitVec.ofNat 32 (fFP32.round .ne false false false m d (e - vlog2 m d e)).1
  | _ => 0x3F800000#32

/-! ### Histogram -/

/-- A histogram record (03 R82): 64 bins and the eight words after them. -/
structure Hist where
  bins : List Nat
  nanC : Nat
  pinfC : Nat
  ninfC : Nat
  amax : Nat
  satBlocks : Nat
  unchecked : Nat
  elements : Nat
  satAcc : Nat
deriving DecidableEq, Repr

/-- An empty record. -/
def Hist.empty : Hist := ⟨List.replicate 64 0, 0, 0, 0, 0, 0, 0, 0, 0⟩

/-- The 72 words of a record, in the order of 03 R82. -/
def Hist.words (h : Hist) : List Nat := h.bins ++ [h.nanC, h.pinfC, h.ninfC, h.amax, h.satBlocks, h.unchecked, h.elements, h.satAcc]

/-- The 288 bytes of a record. -/
def Hist.bytes (h : Hist) : List Byte := h.words.flatMap (natLe 4)

/-- The bin of a finite value (03 R81). -/
def histBin (m d : Nat) (e : Int) : Nat :=
  if m = 0 then 0
  else let l := vlog2 m d e
    if l ≤ -39 then 1 else if 23 ≤ l then 63 else (l + 40).toNat

/-- The magnitude of a finite value in FP32, rounded toward zero and clamped (03 R82 amax). -/
def amaxCode (m d : Nat) (e : Int) : Nat := (fFP32.round .tz true false false m d e).1

/-- Counts one written element (03 R81, R82). -/
def Hist.add (h : Hist) (v : Val) : Hist :=
  let h := { h with elements := satAdd 32 h.elements 1 }
  match v with
  | .nan => { h with nanC := satAdd 32 h.nanC 1 }
  | .inf n => if n then { h with ninfC := satAdd 32 h.ninfC 1 } else { h with pinfC := satAdd 32 h.pinfC 1 }
  | .sat => h
  | .fin _ m d e =>
    let b := histBin m d e
    { h with bins := setAt h.bins b (satAdd 32 (at' 0 h.bins b) 1), amax := max h.amax (amaxCode m d e) }

/-- Counts a written block; a saturated BX64 block counts once in saturated_blocks (03 R81, R82). -/
def Hist.addBlock (h : Hist) (vs : List Val) : Hist :=
  if vs.any (· == .sat) then
    { h with elements := satAdd 32 h.elements 32, satBlocks := satAdd 32 h.satBlocks 1 }
  else vs.foldl Hist.add h

end Sys2Proof.Machine
end

