-- ==== Sys2Proof/Config.lean ====
section
/-! DEFINITION. What an implementation of the part fixes and the spec leaves open: free values without a body. -/

namespace Sys2Proof.Config

/-- 07 R181: exp(x) of the row engine is within 1 ulp and the same on every bay; of the two FP32 neighbours of the exact
value, which one the implementation gives is free (DESIGN CHOICE, safe; log 8). -/
opaque expUp : Word → Bool

/-- 07 R181, R188: ln(x) of the row engine, as `expUp` (DESIGN CHOICE, safe; log 8). -/
opaque lnUp : Word → Bool

/-- 07 R181: rsqrt(x) of the row engine within 1 ulp, as `expUp` (DESIGN CHOICE, safe; log 8). -/
opaque rsqrtUp : Word → Bool

/-- 07 R188: the loss of a row is within 1 ulp of the exact value; which neighbour is free (DESIGN CHOICE, safe; log 8). -/
opaque lossUp : Word → Word → Bool

/-- 11 R283: cos for arguments in [0, π] within 1 ulp, the same on every part (DESIGN CHOICE, safe; log 8). -/
opaque cosUp : Word → Bool

/-- 11 R292: the power unit's result lies within 2 ulp of β^Δ; which of the four FP32 values around it is free (DESIGN CHOICE, safe; log 8). -/
opaque powPick : Word → Nat → Fin 4

/-- 10 R246: the anchor of a block that reopens where neither the buffer nor a record holds one in 1 to 254 is free: one above this value
(DESIGN CHOICE, safe; log 28). -/
opaque openAnchor : Nat → Fin 254

/-- 11 R292: the power unit is given for β in [0, 1]; its result for another β is free (DESIGN CHOICE, safe; log 8). -/
opaque powOut : Word → Nat → Word

/-- 11 R275, R299: the working-copy format of a slot pair whose binding is empty, which no rule names: one of the six MX formats
by its place in 02 R36 (DESIGN CHOICE, safe; log 14). -/
opaque emptyBindingFormat : Nat → Fin 6

/-- 18 R453: the identity key's signature over a management message or a report (DESIGN CHOICE, safe; log 9). -/
opaque identitySign : List Byte → List Byte

/-- 18 R452, R453: the HMAC-SHA-256 of the retirement list under the log key, which never leaves the part (DESIGN CHOICE, safe; log 9). -/
opaque logMac : List Byte → List Byte

/-- 18 R455: ROM version of the silicon, 4 bytes (DESIGN CHOICE, safe; log 12). -/
opaque romVersion : Word

/-- 18 R459: the action byte of the fault record of a violation freeze, to which the rule's list of actions gives no value
(DESIGN CHOICE, safe; log 12). -/
opaque violationAction : Nat

/-- 12 R303, 18 R459: the status of a fault's record or of the fail-stop it causes, by detector, where no rule names one (DESIGN CHOICE, safe; log 12). -/
opaque faultStatus : Nat → Nat

/-- 18 R459: the detector byte of the record of a fail-stop that no detector caused (DESIGN CHOICE, safe; log 12). -/
opaque failStopDetector : Nat

/-- 16 R426, 18 R455: the SPDM responder's answer over DOE or MCTP, whose bytes the DMTF's standard and the part's random generator
give, by the answers sent before, the measurements and the request (DESIGN CHOICE, safe; log 9). -/
opaque spdmAnswer : Nat → List (List Byte) → List Byte → List Byte

/-- 18 R457: the answer to an MCTP control message, by the answers sent before and the message (DESIGN CHOICE, safe; log 9). -/
opaque mctpAnswer : Nat → List Byte → List Byte

/-- 15 R411: a locked counter lies within ±20 ns of an edge; where in that range, by the edge, is free (DESIGN CHOICE, safe; log 8). -/
opaque edgeError : Nat → Fin 41

/-- 15 R411: the time error estimate in FREE, which no rule gives (DESIGN CHOICE, safe; log 8). -/
opaque freeTimeError : Nat → BitVec 64

/-- 13 R337: the PTS in the record of an audio payload whose PES packet carries none and follows none, which no rule gives, by PID
(DESIGN CHOICE, safe; log 8). -/
opaque noAudioPts : Nat → BitVec 64

/-- 17 R434: the firmware's estimate in µs, 10 to 10,000, until an entry of a full admission queue frees, by the TAI (DESIGN CHOICE, safe; log 7). -/
opaque admitRetry : Nat → Fin 9991

/-- 13 R341: the work area of a stream by its descriptor, which names no level (DESIGN CHOICE, safe; log 15). -/
opaque workArea : List Byte → BitVec 64

/-- 13 R341: the size of a die's Atelier region, which no rule gives (DESIGN CHOICE, safe; log 15). -/
opaque atelierRegion : Nat → BitVec 64

/-- 20 R481: a request of a resource and standing (resource × 3 + standing) waited on a die in a µs (DESIGN CHOICE, safe; log 10). -/
opaque stalled : Nat → Nat → Nat → Bool

/-- 20 R481: a request of a standing waited at a Span or Pier port in a µs (DESIGN CHOICE, safe; log 10). -/
opaque portStalled : Nat → Nat → Nat → Bool

/-- 12 R305: errors an LPDDR5X channel of a die corrected in a µs (DESIGN CHOICE, safe; log 10). -/
opaque correctedErrors : Nat → Nat → Nat → Nat

/-- 14 R354: codewords a port corrected in a µs (DESIGN CHOICE, safe; log 10). -/
opaque correctedCodewords : Nat → Nat → Nat

/-- 16 TEL_LINK: the link of a host port is narrowed by L0p at a TAI (DESIGN CHOICE, safe; log 10). -/
opaque narrowed : Nat → Nat → Bool

end Sys2Proof.Config
end

