-- ==== Sys2Proof/Machine/Trans.lean ====
section
/-! DEFINITION. The functions the spec gives by a real-valued function and a bound: fixed-point evaluation, the two FP32
neighbours, and the implementation's free choice between them (07 R181, R188; 11 R283, R292; 06 R166; log 8). -/

namespace Sys2Proof.Machine

/-- Fraction bits of the fixed-point evaluation. -/
def fxBits : Nat := 192

/-- 1 in fixed point. -/
def fxOne : Int := ((1 <<< fxBits : Nat) : Int)

/-- Product of two fixed-point numbers. -/
def fxMul (a b : Int) : Int := (a * b) >>> fxBits

/-- Σ_{i<n} terms, where each term is the previous one through `step`. -/
def fxSeries (step : Nat → Int → Int) : Nat → Nat → Int → Int → Int
  | 0, _, _, acc => acc
  | n + 1, i, t, acc => fxSeries step n (i + 1) (step i t) (acc + t)

/-- e^x by its series, for |x| at most 1. -/
def fxExp (x : Int) : Int := fxSeries (fun i t => fxMul t x / ((i : Int) + 1)) 60 0 fxOne 0

/-- Σ y^(2k+1)/(2k+1): the area hyperbolic tangent, for |y| at most 1/3. -/
def fxAtanh (y : Int) : Int :=
  let y2 := fxMul y y
  let rec go : Nat → Nat → Int → Int → Int
    | 0, _, _, acc => acc
    | n + 1, i, p, acc => go n (i + 1) (fxMul p y2) (acc + p / (2 * (i : Int) + 1))
  go 70 0 y 0

/-- ln 2. -/
def fxLn2 : Int := 2 * fxAtanh (fxOne / 3)

/-- m · 2^e in fixed point. -/
def fxOf (neg : Bool) (m : Nat) (e : Int) : Int :=
  let k := e + fxBits
  let a : Int := if 0 ≤ k then ((m <<< k.toNat : Nat) : Int) else ((m >>> (-k).toNat : Nat) : Int)
  if neg then -a else a

/-- ln of a positive value m · 2^e, in fixed point. -/
def fxLn (m : Nat) (e : Int) : Int :=
  let k := vlog2 m 1 e
  let x := fxOf false m (e - k)
  let y := ((x - fxOne) <<< fxBits) / (x + fxOne)
  2 * fxAtanh y + k * fxLn2

/-- e^x of a fixed-point x, as a mantissa in fixed point and a binary exponent. -/
def fxExpScaled (x : Int) : Int × Int :=
  let ln2 := fxLn2
  let n := (2 * x + ln2) / (2 * ln2)
  (fxExp (x - n * ln2), n)

/-- The FP32 neighbour below or above a positive value, as the implementation's choice says. A value that is itself an FP32
number has no choice. -/
def pick32 (up neg : Bool) (m : Nat) (e : Int) (exact : Bool) : FRes :=
  if exact then fin32 false .ne neg m 1 e
  else
    let (c, x) := fFP32.round (if up = neg then .dn else .up) true false neg m 1 e
    let c' := if up then c else (fFP32.round .tz true false neg m 1 e).1
    (BitVec.ofNat 32 c', { ov := b2n (decide (c' % 2 ^ 31 = 0x7F800000)), uf := b2n (decide (c' % 2 ^ 31 = 0)), nx := x.nx })

/-- exp of the row engine (07 R181). -/
def rexp (w : Word) : FRes :=
  match fpVal w with
  | .nan => (qNaN, {})
  | .sat => (qNaN, {})
  | .inf n => (if n then 0#32 else inf32 false, {})
  | .fin n m _ e =>
    if m = 0 then (0x3F800000#32, {})
    else if 8 < vlog2 m 1 e then (if n then (0#32, { uf := 1, nx := 1 }) else (inf32 false, { ov := 1, nx := 1 }))
    else
      let (y, k) := fxExpScaled (fxOf n m e)
      pick32 (Config.expUp w) false y.natAbs (k - fxBits) false

/-- ln of the row engine (07 R181) of a positive finite word. -/
def rln (w : Word) : FRes :=
  match fpVal w with
  | .fin false m _ e =>
    if m = 0 then (inf32 true, { dz := 1 })
    else
      let y := fxLn m e
      if w = 0x3F800000#32 then (0#32, {})
      else pick32 (Config.lnUp w) (decide (y < 0)) y.natAbs (-(fxBits : Int)) false
  | .fin true m _ _ => if m = 0 then (inf32 true, { dz := 1 }) else invalidRes
  | .inf false => (inf32 false, {})
  | .inf true => invalidRes
  | _ => (qNaN, {})

/-- rsqrt of the row engine (07 R181). -/
def rrsqrt (w : Word) : FRes :=
  match fpVal w with
  | .fin n m _ e =>
    if m = 0 then (inf32 n, { dz := 1 })
    else if n then invalidRes
    else
      let (y, q) := rsqrtScaled m e 100
      pick32 (Config.rsqrtUp w) false (y / 2) (q + 1) (decide (y % 2 = 0))
  | .inf n => if n then invalidRes else (0#32, {})
  | _ => (qNaN, {})

/-- The loss (m − x) + ln s of a row: m − x exact, the sum within 1 ulp (07 R188). -/
def rloss (mx x s : Word) : FRes :=
  match fpVal mx, fpVal x, fpVal s with
  | .fin n1 m1 _ e1, .fin n2 m2 _ e2, .fin _ m3 _ e3 =>
    let q := min (-(fxBits : Int)) (min e1 e2)
    let l := fxLn m3 e3
    let t := onGrid q n1 m1 e1 - onGrid q n2 m2 e2 + l <<< (-(fxBits : Int) - q).toNat
    if t = 0 then (0#32, {})
    else pick32 (Config.lossUp x s) (decide (t < 0)) t.natAbs q (decide (s = 0x3F800000#32))
  | _, _, _ => (qNaN, {})

/-- cos x by its series, for x in [0, 4). -/
def fxCos (x : Int) : Int :=
  let x2 := fxMul x x
  fxSeries (fun i t => -(fxMul t x2) / (((2 * i + 1) * (2 * i + 2) : Nat) : Int)) 50 0 fxOne 0

/-- cos of the Varnish unit for arguments in [0, π] (11 R283). -/
def vcos (w : Word) : Word :=
  match fpVal w with
  | .fin n m _ e =>
    if m = 0 then 0x3F800000#32
    else let y := fxCos (fxOf n m e); (pick32 (Config.cosUp w) (decide (y < 0)) y.natAbs (-(fxBits : Int)) false).1
  | _ => qNaN

/-- β^k of the power unit: one of the FP32 values within 2 ulp of the exact power (11 R292): from the one below the truncated power to
the second above it, no further than the next binade's first value, which is where 2 ulp end; at most 1. -/
def vpow (beta : Word) (k : Nat) : Word :=
  match fpVal beta with
  | .fin n m _ e =>
    if k = 0 then 0x3F800000#32
    else if m = 0 then 0#32
    else if n || flt 0x3F800000#32 beta then Config.powOut beta k
    else if beta = 0x3F800000#32 then beta
    else
      let (y, n) := fxExpScaled ((k : Int) * fxLn m e)
      let c := (fFP32.round .tz true false false y.natAbs 1 (n - fxBits)).1
      let i := (Config.powPick beta k).val
      BitVec.ofNat 32 (if c = 0 then min 2 i else if (c + 1) % 2 ^ 23 = 0 then c - 1 + min 2 i else c - 1 + i)
  | _ => Config.powOut beta k

/-- RN of 2^(k/512) (06 R166). -/
def tabExp2 (k : Nat) : Word :=
  let (y, n) := fxExpScaled (k * fxLn2 / 512)
  (fin32 false .ne false y.natAbs 1 (n - fxBits)).1

/-- RN of log2(1 + k/512) (06 R166). -/
def tabLog2 (k : Nat) : Word :=
  if k = 0 then 0#32
  else (fin32 false .ne false (fxLn (512 + k) (-9)).natAbs fxLn2.natAbs 0).1

/-- RN of 1/(1 + k/512) (06 R166). -/
def tabRcp (k : Nat) : Word := (fin32 false .ne false 512 (512 + k) 0).1

/-- RN of tanh(s)/s with s = √(k/2048) (06 R166). -/
def tabTanh (k : Nat) : Word :=
  let z := (k : Int) * fxOne / 2048
  let sh := fxSeries (fun i t => fxMul t z / (((2 * i + 2) * (2 * i + 3) : Nat) : Int)) 30 0 fxOne 0
  let ch := fxSeries (fun i t => fxMul t z / (((2 * i + 1) * (2 * i + 2) : Nat) : Int)) 30 0 fxOne 0
  (fin32 false .ne false sh.natAbs ch.natAbs 0).1

/-- RN of 1/√(1 + 3k/512) (06 R152). -/
def tabRsqrt (k : Nat) : Word :=
  let (y, q) := rsqrtScaled (512 + 3 * k) (-9) 100
  (fin32 false .ne false y 1 q).1

end Sys2Proof.Machine
end

