-- ==== Sys2Proof/Machine/Lut.lean ====
section
/-! DEFINITION. Table look-up and the table-seeded reciprocals (06 R152, R165 to R169). -/

namespace Sys2Proof.Machine

/-- Fast-class sum, rounded to nearest. -/
def ad (a b : Word) : Word := (fadd false .ne a b).1
/-- Fast-class difference. -/
def sb (a b : Word) : Word := (fsub false .ne a b).1
/-- Fast-class product. -/
def ml (a b : Word) : Word := (fmul false .ne a b).1
/-- Fast-class fused product and sum. -/
def fm (a b c : Word) : Word := (ffma false .ne a b c).1

/-- 1.0. -/
def one32 : Word := 0x3F800000#32

/-- A word times 2^k, rounded once. -/
def scalb (w : Word) (k : Int) : FRes :=
  match fpVal w with
  | .fin n m d e => fin32 false .ne n m d (e + k)
  | _ => (w, {})

/-- floor of a finite non-negative word. -/
def floorNat (w : Word) : Nat :=
  match fpVal w with
  | .fin _ m d e => (scaleTo m d e 0).1
  | _ => 0

/-- floor of a finite word. -/
def floorInt (w : Word) : Int :=
  match fpVal w with
  | .fin n m d e => let (q, r, _) := scaleTo m d e 0; if n then -(q : Int) - (if r = 0 then 0 else 1) else q
  | _ => 0

/-- An integer as FP32. -/
def ofInt32 (i : Int) : Word := (fin32 false .ne (decide (i < 0)) i.natAbs 1 0).1

/-- The evaluation of 06 R165 at entries y0, y1, y2 and fraction f. -/
def lutEval (quad : Bool) (y0 y1 y2 f : Word) : Word :=
  let a := sb y1 y0
  let p := ad y0 (ml f a)
  if quad then
    let b := sb (sb y2 y1) a
    let c := ml (ml f (sb f one32)) 0x3F000000#32
    ad p (ml c b)
  else p

/-- Evaluation of a built-in table at t = k + f. -/
def lutAt (tab : Nat → Word) (quad : Bool) (t : Word) : Word :=
  let k := floorNat t
  let f := sb t (ofInt32 k)
  lutEval quad (tab k) (tab (k + 1)) (tab (min 513 (k + 2))) f

/-- |x| = 2^e · m with m in [1, 2): the word m and e, of a finite non-zero word. -/
def split2 (w : Word) : Word × Int :=
  match fpVal w with
  | .fin _ m d e => let k := vlog2 m d e; ((fin32 false .ne false m d (e - k)).1, k)
  | _ => (one32, 0)

/-- LUT.EXP2's value at a word (06 R166, R167). -/
def lutExp2 (quad : Bool) (x : Word) : Word :=
  match fpVal x with
  | .fin n m d e =>
    if m = 0 then one32
    else if decide (flt x 0x43000000#32 = false) then inf32 false
    else if flt x 0xC3160000#32 then 0#32
    else if n && decide (vlog2 m d e < -60) then
      (scalb (lutAt tabExp2 quad (ml (sb x (ofInt32 (-1))) 0x44000000#32)) (-1)).1
    else
      let k := floorInt x
      (scalb (lutAt tabExp2 quad (ml (sb x (ofInt32 k)) 0x44000000#32)) k).1
  | .inf n => if n then 0#32 else inf32 false
  | _ => qNaN

/-- LUT.LOG2's value (06 R166, R167). -/
def lutLog2 (quad : Bool) (x : Word) : Word :=
  match fpVal x with
  | .fin n m _ _ =>
    if m = 0 then inf32 true
    else if n then qNaN
    else let (w, k) := split2 x; ad (ofInt32 k) (lutAt tabLog2 quad (ml (sb w one32) 0x44000000#32))
  | .inf n => if n then qNaN else inf32 false
  | _ => qNaN

/-- LUT.RCP's value (06 R166, R167). -/
def lutRcp (quad : Bool) (x : Word) : Word :=
  match fpVal x with
  | .fin n m _ _ =>
    if m = 0 then inf32 n
    else
      let (w, k) := split2 x
      let p := (scalb (lutAt tabRcp quad (ml (sb w one32) 0x44000000#32)) (-k)).1
      if n then fneg p else p
  | .inf n => zero32 n
  | _ => qNaN

/-- RN(log2 e) (06 R166). -/
def log2e : Word := 0x3FB8AA3B#32

/-- LUT.SIG's value (06 R166, R167). -/
def lutSig (quad : Bool) (x : Word) : Word :=
  if isNaN x then qNaN
  else if isInf x then (if isNeg x then 0#32 else one32)
  else if isZero x then 0x3F000000#32
  else
    let u := lutExp2 quad (ml (fneg (fabs x)) log2e)
    let v := lutRcp quad (ad one32 u)
    if isNeg x then ml u v else v

/-- LUT.TANH's value (06 R166, R167). -/
def lutTanh (quad : Bool) (x : Word) : Word :=
  if isNaN x then qNaN
  else if isInf x then (if isNeg x then 0xBF800000#32 else one32)
  else if flt (fabs x) 0x39800000#32 then x
  else if flt (fabs x) 0x3F000000#32 then ml x (lutAt tabTanh quad (ml (ml x x) 0x45000000#32))
  else
    let u := lutExp2 quad (ml (ml 0xC0000000#32 (fabs x)) log2e)
    let y := ml (sb one32 u) (lutRcp quad (ad one32 u))
    if isNeg x then fneg y else y

/-- Events of a look-up, judged on the result and the input element (06 R165, R167). `zeroDiv`: an infinite result at a zero
input is a division by zero; `nonzero`: the function is nowhere 0 at a finite input. -/
def lutExc (zeroDiv nonzero : Bool) (x y : Word) : Exc :=
  if isNaN y then { inv := b2n (!isNaN x) }
  else if isInf y && !isInf x then (if zeroDiv && isZero x then { dz := 1 } else { ov := 1 })
  else if isZero y && !isInf x && nonzero then { uf := 1 }
  else {}

/-- VRCP in the fast class (06 R152). -/
def vrcpFast (a : Word) : FRes :=
  match fpVal a with
  | .fin n m _ _ =>
    if m = 0 then (inf32 n, { dz := 1 })
    else
      let (w, k) := split2 a
      let y0 := lutAt tabRcp false (ml (sb w one32) 0x44000000#32)
      let r := fm (fneg w) y0 one32
      let y := fm y0 r y0
      let (z, x) := scalb y (-k)
      (if n then fneg z else z, x)
  | .inf n => (zero32 n, {})
  | _ => (qNaN, {})

/-- VRSQRT in the fast class (06 R152). -/
def vrsqrtFast (a : Word) : FRes :=
  match fpVal a with
  | .fin n m d e =>
    if m = 0 then (inf32 n, { dz := 1 })
    else if n then invalidRes
    else
      let k := vlog2 m d e / 2
      -- m' = m / 2^(2k) in [1, 4); t = RN((m' - 1) * 512 / 3)
      let w := (fin32 false .ne false m d (e - 2 * k)).1
      let t := match fpVal (sb w one32) with
        | .fin _ mm _ ee => (fin32 false .ne false (mm * 512) 3 ee).1
        | _ => 0#32
      let i := floorNat t
      let f := sb t (ofInt32 i)
      let y0 := lutEval false (tabRsqrt i) (tabRsqrt (i + 1)) 0#32 f
      let h := ml w y0
      let r := fm (fneg h) y0 one32
      let y := fm (ml y0 r) 0x3F000000#32 y0
      scalb y (-k)
  | .inf n => if n then invalidRes else (0#32, {})
  | _ => (qNaN, {})

/-- A user table (06 R168). -/
structure LutBank where
  n : Nat
  edge : Bool
  quad : Bool
  x0 : Word
  inv : Word
  ys : List Word
deriving DecidableEq, Repr

/-- LUT.USR at one lane (06 R169). -/
def lutUser (b : LutBank) (x : Word) : Word :=
  let t := ml (sb x b.x0) b.inv
  let y := fun i => at' 0#32 b.ys i
  let at_ := fun (k : Nat) (f : Word) => lutEval b.quad (y k) (y (k + 1)) (y (k + 2)) f
  let nW := ofInt32 b.n
  if isNaN t then qNaN
  else if b.edge then
    if flt t 0#32 then at_ 0 t
    else if !(flt 0#32 t) then y 0
    else if flt t nW then at_ (floorNat t) (sb t (ofInt32 (floorNat t)))
    else at_ (b.n - 1) (sb t (ofInt32 ((b.n : Int) - 1)))
  else if !(flt 0#32 t) then y 0
  else if flt t nW then at_ (floorNat t) (sb t (ofInt32 (floorNat t)))
  else y b.n

end Sys2Proof.Machine
end

