-- ==== Sys2Proof/Machine/State.lean ====
section
/-! DEFINITION. The state of the part as plain data: every register, table, queue, counter and pin the spec gives it, what it
has sent outside, and the commands that wait; and the state at reset. Each structure's docstring names its rules; reset values
the spec does not give are those of log 4. -/

namespace Sys2Proof.Machine

/-- No command of the block stops the machine with a fault: violations and detected faults are next states (12 R326 to R330),
so the type has no constructor and nothing raises one. Safe. -/
inductive Fault where
deriving DecidableEq, Repr

/-- Why a command has no meaning. -/
inductive Refusal where
  /-- Raised by `exec` for a command whose meaning is not written; safe: it stops where the part goes on. -/
  | notModelled (mnemonic : String)
deriving DecidableEq, Repr

/-- The three order numbers (00 R1). -/
inductive Variant where
  | xf202
  | xf204
  | xf208
deriving DecidableEq, Repr

/-- Bytes of the part's stores by DPA, rising addresses, no entry 0 (18 R499: an unlisted byte reads 0). -/
abbrev Mem := List Host.Cell

/-! ### Strokes -/

/-- A tensor descriptor (08 R194, R195). -/
structure Desc where
  base : Nat := 0
  node : Nat := 0
  flags : Nat := 0
  fmt : Nat := 0
  rank : Nat := 1
  compressed : Bool := false
  pslot : Nat := 0
  policy : Nat := 0
  shape : List Nat := []
  stride : List Int := []
  sideBase : Nat := 0
  sideStride : Nat := 0
  tscale : Word := 0
  chunkBase : Nat := 0
  slot : Nat := 0
  raw : List Byte := []
deriving DecidableEq, Repr

/-- A loaded stroke image (05 R135). -/
structure Image where
  instrs : List DWord := []
  descs : List Desc := []
  argCount : Nat := 0
  argMax : List Nat := []
  shapeArgs : List Nat := []
  strict : Bool := false
  work : Nat := 0
  job : Nat := 0
deriving DecidableEq, Repr

/-- A stroke instance (05 R136, R141; 12 R313): `replayOf` names the journal_seq of the run it replays. -/
structure Inst where
  iid : Nat := 0
  run : Nat := 0
  node : Nat := 0
  fan : Nat := 0
  job : Nat := 0
  step : Nat := 0
  image : Nat := 0
  img : Image := {}
  args : List Nat := []
  replayOf : Option Nat := none
  attempt : Nat := 0
  accDone : List Nat := []
  outcome : Nat := 0
  gens : Option (List (Nat × Nat × Nat)) := none
  foundAt : Option Nat := none
  /-- The owner key of the outputs of a stroke that is run again to produce a damaged output once
  more (12 R316): the outputs it registers take the place of those of that key. -/
  rerun : Option Nat := none
deriving DecidableEq, Repr

/-- An array accumulator (03 R61, R70): n · 2^(anchor − 76), its markers, saturation, whether a block sum was truncated,
and what decides the sign of zero (03 R69). -/
structure Acc where
  anchor : Int := 0
  n : Int := 0
  marks : Marks := {}
  sat : Bool := false
  trunc : Bool := false
  negZero : Bool := false
deriving DecidableEq, Repr

/-- A tile's course (04 R93, R94; 12 R308). -/
inductive TilePhase where
  | waiting
  | pass
  | drain
  | held
deriving DecidableEq, Repr

/-- An issued tile (05 R118 to R121). `skip`: its accumulation is already in the buffer (10 R248). -/
structure Tile where
  seq : Nat := 0
  pc : Nat := 0
  a : Nat := 0
  b : Nat := 0
  c : Nat := 0
  m0 : Nat := 0
  n0 : Nat := 0
  k0 : Nat := 0
  m : Nat := 1
  n : Nat := 1
  k : Nat := 1
  ta : Bool := false
  tb : Bool := false
  acc : Bool := false
  skip : Bool := false
  phase : TilePhase := .waiting
  accs : List Acc := []
  unchecked : Bool := false
  invalid : Nat := 0
deriving DecidableEq, Repr

/-- A summary slot: value and type (05 R129). -/
structure Summary where
  value : Nat
  type : Nat
deriving DecidableEq, Repr

/-- A stroke in a sequencer slot, with the registers the bay gives it (04 R83, R101; 06 R146, R168; 07 R171, R174, R189). -/
structure Running where
  inst : Inst := {}
  descs : List Desc := []
  seq : Nat := 0
  pc : Nat := 0
  issued : Bool := false
  tag : Nat := 0
  frozen : Bool := false
  v : List Lanes := List.replicate 64 (List.replicate 64 0#32)
  p : List DWord := List.replicate 8 0#64
  s : List Word := List.replicate 32 0#32
  tsrc : Word := 0
  tdst : Word := 0
  luts : List (Option LutBank) := [none, none, none, none]
  roles : List (Option Nat) := List.replicate 12 none
  parms : List Word := [0x3727C5AC#32, 0x3F800000#32, 0x3C23D70A#32, 0x40C00000#32, 0x3F800000#32, 0x3F800000#32, 0#32]
  loss : Int := 0
  lossMarks : Marks := {}
  lossCount : Nat := 0
  exc : List Nat := [0, 0, 0, 0]
  strictFlags : Nat := 0
  sums : List (Option Summary) := List.replicate 16 none
  hists : SMap Hist := []
  accDone : List Nat := []
  inputs : List (Nat × Nat × Nat) := []
  wet : List (Nat × Nat) := []
  spTokens : List Nat := []
deriving DecidableEq, Repr

/-- Who made a seal-table entry wet (04 R97, R98). -/
inductive Owner where
  | stroke (seq : Nat)
  | mover (transfer : Nat)
  | wetSource (token : Nat)
  | span (node transfer : Nat)
  | slot (n : Nat)
  | varnish (slot : Nat)
  | bounce (mover : Nat)
  | gather (entry step : Nat)
  | arbiter (bay : Nat)
  | none
deriving DecidableEq, Repr

/-- Seal states (04 R96). -/
inductive SealState where
  | free
  | wet
  | dry
deriving DecidableEq, Repr

/-- A seal-table entry (04 R96 to R100; 12 R312). -/
structure SealEnt where
  start : Nat
  bytes : Nat
  state : SealState
  readers : Nat := 0
  gen : Nat := 0
  release : Bool := false
  owner : Owner := .none
deriving DecidableEq, Repr

/-- A palette slot of a bay (09 R235). `wants`: fills asked for and not done, in order, by journal sequence number of the stroke
(09 R236); while `filling`, the first of them is under way. -/
structure PalSlot where
  image : List Byte := []
  valid : Bool := false
  filling : Bool := false
  refcount : Nat := 0
  fills : Nat := 0
  wants : List (Nat × List Byte) := []
deriving DecidableEq, Repr

/-- State of a journal entry (12 R311). -/
inductive JState where
  | issued
  | wasSealed
  | abandoned
  | replaying
deriving DecidableEq, Repr

/-- A journal entry (12 R311). -/
structure JEntry where
  seq : Nat
  inst : Inst
  inputs : List (Nat × Nat × Nat)
  dests : List (Nat × Nat)
  accDone : List Nat := []
  contribs : List (Nat × Nat × List (Nat × Nat × Nat)) := []
  state : JState := .issued
deriving DecidableEq, Repr

/-- A completion record (05 R131). -/
structure Completion where
  seq : Nat
  tag : Nat
  outcome : Nat
  cycles : Nat
  die : Nat
  lbay : Nat
  pbay : Nat
  exc : List Nat
  strictFlags : Nat
  sums : List (Option Summary)
  work : Nat
  hists : List Hist
deriving DecidableEq, Repr

/-- Conditions of a physical bay (04 R107; 17 DEV-BAYS). -/
inductive BayCond where
  | active
  | reserve
  | lent
  | substituted
  | retired
deriving DecidableEq, Repr

/-- A bay (04 R83). Its SRAM, side memory and status array are in `mem`. `retireAt`: the stroke at whose seal the bay is retired,
and the arbiter that takes its place (12 R309); `waking`: a spare's logic is still waking (04 R107); `bad`: words of its stores that fail
parity, as (region, word of the bay's share) (04 R86). -/
structure Bay where
  cond : BayCond := .active
  retiredAt : Nat := 0
  slots : List Running := []
  queue : List Inst := []
  replays : List Inst := []
  tiles : List Tile := []
  seals : List SealEnt := []
  pal : List PalSlot := [{}, {}, {}, {}]
  journal : List JEntry := []
  nextSeq : Nat := 0
  recs : SMap Completion := []
  excluded : List Nat := []
  waking : Bool := false
  retireAt : Option (Nat × Nat) := none
  checkerFaults : Nat := 0
  replicaMisses : Nat := 0
  bad : List (Nat × Nat) := []
deriving DecidableEq, Repr

/-- A mover request (05 R124; 08 R207 to R217): `d0`, `s0`, `count` are src1, src2, src3; `resolved` the validated indices or
offsets; `rounds` the scatter-add rounds done; `overlapAt`, `needBounce` the overlap of a copy; `bounce` its buffer as (die, bay,
byte). -/
structure MvReq where
  op : Nat := 0
  bay : Nat := 0
  seq : Nat := 0
  pc : Nat := 0
  job : Nat := 0
  dst : Desc := {}
  src : Desc := {}
  idx : Option Desc := none
  d0 : Nat := 0
  s0 : Nat := 0
  count : Nat := 0
  resolved : List (Option Nat) := []
  rounds : Nat := 0
  bounce : Option (Nat × Nat × Nat) := none
  needBounce : Nat := 0
  overlapAt : Nat := 0
  skip : Bool := false
  readers : List (Nat × Nat × Nat) := []
  exc : Exc := {}
deriving DecidableEq, Repr

/-- A mover (01 R20): its request queue, in order. -/
structure Mover where
  queue : List MvReq := []
  fenced : Bool := false
  testing : Bool := false
deriving DecidableEq, Repr

/-! ### Graphs -/

/-- A graph node (05 R137). -/
structure GNode where
  kind : Nat
  flags : Nat
  p0 : Nat
  p1 : Nat
  p2 : Nat
  ops : List Nat
deriving DecidableEq, Repr

/-- A loaded graph image (05 R142). -/
structure Graph where
  nodes : List GNode := []
  consts : List Nat := []
  job : Nat := 0
deriving DecidableEq, Repr

/-- A kept loop (05 R505). -/
structure LoopSt where
  node : Nat
  count : Nat
  index : Nat
deriving DecidableEq, Repr

/-- A notification (05 R504). -/
structure Note where
  tag : Nat
  vals : List Nat
deriving DecidableEq, Repr

/-- Run states of RUN-STATUS (17 R441). -/
inductive RunState where
  | running
  | waiting
  | done
  | faulted
  | stopped
deriving DecidableEq, Repr

/-- A running graph (05 R136 to R143, R504, R505). `held`: a WAIT, or a STROKE with its WAIT flag, holds it. `issues`: per STROKE node, its most recent issue's (bay, instance). -/
structure Run where
  graph : Nat := 0
  job : Nat := 0
  state : RunState := .running
  node : Nat := 0
  step : Nat := 0
  counters : List Nat := List.replicate 16 0
  loops : List LoopSt := []
  issues : SMap (List (Nat × Nat)) := []
  openInsts : List Nat := []
  recs : SMap Completion := []
  notes : List Note := []
  held : Bool := false
  waitSlot : Option (Nat × Nat) := none
  releases : List (Nat × List Nat) := []
  nextIid : Nat := 0
deriving DecidableEq, Repr

/-! ### Reduction and Varnish -/

/-- Slot states (10 R245). -/
inductive SlotState where
  | free
  | opened
  | released
  | held
  | gated
  | updating
  | resetting
  | lost
deriving DecidableEq, Repr

/-- Slot roles (10 R243). -/
inductive Role where
  | contributor
  | owner
  | twin
deriving DecidableEq, Repr

/-- A contributor as an owner or twin slot sees it in one step (10 R252 to R268); `node` is 0xFFF until a request has named it. -/
structure Member where
  index : Nat
  node : Nat := 0xFFF
  carried : Bool := false
  granted : Bool := false
  token : Option Nat := none
  delivered : Nat := 0
  isSealed : Bool := false
  withdrawn : Bool := false
  resent : Bool := false
  dropped : Bool := false
  step : Nat := 0
deriving DecidableEq, Repr

/-- A reduction slot: its descriptor (10 R244), its members and status record (R264, R271), and a contributor's course
(R252 to R259). `sendQ`: messages waiting for credit as [node, type, flags, token, local, remote, blocks]; `sent`: CONTRIBs sent
as [node, token, local, remote, blocks]; `credit`: receivers that gave credit (14 R371); `sendSlot`: the slot the contribution goes to,
the partner for a carried one. `inclRec`, `wcStep`: the inclusion record and step of the slice released last (R264; 14 R372). `heldSince`: when each held message arrived; `withheld`: contributions that came in a reset, whose credit
is withheld (R268); `testWait`: when the slot began to wait for a field test of a Varnish unit (12 R320). -/
structure Slot where
  state : SlotState := .free
  role : Role := .contributor
  job : Nat := 0
  carry : Bool := false
  recycle : Bool := false
  step : Nat := 0
  partner : Nat := 0
  expected : Nat := 0
  lbay : Nat := 0
  elemOff : Nat := 0
  anchorOff : Nat := 0
  blocks : Nat := 0
  ownerNode : Nat := 0
  twinNode : Nat := 0
  remoteSlot : Nat := 0
  ownerDie : Nat := 0
  deadline : Nat := 0
  shardF : Nat := 0
  opening : Option (List Nat) := none
  members : List Member := []
  fixed : Bool := false
  resets : Nat := 0
  halted : Bool := false
  heldMsgs : List SpanMsg := []
  heldSince : List Nat := []
  withheld : List SpanMsg := []
  testWait : Option Nat := none
  tFirst : Nat := 0
  tFixed : Nat := 0
  tSealed : Nat := 0
  tAgreed : Nat := 0
  heldUs : Nat := 0
  retractions : Nat := 0
  lateCarried : Nat := 0
  lateDropped : Nat := 0
  withdrawnN : Nat := 0
  token : Option Nat := none
  ranges : List (Nat × Nat × Nat) := []
  grantedC : Bool := false
  sendQ : List (List Nat) := []
  sent : List (List Nat) := []
  credit : List Nat := []
  sealSent : Bool := false
  wantRelease : Bool := false
  touchOver : Bool := false
  retractDue : Bool := false
  withdrawDue : Bool := false
  sendSlot : Nat := 0
  carriedC : Bool := false
  disputed : Bool := false
  replay : Bool := false
  inclRec : List Byte := []
  wcStep : Option Nat := none
deriving DecidableEq, Repr

/-- A Varnish shard (11 R272, R273, R285, R286, R302): the descriptor's 128 bytes, the held schedule table, the running norm,
accepted slices, cumulative counters, updates of each slot since its last table build. -/
structure Shard where
  raw : List Byte := []
  job : Nat := 0
  table : List Word := []
  norm : Word := 0
  accepted : Nat := 0
  counters : List Nat := [0, 0, 0, 0]
  updates : SMap Nat := []
  stopped : Bool := false
deriving DecidableEq, Repr

/-- A consumption in progress (11 R280 to R301; 12 R317, R318), by its key: a slot, 65536 + a fragment for an outer update, or
131072 + a slot for working copies derived again (11 R287). `kind` 0, 1 or 2; `step` the global step, or the round; `codes` the
working-copy bytes and scale of each written block, `recs` its record B as written (R299); `behind`: blocks of an outer update that wait
for an inner update begun before, with its key (01 R31); `moments` and `ortho` the matrices M and U of whole-layer mode by shard block. -/
structure Consume where
  since : Nat := 0
  kind : Nat := 0
  step : Nat := 0
  outcome : Nat := 0
  decided : Bool := false
  divisor : Nat := 0
  norm : Word := 0
  clip : Word := 0
  scale : Word := 0
  eta : Word := 0
  sqFixed : Nat := 0
  flags : Nat := 0
  todo : List Nat := []
  written : List Nat := []
  saturated : Nat := 0
  untouched : Nat := 0
  caughtUp : Nat := 0
  stallUs : Nat := 0
  exc : List Nat := [0, 0, 0, 0]
  histM : Hist := Hist.empty
  histW : Hist := Hist.empty
  gradDigest : List Byte := []
  updDigest : List Byte := []
  codes : SMap (List Byte) := []
  recs : SMap (List Byte) := []
  behind : List (Nat × Nat) := []
  wcDone : Bool := false
  done : Bool := false
  stage : Nat := 0
  moments : SMap (List Word) := []
  ortho : SMap (List Word) := []
deriving DecidableEq, Repr

/-- A slice report (11 R302), the global step of the slice and the slot blocks whose record it wrote. -/
structure Report where
  slot : Nat
  step : Nat
  outcome : Nat
  written : List Nat
  bytes : List Byte
deriving DecidableEq, Repr

/-! ### Vobin -/

/-- A posted command (17 R428, R432, R434): its place in the order of posts, its standing (0 A, 1 B, 2 C), the die that executes it, header
and body, whether a host request for the body failed, and whether its response is to be discarded (16 R425). -/
structure Cmd where
  seq : Nat
  port : Nat
  mailbox : Nat
  standing : Nat
  die : Nat
  hdr : List Byte
  body : List Byte
  hostErr : Bool := false
  gone : Bool := false
deriving DecidableEq, Repr

/-- A response ready to be written to its mailbox (17 R429). -/
structure Resp where
  cmd : Cmd
  status : Nat
  body : List Byte := []
  retry : Nat := 0
  detail : Nat := 0
deriving DecidableEq, Repr

/-- A command that continues (17 R435): its token once it has been answered ST_DEFERRED, and its final status and result. -/
structure Deferred where
  cmd : Cmd
  token : Option Nat := none
  result : Option (Nat × List Byte) := none
deriving DecidableEq, Repr

/-- A running field test (12 R320; 17 CHK-TEST). -/
structure FTest where
  unit : Nat
  die : Nat
  index : Nat
  cmd : Option Cmd := none
  mgmt : Option (List Byte) := none
  slot : Option Nat := none
deriving DecidableEq, Repr

/-! ### Atelier -/

/-- A submitted segment (13 R332). -/
structure Segment where
  addr : Nat
  len : Nat
  flags : Nat
deriving DecidableEq, Repr

/-- A clip in progress or complete (13 R343): its index, pictures still to skip, and the pictures taken. -/
structure Clip where
  index : Nat
  skip : Nat := 0
  pics : List Picture := []
deriving DecidableEq, Repr

/-- States of an Atelier stream (13 R331, R332, R338). -/
inductive StreamState where
  | running
  | ending
  | ended
  | stopped
deriving DecidableEq, Repr

/-- An Atelier stream (13 R331 to R343). `data`: transport-stream bytes not yet demultiplexed; `psi`: the section being collected by PID;
`cc`: the last continuity counter by PID; `audio`, `audioPts`: the PES packet being collected and the last PTS by PID; `discAt`: a
discontinuity begins with the next picture; `dropping`: a picture was dropped since the last random access point; `c0`, `p0` the base
of the clip schedule; `ready`: complete clips not yet written. -/
structure Stream where
  raw : List Byte := []
  job : Nat := 0
  state : StreamState := .running
  engine : Nat := 0
  segs : List Segment := []
  data : List Byte := []
  discAt : Bool := false
  pmtPid : Option Nat := none
  program : Nat := 0
  pmtVersion : Option Nat := none
  videoPid : Option Nat := none
  cc : SMap Nat := []
  psi : SMap (List Byte) := []
  audio : SMap (List Byte) := []
  audioPts : SMap Nat := []
  audioBase : Nat := 0
  audioBytes : Nat := 0
  audioPos : Nat := 0
  audioFull : Bool := false
  damagedNext : Bool := false
  dropping : Bool := false
  lastPts : Option Nat := none
  picIndex : Nat := 0
  p0 : Option Nat := none
  nextClip : Nat := 0
  c0 : Nat := 0
  afterDisc : Bool := false
  clips : List Clip := []
  ready : List Clip := []
  counters : List Nat := List.replicate 8 0
deriving DecidableEq, Repr

/-- A shuffle pool (13 R348 to R353): the pass being filled and the slots it has, the place in the rotation, which banks are free, the
passes made ready and not released, the releases a NOTIFY has asked for, and those ignored. -/
structure Pool where
  raw : List Byte := []
  job : Nat := 0
  pass : Nat := 0
  filled : Nat := 0
  turn : Nat := 0
  bankFree : List Bool := [true, true]
  ready : List Nat := []
  asked : List Nat := []
  ignored : Nat := 0
deriving DecidableEq, Repr

/-- A decode engine (13 R341, R342). -/
structure Engine where
  fenced : Bool := false
  faults : Nat := 0
  testing : Bool := false
deriving DecidableEq, Repr

/-! ### A die -/

/-- A die's tables and units (01 R22). `peers`: digests of the twin not yet compared: consumption key, step, gradient,
update. `heldGets` and `heldGathers`: requests that wait for dry data (14 R369, R372); `wetTargets`: source node, token and transfer of wet-source
PUT targets (14 R370). -/
structure Die where
  lmap : List Nat := []
  lgroup : List Nat := []
  images : SMap Image := []
  graphs : SMap Graph := []
  runs : SMap Run := []
  admitted : List Cmd := []
  deferred : List Deferred := []
  slots : SMap Slot := []
  pendingLimit : Nat := 64
  releaseSeq : Nat := 0
  touch : List (Nat × Nat) := []
  shards : SMap Shard := []
  bindings : SMap (Option Desc) := []
  totals : SMap (List (Nat × Int)) := []
  order : List Nat := []
  staged : List (Nat × Nat) := []
  cons : SMap Consume := []
  peers : List (Nat × Nat × List Byte × List Byte) := []
  reports : SMap Report := []
  nextReport : Nat := 0
  paletteGen : Nat := 1
  heldGets : SMap SpanMsg := []
  nextHeld : Nat := 0
  wetTargets : List (Nat × Nat × Nat) := []
  heldGathers : List SpanMsg := []
  streams : SMap Stream := []
  pools : SMap Pool := []
  engines : List Engine := [{}, {}, {}, {}]
  stalls : List Nat := List.replicate 18 0
  refusals : List Nat := List.replicate 18 0
  corrected : List Nat := [0, 0, 0, 0]
  fenced : Bool := false
  excluded : List Nat := []
  copies : List MvReq := []
  pairWait : List (Nat × Nat) := []
deriving DecidableEq, Repr

/-! ### Jobs -/

/-- A grant entry (17 R440). -/
structure Grant where
  kind : Nat
  die : Nat
  first : Nat
  count : Nat
  base : Nat
deriving DecidableEq, Repr

/-- The outer configuration of a job (15 R398, R403, R406, R409). -/
structure Outer where
  period : Nat := 0
  window : Nat := 2
  nesterov : Bool := false
  combineFirst : Nat := 0
  combineCount : Nat := 0
  donor : Nat := 0
  hint : Nat := 0
  beta : Word := 0
  eta : Word := 0
  weights : List Nat := []
  rejoinOff : Nat := 0
  rejoinRound : Option Nat := none
  firstRound : Option Nat := none
deriving DecidableEq, Repr

/-- A job (17 R440, R441). -/
structure Job where
  mask : Nat := 0
  period : Nat := 16
  grants : List Grant := []
  ending : Bool := false
  indexZeroed : Nat := 0
  sliceResets : Nat := 0
  freezes : Nat := 0
  inputLost : Bool := false
  outer : Option Outer := none
  gnorms : List (Nat × Int) := []
  rolledBack : List Nat := []
deriving DecidableEq, Repr

/-! ### Span and Pier -/

/-- The last PROBE a port received (14 R360). -/
structure Probe where
  node : Nat
  port : Nat
  serial : Nat
  tai : Nat
deriving DecidableEq, Repr

/-- A message that waits to be cut into flits (14 R356, R359): its rank in the order of sending, the bytes still to send, and where in
them an envelope begins. -/
structure TxMsg where
  rank : Nat
  bytes : List Byte
  start : Option Nat
deriving DecidableEq, Repr

/-- A Span or Pier port (14 R354 to R359). `streams` and `tx` by channel × 2 + class: what has arrived of a message not yet complete, and
what waits to leave. -/
structure Port where
  up : Bool := false
  training : Bool := false
  testing : Bool := false
  lanes : List Bool := [true, true, true, true]
  width : Nat := 4
  nextSeq : Nat := 0
  oldest : Nat := 0
  replay : List (Nat × List Byte) := []
  resends : Nat := 0
  lastRx : Nat := 4095
  nackDue : Bool := false
  credits : List Nat := List.replicate 8 128
  streams : List (List Byte) := List.replicate 8 []
  tx : List (List TxMsg) := List.replicate 8 []
  probe : Option Probe := none
  corrected : Nat := 0
  replayed : Nat := 0
  discarded : Nat := 0
  stalls : List Nat := [0, 0, 0]
deriving DecidableEq, Repr

/-- A multicast entry (14 R363). -/
structure Mcast where
  valid : Bool := false
  toSelf : Bool := false
  ports : Nat := 0
deriving DecidableEq, Repr

/-- A gather table entry (14 R372). `want`: the step still to be asked for; `asked`: the step asked for;
`last`: the step last gathered; all of a copy on `die`. -/
structure Gather where
  ownerNode : Nat := 0
  twinNode : Nat := 0
  ownerDie : Nat := 0
  group : Nat := 0
  slot : Nat := 0
  even : Desc := {}
  odd : Desc := {}
  job : Nat := 0
  die : Nat := 0
  want : Option Nat := none
  asked : Option Nat := none
  got : Nat := 0
  last : Option Nat := none
  incl : List Byte := []
deriving DecidableEq, Repr

/-- A message sent and not yet answered (14 R366). `again`: it was not accepted and is sent again after 10 µs. -/
structure Unacked where
  seq : Nat
  kind : Nat
  die : Nat
  body : List Byte
  ctx : List Nat := []
  again : Bool := false
deriving DecidableEq, Repr

/-- The fabric tables of a part (14 R360 to R377). Keys of the sequencing tables: node × 4 + channel. `srcDue`:
SRC_SEAL and SRC_RETRACT that wait for the answers of their PUTs, as [die, bay, seq, node × 8 + die, type, job] (R370). -/
structure Span where
  ports : SMap Port := []
  route : SMap Nat := []
  mcast : SMap Mcast := []
  gather : SMap Gather := []
  nextSeq : SMap Nat := []
  unacked : SMap (List Unacked) := []
  expect : SMap Nat := []
  answers : SMap (SMap Nat) := []
  digests : List (Nat × Nat × Nat × List Byte) := []
  srcDue : List (List Nat) := []
  discarded : Nat := 0
deriving DecidableEq, Repr

/-! ### Viaduct -/

/-- A Viaduct interface (15 R379 to R384). `lastPn`: the highest packet number accepted, by association number; `echoSec`: the
TAI second in which the `echoes` of the current second were answered. -/
structure Itf where
  mac : Nat := 0
  vlan : Nat := 0
  udp : Nat := 49812
  linkLocal : Nat := 0
  addr : Nat := 0
  gateway : Nat := 0
  ckn : List Byte := []
  cakSet : Bool := false
  txAn : Option Nat := none
  rxAns : List Nat := []
  retiring : Option Nat := none
  lastPn : SMap Nat := []
  peers : List Nat := []
  echoSec : Nat := 0
  echoes : Nat := 0
  macsecDrops : Nat := 0
  ipDrops : Nat := 0
  retransmits : Nat := 0
  duplicates : Nat := 0
  malformed : Nat := 0
  oversize : Nat := 0
  macControl : Nat := 0
  tooBig : Nat := 0
deriving DecidableEq, Repr

/-- A Viaduct port (15 R378, R390; 17 VIA-PORT). -/
structure VPort where
  mode2 : Bool := false
  hopLimit : Nat := 64
  window : Nat := 0
  txBase : Nat := 0
  entries : Nat := 0
  priority : Nat := 0xFF
  rotation : Nat := 3600
  set : Bool := false
  up : Bool := false
  testing : Bool := false
  itfs : List Itf := [{}, {}]
deriving DecidableEq, Repr

/-- Session states (15 R386). -/
inductive SessState where
  | closed
  | opening
  | running
  | standby
  | suspended
  | resuming
deriving DecidableEq, Repr

/-- An outer-loop message given to the transport: its number, its source round where it is a fragment, and the bytes sent so far
(15 R390, R401). -/
structure OutMsg where
  id : Nat
  round : Option Nat
  bytes : List Byte
  sent : Nat := 0
deriving DecidableEq, Repr

/-- A segment-table entry (15 R390); its body lies in its slot of the retransmit buffer. -/
structure TxSeg where
  seq : Nat
  round : Option Nat
  slot : Nat
  msgId : Nat
  off : Nat
  len : Nat
  total : Nat
  sends : Nat := 1
  lastTx : Nat := 0
deriving DecidableEq, Repr

/-- A message being received, or received and not yet consumed (15 R393): its place in the receive area and the parts that came. -/
structure RxMsg where
  id : Nat
  place : Nat
  len : Nat
  got : List (Nat × Nat) := []
deriving DecidableEq, Repr

/-- A session log event (15 R405). -/
structure LogEv where
  kind : Nat
  a : Nat
  fragment : Nat
  src : Nat
  close : Nat
deriving DecidableEq, Repr

/-- A session (15 R385 to R395, R401, R405 to R409). `msgs`: messages not yet wholly acknowledged, oldest first; `ackPage`: how far
successive ACKs have stepped; `due`, `echo`: a DATA segment is not yet acknowledged, and the tx_tai of the last one;
`logged`: events ever logged; `badRound`,
`badCount`: malformed messages of a round. -/
structure Session where
  raw : List Byte := []
  job : Nat := 0
  state : SessState := .closed
  join : Bool := false
  epoch : Nat := 0
  nextSeq : Nat := 0
  nextMsg : Nat := 0
  msgs : List OutMsg := []
  table : List TxSeg := []
  cum : Nat := 2 ^ 48 - 1
  bits : List Nat := []
  rx : List RxMsg := []
  ackPage : Nat := 0
  since : Nat := 0
  due : Bool := false
  echo : Nat := 0
  srtt : Nat := 100000000
  beats : Nat := 0
  lastBeat : Nat := 0
  peerActive : Bool := true
  peerRejoin : Option Nat := none
  suspendedIn : Nat := 0
  catchup : Option Nat := none
  cleanSince : Nat := 0
  log : List LogEv := []
  logged : Nat := 0
  badRound : Nat := 0
  badCount : Nat := 0
  mismatches : Nat := 0
deriving DecidableEq, Repr

/-- A fragment delta formed or received (15 R400 to R404, R408): an OUTER-DELTA body by fragment, source round and site. `close`: the
round whose close takes it; `session`, `msg`: where it came from. -/
structure Delta where
  frag : Nat
  round : Nat
  site : Nat
  stale : Nat := 0
  weight : Word := 0
  join : Bool := false
  catchup : Bool := false
  close : Nat := 0
  session : Nat := 0
  body : List Byte := []
deriving DecidableEq, Repr

/-- A fragment table entry (15 R399) and its course: `formed`, `closed` the last round formed and closed; `own` the fragment formed;
`set` the contributions of the close under way, the own one first; `waiting` accepted fragments and those of rounds to come;
`listed` what the next ROUND-CLOSE lists; `needs`: anchors are asked for; `donor`: the session they come over. -/
structure Frag where
  die : Nat := 0
  shard : Nat := 0
  first : Nat := 0
  blocks : Nat := 0
  off : Nat := 0
  sessions : List Nat := []
  job : Nat := 0
  formed : Option Nat := none
  closed : Option Nat := none
  own : Option Delta := none
  set : List Delta := []
  waiting : List Delta := []
  listed : List Delta := []
  dropped : Nat := 0
  needs : Bool := false
  donor : Nat := 0
deriving DecidableEq, Repr

/-- The Viaduct of a part. `pieces`: OUTER_INPUT bodies of which pieces have come (15 R404). -/
structure Viaduct where
  ports : SMap VPort := []
  sessions : SMap Session := []
  frags : SMap Frag := []
  pieces : List Delta := []
deriving DecidableEq, Repr

/-! ### Host ports -/

/-- A HIF_WIN entry (16 R416). `stamp`: retirements before it was written (16 R422 rule 2). -/
structure Win where
  job : Nat := 0
  base : Nat := 0
  writable : Bool := false
  valid : Bool := false
  stamp : Nat := 0
deriving DecidableEq, Repr

/-- An event record queued for a host (17 R438). -/
structure Event where
  code : Nat
  job : Nat
  die : Nat
  urgent : Bool
  status : Nat
  tai : Nat
  seq : Nat
  lost : Nat
  data : List Byte
deriving DecidableEq, Repr

/-- A host port (16 R413 to R427; 17 R434, R438). `posted`: commands that wait for admission; `ideSecure`: Secure IDE streams, 0 the link stream
and 1-4 selective; `ideDown`: an integrity failure has closed the port. -/
structure HostPort where
  ctrl : Nat := 0
  wins : SMap Win := []
  latch : Option (Nat × Nat) := none
  mbx : SMap Byte := []
  busy : Nat := 0
  done : Nat := 0
  posted : List Cmd := []
  resps : List Resp := []
  msixTable : SMap Nat := []
  msixPending : List Nat := []
  msixEnable : Bool := false
  counters : List Nat := List.replicate 8 0
  events : List Event := []
  eventSeq : Nat := 0
  lost : Nat := 0
  linkUp : Bool := false
  d3hot : Bool := false
  rate : Nat := 0
  width : Nat := 0
  flit : Bool := false
  frozen : Bool := false
  downSince : Option Nat := none
  ideSecure : List Nat := []
  ideDown : Bool := false
  doeBusy : Bool := false
  doeIgnored : Nat := 0
  bar4 : Nat := 0x400000000
deriving DecidableEq, Repr

/-! ### Keystone -/

/-- A freeze record (12 R328), with the bytes of the request. -/
structure Freeze where
  master : Nat
  job : Nat
  reason : Nat
  time : Nat
  address : Nat
  journalSeq : Nat
  instr : Nat
  request : List Byte
deriving DecidableEq, Repr

/-- A fault record (18 R459). -/
structure FaultRec where
  index : Nat
  detector : Nat
  level : Nat
  action : Nat
  die : Nat
  tai : Nat
  status : Nat
  job : Nat
  unit : Nat
  seq : Nat
  enclosing : Nat
  address : Nat
  detail : List Byte
deriving DecidableEq, Repr

/-- A domain in handling at a level of 12 R321. `id`: level 1 die × 256 + bay, level 2 die × 256 + subsystem (0-7 bay group, 8 Atelier
front end, 9-12 LPDDR5X channel, 13 Span port pair, 14-15 Pier port, 16-17 Viaduct port, 18-19 host port), level 3 the die, level 4 0.
`watch`: the bays whose replays end the handling, by bay key. -/
structure Domain where
  level : Nat
  id : Nat
  watch : List Nat := []
deriving DecidableEq, Repr

/-- An arbitration in progress (12 R308). -/
structure Arb where
  die : Nat
  bay : Nat
  arbiter : Nat
  wasSpare : Bool
  awake : Bool
  place : Nat × Nat := (0, 0)
deriving DecidableEq, Repr

/-- An image slot of the boot flash (18 R445). `state`: 0 empty, 1 written, 2 being written; none as provisioned (log 5). -/
structure FlashSlot where
  state : Option Nat := none
  data : SMap Byte := []
deriving DecidableEq, Repr

/-- The boot flash and what is provisioned outside the part (18 R445 to R456; log 5). -/
structure Flash where
  slots : List FlashSlot := [{}, {}]
  retired : List Nat := []
  retiredOk : Bool := true
  owner : Option (List Byte) := none
  network : List Byte := []
  fwFloor : Nat := 0
  recFloor : Nat := 0
  log : List FaultRec := []
  logCount : Nat := 0
deriving DecidableEq, Repr

/-- Keystone state, `nonces` with the TAI each was given at, `bootFloors` the two floors read at boot, `reportTimes` when the
reports of the last second were sent (18 R442 to R460; 16 R419; 12 R309, R320 to R326; 19 R471). -/
structure Keystone where
  leader : Nat := 0
  state : Nat := 0
  passed : List Bool := []
  ideRequired : Bool := false
  twinPresent : Bool := false
  primary : Nat := 0
  tj : Nat := 0
  hottest : Nat := 0
  trip : Bool := false
  throttle : Nat := 16
  throttledUs : Nat := 0
  powerMw : Nat := 0
  sensors : List Nat := []
  dieMw : List Nat := []
  faultsLogged : Nat := 0
  faultLog : List FaultRec := []
  unflushed : List FaultRec := []
  reportSeq : Nat := 0
  reportDrops : Nat := 0
  reportsHeld : List (List Byte) := []
  reportTimes : List Nat := []
  handling : List Domain := []
  queue : List FaultDesc := []
  freezes : SMap Freeze := []
  arbs : List Arb := []
  tests : List FTest := []
  retirements : Nat := 0
  bootSlot : Option Nat := none
  fwVersion : Nat := 0
  recVersion : Nat := 0
  keyDigest : List Byte := []
  easelDigest : List Byte := []
  easelVersion : Nat := 0
  bootFloors : Nat × Nat := (0, 0)
  recDigest : List Byte := []
  identityOk : Bool := false
  nonces : List (Nat × List Byte) := []
  record : Option ConfigRecord := none
  debugOpen : Bool := false
  debugNext : Bool := false
  flash : Flash := {}
deriving DecidableEq, Repr

/-! ### Power, time, the part -/

/-- Power state of a domain (19 R461, R465, R466). -/
inductive DomState where
  | off
  | on
  | waking
deriving DecidableEq, Repr

/-- Clocks and power (19 R461 to R470; 21 R487). Domains by die × 13 + index. -/
structure Power where
  doms : SMap DomState := []
  gatedClk : List Nat := []
  plls : List Nat := []
  avs : SMap Nat := []
  margin : SMap Int := []
  selfRefresh : List Nat := []
deriving DecidableEq, Repr

/-- Time states (15 R411). -/
inductive TimeState where
  | free
  | locked
  | holdover
deriving DecidableEq, Repr

/-- What disciplines the TAI counter (15 R410 to R412; 17 VIA-TIME). `lastEdge`: the counter at the last edge; `edgeOk`: it came in time;
`label`: the TAI second of the last labelled edge; `labelled`: the last edge has its label; `limited`: EV_TIME_LIMIT was raised. -/
structure Time where
  state : TimeState := .free
  good : Nat := 0
  missing : Nat := 0
  lastEdge : Option Nat := none
  edgeOk : Bool := false
  label : Option Nat := none
  labelled : Bool := false
  offset : Int := 37
  change : Option (Nat × Int) := none
  sigma : Nat := 2000
  limit : Nat := 100
  baud : Nat := 0
  holdStart : Nat := 0
  limited : Bool := false
deriving DecidableEq, Repr

/-- The part's own identity and condition (00 R1, R3; 16 R416; 14 R360, R374, R377; 12 R324, R325; 18 R450). -/
structure Part where
  variant : Variant := .xf208
  stepping : Nat := 1
  porN : Bool := false
  railsOk : Bool := false
  thermtripN : Bool := true
  state : Nat := 1
  stage : Nat := 0
  bootError : Nat := 0
  node : Option Nat := none
  fencedNodes : List Nat := []
  failReason : Nat := 0
  takenOver : Bool := false
  twinNode : Option Nat := none
  beatsMissed : Nat := 0
  beatSeen : Bool := false
  beatCount : Nat := 0
  lpddr : List Nat := []
  tai : Nat := 0
  posts : Nat := 0
deriving DecidableEq, Repr

/-- A Span or Pier message the part sent (14 R364): the port, 0-15, 16-17 for PL0-PL1, or 254 for the part itself; the class it leaves
in; the envelope's fields and the body. -/
structure Wire where
  port : Nat
  cls : Nat
  kind : Nat
  flags : Nat
  dst : Nat
  src : Nat
  hops : Nat
  seq : Nat
  body : List Byte
deriving DecidableEq, Repr

/-- A read the part completed toward a host: none for Completer Abort, or with Unsupported Request. -/
structure Cpl where
  port : Nat
  data : Option (List Byte)
  ur : Bool := false
deriving DecidableEq, Repr

/-- What the part has sent outside, oldest first (log 6). -/
structure Outputs where
  wire : List Wire := []
  flits : List (Nat × List Byte) := []
  segs : List (Nat × List Byte) := []
  net : List (Nat × Nat × Nat × List Byte) := []
  msix : List (Nat × Nat) := []
  mgmt : List (List Byte) := []
  hostWr : List (Nat × Nat × List Byte) := []
  cpl : List Cpl := []
  doe : List (Nat × List Byte) := []
deriving DecidableEq, Repr

/-- The state of the part. Bays by die × 132 + physical bay, movers by die × 16 + mover, dies and jobs by number. -/
structure State where
  part : Part := {}
  time : Time := {}
  ks : Keystone := {}
  power : Power := {}
  mem : Mem := []
  bays : SMap Bay := []
  movers : SMap Mover := []
  dies : SMap Die := []
  jobs : SMap Job := []
  span : Span := {}
  via : Viaduct := {}
  hosts : List HostPort := [{}, {}]
  out : Outputs := {}
  pending : List Instr := []
deriving DecidableEq, Repr

/-- The part right after power is applied, held by POR_N low: every register at the value the spec states, the others as log 4
names them; no command waits. In the tables of bays, movers, dies and ports an entry not listed holds its initial value. -/
def State.reset : State := {}

end Sys2Proof.Machine
end

