-- ==== Sys2Proof/Machine/Flit.lean ====
section
/-! DEFINITION. Messages as bytes and the flits of a port: the envelope, the flit header, what leaves next (14 R356 to R359, R364). -/

namespace Sys2Proof.Machine

open Sys2Proof

/-- The virtual channel of a message type (14 R358, R365, R376). -/
def vcOf (kind : Nat) : Nat :=
  if [0x10, 0x12, 0x14, 0x15, 0x65, 0x66].contains kind then 0
  else if [0x11, 0x13, 0x16, 0x21, 0x30].contains kind then 1
  else if (1 ≤ kind ∧ kind ≤ 0x0C) ∨ kind = 0x20 ∨ kind = 0x64 then 2
  else 3

/-- The order of sending (14 R359): heartbeats, takeover and FENCED notices; standing A; B; C. -/
def rankOf (kind flags : Nat) : Nat :=
  if kind = 0x60 ∨ kind = 0x61 ∨ kind = 0x41 then 0
  else if (1 ≤ kind ∧ kind ≤ 0x0C) ∨ 0x62 ≤ kind ∨ bitOf flags 0 then 1
  else if kind = 0x42 ∨ kind = 0x40 then 3
  else 2

/-- A message's bytes: the envelope with its ecrc, then the body (14 R364). -/
def Wire.bytes (w : Wire) : List Byte :=
  let head := pack [(1, w.kind), (1, w.flags), (2, w.body.length), (3, w.dst + w.src <<< 12)]
  let tail := pack [(2, w.seq), (2, 0)]
  head ++ natLe 1 w.hops ++ tail ++ natLe 4 (crc32 (head ++ tail ++ w.body)) ++ w.body

/-- A flit with its CRC (14 R356). -/
def flitBytes (ctl seq ack credit start : Nat) (payload : List Byte) : List Byte :=
  let f := pack [(1, ctl), (3, seq + ack <<< 12), (1, credit), (2, start), (1, 0)] ++ payload
  f ++ natLe 4 (crc32 f)

/-- An idle flit: acknowledgement, credit returned, nack (14 R356, R357). -/
def idleFlit (nack : Bool) (ack credit : Nat) : List Byte := flitBytes (8 + 16 * b2n nack) 0 ack credit 256 (zeros 256)

/-- The header is well formed and the CRC holds (14 R356). -/
def flitOk (f : List Byte) : Bool :=
  decide (fld f 0 1 < 32 ∧ fld f 5 2 < 512) && zeroAt f 7 1 && fld f 264 4 == crc32 (f.take 264)

/-- Takes `n` bytes off the front of the waiting messages. -/
def cutTx : List TxMsg → Nat → List TxMsg
  | [], _ => []
  | m :: ms, n =>
    if m.bytes.length ≤ n then cutTx ms (n - m.bytes.length)
    else if n = 0 then m :: ms
    else { m with bytes := m.bytes.drop n, start := m.start.bind fun x => if n ≤ x then some (x - n) else none } :: ms

/-- Where the first envelope begins in the bytes of some messages. -/
def startTx : List TxMsg → Nat → Option Nat
  | [], _ => none
  | m :: ms, o => match m.start with
    | some x => some (o + x)
    | none => startTx ms (o + m.bytes.length)

/-- The channel-class that sends next: of those with 256 B and a credit, the one whose message at the front ranks first. -/
def Port.nextTx (p : Port) : Option Nat :=
  let ready := (List.range 8).filter fun c => decide (0 < at' 0 p.credits c) &&
    decide (256 ≤ ((at' [] p.tx c).map (·.bytes.length)).foldl (· + ·) 0)
  let rank := fun (c : Nat) => ((at' [] p.tx c).head?.map (·.rank)).getD 4
  (List.range 4).findSome? fun r => ready.find? fun c => rank c == r

/-- Forms the next flit, if the port can send one (14 R356, R357). -/
def Port.sendFlit (p : Port) : Option (Port × List Byte) :=
  if !p.up || p.training || 64 ≤ p.replay.length then none
  else match p.nextTx with
    | none => none
    | some c =>
      let ms := at' [] p.tx c
      let f := flitBytes (c / 2 + c % 2 * 4) p.nextSeq p.lastRx 0 (min 256 ((startTx ms 0).getD 256)) ((ms.flatMap (·.bytes)).take 256)
      some ({ p with
        tx := setAt p.tx c (cutTx ms 256), credits := setAt p.credits c (at' 0 p.credits c - 1)
        replay := p.replay ++ [(p.nextSeq, f)], nextSeq := (p.nextSeq + 1) % 4096 }, f)

/-- Forms up to `n` flits. -/
def Port.sendFlits : Nat → Port → Port × List (List Byte)
  | 0, p => (p, [])
  | n + 1, p => match p.sendFlit with
    | none => (p, [])
    | some (q, f) => let (r, fs) := q.sendFlits n; (r, f :: fs)

/-- Queues a message on its channel-class. -/
def Port.queueTx (p : Port) (c rank : Nat) (bytes : List Byte) : Port :=
  { p with tx := setAt p.tx c (at' [] p.tx c ++ [⟨rank, bytes, some 0⟩]) }

/-- Drops from an arriving stream the messages that are complete: `n` is at most their number. -/
def streamRest : Nat → List Byte → List Byte
  | 0, bs => bs
  | n + 1, bs => if 16 ≤ bs.length ∧ 16 + fld bs 2 2 ≤ bs.length then streamRest n (bs.drop (16 + fld bs 2 2)) else bs

end Sys2Proof.Machine
end

