-- ==== Sys2Proof/Machine/Codes.lean ====
section
/-! DEFINITION. Status codes and events by number (17 R437, R439). -/

namespace Sys2Proof.Machine

def stOk : Nat := 0x0000
def stDeferred : Nat := 0x0001
def stRefused : Nat := 0x0002
def stFenced : Nat := 0x0003
def stNoObject : Nat := 0x0004
def stHostIo : Nat := 0x0005
def stMalformed : Nat := 0x0010
def stRange : Nat := 0x0011
def stProtected : Nat := 0x0012
def stIndexRange : Nat := 0x0013
def stOverlap : Nat := 0x0014
def stMailbox : Nat := 0x0015
def stLimit : Nat := 0x0016
def stUnsupported : Nat := 0x0017
def stTableStale : Nat := 0x0020
def stReplayExhausted : Nat := 0x0021
def stInputLost : Nat := 0x0022
def stSliceLost : Nat := 0x0023
def stUnresolved : Nat := 0x0024
def stNonfinite : Nat := 0x0025
def stSingular : Nat := 0x0026
def stDroppedStale : Nat := 0x0027
def stHeartbeatLost : Nat := 0x0030
def stThermalTrip : Nat := 0x0031
def stBootImage : Nat := 0x0040
def stBootConfig : Nat := 0x0041
def stBootRollback : Nat := 0x0042
def stBootPuf : Nat := 0x0043
def stBootMemory : Nat := 0x0044
def stBootLink : Nat := 0x0045

def evCmdDone : Nat := 0x0001
def evFreeze : Nat := 0x0002
def evFenced : Nat := 0x0003
def evTakeover : Nat := 0x0010
def evPrimary : Nat := 0x0011
def evBayRetired : Nat := 0x0012
def evFault : Nat := 0x0013
def evGraphDone : Nat := 0x0020
def evGraphNotify : Nat := 0x0021
def evGraphFault : Nat := 0x0022
def evSliceReset : Nat := 0x0023
def evNonfinite : Nat := 0x0024
def evDigestMismatch : Nat := 0x0030
def evReplicaRefetch : Nat := 0x0031
def evStreamEnd : Nat := 0x0032
def evStreamStop : Nat := 0x0033
def evAudioFull : Nat := 0x0040
def evSpanDown : Nat := 0x0041
def evPierDown : Nat := 0x0050
def evSessSuspended : Nat := 0x0051
def evSessResumed : Nat := 0x0052
def evPathMtu : Nat := 0x0053
def evHoldover : Nat := 0x0054
def evLocked : Nat := 0x0055
def evTimeLimit : Nat := 0x0056
def evThrottle : Nat := 0x0060
def evTrip : Nat := 0x0061

end Sys2Proof.Machine
end

