-- ==== Sys2Proof/Machine/Memory.lean ====
section
/-! DEFINITION. The part's stores by device physical address (00 R12, R13; 18 R499): bytes, ranges, and what is out of range. -/

namespace Sys2Proof.Machine

/-- What a byte that nothing has written reads as (18 R499). -/
def memDefault : Byte := 0

/-- One byte. -/
def rdByte : Mem → Nat → Byte
  | [], _ => memDefault
  | (k, b) :: m, a => if a = k then b else if a < k then memDefault else rdByte m a

/-- Writes one byte, keeping the list rising and free of bytes equal to what an unlisted byte reads as. -/
def wrByte : Mem → Nat → Byte → Mem
  | [], a, b => if b = memDefault then [] else [(a, b)]
  | (k, c) :: m, a, b =>
    if a < k then (if b = memDefault then (k, c) :: m else (a, b) :: (k, c) :: m)
    else if a = k then (if b = memDefault then m else (a, b) :: m)
    else (k, c) :: wrByte m a b

/-- `n` bytes from an address. -/
def rdBytes (m : Mem) (a n : Nat) : List Byte := (List.range n).map fun i => rdByte m (a + i)

/-- Writes bytes from an address. -/
def wrBytes (m : Mem) (a : Nat) : List Byte → Mem
  | [] => m
  | b :: bs => wrBytes (wrByte m a b) (a + 1) bs

/-- Clears `n` bytes from an address to zero. -/
def clrBytes (m : Mem) (a n : Nat) : Mem := m.filter fun c => !(decide (a ≤ c.1 ∧ c.1 < a + n))

/-- A little-endian number of `n` bytes at an address. -/
def rdNat (m : Mem) (a n : Nat) : Nat := leNat (rdBytes m a n)

/-- Writes a little-endian number of `n` bytes. -/
def wrNat (m : Mem) (a n v : Nat) : Mem := wrBytes m a (natLe n v)

/-- The canonical form: addresses strictly rise and no entry holds the default. -/
def Mem.wf (m : Mem) : Bool := (m.map (·.1)).Pairwise (· < ·) && m.all fun c => c.2 != memDefault

/-! ### Addresses -/

/-- The die field of an address (00 R12). -/
def dpaDie (a : Nat) : Nat := bitsOf a 47 45
/-- The tier bit: on-die. -/
def dpaOnDie (a : Nat) : Bool := bitOf a 44
/-- The region of an on-die address. -/
def dpaRegion (a : Nat) : Nat := bitsOf a 43 32
/-- The physical bay of an on-die address. -/
def dpaBay (a : Nat) : Nat := bitsOf a 31 24
/-- The byte within the bay's share. -/
def dpaByte (a : Nat) : Nat := bitsOf a 23 0

/-- The DPA of a byte of a bay's share of a region (00 R12). -/
def bayDpa (region die bay byte : Nat) : Nat := die <<< 45 + 1 <<< 44 + region <<< 32 + bay <<< 24 + byte
/-- The DPA of a byte of bay SRAM. -/
def sramDpa (die bay byte : Nat) : Nat := bayDpa 0 die bay byte

/-- Bytes of a bay's SRAM: 12 MiB (00 R13). -/
def sramSize : Nat := 0xC00000

/-- Compute dies of a variant (00 R1). -/
def Variant.dies : Variant → Nat
  | .xf202 => 2
  | .xf204 => 4
  | .xf208 => 8

/-- Columns of the die grid (01 R17). -/
def Variant.cols : Variant → Nat
  | .xf208 => 4
  | _ => 2

/-- The die-to-die links: every pair of dies adjacent in a row or in a column (01 R18). -/
def Variant.links (v : Variant) : List (Nat × Nat) :=
  (List.range v.dies).flatMap fun a =>
    (if (a + 1) % v.cols ≠ 0 then [(a, a + 1)] else []) ++ (if a + v.cols < v.dies then [(a, a + v.cols)] else [])

/-- The dies that traffic from one die to another passes: along the row first, then across rows (01 R18). -/
def Variant.diePath (v : Variant) (a b : Nat) : List Nat :=
  let x := a % v.cols
  let y := b % v.cols
  (if x ≤ y then (List.range (y - x + 1)).map (a + ·) else (List.range (x - y + 1)).map (a - ·)) ++
  (if a / v.cols = b / v.cols then [] else [b])

/-- Bytes of a region a bay has: SRAM, side memory with its status array, palette region (00 R13; 07 R176; 09 R235). -/
def regionSize (region : Nat) : Nat := match region with | 0 => sramSize | 1 => 0x18000 | 2 => 0x440 | _ => 0

/-- Populated LPDDR5X bytes of a die. -/
def State.lpddrOf (s : State) (die : Nat) : Nat := at' 0 s.part.lpddr die

/-- A byte that is not out of range under 00 R13; the control region is on the map. -/
def State.dpaOk (s : State) (a : Nat) : Bool :=
  decide (a < 2 ^ 48) && decide (dpaDie a < s.part.variant.dies) &&
  (if dpaOnDie a then
    (match dpaRegion a with
      | 0 => decide (dpaBay a < 132 ∧ dpaByte a < sramSize)
      | 1 => decide (dpaBay a < 132)
      | 2 => decide (dpaBay a < 132)
      | 0xFF => decide (dpaBay a < 132)
      | _ => false)
  else decide (bitsOf a 43 0 < s.lpddrOf (dpaDie a)))

/-- Every byte of a range is on the map: its first and last byte are, in one die, tier, region and bay. -/
def State.rangeOk (s : State) (a n : Nat) : Bool :=
  decide (n = 0) || (s.dpaOk a && s.dpaOk (a + n - 1) &&
    decide (if dpaOnDie a then a / 2 ^ 24 = (a + n - 1) / 2 ^ 24 else a / 2 ^ 44 = (a + n - 1) / 2 ^ 44))

end Sys2Proof.Machine
end

