-- ==== Sys2Proof/Machine/Ops.lean ====
section
/-! DEFINITION. The named operations over the state: units by number, grants, seal tables, events, freezes, the fault log,
vectors, management reports, and Span and Pier messages. -/

namespace Sys2Proof

/-- The key of a Span port SP0-SP15 or Pier port PL0-PL1 (16, 17). -/
def PortRef.key : PortRef → Nat
  | .sp n => n
  | .pl n => 16 + n

end Sys2Proof

namespace Sys2Proof.Machine

/-- What a command answers. -/
abbrev Outcome := Host.Outcome State Fault Refusal

/-! ### Units by number -/

/-- The key of a bay. -/
def bayKey (die bay : Nat) : Nat := die * 132 + bay

/-- A bay by die and physical number. -/
def State.bay (s : State) (die b : Nat) : Bay := mgetD {} s.bays (bayKey die b)
/-- Replaces a bay. -/
def State.setBay (s : State) (die b : Nat) (x : Bay) : State := { s with bays := mset s.bays (bayKey die b) x }
/-- Changes a bay. -/
def State.modBay (s : State) (die b : Nat) (f : Bay → Bay) : State := s.setBay die b (f (s.bay die b))
/-- A die. -/
def State.die (s : State) (d : Nat) : Die := mgetD {} s.dies d
/-- Replaces a die's tables. -/
def State.setDie (s : State) (d : Nat) (x : Die) : State := { s with dies := mset s.dies d x }
/-- Changes a die's tables. -/
def State.modDie (s : State) (d : Nat) (f : Die → Die) : State := s.setDie d (f (s.die d))
/-- Counts refusals of a resource for a standing (20 R481). -/
def State.countRefusal (s : State) (die resource standing : Nat) (n : Nat := 1) : State :=
  s.modDie die fun d =>
    { d with refusals := setAt d.refusals (resource * 3 + standing) ((at' 0 d.refusals (resource * 3 + standing) + n) % 2 ^ 64) }

/-- A mover by die and number. -/
def State.mover (s : State) (die m : Nat) : Mover := mgetD {} s.movers (die * 16 + m)
/-- Changes a mover. -/
def State.modMover (s : State) (die m : Nat) (f : Mover → Mover) : State :=
  { s with movers := mset s.movers (die * 16 + m) (f (s.mover die m)) }
/-- A host port. -/
def State.host (s : State) (p : Nat) : HostPort := at' {} s.hosts p
/-- Changes a host port. -/
def State.modHost (s : State) (p : Nat) (f : HostPort → HostPort) : State :=
  { s with hosts := setAt s.hosts p (f (s.host p)) }
/-- Changes a job that exists. -/
def State.modJob (s : State) (j : Nat) (f : Job → Job) : State := { s with jobs := mmod s.jobs j f }
/-- A reduction slot of a die. -/
def State.slot (s : State) (die n : Nat) : Slot := mgetD {} (s.die die).slots n
/-- Changes a reduction slot. -/
def State.modSlot (s : State) (die n : Nat) (f : Slot → Slot) : State :=
  s.modDie die fun d => { d with slots := mset d.slots n (f (mgetD {} d.slots n)) }

/-- A fabric port. -/
def State.port (s : State) (k : Nat) : Port := mgetD {} s.span.ports k
/-- Changes a fabric port. -/
def State.modPort (s : State) (k : Nat) (f : Port → Port) : State :=
  { s with span := { s.span with ports := mset s.span.ports k (f (s.port k)) } }

/-- Compute dies of the part. -/
def State.dieCount (s : State) : Nat := s.part.variant.dies

/-- The port exists on the variant (01 R19). -/
def State.portExists (s : State) (k : Nat) : Bool := decide (k < 2 * s.dieCount) || decide (k = 16 ∨ k = 17)

/-- The Viaduct port exists on the variant (01 R19). -/
def State.viaExists (s : State) (p : Nat) : Bool := decide (p = 0) || decide (p = 1 ∧ s.dieCount ≠ 2)

/-- The die of a host port (01 R19). -/
def State.hostDie (s : State) (p : Nat) : Nat := if p = 0 then 0 else match s.dieCount with | 2 => 1 | 4 => 3 | _ => 7

/-- The die of a Viaduct port (01 R19). -/
def State.viaDie (s : State) (p : Nat) : Nat := if p = 0 then 0 else s.dieCount / 2

/-- The part has reported ready and is not fenced: its units accept work. -/
def State.live (s : State) : Bool := decide (s.part.state = 2)

/-- The physical bay that holds a logical number (01 R21). -/
def State.phys (s : State) (die l : Nat) : Nat := at' 0xFF (s.die die).lmap l

/-- The logical number of a physical bay, if it has one. -/
def State.logical (s : State) (die b : Nat) : Option Nat := (s.die die).lmap.findIdx? (· == b)

/-- The physical bay group of a bay (01 R20). -/
def groupOf (b : Nat) : Nat :=
  if b < 17 then 0 else if b < 33 then 1 else if b < 50 then 2 else if b < 66 then 3
  else if b < 83 then 4 else if b < 99 then 5 else if b < 116 then 6 else 7

/-- The logical group of a physical bay (04 R109). -/
def State.lgroupOf (s : State) (die b : Nat) : Nat :=
  match s.logical die b with
  | some l => at' (groupOf b) (s.die die).lgroup l
  | none => groupOf b

/-- The key of a power domain of a die: 0 AON, 1 CTL, 2-9 BG0-BG7, 10 ATL, 11 MEM, 12 SER (19 R461). -/
def domKey (die idx : Nat) : Nat := die * 13 + idx

/-- The domain is on. -/
def State.domOn (s : State) (die idx : Nat) : Bool := mgetD .off s.power.doms (domKey die idx) == .on

/-- The store of an address can be reached: bay SRAM always, LPDDR5X while its die's MEM is on (19 R462, R463). -/
def State.memOn (s : State) (a : Nat) : Bool := dpaOnDie a || s.domOn (dpaDie a) 11

/-- An access that is held until the memory of an address wakes: MEM leaves self-refresh and is on (19 R463). DESIGN CHOICE: where the
command is the access itself, the wake is part of it, as the model leaves out how long it takes (log 29). -/
def State.memWake (s : State) (a : Nat) : State :=
  if s.memOn a then s
  else { s with power := { s.power with
    doms := mset s.power.doms (domKey (dpaDie a) 11) .on, selfRefresh := s.power.selfRefresh.filter (· != dpaDie a) } }

/-- The domain of a bay group. -/
def bgDom (g : Nat) : Nat := 2 + g

/-- The job a grant entry of a kind gives an item to, or none (17 R440). -/
def State.jobOfItem (s : State) (kind die item : Nat) : Option Nat :=
  (s.jobs.find? fun j => j.2.grants.any fun g =>
    g.kind == kind && (kind == 8 || g.die == die) && decide (g.first ≤ item ∧ item < g.first + g.count)).map (·.1)

/-- An item lies in the job's grants (17 R440). -/
def State.holds (s : State) (job kind die item : Nat) : Bool :=
  (mgetD {} s.jobs job).grants.any fun g =>
    g.kind == kind && (kind == 8 || g.die == die) && decide (g.first ≤ item ∧ item < g.first + g.count)

/-- Removes from a list of ranges what one range covers. -/
def cutRange (a n : Nat) (rs : List (Nat × Nat)) : List (Nat × Nat) :=
  rs.flatMap fun (x, m) =>
    if x + m ≤ a ∨ a + n ≤ x then [(x, m)]
    else (if x < a then [(x, a - x)] else []) ++ (if a + n < x + m then [(a + n, x + m - (a + n))] else [])

/-- Every byte of a range of LPDDR5X (kind 2) or host memory (kind 3) lies in the union of the job's entries (17 R440). -/
def State.holdsRange (s : State) (job kind die a n : Nat) : Bool :=
  let gs := (mgetD {} s.jobs job).grants.filter fun g => g.kind == kind && (if kind = 3 then g.die % 2 == die else g.die == die)
  (gs.foldl (fun rs g => cutRange g.base (g.count * 4096) rs) (if n = 0 then [] else [(a, n)])).isEmpty

/-- Every byte of a DPA range lies in the job's grants (16 R422, 14 R368). -/
def State.holdsDpa (s : State) (job a n : Nat) : Bool :=
  if dpaOnDie a then
    match s.logical (dpaDie a) (dpaBay a) with
    | some l => s.holds job 1 (dpaDie a) l
    | none => false
  else s.holdsRange job 2 (dpaDie a) (bitsOf a 43 0) n

/-! ### Seal tables (04 R96 to R100; 12 R312) -/

/-- A bounce buffer's entry (08 R210). -/
def Owner.isBounce : Owner → Bool
  | .bounce _ => true
  | _ => false

/-- Entries of a bay that a byte range reaches and that are not free. -/
def Bay.entsAt (b : Bay) (a n : Nat) : List SealEnt :=
  b.seals.filter fun e => e.state != .free && overlaps a n e.start e.bytes

/-- No byte of the range is wet or dry. -/
def Bay.freeAt (b : Bay) (a n : Nat) : Bool := (b.entsAt a n).isEmpty

/-- The lowest 256 B-aligned place of a bay where `n` free bytes fit; excluded units are not allocated (12 R316). -/
def Bay.fit (x : Bay) (n : Nat) : Option Nat :=
  let ends := ((x.seals.filter (·.state != .free)).map fun e => e.start + e.bytes) ++ x.excluded.map fun u => (u + 1) * 256
  ((0 :: ends).filter fun a => decide (a + n ≤ sramSize) && x.freeAt a n && x.excluded.all fun u => !overlaps a n (u * 256) 256).min?

/-- Every byte of the range lies in entries of one state. -/
def Bay.allAt (b : Bay) (st : SealState) (a n : Nat) : Bool :=
  (b.seals.foldl (fun rs e => if e.state = st then cutRange e.start e.bytes rs else rs) (if n = 0 then [] else [(a, n)])).isEmpty

/-- Every byte of the range lies in dry entries with no release pending. -/
def Bay.readable (b : Bay) (a n : Nat) : Bool :=
  (b.seals.foldl (fun rs e => if e.state = .dry && !e.release then cutRange e.start e.bytes rs else rs)
    (if n = 0 then [] else [(a, n)])).isEmpty

/-- Every byte of the range lies in wet entries of one owner. -/
def Bay.wetBy (b : Bay) (o : Owner) (a n : Nat) : Bool :=
  (b.seals.foldl (fun rs e => if e.state = .wet ∧ e.owner = o then cutRange e.start e.bytes rs else rs)
    (if n = 0 then [] else [(a, n)])).isEmpty

/-- Words of a region of a bay's stores that a write covers whole take new parity (04 R86). -/
def Bay.sound (b : Bay) (region a n : Nat) : Bay :=
  { b with bad := b.bad.filter fun w => !(w.1 == region && decide (a ≤ 4 * w.2 ∧ 4 * w.2 + 4 ≤ a + n)) }

/-- A byte lies in a word that fails parity (04 R86). -/
def State.badWord (s : State) (a : Nat) : Bool :=
  dpaOnDie a && (s.bay (dpaDie a) (dpaBay a)).bad.contains (dpaRegion a, dpaByte a / 4)

/-- A word of on-die store fails parity from now on (04 R86). -/
def State.markBad (s : State) (a : Nat) : State :=
  if dpaOnDie a && !s.badWord a then s.modBay (dpaDie a) (dpaBay a) fun x => { x with bad := x.bad ++ [(dpaRegion a, dpaByte a / 4)] } else s

/-- A write of `n` bytes at a DPA has set new parity in every word it covers whole (04 R86). -/
def State.wrote (s : State) (a n : Nat) : State :=
  if dpaOnDie a && !(s.bay (dpaDie a) (dpaBay a)).bad.isEmpty then s.modBay (dpaDie a) (dpaBay a) (·.sound (dpaRegion a) (dpaByte a) n) else s

/-- A read meets a word that fails parity, or a write would cover part of one (04 R86). -/
def State.meetsBad (s : State) (a n : Nat) (write : Bool) : Bool :=
  dpaOnDie a && (s.bay (dpaDie a) (dpaBay a)).bad.any fun w => w.1 == dpaRegion a && overlaps (dpaByte a) n (4 * w.2) 4 &&
    !(write && decide (dpaByte a ≤ 4 * w.2 ∧ 4 * w.2 + 4 ≤ dpaByte a + n))

/-- The range as whole 256 B units (04 R96). -/
def unitsOf (a n : Nat) : Nat × Nat := (alignDown a 256, alignUp (a + n) 256 - alignDown a 256)

/-- Registers a range in a state; free entries it covers are merged into it and their generations kept (12 R312). DESIGN CHOICE: a range
that becomes wet is written from then on, and its words pass parity again, which the spec lets them do at the first whole write (04 R86;
log 29). -/
def Bay.register (b : Bay) (a n : Nat) (st : SealState) (o : Owner) : Bay :=
  let (a, n) := unitsOf a n
  let g := (b.seals.filter fun e => overlaps a n e.start e.bytes).foldl (fun g e => max g e.gen) 0
  { b with
    seals := (b.seals.filter fun e => !(e.state == .free && overlaps a n e.start e.bytes)) ++
      [{ start := a, bytes := n, state := st, gen := g, owner := o }]
    bad := if st = .wet then (b.sound 0 a n).bad else b.bad }

/-- Changes the entries that satisfy a test. -/
def Bay.modSeals (b : Bay) (t : SealEnt → Bool) (f : SealEnt → SealEnt) : Bay :=
  { b with seals := b.seals.map fun e => if t e then f e else e }

/-- An entry becomes free; its generation advances (12 R312). -/
def SealEnt.freed (e : SealEnt) : SealEnt :=
  { e with state := .free, readers := 0, release := false, owner := .none, gen := (e.gen + 1) % 2 ^ 32 }

/-- An entry becomes dry, its producer kept, and free at once where a FREE node named it while wet (05 R138). -/
def SealEnt.dried (e : SealEnt) : SealEnt :=
  let e := { e with state := .dry }
  if e.release && e.readers == 0 then e.freed else e

/-- The dry entry a reader named, by its start and generation (04 R100; 12 R312). -/
def SealEnt.isRead (e : SealEnt) (y : Nat × Nat × Nat) : Bool := e.state == .dry && e.start == y.2.1 && e.gen == y.2.2

/-- One more reader of each entry named as (bay, start, generation) (04 R100). -/
def State.addReaders (s : State) (die : Nat) (ys : List (Nat × Nat × Nat)) : State :=
  ys.foldl (fun (s : State) y => s.modBay die y.1 (·.modSeals (·.isRead y) fun e => { e with readers := e.readers + 1 })) s

/-- One reader of each entry fewer; the count stays for SEAL_ENTRY_RELEASE to see (04 R100). -/
def State.dropReaders (s : State) (die : Nat) (ys : List (Nat × Nat × Nat)) : State :=
  ys.foldl (fun (s : State) y => s.modBay die y.1 (·.modSeals (·.isRead y) fun e => { e with readers := e.readers - 1 })) s

/-- The dry entries that ranges of a die's SRAM reach, as a reader names them: (bay, start, generation). -/
def State.readEnts (s : State) (die : Nat) (rs : List (Nat × Nat × Nat)) : List (Nat × Nat × Nat) :=
  (rs.flatMap fun r => ((s.bay die r.1).entsAt r.2.1 r.2.2).filterMap fun e =>
    if e.state = .dry then some (r.1, e.start, e.gen) else none).dedup

/-- Some entry the range reaches already has 65,535 readers (04 R100). -/
def Bay.readersFull (b : Bay) (a n : Nat) : Bool :=
  (b.entsAt a n).any fun e => decide (65535 ≤ e.readers)

/-- A DPA range in bay SRAM as (die, bay, byte); none for other stores. -/
def sramOf (a : Nat) : Option (Nat × Nat × Nat) :=
  if dpaOnDie a && dpaRegion a == 0 then some (dpaDie a, dpaBay a, dpaByte a) else none

/-- Changes the bay a DPA range lies in; nothing for LPDDR5X (08 R211). -/
def State.onSram (s : State) (a : Nat) (f : Nat → Bay → Bay) : State :=
  match sramOf a with
  | some (d, b, x) => s.modBay d b (f x)
  | none => s

/-! ### Registers the host and management see (16 R416, R419) -/

/-- KST_STATUS. -/
def State.kstStatus (s : State) : Nat :=
  s.ks.queue.length <<< 16 + s.ks.leader <<< 12 + s.ks.state <<< 8 + b2n s.ks.ideRequired <<< 7 +
  b2n s.ks.twinPresent <<< 6 + b2n (s.host 1).frozen <<< 1 + s.ks.primary

/-- KST_THERMAL. -/
def State.kstThermal (s : State) : Nat :=
  s.ks.tj <<< 16 + s.ks.hottest <<< 12 + b2n s.ks.trip <<< 1 + b2n (decide (s.ks.throttle < 16))

/-- HIF_STATUS of a port. -/
def State.hifStatus (s : State) (p : Nat) : Nat :=
  s.part.bootError <<< 16 + b2n ((s.port 16).up || (s.port 17).up) <<< 11 + b2n s.ks.ideRequired <<< 10 +
  b2n (decide (s.ks.primary = p) && s.live) <<< 9 + b2n (s.host (1 - p)).linkUp <<< 8 + s.part.stage <<< 4 +
  (if s.part.state = 2 ∧ (s.die (s.hostDie p)).fenced then 3 else s.part.state)

/-! ### Vectors and events (16 R424; 17 R438) -/

/-- Counts in a host-port counter of 16 R420. -/
def State.countHost (s : State) (p f : Nat) : State :=
  s.modHost p fun h => { h with counters := setAt h.counters f (satAdd 32 (at' 0 h.counters f) 1) }

/-- The vector is masked in the MSI-X table: bit 0 of its vector control word. -/
def HostPort.masked (h : HostPort) (v : Nat) : Bool := bitOf (mgetD 1 h.msixTable (v * 4 + 3)) 0

/-- Signals a vector: nothing while MSI-X is disabled, suppressed and counted while the function is frozen, pending while
masked or while the link is not usable (12 R329, 16 R424, R425). -/
def State.vector (s : State) (p v : Nat) : State :=
  let h := s.host p
  if !h.msixEnable then s
  else if h.frozen then s.countHost p 2
  else if h.masked v || !h.linkUp || h.d3hot || h.ideDown then
    s.modHost p fun h => { h with msixPending := if h.msixPending.contains v then h.msixPending else h.msixPending ++ [v] }
  else { s with out := { s.out with msix := s.out.msix ++ [(p, v)] } }

/-- EV_FENCED, EV_TAKEOVER, EV_PRIMARY_CHANGED and EV_FREEZE are urgent (17 R439). -/
def isUrgent (code : Nat) : Bool := [evFenced, evTakeover, evPrimary, evFreeze].contains code

/-- Queues an event at one port (17 R438). -/
def State.eventAt (s : State) (p code job die status : Nat) (data : List Byte) : State :=
  let h := s.host p
  if !bitOf h.ctrl 1 then s.countHost p 5
  else
    let u := isUrgent code
    let room := 1024 - h.events.length
    if room = 0 ∨ (!u ∧ room ≤ 32) then s.modHost p fun h => { h with lost := min 65535 (h.lost + 1) }
    else
      let e : Event := ⟨code, job, die, u, status, s.part.tai, h.eventSeq, h.lost, sub data 0 64⟩
      let wasEmpty := h.events.isEmpty
      let s := s.modHost p fun h => { h with events := h.events ++ [e], eventSeq := (h.eventSeq + 1) % 2 ^ 32, lost := 0 }
      let s := if wasEmpty then s.vector p 32 else s
      if u then s.vector p 33 else s

/-- Queues an event at several ports. -/
def State.eventPorts (s : State) (ps : List Nat) (code job die status : Nat) (data : List Byte) : State :=
  ps.foldl (fun s p => s.eventAt p code job die status data) s

/-- The ports of a job's host mask. -/
def State.jobPorts (s : State) (job : Nat) : List Nat := [0, 1].filter fun p => bitOf (mgetD {} s.jobs job).mask p

/-- Raises an event: of a job to its ports, of no job to the primary port, some to both (17 R438). -/
def State.event (s : State) (code job die status : Nat) (data : List Byte) : State :=
  let both := code = evFenced ∨ code = evTakeover ∨ code = evPrimary ∨ (code = evFreeze ∧ job = 0)
  s.eventPorts (if both then [0, 1] else if job = 0 then [s.ks.primary] else s.jobPorts job) code job die status data

/-! ### The fault log and management messages (18 R457, R459, R460) -/

/-- The 64 bytes of a fault record (18 R459). -/
def FaultRec.bytes (r : FaultRec) : List Byte :=
  pack [(4, r.index), (1, r.detector), (1, r.level), (1, r.action), (1, r.die), (8, r.tai), (2, r.status), (2, r.job),
    (2, r.unit), (2, 0), (4, r.seq), (4, r.enclosing), (8, r.address)] ++ sub r.detail 0 24

/-- A management message the part sends: a reply or report, signed by the identity key (18 R457). -/
def State.mgmtMsg (s : State) (code status : Nat) (nonce body : List Byte) : List Byte :=
  let m := pack [(4, 0x4D54534B), (1, 1), (1, code), (2, body.length), (8, (s.ks.record.map (·.serial)).getD 0)] ++
    sub nonce 0 32 ++ pack [(2, status)] ++ zeros 14 ++ body
  m ++ Config.identitySign m

/-- Sends a management message, or holds it until the identity key exists (18 R458, R460). -/
def State.mgmtSend (s : State) (code status : Nat) (nonce body : List Byte) : State :=
  if s.ks.identityOk then { s with out := { s.out with mgmt := s.out.mgmt ++ [s.mgmtMsg code status nonce body] } }
  else { s with ks := { s.ks with reportsHeld := s.ks.reportsHeld ++ [natLe 1 code ++ natLe 2 status ++ sub nonce 0 32 ++ body] } }

/-- Sends the held messages once the identity key exists. -/
def State.mgmtRelease (s : State) : State :=
  if s.ks.identityOk then
    let hs := s.ks.reportsHeld
    let s := { s with ks := { s.ks with reportsHeld := [] } }
    hs.foldl (fun s h => s.mgmtSend (fld h 0 1) (fld h 1 2) (sub h 3 32) (h.drop 35)) s
  else s

/-- Logs a fault record, reports it where fewer than 200 reports went in the last second or the part fail-stops, and raises EV_FAULT for
a detected fault (18 R459, R460; 17 R439). -/
def State.logFault (s : State) (r : FaultRec) : State :=
  let r := { r with index := s.ks.faultsLogged, tai := s.part.tai }
  let now := decide (3 ≤ r.level) || r.action == 4 || r.action == 6
  let sent := s.ks.reportTimes.filter fun t => decide (s.part.tai < t + 10 ^ 9)
  let drop := r.action != 6 && decide (200 ≤ sent.length)
  let ks := { s.ks with
    faultsLogged := satAdd 32 s.ks.faultsLogged 1
    faultLog := (s.ks.faultLog ++ [r]).drop (s.ks.faultLog.length + 1 - 4096)
    unflushed := if now then s.ks.unflushed else s.ks.unflushed ++ [r]
    flash := if now then { s.ks.flash with
      log := (s.ks.flash.log ++ [r]).drop (s.ks.flash.log.length + 1 - 131072), logCount := s.ks.flash.logCount + 1 }
      else s.ks.flash
    reportSeq := if drop then s.ks.reportSeq else (s.ks.reportSeq + 1) % 2 ^ 32
    reportDrops := if drop then satAdd 16 s.ks.reportDrops 1 else 0
    reportTimes := if drop then sent else sent ++ [s.part.tai] }
  let body := pack [(4, s.ks.reportSeq), (2, s.ks.reportDrops), (2, 0)] ++ r.bytes ++ natLe 4 s.kstStatus
  let s := { s with ks := ks }
  let s := if drop then s else s.mgmtSend 0x80 0 [] body
  if 1 ≤ r.detector ∧ r.detector ≤ 12 then
    s.event evFault r.job r.die r.status (pack [(1, r.level), (1, r.action), (2, r.index)])
  else s

/-! ### Freezes (12 R326 to R330) -/

/-- A master word (12 R328). -/
def masterWord (kind die index : Nat) : Nat := kind <<< 28 + die <<< 24 + index

/-- The 64 bytes of a freeze record (12 R328). -/
def Freeze.bytes (f : Freeze) : List Byte :=
  pack [(4, f.master), (2, f.job), (2, f.reason), (8, f.time), (8, f.address), (4, f.journalSeq), (2, f.instr), (2, 0)] ++
  sub f.request 0 32

/-- The master is frozen. -/
def State.isFrozen (s : State) (master : Nat) : Bool := (mget s.ks.freezes master).isSome

/-- Freezes a master: the record, the count of its job, the fault log and EV_FREEZE (12 R328; 18 R459). A master already frozen
issues nothing. -/
def State.freeze (s : State) (f : Freeze) : State :=
  if s.isFrozen f.master then s
  else
    let f := { f with time := s.part.tai }
    let kind := f.master >>> 28
    let die := bitsOf f.master 27 24
    let s := { s with ks := { s.ks with freezes := mset s.ks.freezes f.master f } }
    let s := s.modJob f.job fun j => { j with freezes := satAdd 32 j.freezes 1 }
    let s := if kind = 7 then s.modHost (f.master % 2 ^ 24) fun h => { h with frozen := true, downSince := some s.part.tai } else s
    let r : FaultRec := ⟨0, 0x20, if kind = 1 then 1 else 2, Config.violationAction, die, 0, f.reason, f.job, f.master % 2 ^ 16,
      f.journalSeq, 0, f.address, []⟩
    let s := s.logFault r
    s.event evFreeze (if kind = 7 then 0 else f.job) die f.reason f.bytes


/-! ### Messages (14 R364 to R377) -/

/-- A message of the Pier link (14 R253, R376). -/
def isPier (kind : Nat) : Bool := decide ((0x0A ≤ kind ∧ kind ≤ 0x0C) ∨ (0x60 ≤ kind ∧ kind ≤ 0x66))

/-- Sends what the port can send now; a part that has fail-stopped transmits only idle (12 R324). -/
def State.pumpPort (s : State) (k : Nat) : State :=
  let p := s.port k
  let n := (p.tx.map fun ms => (ms.map (·.bytes.length)).foldl (· + ·) 0).foldl (· + ·) 0 / 256
  let (q, fs) := p.sendFlits n
  if fs.isEmpty ∨ s.part.state = 3 then s
  else
    let s := s.modPort k fun _ => q
    { s with out := { s.out with flits := s.out.flits ++ fs.map fun f => (k, f) } }

/-- A message leaves on a port: its bytes join the port's channel-class (14 R356, R359); 254 is the part itself. -/
def State.transmit (s : State) (w : Wire) : State :=
  let s : State := { s with out := { s.out with wire := s.out.wire ++ [w] } }
  if 18 ≤ w.port then s
  else (s.modPort w.port fun p => p.queueTx (vcOf w.kind * 2 + w.cls) (rankOf w.kind w.flags) w.bytes).pumpPort w.port

/-- The Span port and class a message to a node leaves by: the primary, or the alternate while the primary is down (14 R361, R362);
port 254 for this part itself, none where the entry is invalid or both ports are down. -/
def State.routePort (s : State) (dst : Nat) : Option (Nat × Nat) :=
  if s.part.node = some dst then some (254, 0)
  else
    let e := mgetD 0 s.span.route dst
    if !bitOf e 15 then none
    else if bitOf e 14 then some (254, 0)
    else if (s.port (bitsOf e 3 0)).up then some (bitsOf e 3 0, b2n (bitOf e 12))
    else if (s.port (bitsOf e 7 4)).up then some (bitsOf e 7 4, b2n (bitOf e 13))
    else none

/-- The port and class of a message: Pier messages by channel, over the other Pier port or Span while ports are down (14 R375). -/
def State.portFor (s : State) (kind dst : Nat) : Option (Nat × Nat) :=
  if isPier kind || (kind == 0x30 && s.part.twinNode == some dst && ((s.port 16).up || (s.port 17).up)) then
    let want := if vcOf kind ≤ 1 then 17 else 16
    let other := 33 - want
    if (s.port want).up then some (want, 0) else if (s.port other).up then some (other, 0) else s.routePort dst
  else s.routePort dst

/-- The response header (14 R367). -/
def respHeader (job status transfer pos count seq kind : Nat) : List Byte :=
  pack [(2, job), (2, status), (4, transfer), (4, pos), (4, count), (2, seq), (1, kind)] ++ zeros 13

/-- The response header fields that a request's body is answered with: job, transfer, position, count (14 R367). -/
def bodyFields (kind : Nat) (body : List Byte) : Nat × Nat × Nat × Nat :=
  if vcOf kind = 0 ∧ kind < 0x60 then (fld body 0 2, fld body 12 4, fld body 4 4, fld body 8 4)
  else if vcOf kind = 2 ∧ kind < 0x20 then (fld body 4 2, fld body 28 4, 0, 0)
  else (fld body 0 2, 0, 0, 0)

/-- This part discards a message of its own and, where the message is sequenced, tells itself so by a NAK (14 R362, R374). -/
def State.unsent (s : State) (kind seq status : Nat) (body : List Byte) : State :=
  let s : State := { s with span := { s.span with discarded := s.span.discarded + 1 } }
  if vcOf kind = 0 ∨ vcOf kind = 2 then
    let (j, t, p, c) := bodyFields kind body
    let me := s.part.node.getD 0xFFF
    s.transmit ⟨254, 0, 0x16, 0, me, me, 0, 0, respHeader j status t p c seq kind⟩
  else s

/-- Sends a message of this part; a part without a node ID sends none (14 R360), and one for a fenced node or without a path is discarded
and counted, and its source told (14 R362, R374). -/
def State.emit (s : State) (kind flags dst seq : Nat) (body : List Byte) : State :=
  if s.part.node.isNone then { s with span := { s.span with discarded := s.span.discarded + 1 } }
  else if s.part.fencedNodes.contains dst then s.unsent kind seq stFenced body
  else match s.portFor kind dst with
    | some (p, c) => s.transmit ⟨p, c, kind, flags, dst, s.part.node.getD 0xFFF, 0, seq, body⟩
    | none => s.unsent kind seq stRange body

/-- The key of a destination or source and a channel. -/
def chanKey (node vc : Nat) : Nat := node * 4 + vc

/-- Sends a message: sequenced on the request and collective channels, where at most 256 per destination and channel are
unanswered and the rest wait (14 R366). `ctx` says what its answer completes. -/
def State.send (s : State) (kind dst die : Nat) (body : List Byte) (ctx : List Nat := []) : State :=
  let vc := vcOf kind
  if vc = 0 ∨ vc = 2 then
    let k := chanKey dst vc
    let n := mgetD 0 s.span.nextSeq k
    let u := mgetD [] s.span.unacked k
    let s := { s with span := { s.span with nextSeq := mset s.span.nextSeq k ((n + 1) % 65536), unacked := mset s.span.unacked k (u ++ [{ seq := n, kind := kind, die := die, body := body, ctx := ctx }]) } }
    if u.length < 256 then s.emit kind 0 dst n body else s
  else s.emit kind 0 dst 0 body

/-- How a receiver answers a message: an acknowledgement, another type of answer, a refusal, a refusal that does not accept the
message (ST_DEFERRED, 14 R366), no answer yet, or data already sent. -/
inductive Answer where
  | ack (status : Nat)
  | ackAs (kind status : Nat)
  | nak (status : Nat)
  | notTaken
  | silent
  | served
deriving DecidableEq, Repr

/-- The response header fields a request is answered with: job, transfer, position, count. -/
def reqFields (m : SpanMsg) : Nat × Nat × Nat × Nat := bodyFields m.kind m.body

/-- Sends the answer to a message (14 R365 to R367). -/
def State.answer (s : State) (m : SpanMsg) (kind status : Nat) : State :=
  let (j, t, p, c) := reqFields m
  s.emit kind 0 m.src 0 (respHeader j status t p c m.seq m.kind)

/-- Records the answer a sequenced message was given, and that the next is expected (14 R366). -/
def State.consume (s : State) (m : SpanMsg) (kind status : Nat) : State :=
  let k := chanKey m.src (vcOf m.kind)
  let old := mgetD [] s.span.answers k
  { s with span := { s.span with
      expect := mset s.span.expect k ((m.seq + 1) % 65536)
      answers := mset s.span.answers k ((mset old m.seq (kind * 65536 + status)).drop (old.length - 255)) } }

/-- Accepts a sequenced message whose answer comes later. -/
def State.expectNext (s : State) (m : SpanMsg) : State :=
  { s with span := { s.span with expect := mset s.span.expect (chanKey m.src (vcOf m.kind)) ((m.seq + 1) % 65536) } }

/-- Counts a message that a port received and the part discards (00 R11; 14 R365); 254 is no port. -/
def State.discardOn (s : State) (k : Nat) : State :=
  let s : State := { s with span := { s.span with discarded := s.span.discarded + 1 } }
  if k < 18 then s.modPort k fun p => { p with discarded := satAdd 32 p.discarded 1 } else s

/-- Counts a discarded message at the port it came by. DESIGN CHOICE: a command that names no port counts at the port that leads to the
message's source (log 29). -/
def State.discardMsg (s : State) (m : SpanMsg) : State := s.discardOn (((s.portFor m.kind m.src).map (·.1)).getD 254)


/-- What an accepted message's answer does: an acknowledgement or another answer is recorded and sent; a message that is not taken is
answered ST_DEFERRED and its number stays expected; one answered later is only expected past; data that left is recorded as the
answer (14 R366). -/
def State.answerWith (s : State) (m : SpanMsg) (kind : Nat) (a : Answer) : State :=
  let sequenced := vcOf kind = 0 ∨ vcOf kind = 2
  match a with
  | .ack st => if sequenced then (s.consume m 0x30 st).answer m 0x30 st else s
  | .ackAs kd st => (if sequenced then s.consume m kd st else s).answer m kd st
  | .nak st => (if sequenced then s.consume m 0x16 st else s).answer m 0x16 st
  | .notTaken => s.answer m 0x16 stDeferred
  | .silent => if sequenced then s.expectNext m else s
  | .served => if sequenced then s.consume m 0x13 0 else s

/-- Receives a message of a type at this part: ecrc, envelope and body form, end-to-end sequence, then its effect and its answer
(14 R364 to R366; 00 R11). A message of another type is not this event. `dup` answers a duplicate whose answer was data. -/
def State.recv (s : State) (die kind : Nat) (m : SpanMsg) (bodyOk : Bool) (f : State → State × Answer)
    (dup : State → State := id) : State :=
  if !s.live ∨ m.kind ≠ kind ∨ s.dieCount ≤ die ∨ s.part.node.isNone then s
  else if !m.ecrcOk then s.discardMsg m
  else
    let vc := vcOf kind
    let sequenced := vc = 0 ∨ vc = 2
    let k := chanKey m.src vc
    let e := mgetD 0 s.span.expect k
    if sequenced ∧ m.seq ≠ e then
      -- an earlier number is a duplicate, answered again with the same status; a later one is discarded unanswered
      if (e + 65536 - m.seq) % 65536 ≤ 32768 then
        match mget (mgetD [] s.span.answers k) m.seq with
        | some a => if a / 65536 = 0x13 then dup s else s.answer m (a / 65536) (a % 65536)
        | none => s
      else s
    else if !bodyOk || decide (4 ≤ m.flags) then
      let s := s.discardMsg m
      if sequenced then (s.consume m 0x16 stMalformed).answer m 0x16 stMalformed else s
    else
      (f s).1.answerWith m kind (f s).2

/-- Takes a message off the unanswered list when its answer arrives; the next waiting one leaves (14 R366). -/
def State.acked (s : State) (node vc seq : Nat) : State :=
  let k := chanKey node vc
  let u := mgetD [] s.span.unacked k
  let u' := u.filter fun x => x.seq != seq
  let s := { s with span := { s.span with unacked := mset s.span.unacked k u' } }
  if u'.length < u.length then
    match u'[255]? with
    | some x => s.emit x.kind 0 node x.seq x.body
    | none => s
  else s

/-! ### Host memory (16 R414, R425, R427) -/

/-- The port can carry requests of the part: link up, not D3hot, not frozen, and keyed where IDE is required (16 R425, R427). -/
def HostPort.usable (h : HostPort) (ide : Bool) : Bool :=
  h.linkUp && !h.d3hot && !h.frozen && !h.ideDown && (!ide || !h.ideSecure.isEmpty)

/-- Writes host memory over a port. -/
def State.hostWrite (s : State) (p addr : Nat) (bs : List Byte) : State :=
  { s with out := { s.out with hostWr := s.out.hostWr ++ [(p, addr, bs)] } }

/-- Completes a host read. -/
def State.complete (s : State) (p : Nat) (d : Option (List Byte)) : State :=
  let s := { s with out := { s.out with cpl := s.out.cpl ++ [{ port := p, data := d }] } }
  if d.isNone then s.countHost p 0 else s

/-! ### Saturating counters -/

/-- Adds events to the fast counters invalid, divide_by_zero, overflow, underflow (02 R57). -/
def addExc (c : List Nat) (x : Exc) : List Nat :=
  List.zipWith (satAdd 32) c [x.inv, x.dz, x.ov, x.uf]

/-- Raises strict flags (02 R59). -/
def orStrict (f : Nat) (x : Exc) : Nat :=
  f ||| (b2n (decide (0 < x.inv)) + 2 * b2n (decide (0 < x.dz)) + 4 * b2n (decide (0 < x.ov)) + 8 * b2n (decide (0 < x.uf)) +
    16 * b2n (decide (0 < x.nx)))

/-! ### Rounds (15 R398) -/

/-- The round of a job at a TAI (15 R398). -/
def Outer.roundAt (o : Outer) (tai : Nat) : Nat := tai / (o.period * 10 ^ 6)

/-- The outer configuration of a session's or fragment's job. -/
def State.outer (s : State) (job : Nat) : Outer := ((mgetD {} s.jobs job).outer).getD {}

/-- The current round of a job. -/
def State.round (s : State) (job : Nat) : Nat := (s.outer job).roundAt s.part.tai

end Sys2Proof.Machine
end

