-- ==== Sys2Proof/WellFormed.lean ====
section
/-! DEFINITION. Well-formed stroke instructions: the opcode tables of chapters 05 to 07 as rows, and the static rules of 05 R112,
R115, R116, 02 R58, R60 and 06 R164 over one instruction word; the operand ranges of the other commands. -/

namespace Sys2Proof

/-- The register file a field names (05 R115). -/
inductive RegFile where
  | none
  | v
  | s
  | p
deriving DecidableEq, Repr

/-- Where the modifier stands (05 R116). -/
inductive ModPlace where
  | none
  | field
  | imm
deriving DecidableEq, Repr

/-- One row of an opcode table: fields' register files, modifier, whether STRICT and a predicate may be carried, and the
immediate bits that have a meaning. -/
structure OpInfo where
  op : Nat
  dst : RegFile
  src1 : RegFile
  src2 : RegFile
  src3 : RegFile
  mod : ModPlace
  strict : Bool
  pred : Bool
  imm : Nat
deriving DecidableEq, Repr

/-- Control, matrix, memory, mover, Span, accumulate-store and summary opcodes (05 R118 to R130). -/
def opTableControl : List OpInfo := [
  ⟨0x00, .none, .none, .none, .none, .none, false, false, 0⟩,
  ⟨0x0F, .none, .none, .none, .none, .none, false, false, 0xFFFF⟩,
  ⟨0x10, .s, .s, .s, .s, .none, false, false, 0xFFFFFF00⟩,
  ⟨0x11, .s, .s, .s, .s, .none, false, false, 0xFFFFFF00⟩,
  ⟨0x12, .s, .s, .s, .s, .none, false, false, 0xFFFFFF00⟩,
  ⟨0x13, .s, .s, .s, .s, .none, false, false, 0xFFFFFF00⟩,
  ⟨0x14, .s, .s, .s, .s, .none, false, false, 0xFFFFFF00⟩,
  ⟨0x15, .s, .s, .s, .s, .none, false, false, 0xFFFFFF00⟩,
  ⟨0x16, .s, .s, .s, .s, .none, false, false, 0xFFFFFF00⟩,
  ⟨0x17, .s, .s, .s, .s, .none, false, false, 0xFFFFFF00⟩,
  ⟨0x90, .v, .s, .none, .none, .field, false, true, 0x1FF⟩,
  ⟨0x91, .s, .s, .none, .none, .none, false, false, 0xFF⟩,
  ⟨0x95, .s, .none, .none, .none, .none, false, false, 0x7⟩,
  ⟨0x98, .none, .v, .s, .none, .field, false, true, 0x1FF⟩,
  ⟨0x99, .none, .s, .s, .none, .none, false, false, 0xFF⟩,
  ⟨0xA0, .none, .s, .s, .s, .none, false, false, 0xFFFFFF01⟩,
  ⟨0xA1, .none, .s, .s, .s, .none, false, false, 0xFFFFFF01⟩,
  ⟨0xA2, .none, .s, .s, .s, .none, false, false, 0xFFFFFF01⟩,
  ⟨0xA3, .none, .s, .s, .s, .none, false, false, 0xFFFFFF01⟩,
  ⟨0xA4, .none, .s, .s, .s, .none, false, false, 0xFFFFFF01⟩,
  ⟨0xA5, .none, .s, .s, .s, .none, false, false, 0xFFFFFF01⟩,
  ⟨0xA6, .none, .s, .s, .s, .none, false, false, 0xFFFFFF01⟩,
  ⟨0xB0, .none, .s, .s, .s, .none, false, false, 0xFFFF0000⟩,
  ⟨0xB1, .none, .s, .s, .s, .none, false, false, 0xFFFF0000⟩,
  ⟨0xB2, .none, .s, .s, .s, .none, false, false, 0xFFFF0FFF⟩,
  ⟨0xC0, .none, .v, .s, .none, .field, false, true, 0xFF⟩,
  ⟨0xC1, .none, .s, .s, .none, .none, false, false, 0xFFFF⟩,
  ⟨0xC8, .none, .s, .none, .none, .none, false, false, 0x3F⟩,
  ⟨0xC9, .none, .none, .none, .none, .none, false, false, 0x0FFFFF3F⟩,
  ⟨0xCA, .none, .none, .none, .none, .none, false, false, 0x73F⟩]

/-- Vector and scalar arithmetic (06 R149 to R155). -/
def opTableVector : List OpInfo := [
  ⟨0x20, .v, .v, .v, .none, .field, true, true, 0⟩,
  ⟨0x21, .v, .v, .v, .none, .field, true, true, 0⟩,
  ⟨0x22, .v, .v, .v, .none, .field, true, true, 0⟩,
  ⟨0x23, .v, .v, .v, .v, .imm, true, true, 0⟩,
  ⟨0x24, .v, .v, .v, .v, .imm, true, true, 0⟩,
  ⟨0x25, .v, .v, .v, .none, .field, true, true, 0⟩,
  ⟨0x26, .v, .v, .v, .none, .field, true, true, 0⟩,
  ⟨0x27, .v, .v, .none, .none, .field, true, true, 0⟩,
  ⟨0x28, .v, .v, .none, .none, .field, true, true, 0⟩,
  ⟨0x29, .v, .v, .none, .none, .field, true, true, 0⟩,
  ⟨0x2A, .v, .v, .none, .none, .field, true, true, 0⟩,
  ⟨0x2B, .p, .v, .v, .none, .field, true, true, 7⟩,
  ⟨0x2C, .v, .v, .v, .p, .imm, true, true, 0⟩,
  ⟨0x30, .v, .v, .v, .none, .field, false, true, 0⟩,
  ⟨0x31, .v, .v, .v, .none, .field, false, true, 0⟩,
  ⟨0x32, .v, .v, .v, .none, .field, false, true, 0⟩,
  ⟨0x33, .v, .v, .v, .none, .field, false, true, 0⟩,
  ⟨0x34, .v, .v, .v, .none, .field, false, true, 0⟩,
  ⟨0x35, .v, .v, .v, .none, .field, false, true, 0⟩,
  ⟨0x36, .v, .v, .v, .none, .field, false, true, 0⟩,
  ⟨0x37, .v, .v, .v, .none, .field, false, true, 0⟩,
  ⟨0x38, .v, .v, .v, .none, .field, false, true, 0⟩,
  ⟨0x39, .v, .v, .v, .none, .field, false, true, 0⟩,
  ⟨0x3A, .v, .v, .v, .none, .field, false, true, 0⟩,
  ⟨0x3B, .v, .v, .v, .none, .field, false, true, 0⟩,
  ⟨0x3C, .v, .v, .v, .none, .field, false, true, 0⟩,
  ⟨0x3D, .p, .v, .v, .none, .field, false, true, 7⟩,
  ⟨0x3E, .v, .none, .none, .none, .field, false, true, 0xFFFFFFFF⟩,
  ⟨0x3F, .v, .s, .none, .none, .field, false, true, 0⟩,
  ⟨0x40, .s, .none, .none, .none, .none, false, false, 0xFFFFFFFF⟩,
  ⟨0x41, .s, .s, .none, .none, .none, false, false, 0xFFFFFFFF⟩,
  ⟨0x42, .s, .s, .s, .none, .none, false, false, 0⟩,
  ⟨0x43, .s, .s, .s, .none, .none, false, false, 0⟩,
  ⟨0x44, .s, .s, .s, .none, .none, false, false, 0⟩,
  ⟨0x45, .s, .s, .s, .none, .none, false, false, 0⟩,
  ⟨0x46, .s, .s, .s, .none, .none, false, false, 0⟩,
  ⟨0x47, .s, .s, .s, .none, .none, false, false, 0⟩,
  ⟨0x48, .s, .s, .none, .none, .none, false, false, 0x1F⟩,
  ⟨0x49, .s, .s, .none, .none, .none, false, false, 0x1F⟩,
  ⟨0x4A, .s, .s, .s, .none, .field, true, false, 0⟩,
  ⟨0x4B, .s, .s, .s, .none, .field, true, false, 0⟩,
  ⟨0x4C, .s, .s, .s, .s, .imm, true, false, 0⟩,
  ⟨0x4D, .s, .s, .s, .none, .field, true, false, 0⟩,
  ⟨0x4E, .s, .s, .s, .none, .field, true, false, 0⟩,
  ⟨0x4F, .s, .v, .none, .none, .none, false, false, 0x3F⟩]

/-- Reductions, permutes, predicates, random numbers, look-up, conversion (06 R156 to R168) and row engine (07 R173). -/
def opTableRest : List OpInfo := [
  ⟨0x50, .s, .v, .none, .none, .field, true, true, 0⟩,
  ⟨0x51, .s, .v, .none, .none, .field, true, true, 0⟩,
  ⟨0x52, .s, .v, .none, .none, .field, true, true, 0⟩,
  ⟨0x53, .s, .v, .none, .none, .field, true, true, 0⟩,
  ⟨0x54, .s, .v, .none, .none, .field, false, true, 0⟩,
  ⟨0x55, .v, .v, .v, .none, .field, false, true, 0⟩,
  ⟨0x56, .v, .v, .none, .none, .field, false, true, 0x3F⟩,
  ⟨0x57, .p, .p, .p, .none, .field, false, true, 3⟩,
  ⟨0x58, .p, .s, .none, .none, .none, false, false, 0⟩,
  ⟨0x59, .s, .p, .none, .none, .none, false, false, 0⟩,
  ⟨0x5C, .v, .s, .s, .s, .imm, false, true, 0⟩,
  ⟨0x5D, .v, .s, .s, .s, .imm, false, true, 0⟩,
  ⟨0x60, .v, .v, .none, .none, .field, false, true, 1⟩,
  ⟨0x61, .v, .v, .none, .none, .field, false, true, 1⟩,
  ⟨0x62, .v, .v, .none, .none, .field, false, true, 1⟩,
  ⟨0x63, .v, .v, .none, .none, .field, false, true, 1⟩,
  ⟨0x64, .v, .v, .none, .none, .field, false, true, 1⟩,
  ⟨0x68, .none, .s, .s, .none, .none, false, false, 0x00FF1FFF⟩,
  ⟨0x69, .v, .v, .none, .none, .field, false, true, 3⟩,
  ⟨0x70, .v, .v, .none, .none, .field, true, true, 0x7FF⟩,
  ⟨0x71, .v, .v, .v, .v, .none, false, false, 0xFFFFF0FF⟩,
  ⟨0x72, .v, .v, .v, .none, .none, false, false, 0xFFFFF0FF⟩,
  ⟨0x73, .none, .s, .none, .none, .none, false, false, 1⟩,
  ⟨0x74, .s, .s, .none, .none, .none, false, false, 0⟩,
  ⟨0x75, .s, .none, .none, .none, .none, false, false, 0xFF⟩,
  ⟨0x76, .none, .none, .none, .none, .none, false, false, 0xFFFF⟩,
  ⟨0x80, .none, .none, .none, .none, .none, false, false, 0xFFFFFFE3⟩,
  ⟨0x81, .none, .s, .none, .none, .none, false, false, 7⟩,
  ⟨0x82, .s, .s, .s, .none, .none, false, false, 1⟩,
  ⟨0x83, .s, .s, .s, .none, .none, false, false, 1⟩,
  ⟨0x84, .s, .s, .s, .none, .none, false, false, 1⟩,
  ⟨0x85, .s, .s, .s, .none, .none, false, false, 1⟩,
  ⟨0x86, .s, .s, .s, .none, .none, false, false, 3⟩,
  ⟨0x87, .s, .s, .s, .none, .none, false, false, 7⟩,
  ⟨0x88, .s, .s, .s, .none, .none, false, false, 3⟩,
  ⟨0x89, .none, .s, .s, .none, .none, false, false, 7⟩,
  ⟨0x8A, .none, .s, .s, .none, .none, false, false, 7⟩,
  ⟨0x8B, .none, .s, .s, .none, .none, false, false, 0x1F⟩,
  ⟨0x8C, .none, .s, .s, .none, .none, false, false, 0x1F⟩,
  ⟨0x8D, .none, .p, .s, .none, .none, false, false, 0xFF⟩,
  ⟨0x8E, .p, .s, .none, .none, .none, false, false, 0xFF⟩,
  ⟨0x8F, .s, .none, .none, .none, .none, false, false, 3⟩]

/-- Every defined opcode (05 R117). -/
def opTable : List OpInfo := opTableControl ++ opTableVector ++ opTableRest

/-- The row of an opcode. -/
def opInfo (op : Nat) : Option OpInfo := opTable.find? (·.op == op)

/-- A field names an existing register of its file, or is 0 where the opcode leaves it unused (05 R115). -/
def regOk (r : RegFile) (f : BitVec 6) : Bool :=
  match r with
  | .none => f == 0
  | .v => true
  | .s => decide (f.toNat < 32)
  | .p => decide (f.toNat < 8)

/-- The six modifier bits of an instruction whose row places them (05 R116). -/
def modBits (p : ModPlace) (f : Fields) : Nat :=
  match p with
  | .none => 0
  | .field => f.src3.toNat
  | .imm => f.imm.toNat >>> 26

/-- The modifier's STRICT bit, rounding direction and predicate are legal for the opcode (02 R58, R60; 06 R148). -/
def modOk (o : OpInfo) (f : Fields) : Bool :=
  let m := modBits o.mod f
  let strict := m.testBit 5
  let rnd := m >>> 3 % 4
  (!strict || o.strict) && (rnd == 0 || strict || (o.op == 0x70 && f.imm.toNat % 16 == 9)) && (m % 8 == 0 || o.pred)

/-- Element positions of a format that a 256 B register holds (06 R144). -/
def regElems (fmt : Nat) : Nat :=
  match fmt with
  | 0 => 64 | 9 => 64 | 1 => 128 | 2 => 128 | 7 => 512 | 10 => 32 | _ => 256

/-- Formats with side data: MX and BX64. -/
def fmtSide (fmt : Nat) : Bool := decide (3 ≤ fmt ∧ fmt ≤ 8) || fmt == 10

/-- Elements of a conversion group (06 R161). -/
def groupSize (sfmt tfmt : Nat) : Nat := if sfmt = 10 ∨ tfmt = 10 then 32 else 64

/-- 06 R160, R164: the fields of CVT. -/
def cvtOk (imm : Nat) : Bool :=
  let sf := imm >>> 4 % 16
  let tf := imm % 16
  let p := imm >>> 8 % 8
  let ok := fun f => decide (f ≤ 2) || f == 9
  ok sf && ok tf && decide (p < (if regElems sf = regElems tf then 1 else 2))

/-- 06 R161, R164: the fields of XCVT and XSIDE. DESIGN CHOICE: a non-zero side lane for a format without side data is refused as a reserved
field would be; 06 R164 names only the side register (log 26). -/
def xcvtOk (side : Bool) (f : Fields) : Bool :=
  let i := f.imm.toNat
  let sf := i >>> 4 % 16
  let tf := i % 16
  let g := groupSize sf tf
  let two := fun r => decide (g = 32) || decide (r ≤ 62)
  decide (sf ≤ 10) && decide (tf ≤ 10) && (fmtSide tf || (fmtSide sf && !side)) &&
  decide (i >>> 12 % 16 < regElems sf / g) && decide (i >>> 16 % 16 < regElems tf / g) &&
  (if fmtSide sf then f.src2 != 0 && two (i >>> 20 % 64) else f.src2 == 0 && i >>> 20 % 64 == 0) &&
  (if side then f.dst != 0 && two (i >>> 26)
   else if fmtSide tf then f.src3 != 0 && two (i >>> 26) else f.src3 == 0 && i >>> 26 == 0)

/-- Rules of single opcodes: p0 is no destination (04 R101); reserved sub-fields (05 R124, R129; 07 R174, R191, R192; 06 R168). -/
def subOk (op : Nat) (f : Fields) : Bool :=
  let i := f.imm.toNat
  if op = 0x2B ∨ op = 0x3D ∨ op = 0x57 ∨ op = 0x58 ∨ op = 0x8E then f.dst != 0
  else if 0xA0 ≤ op ∧ op ≤ 0xA6 then i.testBit 0 || i >>> 8 % 256 == 0
  else if op = 0xC8 then i >>> 4 % 4 != 3
  else if op = 0xC9 then i >>> 4 % 4 != 3 && decide (i >>> 16 < 72)
  else if op = 0xCA then i >>> 4 % 4 != 3 && decide (i >>> 8 % 8 ≤ 4)
  else if op = 0x81 then i % 8 != 7
  else if op = 0x89 ∨ op = 0x8A then decide (i % 8 ≤ 3)
  else if op = 0x8B ∨ op = 0x8C then decide (2 ≤ i ∧ i ≤ 16)
  else if op = 0x68 then decide (1 ≤ i >>> 4 % 512 ∧ i >>> 4 % 512 ≤ (if i.testBit 2 then 510 else 511))
  else if op = 0x70 then cvtOk i
  else if op = 0x71 then xcvtOk false f
  else if op = 0x72 then xcvtOk true f
  else true

/-- A stroke instruction word is statically well formed on its own (05 R112, R115, R116). -/
def strokeOk (op : Nat) (f : Fields) : Bool :=
  match opInfo op with
  | none => false
  | some o =>
    regOk o.dst f.dst && regOk o.src1 f.src1 && regOk o.src2 f.src2 && (o.mod == .field || regOk o.src3 f.src3) &&
    (f.imm.toNat &&& (0xFFFFFFFF ^^^ (if o.mod = .imm then 0xFC000000 else o.imm)) == 0) && modOk o f && subOk op f

/-- The bay, opcode and fields of a stroke instruction. -/
def Instr.stroke (i : Instr) : Option (BayRef × Nat × Fields) :=
  match i with
  | .nop b f => some (b, 0x00, f)
  | .seal b f => some (b, 0x0F, f)
  | .mxtNn b f => some (b, 0x10, f)
  | .mxtNt b f => some (b, 0x11, f)
  | .mxtTn b f => some (b, 0x12, f)
  | .mxtTt b f => some (b, 0x13, f)
  | .mxtNnAcc b f => some (b, 0x14, f)
  | .mxtNtAcc b f => some (b, 0x15, f)
  | .mxtTnAcc b f => some (b, 0x16, f)
  | .mxtTtAcc b f => some (b, 0x17, f)
  | .ld b f => some (b, 0x90, f)
  | .ldS b f => some (b, 0x91, f)
  | .ldArg b f => some (b, 0x95, f)
  | .st b f => some (b, 0x98, f)
  | .stS b f => some (b, 0x99, f)
  | .spAcc b f => some (b, 0xB2, f)
  | .bxaV b f => some (b, 0xC0, f)
  | .bxaT b f => some (b, 0xC1, f)
  | .sum b f => some (b, 0xC8, f)
  | .sumH b f => some (b, 0xC9, f)
  | .sumX b f => some (b, 0xCA, f)
  | .vadd b f => some (b, 0x20, f)
  | .vsub b f => some (b, 0x21, f)
  | .vmul b f => some (b, 0x22, f)
  | .vfma b f => some (b, 0x23, f)
  | .vfnma b f => some (b, 0x24, f)
  | .vmin b f => some (b, 0x25, f)
  | .vmax b f => some (b, 0x26, f)
  | .vabs b f => some (b, 0x27, f)
  | .vneg b f => some (b, 0x28, f)
  | .vrcp b f => some (b, 0x29, f)
  | .vrsqrt b f => some (b, 0x2A, f)
  | .vcmp b f => some (b, 0x2B, f)
  | .vsel b f => some (b, 0x2C, f)
  | .viadd b f => some (b, 0x30, f)
  | .visub b f => some (b, 0x31, f)
  | .vimul b f => some (b, 0x32, f)
  | .viadds b f => some (b, 0x33, f)
  | .visubs b f => some (b, 0x34, f)
  | .vimin b f => some (b, 0x35, f)
  | .vimax b f => some (b, 0x36, f)
  | .vand b f => some (b, 0x37, f)
  | .vor b f => some (b, 0x38, f)
  | .vxor b f => some (b, 0x39, f)
  | .vshl b f => some (b, 0x3A, f)
  | .vshr b f => some (b, 0x3B, f)
  | .vsra b f => some (b, 0x3C, f)
  | .vicmp b f => some (b, 0x3D, f)
  | .vbci b f => some (b, 0x3E, f)
  | .vbcs b f => some (b, 0x3F, f)
  | .smovi b f => some (b, 0x40, f)
  | .saddi b f => some (b, 0x41, f)
  | .sadd b f => some (b, 0x42, f)
  | .ssub b f => some (b, 0x43, f)
  | .smul b f => some (b, 0x44, f)
  | .sand b f => some (b, 0x45, f)
  | .sor b f => some (b, 0x46, f)
  | .sxor b f => some (b, 0x47, f)
  | .sshl b f => some (b, 0x48, f)
  | .sshr b f => some (b, 0x49, f)
  | .sfadd b f => some (b, 0x4A, f)
  | .sfmul b f => some (b, 0x4B, f)
  | .sffma b f => some (b, 0x4C, f)
  | .sfmin b f => some (b, 0x4D, f)
  | .sfmax b f => some (b, 0x4E, f)
  | .vext b f => some (b, 0x4F, f)
  | .vrsum b f => some (b, 0x50, f)
  | .vrmax b f => some (b, 0x51, f)
  | .vrmin b f => some (b, 0x52, f)
  | .vramax b f => some (b, 0x53, f)
  | .vrisum b f => some (b, 0x54, f)
  | .vperm b f => some (b, 0x55, f)
  | .vrot b f => some (b, 0x56, f)
  | .plogic b f => some (b, 0x57, f)
  | .prange b f => some (b, 0x58, f)
  | .pcount b f => some (b, 0x59, f)
  | .rng b f => some (b, 0x5C, f)
  | .rngU b f => some (b, 0x5D, f)
  | .lutExp2 b f => some (b, 0x60, f)
  | .lutLog2 b f => some (b, 0x61, f)
  | .lutRcp b f => some (b, 0x62, f)
  | .lutSig b f => some (b, 0x63, f)
  | .lutTanh b f => some (b, 0x64, f)
  | .lutLd b f => some (b, 0x68, f)
  | .lutUsr b f => some (b, 0x69, f)
  | .cvt b f => some (b, 0x70, f)
  | .xcvt b f => some (b, 0x71, f)
  | .xside b f => some (b, 0x72, f)
  | .tscSet b f => some (b, 0x73, f)
  | .tscale b f => some (b, 0x74, f)
  | .tscaleH b f => some (b, 0x75, f)
  | .vsketch b f => some (b, 0x76, f)
  | .reBind b f => some (b, 0x80, f)
  | .reParm b f => some (b, 0x81, f)
  | .reLnF b f => some (b, 0x82, f)
  | .reLnB b f => some (b, 0x83, f)
  | .reRmsF b f => some (b, 0x84, f)
  | .reRmsB b f => some (b, 0x85, f)
  | .reSmxF b f => some (b, 0x86, f)
  | .reSmxB b f => some (b, 0x87, f)
  | .reXent b f => some (b, 0x88, f)
  | .reActF b f => some (b, 0x89, f)
  | .reActB b f => some (b, 0x8A, f)
  | .rePoolF b f => some (b, 0x8B, f)
  | .rePoolB b f => some (b, 0x8C, f)
  | .rePst b f => some (b, 0x8D, f)
  | .rePld b f => some (b, 0x8E, f)
  | .reLsum b f => some (b, 0x8F, f)
  | .mvCopy b f _ => some (b, 0xA0, f)
  | .mvGather b f _ => some (b, 0xA1, f)
  | .mvScatter b f _ => some (b, 0xA2, f)
  | .mvScadd b f _ => some (b, 0xA3, f)
  | .mvSegsum b f _ => some (b, 0xA4, f)
  | .mvSegmax b f _ => some (b, 0xA5, f)
  | .mvSketch b f _ => some (b, 0xA6, f)
  | .spPut b f _ => some (b, 0xB0, f)
  | .spGet b f _ => some (b, 0xB1, f)
  | _ => none

/-- A command is well formed: a stroke instruction by its word, a bay, host port, mailbox or Viaduct port within range. -/
def Instr.wf (i : Instr) : Bool :=
  match i.stroke with
  | some (b, op, f) => decide (b.die < 8 ∧ b.bay < 132) && strokeOk op f
  | none => match i with
    | .mbxPost p _ _ => decide (p < 2)
    | .mbxDone p _ => decide (p < 2)
    | .hifCtrl p _ => decide (p < 2)
    | .mailboxResponse p m _ => decide (p < 2 ∧ m < 64)
    | .flitReceive p _ flit => (match p with | .sp n => decide (n < 16) | .pl n => decide (n < 2)) && flit.length == 268
    | .ethernetFrameReceive p i _ => decide (p < 2 ∧ i < 2)
    | _ => true

end Sys2Proof
end

