-- ==== Sys2Proof/Machine/Operands.lean ====
section
/-! DEFINITION. Tensor descriptors: their fields, element and side-byte addresses, spans, and reading and writing elements and
blocks through them (08 R194 to R205; 02 R41, R47; 03 R71, R81). -/

namespace Sys2Proof.Machine

open Sys2Proof

/-! ### Fields (08 R194, R195) -/

/-- Parses the 128 bytes of a descriptor. -/
def parseDesc (bs : List Byte) : Desc :=
  let b := fld bs 0 8
  let rank := fld bs 0xD 1
  { base := b % 2 ^ 48, node := bitsOf b 59 48, flags := fld bs 8 4, fmt := fld bs 0xC 1 % 16, rank := rank,
    compressed := bitOf (fld bs 0xE 1) 7, pslot := fld bs 0xE 1 % 4, policy := fld bs 0xF 1 % 4,
    shape := (List.range (min rank 6)).map fun i => fld bs (0x10 + 4 * i) 4,
    stride := (List.range (min rank 6)).map fun i => sgn 64 (fld bs (0x28 + 8 * i) 8),
    sideBase := fld bs 0x58 8, sideStride := fld bs 0x60 4, tscale := BitVec.ofNat 32 (fld bs 0x64 4),
    chunkBase := fld bs 0x68 8, slot := fld bs 0x70 2 % 4096, raw := bs }

/-- IN. -/
def Desc.isIn (d : Desc) : Bool := bitOf d.flags 0
/-- DST. -/
def Desc.isDst (d : Desc) : Bool := bitOf d.flags 1
/-- SCR. -/
def Desc.isScr (d : Desc) : Bool := bitOf d.flags 2
/-- RED. -/
def Desc.isRed (d : Desc) : Bool := bitOf d.flags 3
/-- REM. -/
def Desc.isRem (d : Desc) : Bool := bitOf d.flags 4
/-- HIST. -/
def Desc.isHist (d : Desc) : Bool := bitOf d.flags 5
/-- MISAL. -/
def Desc.isMisal (d : Desc) : Bool := bitOf d.flags 6

/-- The innermost extent. -/
def Desc.n (d : Desc) : Nat := d.shape.headD 1
/-- The number of elements. -/
def Desc.count (d : Desc) : Nat := d.shape.foldl (· * ·) 1
/-- The number of rows. -/
def Desc.rows (d : Desc) : Nat := (d.shape.drop 1).foldl (· * ·) 1
/-- Blocks per row (08 R200). -/
def Desc.rowBlocks (d : Desc) : Nat := cdiv d.n 32
/-- Blocks of the tensor. -/
def Desc.blocks (d : Desc) : Nat := d.rows * d.rowBlocks
/-- Element bits. -/
def Desc.bits (d : Desc) : Nat := elemBits d.fmt
/-- The innermost stride is 1. -/
def Desc.contig (d : Desc) : Bool := d.stride.headD 1 == 1
/-- Dense (08 R197). -/
def Desc.dense (d : Desc) : Bool :=
  ((List.zip d.shape d.stride).foldl (fun (a : Bool × Int) (x : Nat × Int) => (a.1 && x.2 == a.2, a.2 * x.1)) (true, 1)).1
/-- The descriptor has side data. -/
def Desc.side (d : Desc) : Bool := hasSide d.fmt

/-- The linear element offset of position `p` (08 R197). -/
def offsetOf : List Nat → List Int → Nat → Int
  | e :: es, s :: ss, p => ((p % e : Nat) : Int) * s + offsetOf es ss (p / e)
  | _, _, _ => 0

/-- The bit address of the element at linear offset `l`. -/
def Desc.bitAt (d : Desc) (l : Int) : Nat := ((d.base : Int) * 8 + l * d.bits).toNat

/-- The linear offset of a position. -/
def Desc.off (d : Desc) (p : Nat) : Int := offsetOf d.shape d.stride p

/-- The byte that holds the start of the element at a position. -/
def Desc.addr (d : Desc) (p : Nat) : Nat := d.bitAt (d.off p) / 8

/-- The side byte of block number `j` (08 R200). -/
def Desc.sideAddr (d : Desc) (j : Nat) : Nat := d.sideBase + j * d.sideStride

/-- The block number of a position. -/
def Desc.blockOf (d : Desc) (p : Nat) : Nat := p / d.n * d.rowBlocks + p % d.n / 32

/-- The first position and the present elements of block number `j`. -/
def Desc.blockPos (d : Desc) (j : Nat) : Nat × Nat :=
  let b := j % d.rowBlocks
  (j / d.rowBlocks * d.n + b * 32, min 32 (d.n - b * 32))

/-! ### Spans (08 R205, 05 R104) -/

/-- Lowest offset and highest offset plus one over the whole shape; the padding of a partial block counts (08 R205). -/
def Desc.extent (d : Desc) : Int × Int :=
  let e := (List.zip d.shape d.stride).foldl
    (fun (a : Int × Int) (x : Nat × Int) =>
      let s := ((x.1 : Int) - 1) * x.2
      (a.1 + min 0 s, a.2 + max 0 s)) (0, 1)
  if d.side && d.n % 32 != 0 then (e.1, e.2 + (32 - (d.n % 32 : Nat))) else e

/-- The element span in bytes as (first, length). -/
def Desc.elemSpan (d : Desc) : Nat × Nat :=
  let (lo, hi) := d.extent
  let a := d.bitAt lo / 8
  (a, cdiv (d.bitAt hi) 8 - a)

/-- The side span as (first, length); length 0 where the format has no side data. -/
def Desc.sideSpan (d : Desc) : Nat × Nat :=
  if d.side then (d.sideBase, (d.blocks - 1) * d.sideStride + 1) else (d.sideBase, 0)

/-- Chunks of a compressed tensor (09 R220). -/
def Desc.chunks (d : Desc) : Nat := cdiv d.blocks 128

/-- Raw bytes of a block's elements. -/
def rawBlock (fmt : Nat) : Nat := elemBits fmt * 4

/-- S_max of a compressed descriptor (09 R226). -/
def Desc.smax (d : Desc) : Nat :=
  let full := alignUp (136 + 128 * rawBlock d.fmt) 8
  let last := d.blocks - (d.chunks - 1) * 128
  (d.chunks - 1) * full + alignUp (136 + last * rawBlock d.fmt) 8

/-- The spans a descriptor registers (08 R205, 09 R226), as (first, length) with no empty span. -/
def Desc.spans (d : Desc) : List (Nat × Nat) :=
  let es := if d.compressed then [(d.base, d.smax), (d.chunkBase, 208 + 4 * d.chunks)] else [d.elemSpan]
  (es ++ [d.sideSpan]).filter fun s => s.2 != 0

/-- Lowest and highest of a list of byte ranges, as one range. -/
def hull (rs : List (Nat × Nat)) : List (Nat × Nat) :=
  match rs.filter (·.2 != 0) with
  | [] => []
  | r :: rest =>
    let (lo, hi) := rest.foldl (fun (a : Nat × Nat) x => (min a.1 x.1, max a.2 (x.1 + x.2))) (r.1, r.1 + r.2)
    [(lo, hi - lo)]

/-- The element interval and the side interval of some positions (05 R104); the whole spans of a compressed descriptor. -/
def Desc.accessAt (d : Desc) (ps : List Nat) : List (Nat × Nat) :=
  if ps.isEmpty then []
  else if d.compressed then d.spans
  else
    hull (ps.map fun q => (d.addr q, cdiv (d.bitAt (d.off q) % 8 + d.bits) 8)) ++
    (if d.side then hull ((ps.map d.blockOf).map fun j => (d.sideAddr j, 1)) else [])

/-- The intervals of `n` positions from `p`. -/
def Desc.access (d : Desc) (p n : Nat) : List (Nat × Nat) := d.accessAt ((List.range n).map fun i => p + i)

/-- An access interval of an instruction: its first byte, its length, whether it is written. -/
abbrev Access := Nat × Nat × Bool

/-- Marks intervals read or written. -/
def accessOf (w : Bool) (rs : List (Nat × Nat)) : List Access := rs.map fun r => (r.1, r.2, w)

/-- Two accesses are ordered by the scoreboard (05 R104). -/
def conflicts (a b : List Access) : Bool :=
  a.any fun x => b.any fun y => (x.2.2 || y.2.2) && overlaps x.1 x.2.1 y.1 y.2.1

/-! ### Elements -/

/-- The code of `w` bits at a bit address. -/
def rdBits (m : Mem) (ba w : Nat) : Nat :=
  let a := ba / 8
  let n := cdiv (ba % 8 + w) 8
  (rdNat m a n >>> (ba % 8)) % 2 ^ w

/-- Writes a code of `w` bits at a bit address; the other bits of its bytes stay. -/
def wrBits (m : Mem) (ba w c : Nat) : Mem :=
  let a := ba / 8
  let n := cdiv (ba % 8 + w) 8
  let old := rdNat m a n
  wrNat m a n (old - ((old >>> (ba % 8)) % 2 ^ w) <<< (ba % 8) + (c % 2 ^ w) <<< (ba % 8))

/-- The code at a position. -/
def Desc.rd (d : Desc) (m : Mem) (p : Nat) : Nat := rdBits m (d.bitAt (d.off p)) d.bits
/-- Writes the code at a position. -/
def Desc.wr (d : Desc) (m : Mem) (p c : Nat) : Mem := wrBits m (d.bitAt (d.off p)) d.bits c

/-- The side byte of block `j`. -/
def Desc.rdSide (d : Desc) (m : Mem) (j : Nat) : Nat := (rdByte m (d.sideAddr j)).toNat
/-- Writes the side byte of block `j`. -/
def Desc.wrSide (d : Desc) (m : Mem) (j c : Nat) : Mem := wrByte m (d.sideAddr j) (BitVec.ofNat 8 c)

/-- The codes of the present elements of block `j`. -/
def Desc.rdBlock (d : Desc) (m : Mem) (j : Nat) : List Nat :=
  let (p, k) := d.blockPos j
  (List.range k).map fun i => d.rd m (p + i)

/-- Writes the codes of block `j`, padding positions as 0 (08 R201). -/
def Desc.wrBlock (d : Desc) (m : Mem) (j : Nat) (cs : List Nat) : Mem :=
  let l := d.off (d.blockPos j).1
  (List.range 32).foldl (fun m (i : Nat) => wrBits m (d.bitAt (l + i)) d.bits (at' 0 cs i)) m

/-- The values of the present elements of block `j` (02 R39, R47). -/
def Desc.blockVals (d : Desc) (m : Mem) (j : Nat) : List Val :=
  Machine.blockVals d.fmt (if d.side then d.rdSide m j else 0) d.tscale (d.rdBlock m j)

/-- The value at a position. -/
def Desc.valAt (d : Desc) (m : Mem) (p : Nat) : Val :=
  if d.side then at' .nan (d.blockVals m (d.blockOf p)) (p % d.n % 32) else plainVal d.fmt (d.rd m p)

/-- The BX64 block `j`. -/
def Desc.rdBx (d : Desc) (m : Mem) (j : Nat) : Bx :=
  let l := d.off (d.blockPos j).1
  ⟨d.rdSide m j, (List.range 32).map fun i => rdBits m (d.bitAt (l + i)) 64⟩

/-- Writes the BX64 block `j`. -/
def Desc.wrBx (d : Desc) (m : Mem) (j : Nat) (b : Bx) : Mem := d.wrSide (d.wrBlock m j b.ns) j b.anchor

/-! ### Results written -/

/-- What a unit that writes results keeps: memory, fast counters, and the histogram of the destination (02 R57, 03 R81). -/
structure Sink where
  mem : Mem
  exc : List Nat
  hist : Option Hist := none
deriving DecidableEq, Repr

/-- Counts events. -/
def Sink.count (k : Sink) (x : Exc) : Sink := { k with exc := addExc k.exc x }

/-- Counts written values into the histogram. -/
def Sink.seen (k : Sink) (vs : List Val) : Sink := { k with hist := k.hist.map (·.addBlock vs) }

/-- Writes one value into an element of a format without side data (02 R55, R71). -/
def Desc.putVal (d : Desc) (k : Sink) (p : Nat) (v : Val) : Sink :=
  let (c, x) := plainCode d.fmt v
  (({ k with mem := d.wr k.mem p c }).count x).seen [plainVal d.fmt c]

/-- Writes the present values of block `j` of an MX destination, its scale chosen from them (02 R42, R43). -/
def Desc.putMx (d : Desc) (k : Sink) (j : Nat) (vs : List Val) : Sink :=
  let s := mxScale d.fmt d.tscale vs
  let (cs, x) := mxEncode d.fmt s d.tscale vs
  (({ k with mem := d.wrSide (d.wrBlock k.mem j cs) j s }).count x).seen (cs.map (mxVal d.fmt s d.tscale))

/-- Writes the present values of block `j` of a BX64 destination on its own anchor (02 R54). -/
def Desc.putBx (d : Desc) (k : Sink) (j : Nat) (vs : List Val) : Sink :=
  let b := bxFrom (bxAnchor vs) (vs ++ List.replicate (32 - vs.length) (.fin false 0 1 0))
  ({ k with mem := d.wrBx k.mem j b }).seen (b.vals.take (if b.vals.any (· == Val.sat) then 32 else vs.length))

/-- Writes values into consecutive positions that cover whole blocks where the format has them. -/
def Desc.putRow (d : Desc) (k : Sink) (p : Nat) (vs : List Val) : Sink :=
  if d.side then
    (List.range (cdiv vs.length 32)).foldl (fun k b =>
      let part := (vs.drop (32 * b)).take 32
      let j := d.blockOf (p + 32 * b)
      if d.fmt = 10 then d.putBx k j part else d.putMx k j part) k
  else (List.range vs.length).foldl (fun k i => d.putVal k (p + i) (at' .nan vs i)) k

/-- A BX64 block accumulate into block `j` (02 R49 to R51); what it saturated anew is the second part. -/
def Desc.accBlock (d : Desc) (m : Mem) (j : Nat) (vs : List Val) : Mem × Bool :=
  let (b, sat) := bxAccum (d.rdBx m j) (vs ++ List.replicate (32 - vs.length) (.fin false 0 1 0))
  (d.wrBx m j b, sat)

/-- Every block that positions reach has an anchor in 1-254 or is already non-numeric (02 R52). -/
def Desc.accOk (d : Desc) (m : Mem) (js : List Nat) : Bool := js.all fun j => d.rdSide m j != 0

/-- The range starts at a block and ends at a block or its row's end (08 R203, R207). -/
def Desc.wholeBlocks (d : Desc) (p n : Nat) : Bool :=
  !d.side || n == 0 || (p % d.n % 32 == 0 && ((p + n - 1) % d.n % 32 == 31 || (p + n) % d.n == 0))

/-- The bytes of blocks or elements lie in readable, existing memory: positions `p … p + n − 1` lie in the shape. -/
def Desc.inShape (d : Desc) (p n : Nat) : Bool := decide (p + n ≤ d.count)

/-- The blocks that `n` positions from `p` reach, ascending (08 R200). -/
def Desc.blocksOf (d : Desc) (p n : Nat) : List Nat := ((List.range n).map fun i => d.blockOf (p + i)).dedup

/-! ### Addresses of a bay's program (08 R196) -/

/-- Translates an address of a descriptor without REM for an instance on a physical bay. -/
def State.resolveAddr (s : State) (die bay a : Nat) : Nat :=
  if dpaOnDie a then
    sramDpa die (if dpaBay a = 0xFF then bay else s.phys die (dpaBay a)) (dpaByte a)
  else a

/-- A descriptor as an instance on a physical bay uses it. -/
def State.resolveDesc (s : State) (die bay : Nat) (d : Desc) : Desc :=
  if d.isRem then d
  else { d with
    base := s.resolveAddr die bay d.base
    sideBase := if d.side then s.resolveAddr die bay d.sideBase else d.sideBase
    chunkBase := if d.compressed then s.resolveAddr die bay d.chunkBase else d.chunkBase }

/-- The seal-table ranges a resolved descriptor registers, by bay: (die, bay, first byte, length), whole 256 B units, merged
where they overlap or touch within one bay (08 R205). -/
def Desc.regs (d : Desc) : List (Nat × Nat × Nat × Nat) :=
  let rs := d.spans.filterMap fun (a, n) => (sramOf a).map fun (die, b, x) => (die, b, alignDown x 256, alignUp (x + n) 256)
  let merged := rs.foldl (fun (acc : List (Nat × Nat × Nat × Nat)) r =>
    let (hit, rest) := acc.partition fun q => q.1 == r.1 && q.2.1 == r.2.1 && decide (q.2.2.1 < r.2.2.2 ∧ r.2.2.1 < q.2.2.2)
    rest ++ [(r.1, r.2.1, hit.foldl (fun m q => min m q.2.2.1) r.2.2.1, hit.foldl (fun m q => max m q.2.2.2) r.2.2.2)]) []
  merged.map fun (die, b, lo, hi) => (die, b, lo, hi - lo)

end Sys2Proof.Machine
end

