-- ==== Sys2Proof/Machine/Contribution.lean ====
section
/-! DEFINITION. A contributor's side of the reduction protocol (10 R252 to R260): messages, requests, sending, sealing, retracting
and withdrawing; the touch directory (11 R293). -/

namespace Sys2Proof.Machine

open Sys2Proof

/-- A slot's buffer as a BX64 tensor (10 R244). -/
def State.slotDesc (s : State) (die n : Nat) : Desc :=
  let sl := s.slot die n
  let b := s.phys die sl.lbay
  { base := sramDpa die b sl.elemOff, fmt := 10, rank := 1, flags := 8, shape := [32 * sl.blocks], stride := [1],
    sideBase := sramDpa die b sl.anchorOff, sideStride := 1, slot := n }

/-- The body of a reduction message (10 R254). -/
def redBody (kind flags sender job slot step contributor count first token : Nat) (payload : List Byte) : List Byte :=
  pack [(1, kind), (1, flags), (2, sender), (2, job), (2, slot), (4, step), (2, contributor), (2, count), (4, first), (4, 0),
    (8, token)] ++ payload

/-- Sends a reduction message of a contributor slot to one node. `ctx` marks what its acknowledgement completes. -/
def State.redSend (s : State) (die n node kind flags count first token : Nat) (payload : List Byte) (ctx : List Nat := []) : State :=
  let sl := s.slot die n
  s.send kind node sl.ownerDie
    (redBody kind (flags + b2n sl.carriedC) (s.part.node.getD 0) sl.job sl.sendSlot sl.step sl.expected count first token payload) ctx

/-- Owner and twin as receivers, without fenced nodes (12 R325). -/
def State.redTargets (s : State) (die n : Nat) : List Nat :=
  let sl := s.slot die n
  [sl.ownerNode, sl.twinNode].dedup.filter fun x => !s.part.fencedNodes.contains x

/-- The owner, or the twin that has taken its place. -/
def State.redOwner (s : State) (die n : Nat) : List Nat := (s.redTargets die n).take 1

/-- Pieces of at most 64 blocks of a range (05 R502): (local, remote, count). -/
def pieces64 (a r c : Nat) : List (Nat × Nat × Nat) :=
  (List.range (cdiv c 64)).map fun i => (a + 64 * i, r + 64 * i, min 64 (c - 64 * i))

/-- The payload of a CONTRIB or RETRACT (10 R255). -/
def contribPayload (m : Mem) (d : Desc) (a c : Nat) : List Byte :=
  sub ((List.range c).map fun i => rdByte m (d.sideAddr (a + i))) 0 64 ++
  (List.range c).flatMap fun i => rdBytes m (d.base + 256 * (a + i)) 256

/-- The messages of a slot that wait for an acknowledgement at a node. -/
def State.flying (s : State) (die n node : Nat) : Nat :=
  ((mgetD [] s.span.unacked (chanKey node 2)).filter fun u => u.ctx.drop 1 == [die, n]).length

/-- The messages of a slot that wait for an acknowledgement at any node. -/
def State.flyingAll (s : State) (die n : Nat) : Nat :=
  (s.span.unacked.map fun k => (k.2.filter fun u => u.ctx.drop 1 == [die, n]).length).foldl (· + ·) 0

/-- Queues one range as CONTRIB or RETRACT messages to owner and twin; `flags` of 10 R254. -/
def State.queueRange (s : State) (die n kind flags token a r c : Nat) : State :=
  let ts := s.redTargets die n
  let q := (pieces64 a r c).flatMap fun (x : Nat × Nat × Nat) => ts.map fun node => [node, kind, flags, token, x.1, x.2.1, x.2.2]
  s.modSlot die n fun sl => { sl with sendQ := sl.sendQ ++ q }

/-- Sends one waiting message: its payload is read now (10 R255). -/
def State.sendPiece (s : State) (die n : Nat) (q : List Nat) : State :=
  match q with
  | [node, kind, flags, token, a, r, c] =>
    let sl := s.slot die n
    let last := kind = 4 ∧ sl.wantRelease ∧ (sl.sendQ.filter (·.headD 0 == node)).length ≤ 1
    let s := s.redSend die n node kind (flags + if last then 4 else 0) c r token (contribPayload s.mem (s.slotDesc die n) a c) [1, die, n]
    s.modSlot die n fun sl => { sl with
      sendQ := sl.sendQ.erase q, sent := if kind = 4 then sl.sent ++ [[node, token, a, r, c]] else sl.sent }
  | _ => s

/-- Sends what credit allows: at most 4 unanswered messages per receiver and slot (14 R371). -/
def State.pump (s : State) (die n : Nat) : State :=
  (s.slot die n).sendQ.foldl (fun s q =>
    let node := q.headD 0
    if (s.slot die n).credit.contains node ∧ s.flying die n node < 4 then s.sendPiece die n q else s) s

/-- The token of the release path (10 R252). -/
def releaseToken (die seq : Nat) : Nat := seq <<< 32 + die <<< 24 + 0xFF <<< 16
/-- The token of the stroke path (05 R126). -/
def strokeToken (die bay seq : Nat) : Nat := seq <<< 32 + die <<< 24 + bay <<< 16

/-- Asks for a grant: the owner, and the twin for its credit (10 R256, 14 R371). -/
def State.openReqSend (s : State) (die n : Nat) : State :=
  (s.redTargets die n).foldl (fun s node => s.redSend die n node 0x01 0 0 0 ((s.slot die n).token.getD 0) [] [2, die, n]) s

/-! ### Asking for the working copy (14 R372) -/

/-- The descriptor a gather entry uses for a step. -/
def Gather.desc (g : Gather) (step : Nat) : Desc := if step % 2 = 0 then g.even else g.odd

/-- The seal-table ranges of a gather entry's copy: (bay, first byte, length). -/
def State.gatherRegs (s : State) (g : Gather) (step : Nat) : List (Nat × Nat × Nat) :=
  (s.resolveDesc g.die 0xFF (g.desc step)).regs.map fun x => (x.2.1, x.2.2.1, x.2.2.2)

/-- Sends GATHER_REQ of an entry that wants a step, once its descriptor is free; the descriptor becomes wet. -/
def State.gatherSend (s : State) (e : Nat) : State :=
  let g := mgetD {} s.span.gather e
  match g.want with
  | none => s
  | some step =>
    let rs := s.gatherRegs g step
    let owner := if s.part.fencedNodes.contains g.ownerNode then g.twinNode else g.ownerNode
    if rs.any fun x => !(s.bay g.die x.1).freeAt x.2.1 x.2.2 then s
    else
      let s := rs.foldl (fun (s : State) x => s.modBay g.die x.1 fun b => b.register x.2.1 x.2.2 .wet (.gather e step)) s
      let s := { s with span := { s.span with gather := mset s.span.gather e { g with want := none, asked := some step, got := 0, incl := [] } } }
      s.send 0x20 owner g.ownerDie (pack [(2, e), (2, 0), (4, step)]) [5, e, step]

/-- Tries every entry that still wants a step. -/
def State.gatherRetry (s : State) : State :=
  (mkeys (s.span.gather.filter fun e => e.2.want.isSome)).foldl (fun s e => s.gatherSend e) s

/-- A contributor slot has sent SEAL or been dropped: its adapter asks for the slice's working copy. -/
def State.gatherAsk (s : State) (die n : Nat) : State :=
  let sl := s.slot die n
  let mine := fun (g : Gather) => g.job == sl.job && g.ownerNode == sl.ownerNode && g.ownerDie == sl.ownerDie && g.slot == sl.remoteSlot
  ({ s with span := { s.span with
      gather := s.span.gather.map fun (e : Nat × Gather) => if mine e.2 then (e.1, { e.2 with die := die, want := some sl.step }) else e } }).gatherRetry

/-- Sends SEAL once every CONTRIB is acknowledged and the producing strokes have sealed; the slot becomes HELD (10 R257). -/
def State.trySeal (s : State) (die n : Nat) : State :=
  let sl := s.slot die n
  if sl.role = .contributor ∧ (sl.state = .released ∨ (sl.state = .held ∧ sl.replay)) ∧ sl.grantedC ∧ sl.wantRelease ∧
      !sl.sealSent ∧ sl.token.isSome ∧ sl.sendQ = [] ∧ s.flyingAll die n = 0 ∧ !sl.retractDue then
    let s := (s.redTargets die n).foldl (fun s node => s.redSend die n node 0x05 (if sl.replay then 2 else 0) 0 0 (sl.token.getD 0) []) s
    (s.modSlot die n fun sl => { sl with sealSent := true, state := .held, replay := false }).gatherAsk die n
  else s

/-- Queues every recorded range (after GRANT, or again for REPLAY_REQ) and sends what credit allows (10 R256, R268). -/
def State.sendRanges (s : State) (die n flags : Nat) : State :=
  let sl := s.slot die n
  (sl.ranges.foldl (fun s (r : Nat × Nat × Nat) => s.queueRange die n 0x04 flags (sl.token.getD 0) r.1 r.2.1 r.2.2) s).pump die n

/-- Queues the RETRACTs that wait once every CONTRIB sent is acknowledged, and sends the WITHDRAW that is due once they are
acknowledged too (10 R259; 12 R328). -/
def State.tryRetract (s : State) (die n : Nat) : State :=
  let sl := s.slot die n
  if sl.retractDue ∧ s.flyingAll die n = 0 then
    let q := sl.sent.map fun e => [at' 0 e 0, 6, 0, at' 0 e 1, at' 0 e 2, at' 0 e 3, at' 0 e 4]
    (s.modSlot die n fun sl => { sl with retractDue := false, sent := [], sendQ := q ++ sl.sendQ }).pump die n
  else if sl.withdrawDue ∧ !sl.retractDue ∧ sl.sendQ = [] ∧ s.flyingAll die n = 0 then
    let s := (s.redTargets die n).foldl (fun s node => s.redSend die n node 0x07 0 0 0 (sl.token.getD 0) []) s
    s.modSlot die n fun sl => { sl with withdrawDue := false }
  else s

/-- Contributor slots of a die whose contribution a token identifies. -/
def State.slotsOfToken (s : State) (die token : Nat) : List Nat :=
  ((s.die die).slots.filter fun x => x.2.role == .contributor && x.2.token == some token && !x.2.sealSent).map (·.1)

/-- Retracts what a stroke has contributed (10 R259): the grant stays, the token and the ranges go. -/
def State.retractToken (s : State) (die token : Nat) (withdraw : Bool) : State :=
  (s.slotsOfToken die token).foldl (fun s n =>
    let s := s.modSlot die n fun sl => { sl with
      retractDue := !sl.sent.isEmpty, sendQ := [], ranges := [], token := none, wantRelease := false, withdrawDue := withdraw }
    (s.tryRetract die n).tryRetract die n) s

/-- A contributor slot becomes LOST; one not yet HELD withdraws (10 R249). -/
def State.slotLost (s : State) (die n : Nat) : State :=
  let sl := s.slot die n
  if sl.role ≠ .contributor ∨ sl.state = .free ∨ sl.state = .lost then s
  else
    let s := if sl.state = .held then s else
      (s.redTargets die n).foldl (fun s node => s.redSend die n node 0x07 0 0 0 (sl.token.getD 0) []) s
    s.modSlot die n fun sl => { sl with state := .lost, ranges := [], sendQ := [], retractDue := false }

/-- The slot's shard is sparse (11 R273). -/
def State.slotSparse (s : State) (die n : Nat) : Bool :=
  let sl := s.slot die n
  sl.role != .contributor && bitOf (fld (mgetD {} (s.die die).shards (sl.shardF >>> 22)).raw 4 1) 3

/-- A block of a sparse owner or twin slot takes a touch-directory entry; a full directory marks the slot (11 R293, R294). -/
def State.touch (s : State) (die n block : Nat) : State :=
  if !s.slotSparse die n ∨ (s.die die).touch.contains (n, block) then s
  else if (s.die die).touch.length < 1048576 then s.modDie die fun d => { d with touch := d.touch ++ [(n, block)] }
  else s.modSlot die n fun sl => { sl with touchOver := true }

/-- Accumulates values into block `j` of a reduction-buffer descriptor (02 R49); a source block with E ≠ 0 or a marker touches the
block (11 R293). -/
def State.accumulate (s : State) (die : Nat) (d : Desc) (j : Nat) (vs : List Val) (brings : Bool) : State :=
  let (m, _) := d.accBlock s.mem j vs
  let block := (d.addr (d.blockPos j).1 - (s.slotDesc die d.slot).base) / 256
  let s := { s with mem := m }
  if brings then s.touch die d.slot block else s

/-- Accumulates values at `n` consecutive positions of whole blocks, block by block in ascending order; `brings` says whether the values
of some positions touch their block (05 R128; 02 R49). -/
def State.accRange (s : State) (die : Nat) (d : Desc) (p n : Nat) (val : Mem → Nat → Val)
    (brings : Mem → List Nat → List Val → Bool) : State :=
  (d.blocksOf p n).foldl (fun (s : State) j =>
    let x := d.blockPos j
    let ps := (List.range x.2).map (x.1 + ·)
    let vs := ps.map (val s.mem)
    s.accumulate die d j vs (brings s.mem ps vs)) s

/-- The bytes of some positions of a reduction-buffer descriptor are wet in its slot's buffer and the slot is open: only those may be
accumulated into by an instance of a step (04 R98; 10 R245, R247). -/
def State.redOpen (s : State) (die step : Nat) (d : Desc) (ps : List Nat) : Bool :=
  (s.slot die d.slot).state == .opened && (s.slot die d.slot).step == step &&
  (d.accessAt ps).all fun r => match sramOf r.1 with
    | some (di, b, x) => (s.bay di b).wetBy (.slot d.slot) x r.2
    | none => false

end Sys2Proof.Machine
end

