-- ==== Sys2Proof/Machine/Palette.lean ====
section
/-! DEFINITION. Palette coding (chapter 09): code tables, table images, directories, chunks, the encoder and the expander's
decoding. -/

namespace Sys2Proof.Machine

open Sys2Proof

/-! ### Tables (09 R218, R222, R227) -/

/-- Symbols of a format's alphabet. -/
def palAlphabet (fmt : Nat) : Nat := 2 ^ elemBits fmt

/-- The counts of every symbol. -/
def palCounts (fmt : Nat) (codes : List Nat) : List Nat :=
  codes.foldl (fun c s => setAt c s (at' 0 c s + 1)) (List.replicate (palAlphabet fmt) 0)

/-- A node of the tree: weight, id, and the leaves below with their depths. -/
abbrev PalNode := Nat × Nat × List (Nat × Nat)

/-- The node of least (weight, id) and the others. -/
def palLeast : List PalNode → Option (PalNode × List PalNode)
  | [] => none
  | n :: ns =>
    match palLeast ns with
    | none => some (n, [])
    | some (m, rest) => if n.1 < m.1 ∨ (n.1 = m.1 ∧ n.2.1 < m.2.1) then some (n, m :: rest) else some (m, n :: rest)

/-- Merges nodes until one is left. -/
def palMerge : Nat → Nat → List PalNode → List PalNode
  | 0, _, ns => ns
  | k + 1, next, ns =>
    match palLeast ns with
    | none => []
    | some (x, rest) => match palLeast rest with
      | none => [x]
      | some (y, rest) =>
        palMerge k (next + 1) ((x.1 + y.1, next, (x.2.2 ++ y.2.2).map fun l => (l.1, l.2 + 1)) :: rest)

/-- Code lengths of one attempt. -/
def palTry (counts : List Nat) : List Nat :=
  let leaves : List PalNode := (List.range counts.length).filterMap fun s =>
    if at' 0 counts s = 0 then none else some (at' 0 counts s, s, [(s, 0)])
  let ls := match leaves with
    | [l] => [(l.2.1, 1)]
    | _ => (palMerge leaves.length counts.length leaves).flatMap fun (n : PalNode) => n.2.2
  ls.foldl (fun ns (l : Nat × Nat) => setAt ns l.1 l.2) (List.replicate counts.length 0)

/-- build_lengths: counts are halved until no length exceeds 12. -/
def palLengths : Nat → List Nat → List Nat
  | 0, c => palTry c
  | k + 1, c =>
    let ls := palTry c
    if ls.all (· ≤ 12) then ls else palLengths k (c.map fun x => if x = 0 then 0 else (x + 1) >>> 1)

/-- assign_codes: the canonical codeword of every symbol with a length. -/
def palCodes (lens : List Nat) : List Nat :=
  ((List.range 12).foldl (fun (a : Nat × List Nat) l =>
    let (code, cw) := (List.range lens.length).foldl (fun (b : Nat × List Nat) s =>
      if at' 0 lens s = l + 1 then (b.1 + 1, setAt b.2 s b.1) else b) a
    (code <<< 1, cw)) (0, List.replicate lens.length 0)).2

/-- The 144-byte table image. -/
def palImage (fmt gen : Nat) (lens : List Nat) : List Byte :=
  pack [(4, 0x544C4150), (1, fmt), (1, lens.foldl max 0), (2, gen), (2, (lens.filter (· != 0)).length), (6, 0)] ++
  (List.range 128).map fun s => BitVec.ofNat 8 (at' 0 lens (2 * s) + 16 * at' 0 lens (2 * s + 1))

/-- The lengths a table image holds. -/
def palImgLens (img : List Byte) : List Nat :=
  (List.range (palAlphabet (fld img 4 1 % 16))).map fun s => let b := fld img (0x10 + s / 2) 1; if s % 2 = 0 then b % 16 else b / 16

/-- The generation of a table image. -/
def palGen (img : List Byte) : Nat := fld img 6 2 % 2 ^ 14

/-- A table image is valid (09 R222). -/
def palImgOk (fmt : Nat) (img : List Byte) : Bool :=
  let lens := palImgLens img
  let coded := lens.filter (· != 0)
  fld img 0 4 == 0x544C4150 && fld img 4 1 == fmt && zeroAt img 10 6 && decide (1 ≤ fld img 6 2 ∧ fld img 6 2 < 2 ^ 14) &&
  lens.all (· ≤ 12) && fld img 5 1 == lens.foldl max 0 && fld img 8 2 == coded.length && !coded.isEmpty &&
  ((List.range 128).all fun s => decide (2 * s < palAlphabet fmt) || zeroAt img (0x10 + s) 1) &&
  (if coded.length = 1 then coded == [1] else (coded.foldl (fun a l => a + 2 ^ (12 - l)) 0) == 2 ^ 12)

/-! ### Encoding (09 R223 to R225, R229) -/

/-- The bits of a codeword, most significant first. -/
def palWord (len code : Nat) : List Bool := (List.range len).map fun i => code.testBit (len - 1 - i)

/-- Bits packed into bytes, bit k of the stream in bit k mod 8 of byte k/8. -/
def bitsToBytes (bs : List Bool) : List Byte :=
  (List.range (cdiv bs.length 8)).map fun i =>
    BitVec.ofNat 8 ((List.range 8).foldl (fun a k => a + b2n (at' false bs (8 * i + k)) * 2 ^ k) 0)

/-- A block of 32 codes packed as 02 R41 packs them. -/
def packBlock (fmt : Nat) (codes : List Nat) : List Byte := natLe (rawBlock fmt) (packCodes (elemBits fmt) codes)

/-- One block: its index byte and its payload bytes. -/
def palBlock (fmt : Nat) (lens cws codes : List Nat) : Nat × List Byte :=
  let l := codes.foldl (fun a c => a + at' 0 lens c) 0
  if codes.all (fun c => at' 0 lens c != 0) ∧ cdiv l 8 < rawBlock fmt then
    (l - 32, bitsToBytes (codes.flatMap fun c => palWord (at' 0 lens c) (at' 0 cws c)))
  else (0xFF, packBlock fmt codes)

/-- One chunk of at most 128 blocks. -/
def palChunk (fmt slot gen : Nat) (lens cws : List Nat) (blocks : List (List Nat)) : List Byte :=
  let bs := blocks.map (palBlock fmt lens cws)
  let pay := bs.flatMap (·.2)
  pack [(2, slot <<< 14 + gen), (1, blocks.length - 1), (1, 0), (2, pay.length), (2, 0)] ++
  (List.range 128).map (fun i => BitVec.ofNat 8 (at' (0, []) bs i).1) ++ pay

/-- Splits a list into parts of `n`. -/
def parts {α : Type} (n : Nat) (xs : List α) : List (List α) :=
  (List.range (cdiv xs.length n)).map fun i => (xs.drop (n * i)).take n

/-- An encoded tensor: its table image, the chunk bytes with padding between chunks, and the offsets. -/
def palEncode (fmt slot : Nat) (image : List Byte) (blocks : List (List Nat)) : List Byte × List Nat :=
  let lens := palImgLens image
  let cws := palCodes lens
  (parts 128 blocks).foldl (fun (a : List Byte × List Nat) c =>
    let start := alignUp a.1.length 8
    (a.1 ++ zeros (start - a.1.length) ++ palChunk fmt slot (palGen image) lens cws c, a.2 ++ [start])) ([], [])

/-- The chunk directory (09 R221). -/
def palDirectory (fmt slot blocks total : Nat) (image : List Byte) (offs : List Nat) : List Byte :=
  pack [(4, 0x444C4150), (2, 1), (1, fmt), (1, slot), (4, offs.length), (4, total), (4, blocks)] ++ zeros 44 ++ image ++
  offs.flatMap (natLe 4)

/-- The directory header agrees with its descriptor (09 R236). -/
def palDirOk (d : Desc) (dir : List Byte) : Bool :=
  fld dir 0 4 == 0x444C4150 && fld dir 4 2 == 1 && fld dir 6 1 == d.fmt && fld dir 7 1 == d.pslot &&
  fld dir 8 4 == d.chunks && fld dir 0x10 4 == d.blocks && decide (fld dir 0xC 4 ≤ d.smax) && zeroAt dir 0x14 44 &&
  palImgOk d.fmt (sub dir 0x40 144)

/-! ### Fills asked for at issue (09 R236) -/

/-- The table image a slot holds once every fill asked for is done. -/
def PalSlot.coming (p : PalSlot) : Option (List Byte) :=
  match p.wants.getLast? with
  | some w => some w.2
  | none => if p.valid then some p.image else none

/-- A byte of a bay's share of the palette region (09 R235). -/
def Bay.palByte (x : Bay) (a : Nat) : Byte :=
  if a < 0x400 then
    let p := at' {} x.pal (a / 0x100)
    if p.valid ∧ a % 0x100 < 144 then at' 0 p.image (a % 0x100) else 0
  else if a < 0x440 then
    let p := at' {} x.pal ((a - 0x400) / 16)
    let status := (if p.valid then 2 ^ 31 + palGen p.image else 0) + 2 ^ 30 * b2n p.filling
    at' 0 (pack [(4, status), (4, p.refcount), (4, p.fills), (4, 0)]) (a % 16)
  else 0

/-- One compressed input against the tables seen so far (09 R236). -/
def palSeen (m : Mem) (seen : List (Nat × List Byte)) (d : Desc) : Except Desc (List (Nat × List Byte)) :=
  let dir := rdBytes m d.chunkBase 208
  let img := sub dir 0x40 144
  if !palDirOk d dir ∨ seen.any (fun y => y.1 == d.pslot && y.2 != img) then .error d
  else .ok (if seen.contains (d.pslot, img) then seen else seen ++ [(d.pslot, img)])

/-- The palette check: the fills to ask for, or the descriptor that fails (09 R236). -/
def palIssue (m : Mem) (x : Bay) (ds : List Desc) : Except Desc (List (Nat × List Byte)) :=
  match (ds.filter fun d => d.isIn && d.compressed && !d.isRem).foldlM (palSeen m) [] with
  | .error d => .error d
  | .ok seen => .ok (seen.filter fun y => (at' {} x.pal y.1).coming != some y.2)

/-- Asks for fills on behalf of a stroke. -/
def Bay.want (x : Bay) (seq : Nat) (fills : List (Nat × List Byte)) : Bay :=
  { x with pal := fills.foldl (fun ps y =>
      let p := at' {} ps y.1
      setAt ps y.1 { p with wants := p.wants ++ [(seq, y.2)] }) x.pal }

/-! ### Decoding (09 R239) -/

/-- What the expander finds wrong. -/
inductive PalErr where
  | stale
  | damage
deriving DecidableEq, Repr

/-- The bits of a byte list in stream order. -/
def bytesToBits (bs : List Byte) : List Bool := bs.flatMap fun b => (List.range 8).map b.toNat.testBit

/-- Reads one symbol: the codeword grows until it names a symbol of its length. -/
def palSymbol (lens cws : List Nat) : Nat → Nat → Nat → List Bool → Option (Nat × List Bool)
  | 0, _, _, _ => none
  | _, _, _, [] => none
  | k + 1, len, code, b :: bs =>
    let code := 2 * code + b2n b
    match (List.range lens.length).find? fun s => at' 0 lens s == len + 1 && at' 0 cws s == code with
    | some s => some (s, bs)
    | none => palSymbol lens cws k (len + 1) code bs

/-- Reads `n` symbols. -/
def palSymbols (lens cws : List Nat) : Nat → List Bool → Option (List Nat × List Bool)
  | 0, bs => some ([], bs)
  | n + 1, bs => match palSymbol lens cws 12 0 0 bs with
    | none => none
    | some (s, bs) => (palSymbols lens cws n bs).map fun r => (s :: r.1, r.2)

/-- The limit of a coded index byte (09 R224). -/
def palLimit (fmt : Nat) : Nat := (rawBlock fmt - 1) * 8 - 32

/-- Payload bytes of a block by its index byte. -/
def palBytes (fmt idx : Nat) : Nat := if idx = 0xFF then rawBlock fmt else cdiv (idx + 32) 8

/-- The chunk `i` of a compressed tensor starts where 09 R223 places it. -/
def palPlaced (m : Mem) (d : Desc) (i : Nat) : Bool :=
  let off := fun k => rdNat m (d.chunkBase + 0xD0 + 4 * k) 4
  if i = 0 then off 0 == 0
  else off i == alignUp (off (i - 1) + 136 + rdNat m (d.base + off (i - 1) + 4) 2) 8

/-- Decodes block `j` of a compressed tensor with the table of its slot. -/
def palDecode (m : Mem) (d : Desc) (image : List Byte) (j : Nat) : Except PalErr (List Nat) :=
  let i := j / 128
  let start := d.base + rdNat m (d.chunkBase + 0xD0 + 4 * i) 4
  let hdr := rdBytes m start 136
  let tag := fld hdr 0 2
  let present := min 128 (d.blocks - 128 * i)
  let idx := fun b => fld hdr (8 + b) 1
  let okIdx := (List.range 128).all fun b =>
    if b < present then decide (idx b ≤ palLimit d.fmt ∨ idx b = 0xFF) else idx b == 0
  let pay := fld hdr 4 2
  let at_ := fun b => (List.range b).foldl (fun a k => a + palBytes d.fmt (idx k)) 0
  if tag % 2 ^ 14 = 0 then .error .damage
  else if tag % 2 ^ 14 ≠ palGen image then .error .stale
  else if tag >>> 14 ≠ d.pslot ∨ fld hdr 2 1 + 1 ≠ present ∨ !zeroAt hdr 3 1 ∨ !zeroAt hdr 6 2 ∨ !okIdx ∨ at_ present ≠ pay ∨
      !palPlaced m d i ∨ start + 136 + pay > d.base + rdNat m (d.chunkBase + 0xC) 4 then .error .damage
  else
    let b := j % 128
    let bytes := rdBytes m (start + 136 + at_ b) (palBytes d.fmt (idx b))
    if idx b = 0xFF then .ok (unpackCodes (elemBits d.fmt) 32 (leNat bytes))
    else
      let lens := palImgLens image
      let l := idx b + 32
      match palSymbols lens (palCodes lens) 32 ((bytesToBits bytes).take l) with
      | some (cs, []) => if ((bytesToBits bytes).drop l).any id then .error .damage else .ok cs
      | _ => .error .damage

end Sys2Proof.Machine
end

