-- ==== Sys2Proof/Machine/Stroke.lean ====
section
/-! DEFINITION. A bay's sequencer: which instruction is next, registers and predicates, the scoreboard, and what a violation does
(04 R101 to R105; 05 R114 to R116, R132; 12 R328). -/

namespace Sys2Proof.Machine

open Sys2Proof

/-- What an instruction does: it completes with a new state and new stroke registers, is held with no effect, or is a violation
with its reason, address and descriptor (05 R132). -/
inductive Eff where
  | done (s : State) (r : Running)
  | hold
  | viol (reason addr : Nat) (d : Option Desc)
deriving DecidableEq, Repr

/-- The bay has a context that may issue: the part runs, the bay exists, is not frozen and does not wake. -/
def State.bayLive (s : State) (b : BayRef) : Bool :=
  s.live && decide (b.die < s.dieCount ∧ b.bay < 132) && !s.isFrozen (masterWord 1 b.die b.bay) && !(s.bay b.die b.bay).waking

/-- A sequencer slot of the bay is free: an active bay that arbitrates gives one to the recomputation (04 R105; 12 R308). -/
def State.slotFree (s : State) (b : BayRef) : Bool :=
  decide ((s.bay b.die b.bay).slots.length + (s.ks.arbs.filter fun a => a.die == b.die && a.arbiter == b.bay).length < 2)

/-- The stroke that issues: the first of the two slots that has not issued its SEAL (04 R105). -/
def Bay.issuing (x : Bay) : Option Running := x.slots.find? fun r => !r.issued

/-- The stroke whose next instruction word is this one, and that may issue it (04 R104). -/
def State.atStroke (s : State) (b : BayRef) (op : Nat) (f : Fields) : Option Running :=
  if s.bayLive b then
    match (s.bay b.die b.bay).issuing with
    | some r => if !r.frozen && at' 0 r.inst.img.instrs r.pc == encodeWord op f && decide (r.pc < r.inst.img.instrs.length)
        then some r else none
    | none => none
  else none

/-- Replaces a stroke in its slot. -/
def Bay.putRunning (x : Bay) (r : Running) : Bay := { x with slots := x.slots.map fun y => if y.seq = r.seq then r else y }

/-- Replaces a stroke in its slot. -/
def State.putRunning (s : State) (b : BayRef) (r : Running) : State := s.modBay b.die b.bay (·.putRunning r)

/-- Freezes a bay context at an instruction: the record, the retraction of its contributions and their withdrawal (12 R328). -/
def State.freezeBayAt (s : State) (b : BayRef) (r : Running) (pc reason addr : Nat) (d : Option Desc) : State :=
  let s := s.putRunning b { r with frozen := true }
  let s := s.retractToken b.die (strokeToken b.die b.bay r.seq) true
  s.freeze ⟨masterWord 1 b.die b.bay, r.inst.job, reason, 0, addr, r.seq, pc,
    natLe 8 (at' 0 r.inst.img.instrs pc).toNat ++ sub ((d.map (·.raw)).getD []) 0 24⟩

/-- Freezes a bay context at its next instruction. -/
def State.freezeBay (s : State) (b : BayRef) (r : Running) (reason addr : Nat) (d : Option Desc) : State :=
  s.freezeBayAt b r r.pc reason addr d

/-- One instruction of a stroke: where it is the next one, its effect, and the next instruction follows. -/
def State.strokeStep (s : State) (b : BayRef) (op : Nat) (f : Fields) (g : State → Running → Eff) : State :=
  match s.atStroke b op f with
  | none => s
  | some r =>
    match g s r with
    | .done s r => s.putRunning b { r with pc := r.pc + 1 }
    | .hold => s
    | .viol reason addr d => s.freezeBay b r reason addr d

/-! ### Registers (04 R101) -/

/-- A v register. -/
def Running.vreg (r : Running) (i : BitVec 6) : Lanes := at' [] r.v i.toNat
/-- One lane of a v register. -/
def Running.lane (r : Running) (i : BitVec 6) (l : Nat) : Word := at' 0 (r.vreg i) l
/-- An s register. -/
def Running.sreg (r : Running) (i : BitVec 6) : Word := at' 0 r.s i.toNat
/-- A p register; p0 reads all ones. -/
def Running.preg (r : Running) (i : Nat) : DWord := if i = 0 then BitVec.allOnes 64 else at' 0 r.p i
/-- Writes a v register. -/
def Running.setV (r : Running) (i : BitVec 6) (x : Lanes) : Running := { r with v := setAt r.v i.toNat x }
/-- Writes an s register. -/
def Running.setS (r : Running) (i : BitVec 6) (x : Word) : Running := { r with s := setAt r.s i.toNat x }
/-- Writes a p register. -/
def Running.setP (r : Running) (i : BitVec 6) (x : DWord) : Running := { r with p := setAt r.p i.toNat x }

/-! ### The modifier (05 R116) -/

/-- The modifier bits: in [37:32], or in imm[31:26]. -/
def modOf (inImm : Bool) (f : Fields) : Nat := if inImm then f.imm.toNat >>> 26 else f.src3.toNat
/-- STRICT. -/
def modStrict (m : Nat) : Bool := m.testBit 5
/-- The rounding direction. -/
def modRnd (m : Nat) : Rnd := rndOf (m >>> 3)
/-- The lane is selected. -/
def Running.on (r : Running) (m lane : Nat) : Bool := (r.preg (m % 8)).getLsbD lane

/-- Events of a class: strict flags or fast counters (02 R57, R59). -/
def Running.raise (r : Running) (strict : Bool) (x : Exc) : Running :=
  if strict then { r with strictFlags := orStrict r.strictFlags x } else { r with exc := addExc r.exc x }

/-- Lanewise results under a predicate: selected lanes take theirs, the others keep the destination (06 R148). -/
def Running.lanes (r : Running) (f : Fields) (m : Nat) (g : Nat → Word) : Running :=
  r.setV f.dst ((List.range 64).map fun l => if r.on m l then g l else r.lane f.dst l)

/-- Lanewise FP32 results with their events. -/
def Running.flanes (r : Running) (f : Fields) (m : Nat) (g : Nat → FRes) : Running :=
  (r.lanes f m fun l => (g l).1).raise (modStrict m)
    (excSum ((List.range 64).map fun l => if r.on m l then (g l).2 else {}))

/-- Lanewise bits into a p register (06 R148). -/
def Running.plane (r : Running) (f : Fields) (m : Nat) (g : Nat → Bool) : Running :=
  let old := r.preg f.dst.toNat
  r.setP f.dst (BitVec.ofNat 64 ((List.range 64).foldl
    (fun a l => a + b2n (if r.on m l then g l else old.getLsbD l) * 2 ^ l) 0))

/-! ### The scoreboard (05 R104) -/

/-- The descriptor of an index in the immediate. -/
def Running.desc (r : Running) (i : Nat) : Desc := at' {} r.descs i

/-- The position of row `i` and K position `k` of an operand (04 R89). -/
def opPos (d : Desc) (trans : Bool) (i k : Nat) : Nat := if trans then k * d.n + i else i * d.n + k

/-- The positions of a rectangle of rows and columns of a matrix. -/
def rectPos (d : Desc) (trans : Bool) (i0 m k0 k : Nat) : List Nat :=
  (List.range m).flatMap fun i => (List.range k).map fun x => opPos d trans (i0 + i) (k0 + x)

/-- What a tile reads and writes. -/
def Running.tileAccess (r : Running) (t : Tile) : List Access :=
  accessOf false ((r.desc t.a).accessAt (rectPos (r.desc t.a) t.ta t.m0 t.m t.k0 t.k)) ++
  accessOf false ((r.desc t.b).accessAt (rectPos (r.desc t.b) t.tb t.n0 t.n t.k0 t.k)) ++
  accessOf true ((r.desc t.c).accessAt (rectPos (r.desc t.c) false t.m0 t.m t.n0 t.n))

/-- Elements of one slice of a tensor: its outermost dimension fixed (08 R212). -/
def Desc.slice (d : Desc) : Nat := d.count / (d.shape.getLastD 1)

/-- The positions of slices. -/
def slicePos (d : Desc) (is : List Nat) : List Nat := is.flatMap fun i => (List.range d.slice).map (i * d.slice + ·)

/-- A request with segments: S of them have S + 1 offsets (08 R213, R217). -/
def MvReq.seg (q : MvReq) : Bool := q.op == 0xA4 || q.op == 0xA5

/-- The bytes of the index or offset tensor a request reads, or of the template of a compressed copy. -/
def MvReq.idxReads (q : MvReq) : List (Nat × Nat) :=
  match q.idx with
  | some d => if q.op = 0xA0 then d.spans else d.access q.s0 (q.count + b2n q.seg)
  | none => []

/-- The positions of the source that a request reads. -/
def MvReq.srcPos (q : MvReq) : List Nat :=
  let named := q.resolved.filterMap id
  match q.op with
  | 0xA0 => (List.range q.count).map (q.s0 + ·)
  | 0xA1 => slicePos q.src named
  | 0xA6 => List.range q.src.count
  | 0xA4 => slicePos q.src ((List.range (named.getLastD 0 - named.headD 0)).map (named.headD 0 + ·))
  | 0xA5 => slicePos q.src ((List.range (named.getLastD 0 - named.headD 0)).map (named.headD 0 + ·))
  | _ => slicePos q.src ((List.range q.count).map (q.d0 + ·))

/-- The positions of the destination that a request writes. -/
def MvReq.dstPos (q : MvReq) : List Nat :=
  match q.op with
  | 0xA0 => (List.range q.count).map (q.d0 + ·)
  | 0xA2 => slicePos q.dst (q.resolved.filterMap id)
  | 0xA3 => slicePos q.dst (q.resolved.filterMap id)
  | 0xA6 => List.range 72
  | _ => slicePos q.dst ((List.range q.count).map (q.d0 + ·))

/-- What a mover request reads and writes: the bytes it reaches, from the lowest to the highest of each descriptor (05 R104). -/
def MvReq.access (q : MvReq) : List Access :=
  accessOf true (q.dst.accessAt q.dstPos) ++ accessOf false (q.src.accessAt q.srcPos) ++ accessOf false q.idxReads

/-- The mover requests of a stroke that have not completed. -/
def State.moverReqs (s : State) (b : BayRef) (seq : Nat) : List MvReq :=
  s.movers.flatMap fun m => if m.1 / 16 = b.die then m.2.queue.filter fun q => q.bay == b.bay && q.seq == seq else []

/-- Span requests of a stroke that have no answer: their contexts [3 or 4, die, bay, seq, descriptor, position, count, instruction] (14 R366). -/
def State.spReqs (s : State) (b : BayRef) (seq : Nat) : List (List Nat) :=
  (s.span.unacked.flatMap fun k => k.2.map (·.ctx)).filter fun c => (c.take 4 == [3, b.die, b.bay, seq]) || (c.take 4 == [4, b.die, b.bay, seq])

/-- What an unanswered Span request reads (SP.PUT) or writes (SP.GET) in the bay. -/
def Running.spAccess (r : Running) (c : List Nat) : List Access :=
  accessOf (at' 0 c 0 == 4) ((r.desc (at' 0 c 4)).access (at' 0 c 5) (at' 0 c 6))

/-- The scoreboard lets an instruction with these accesses issue: none of them is ordered after a tile, mover request or
Span request of the stroke that has not completed. No word that fails parity is delivered or merged with: the instruction waits for what
the fault detection does (04 R86; 12 R307). -/
def State.free (s : State) (b : BayRef) (r : Running) (a : List Access) : Bool :=
  let x := s.bay b.die b.bay
  (x.tiles.all fun t => t.seq != r.seq || !conflicts a (r.tileAccess t)) &&
  ((s.moverReqs b r.seq).all fun q => !conflicts a q.access) &&
  ((s.spReqs b r.seq).all fun c => !conflicts a (r.spAccess c)) &&
  a.all fun x => !s.meetsBad x.1 x.2.1 x.2.2

/-- Every write to a descriptor by earlier instructions has completed (05 R129). -/
def State.settled (s : State) (b : BayRef) (r : Running) (d : Desc) : Bool := s.free b r (accessOf false d.spans)

/-- No tile or mover request of the stroke is outstanding. -/
def State.drained (s : State) (b : BayRef) (r : Running) : Bool :=
  (s.bay b.die b.bay).tiles.all (·.seq != r.seq) && (s.moverReqs b r.seq).isEmpty

/-! ### Histograms of destinations (03 R81) -/

/-- The record a stroke keeps for a descriptor. -/
def Running.hist (r : Running) (i : Nat) : Option Hist := if (r.desc i).isHist then some (mgetD Hist.empty r.hists i) else none

/-- Takes what a sink wrote back into the state and the stroke. -/
def Running.take (r : Running) (i : Nat) (k : Sink) : Running :=
  { r with exc := k.exc, hists := match k.hist with | some h => mset r.hists i h | none => r.hists }

/-- A sink for a destination descriptor. -/
def State.sink (s : State) (r : Running) (i : Nat) : Sink := ⟨s.mem, r.exc, r.hist i⟩

/-- The accumulating instruction at this place has already accumulated in the run it replays (10 R248). -/
def Running.already (r : Running) : Bool := r.accDone.contains r.pc

/-- Marks the accumulation of an instruction done. -/
def Running.accMark (r : Running) (pc : Nat) : Running :=
  { r with accDone := if r.accDone.contains pc then r.accDone else r.accDone ++ [pc] }

end Sys2Proof.Machine
end

