-- ==== Sys2Proof/Machine/Journal.lean ====
section
/-! DEFINITION. The replay journal's side of a stroke: ending it, abandoning it, and the replay that follows (12 R311 to R314; 04 R97,
R100; 14 R370). -/

namespace Sys2Proof.Machine

open Sys2Proof

/-- Sends SRC_SEAL and SRC_RETRACT whose PUTs have all been answered (14 R370). -/
def State.srcSettle (s : State) : State :=
  let busy := fun (e : List Nat) => (s.span.unacked.flatMap fun k => k.2.map (·.ctx)).any fun c => c.take 4 == 3 :: e.take 3
  let go := s.span.srcDue.filter fun e => !busy e
  go.foldl (fun (s : State) e =>
    s.send (at' 0 e 4) (at' 0 e 3 / 8) (at' 0 e 3 % 8)
      (pack [(2, at' 0 e 5), (2, 0), (4, 0), (4, 0), (4, 0), (8, strokeToken (at' 0 e 0) (at' 0 e 1) (at' 0 e 2)), (8, 0)]))
    { s with span := { s.span with srcDue := s.span.srcDue.filter busy } }

/-- Queues a seal or retraction token to every receiver of wet sources of a stroke (05 R126, R127). -/
def State.srcTokens (s : State) (b : BayRef) (r : Running) (kind : Nat) : State :=
  let due := r.spTokens.map fun key => [b.die, b.bay, r.seq, key, kind, r.inst.job]
  ({ s with span := { s.span with srcDue := s.span.srcDue ++ due } }).srcSettle

/-- Changes the seal entries of every bay of a die. -/
def State.modSealsDie (s : State) (die : Nat) (t : SealEnt → Bool) (f : SealEnt → SealEnt) : State :=
  { s with bays := s.bays.map fun x => if x.1 / 132 = die then (x.1, x.2.modSeals t f) else x }

/-- Takes a mover request off its queue: its bounce buffer is free, and it reads no more (08 R210; 04 R100). -/
def State.dropMv (s : State) (die mv : Nat) (q : MvReq) : State :=
  let s : State := match q.bounce with
    | some (d, b, a) => State.modBay s d b fun (x : Bay) => x.modSeals (fun (e : SealEnt) => e.owner.isBounce && e.start == a && e.state == .wet) SealEnt.freed
    | none => s
  (s.dropReaders die q.readers).modMover die mv fun m => { m with queue := m.queue.erase q }

/-- Chunks of palette slots that a tile names, by operand (09 R237): (slot, chunks). -/
def Running.tileChunks (r : Running) (t : Tile) : List (Nat × Nat) :=
  let one := fun (d : Desc) (ps : List Nat) => if d.compressed then [(d.pslot, ((ps.map fun p => d.blockOf p / 128).dedup).length)] else []
  one (r.desc t.a) (rectPos (r.desc t.a) t.ta t.m0 t.m t.k0 t.k) ++ one (r.desc t.b) (rectPos (r.desc t.b) t.tb t.n0 t.n t.k0 t.k)

/-- Adds to or takes from the refcounts of palette slots. -/
def Bay.palRef (x : Bay) (cs : List (Nat × Nat)) (add : Bool) : Bay :=
  { x with pal := cs.foldl (fun ps c => let p := at' {} ps c.1
    setAt ps c.1 { p with refcount := if add then p.refcount + c.2 else p.refcount - c.2 }) x.pal }

/-- Clears a spare that enters or leaves the lent condition: its SRAM is zero and its palette slots are empty (04 R107). -/
def State.clearSpare (s : State) (die b : Nat) : State :=
  ({ s with mem := clrBytes s.mem (sramDpa die b 0) sramSize } : State).modBay die b fun x => { x with pal := [{}, {}, {}, {}] }

/-- The arbiter of an arbitration that ends goes back to reserve, cleared, or, an active bay, frees what held the operands (04 R107;
12 R308). -/
def State.releaseArbiter (s : State) (a : Arb) : State :=
  let s : State := { s with ks := { s.ks with arbs := s.ks.arbs.filter (· != a) } }
  if a.wasSpare then (s.clearSpare a.die a.arbiter).modBay a.die a.arbiter fun x =>
    { (x.modSeals (·.owner == .arbiter a.bay) SealEnt.freed) with cond := .reserve, waking := false }
  else s.modBay a.die a.arbiter fun x => x.modSeals (·.owner == .arbiter a.bay) SealEnt.freed

/-- Ends the arbitration of a held tile of a stroke that leaves its bay (12 R308, R323). -/
def State.dropArb (s : State) (b : BayRef) (r : Running) : State :=
  if (s.bay b.die b.bay).tiles.any fun t => t.phase == .held && t.seq == r.seq then
    (s.ks.arbs.filter fun a => a.die == b.die && a.bay == b.bay).foldl State.releaseArbiter s
  else s

/-- The fills a bay's other strokes still need once one of them has gone, for which its fills stood (09 R236). -/
def Bay.wantAgain (m : Mem) (x : Bay) : Bay :=
  (x.slots.filter fun r => !r.issued || x.tiles.any fun t => t.seq == r.seq && t.phase == .waiting).foldl (fun x r =>
    match palIssue m x r.descs with
    | .ok fills => x.want r.seq fills
    | .error _ => x) x

/-- Takes a stroke off its bay with everything it holds: tiles, with the chunks that they still name (09 R237), an arbitration, mover
requests, readers, and its wet destinations, which become free; the targets of its wet sources are retracted (12 R313 steps 1, 2 and 4;
R330; 05 R127). Reduction buffers stay wet. -/
def State.dropStroke (s : State) (b : BayRef) (r : Running) : State :=
  let s := s.dropArb b r
  let tiles := (s.bay b.die b.bay).tiles.filter fun t => t.seq == r.seq && (t.phase == .waiting || t.phase == .pass)
  let s := s.modBay b.die b.bay fun x =>
    let x := tiles.foldl (fun x t => x.palRef (r.tileChunks t) false) x
    Bay.wantAgain s.mem { x with
      slots := x.slots.filter (·.seq != r.seq)
      tiles := x.tiles.filter (·.seq != r.seq)
      pal := x.pal.map fun p => { p with wants := p.wants.take (b2n p.filling) ++ (p.wants.drop (b2n p.filling)).filter (·.1 != r.seq) } }
  let s := (s.movers.filter fun m => m.1 / 16 == b.die).foldl (fun (s : State) m =>
    (m.2.queue.filter fun q => q.bay == b.bay && q.seq == r.seq).foldl (fun s q => s.dropMv b.die (m.1 % 16) q) s) s
  let s := s.dropReaders b.die r.inputs
  let s := s.modSealsDie b.die (fun e => e.owner == .stroke (r.seq * 256 + b.bay) && e.state == .wet) SealEnt.freed
  let s := s.modSealsDie b.die (fun e => e.owner == .wetSource (strokeToken b.die b.bay r.seq)) SealEnt.freed
  s.srcTokens b r 0x15

/-- Changes the journal entry of a sequence number. -/
def Bay.modJournal (x : Bay) (seq : Nat) (g : JEntry → JEntry) : Bay :=
  { x with journal := x.journal.map fun e => if e.seq = seq then g e else e }

/-- The bay that holds a bay's logical number now, or the bay itself (12 R313). -/
def State.homeOf (s : State) (b : BayRef) : Nat :=
  match s.logical b.die b.bay with
  | some l => s.phys b.die l
  | none => b.bay

/-- A run of a die. -/
def State.run (s : State) (die r : Nat) : Run := mgetD {} (s.die die).runs r
/-- Changes a run that exists. -/
def State.modRun (s : State) (die r : Nat) (f : Run → Run) : State :=
  s.modDie die fun d => { d with runs := mmod d.runs r f }
/-- The event data of a run: run, 0, node (17 R439). -/
def State.runData (s : State) (die r : Nat) : List Byte := pack [(1, r), (1, 0), (2, (s.run die r).node)]

/-- Halts a graph (05 R505; 17 R439). -/
def State.haltRun (s : State) (die r st : Nat) : State :=
  let s := s.modRun die r fun g => { g with state := .faulted, held := false, waitSlot := none }
  s.event evGraphFault (s.run die r).job die st (s.runData die r)

/-- An instance that will never seal leaves its run (12 R330). -/
def State.closeInst (s : State) (die : Nat) (i : Inst) : State :=
  s.modRun die i.run fun g => { g with openInsts := g.openInsts.filter (· != i.iid) }

/-- Discards a stroke without replay, as a thaw does (12 R330). -/
def State.discardStroke (s : State) (b : BayRef) (r : Running) : State :=
  ((s.dropStroke b r).modBay b.die b.bay (·.modJournal r.seq fun e => { e with state := .abandoned })).closeInst b.die r.inst

/-- The replay of a stroke: the instance as it was issued, its descriptors not yet mapped to a bay, with the inputs its journal entry
recorded (12 R312, R313). -/
def Running.replay (r : Running) (outcome : Nat) : Inst :=
  { r.inst with replayOf := some r.seq, attempt := r.inst.attempt + 1, accDone := r.accDone, outcome := max r.inst.outcome outcome,
                gens := some r.inputs }

/-- Abandons a stroke and queues its replay ahead of queued instances (12 R313). `home`: the physical bay that replays. An instance
already replayed twice is replayed no more (12 R314): DESIGN CHOICE, its graph halts with ST_REPLAY_EXHAUSTED (log 25). -/
def State.abandonTo (s : State) (b : BayRef) (r : Running) (home : Nat) (outcome : Nat) : State :=
  let tok := strokeToken b.die b.bay r.seq
  let s := s.dropStroke b r
  let s := s.retractToken b.die tok false
  let s := s.modBay b.die b.bay (·.modJournal r.seq fun e => { e with state := .abandoned, accDone := r.accDone })
  if 2 ≤ r.inst.attempt then (s.closeInst b.die r.inst).haltRun b.die r.inst.run stReplayExhausted
  else s.modBay b.die home fun x => { x with replays := x.replays ++ [r.replay outcome] }

/-- Abandons a stroke for replay on the same logical bay. -/
def State.abandon (s : State) (b : BayRef) (r : Running) : State := s.abandonTo b r (s.homeOf b) 1

end Sys2Proof.Machine
end

