-- ==== Sys2Proof/Machine/Access.lean ====
section
/-! DEFINITION. Loads, stores, arguments, the end of a stroke, summaries, BX64 accumulate-store and Span requests
(05 R122 to R130, R502). -/

namespace Sys2Proof.Machine

open Sys2Proof

/-- NOP (05 R130). -/
def execNop (b : BayRef) (f : Fields) (s : State) : Outcome :=
  .next (s.strokeStep b 0x00 f fun s r => .done s r)

/-- SEAL (05 R130): the tag, and the end of issue. -/
def execSeal (b : BayRef) (f : Fields) (s : State) : Outcome :=
  .next (s.strokeStep b 0x0F f fun s r => .done s { r with issued := true, tag := f.imm.toNat % 65536 })

/-! ### Loads and stores (05 R122, R123; 08 R202) -/

/-- Bytes of a register that elements of a format occupy (06 R144). -/
def regBytes (fmt : Nat) : Nat := regElems fmt * elemBits fmt / 8

/-- The register bytes that selected lanes move (05 R116). -/
def Running.moved (r : Running) (m fmt : Nat) : List Nat :=
  (List.range (regBytes fmt)).filter fun i => r.on m (i / 4)

/-- The elements that those bytes reach, as lowest and one past the highest. -/
def elemsOf (fmt : Nat) (bytes : List Nat) : Nat × Nat :=
  match bytes.head?, bytes.getLast? with
  | some a, some z => (a * 8 / elemBits fmt, (z * 8 + 7) / elemBits fmt + 1)
  | _, _ => (0, 0)

/-- Why a register's elements at a position cannot be moved, whatever lanes are selected: they leave the shape, or do not lie in one
innermost row of contiguous stride (05 R123), or do not start at a block (08 R202). -/
def Desc.moveFault (d : Desc) (p : Nat) : Option Nat :=
  if d.count < p + regElems d.fmt then some stRange
  else if p / d.n ≠ (p + regElems d.fmt - 1) / d.n ∨ !d.contig then some stMalformed
  else if isMX d.fmt ∧ p % d.n % 32 ≠ 0 ∧ !d.isMisal then some stMalformed
  else none

/-- The blocks whose side bytes selected lanes move, from block `j`. -/
def Running.sideLanes (r : Running) (m : Nat) : List Nat := (List.range 64).filter fun l => r.on m l

/-- The word that lane `l` loads from 256 B at position `p`: bytes past a register's elements read 0 (05 R122; 06 R144). -/
def Desc.loadWord (d : Desc) (m : Mem) (p l : Nat) : Word :=
  let byte := fun i => if i < regBytes d.fmt then rdBits m (d.bitAt (d.off p) + 8 * i) 8 else 0
  BitVec.ofNat 32 (leNat ((List.range 4).map fun k => BitVec.ofNat 8 (byte (4 * l + k))))

/-- LD (05 R122). -/
def execLd (b : BayRef) (f : Fields) (s : State) : Outcome :=
  .next (s.strokeStep b 0x90 f fun s r =>
    let d := r.desc (f.imm.toNat % 256)
    let p := (r.sreg f.src1).toNat
    let m := modOf false f
    if f.imm.toNat.testBit 8 then
      let j := p / 32
      let ls := r.sideLanes m
      if ls.any fun l => decide (d.blocks ≤ j + l) then .viol stRange (d.sideAddr j) (some d)
      else if !s.free b r (accessOf false (hull (ls.map fun l => (d.sideAddr (j + l), 1)))) then .hold
      else .done s (r.lanes f m fun l => BitVec.ofNat 32 (d.rdSide s.mem (j + l)))
    else
      let e := elemsOf d.fmt (r.moved m d.fmt)
      match d.moveFault p with
      | some st => .viol st (d.addr p) (some d)
      | none =>
        if !s.free b r (accessOf false (d.access (p + e.1) (e.2 - e.1))) then .hold
        else .done s (r.lanes f m fun l => d.loadWord s.mem p l))

/-- The stores after register bytes `bs` of v register `i` are stored at position `p` (05 R122). -/
def Running.storeBytes (r : Running) (i : BitVec 6) (d : Desc) (m : Mem) (p : Nat) (bs : List Nat) : Mem :=
  bs.foldl (fun mm k => wrBits mm (d.bitAt (d.off p) + 8 * k) 8 ((r.lane i (k / 4)).toNat >>> (8 * (k % 4)))) m

/-- Counts the element at a position; elements of a saturated BX64 block count as one block at the first of them (03 R77, R81).
The second part is the saturated block counted last. -/
def Desc.countElem (d : Desc) (m : Mem) (a : Hist × Option Nat) (x : Nat) : Hist × Option Nat :=
  let v := d.valAt m x
  if v = .sat then (if a.2 = some (d.blockOf x) then a else (a.1.addBlock [.sat], some (d.blockOf x))) else (a.1.add v, a.2)

/-- Counts elements at ascending positions, as they stand in the stores, into the record of descriptor `i` (03 R81). -/
def Running.countElems (r : Running) (i : Nat) (m : Mem) (ps : List Nat) : Running :=
  match r.hist i with
  | some h => { r with hists := mset r.hists i (ps.foldl ((r.desc i).countElem m) (h, none)).1 }
  | none => r

/-- ST (05 R122; 03 R81): the elements stored are counted as they stand. -/
def execSt (b : BayRef) (f : Fields) (s : State) : Outcome :=
  .next (s.strokeStep b 0x98 f fun s r =>
    let i := f.imm.toNat % 256
    let d := r.desc i
    let p := (r.sreg f.src2).toNat
    let m := modOf false f
    if f.imm.toNat.testBit 8 then
      let j := p / 32
      let ls := r.sideLanes m
      if ls.any fun l => decide (d.blocks ≤ j + l) then .viol stRange (d.sideAddr j) (some d)
      else if !s.free b r (accessOf true (hull (ls.map fun l => (d.sideAddr (j + l), 1)))) then .hold
      else .done { s with mem := ls.foldl (fun mm l => d.wrSide mm (j + l) ((r.lane f.src1 l).toNat % 256)) s.mem } r
    else
      let bs := r.moved m d.fmt
      let e := elemsOf d.fmt bs
      match d.moveFault p with
      | some st => .viol st (d.addr p) (some d)
      | none =>
        if !s.free b r (accessOf true (d.access (p + e.1) (e.2 - e.1))) then .hold
        else
          let mem := r.storeBytes f.src1 d s.mem p bs
          let es := (List.range (e.2 - e.1)).map (· + e.1) |>.filter fun x => bs.contains (x * elemBits d.fmt / 8)
          .done { s with mem := mem } (r.countElems i mem (es.map (p + ·))))

/-- Why one 32-bit element cannot be moved (05 R123). -/
def Desc.wordFault (d : Desc) (p : Nat) : Option Nat :=
  if d.count ≤ p then some stRange else if !d.contig then some stMalformed else none

/-- LD.S (05 R122). -/
def execLdS (b : BayRef) (f : Fields) (s : State) : Outcome :=
  .next (s.strokeStep b 0x91 f fun s r =>
    let d := r.desc (f.imm.toNat % 256)
    let p := (r.sreg f.src1).toNat
    match d.wordFault p with
    | some st => .viol st (d.addr p) (some d)
    | none => if !s.free b r (accessOf false (d.access p 1)) then .hold
      else .done s (r.setS f.dst (BitVec.ofNat 32 (d.rd s.mem p))))

/-- ST.S (05 R122). -/
def execStS (b : BayRef) (f : Fields) (s : State) : Outcome :=
  .next (s.strokeStep b 0x99 f fun s r =>
    let i := f.imm.toNat % 256
    let d := r.desc i
    let p := (r.sreg f.src2).toNat
    match d.wordFault p with
    | some st => .viol st (d.addr p) (some d)
    | none => if !s.free b r (accessOf true (d.access p 1)) then .hold
      else
        let mem := d.wr s.mem p (r.sreg f.src1).toNat
        .done { s with mem := mem } (r.countElems i mem [p]))

/-- LD.ARG (05 R134). -/
def execLdArg (b : BayRef) (f : Fields) (s : State) : Outcome :=
  .next (s.strokeStep b 0x95 f fun s r => .done s (r.setS f.dst (BitVec.ofNat 32 (at' 0 r.inst.args (f.imm.toNat % 8)))))

/-! ### Summaries (05 R129) -/

/-- Writes a summary slot. -/
def Running.summary (r : Running) (f : Fields) (v : Nat) : Running :=
  { r with sums := setAt r.sums (f.imm.toNat % 16) (some ⟨v, f.imm.toNat >>> 4 % 4⟩) }

/-- SUM (05 R129). -/
def execSum (b : BayRef) (f : Fields) (s : State) : Outcome :=
  .next (s.strokeStep b 0xC8 f fun s r => .done s (r.summary f (r.sreg f.src1).toNat))

/-- SUM.H: a word of a record, once every earlier write to the descriptor has completed (05 R129). -/
def execSumH (b : BayRef) (f : Fields) (s : State) : Outcome :=
  .next (s.strokeStep b 0xC9 f fun s r =>
    let i := f.imm.toNat >>> 8 % 256
    if !s.settled b r (r.desc i) then .hold
    else .done s (r.summary f (at' 0 (mgetD Hist.empty r.hists i).words (f.imm.toNat >>> 16 % 4096))))

/-- SUM.X: a fast counter or the strict flags, once every earlier instruction that can add to them has completed (05 R129). -/
def execSumX (b : BayRef) (f : Fields) (s : State) : Outcome :=
  .next (s.strokeStep b 0xCA f fun s r =>
    if !s.drained b r then .hold
    else
      let c := f.imm.toNat >>> 8 % 8
      .done s (r.summary f (if c = 4 then r.strictFlags else at' 0 r.exc c)))

/-! ### BX64 accumulate-store (05 R128; 02 R49 to R52) -/

/-- Why positions cannot be accumulated into: out of the shape, not multiples of 32 where only BXA.T may end at the last element
(05 R128), not whole blocks (08 R203), a destination block with E = 0 (02 R52), or bytes that are not an open slot's (04 R98). -/
def State.accFault (s : State) (die step : Nat) (d : Desc) (p n : Nat) : Option Nat :=
  if d.count < p + n then some stRange
  else if p % 32 ≠ 0 ∨ (n % 32 ≠ 0 ∧ p + n ≠ d.count) ∨ !d.wholeBlocks p n then some stMalformed
  else if !s.redOpen die step d ((List.range n).map (p + ·)) then some stProtected
  else if !d.accOk s.mem (d.blocksOf p n) then some stMalformed
  else none

/-- BXA.V (05 R128): lanes off by predicate contribute 0. -/
def execBxaV (b : BayRef) (f : Fields) (s : State) : Outcome :=
  .next (s.strokeStep b 0xC0 f fun s r =>
    let d := r.desc (f.imm.toNat % 256)
    let p := (r.sreg f.src2).toNat
    let m := modOf false f
    if r.already then .done s r
    else match s.accFault b.die r.inst.step d p 64 with
    | some st => .viol st (d.addr p) (some d)
    | none =>
      if !s.free b r (accessOf true (d.access p 64)) then .hold
      else
        .done (s.accRange b.die d p 64 (fun _ x => fpVal (if r.on m (x - p) then r.lane f.src1 (x - p) else 0#32))
          fun _ _ vs => bxAnchor vs != 0) (r.accMark r.pc))

/-- The positions of a BX64 tensor whose block has a reserved sub-code (02 R48). -/
def Desc.reservedAt (d : Desc) (m : Mem) (ps : List Nat) : Nat :=
  if d.fmt = 10 then ps.countP fun x => (d.rdBx m (d.blockOf x)).reserved else 0

/-- BXA.T (05 R128): the source is BX64 or FP32; a BX64 source block with a non-zero anchor touches what it reaches. -/
def execBxaT (b : BayRef) (f : Fields) (s : State) : Outcome :=
  .next (s.strokeStep b 0xC1 f fun s r =>
    let src := r.desc (f.imm.toNat >>> 8 % 256)
    let d := r.desc (f.imm.toNat % 256)
    let p := (r.sreg f.src1).toNat
    let n := (r.sreg f.src2).toNat
    if r.already then .done s r
    else if src.count < p + n then .viol stRange (src.addr p) (some src)
    else match s.accFault b.die r.inst.step d p n with
    | some st => .viol st (d.addr p) (some d)
    | none =>
      if !s.free b r (accessOf true (d.access p n) ++ accessOf false (src.access p n)) then .hold
      else
        .done (s.accRange b.die d p n src.valAt fun m ps vs =>
            if src.fmt = 10 then ps.any fun x => src.rdSide m (src.blockOf x) != 0 else bxAnchor vs != 0)
          ((r.accMark r.pc).raise false { inv := src.reservedAt s.mem ((List.range n).map (p + ·)) }))

/-! ### Span requests (05 R125 to R127, R502; 14 R367) -/

/-- Elements of one message: at most 16,384 B. -/
def perMessage (fmt : Nat) : Nat := 16384 * 8 / elemBits fmt

/-- The request header and the remote descriptor (14 R367). -/
def spHeader (job : Nat) (wet last : Bool) (pos count transfer token : Nat) (d : Desc) : List Byte :=
  pack [(2, job), (2, b2n wet + 2 * b2n last), (4, pos), (4, count), (4, transfer), (8, if wet then token else 0), (8, 0)] ++ sub d.raw 0 128

/-- Elements at consecutive positions, packed, then the side bytes of their blocks (14 R367). -/
def Desc.wire (d : Desc) (m : Mem) (p n : Nat) : List Byte :=
  natLe (cdiv (n * d.bits) 8) (packCodes d.bits ((List.range n).map fun i => d.rd m (p + i))) ++
  (if d.side then ((List.range n).map fun i => d.blockOf (p + i)).dedup.map fun j => BitVec.ofNat 8 (d.rdSide m j) else [])

/-- The parts of a range, in ascending position: (first, count, last). -/
def spParts (fmt n : Nat) : List (Nat × Nat × Bool) :=
  let k := perMessage fmt
  (List.range (cdiv n k)).map fun i => (k * i, min k (n - k * i), decide (n ≤ k * (i + 1)))

/-- Why a Span request cannot start: outside a shape, or not whole blocks. -/
def spFault (loc rem : Desc) (lp rp n : Nat) : Option (Nat × Desc) :=
  if loc.count < lp + n then some (stRange, loc)
  else if rem.count < rp + n then some (stRange, rem)
  else if !loc.wholeBlocks lp n then some (stMalformed, loc)
  else if !rem.wholeBlocks rp n then some (stMalformed, rem)
  else none

/-- SP.PUT (05 R125, R127): the data leaves in messages; a source the stroke itself has written is a wet source. -/
def execSpPut (b : BayRef) (f : Fields) (transfer : Nat) (s : State) : Outcome :=
  .next (s.strokeStep b 0xB0 f fun s r =>
    let i := f.imm.toNat >>> 24
    let loc := r.desc i
    let rem := r.desc (f.imm.toNat >>> 16 % 256)
    let lp := (r.sreg f.src1).toNat
    let rp := (r.sreg f.src2).toNat
    let n := (r.sreg f.src3).toNat
    match spFault loc rem lp rp n with
    | some (st, d) => .viol st d.base (some d)
    | none =>
      if !s.free b r (accessOf false (loc.access lp n)) then .hold
      else
        let wet := !loc.isIn
        let tok := strokeToken b.die b.bay r.seq
        let s := (spParts loc.fmt n).foldl (fun (s : State) (x : Nat × Nat × Bool) =>
          s.send 0x10 rem.node (dpaDie rem.base) (spHeader r.inst.job wet x.2.2 (rp + x.1) x.2.1 transfer tok rem ++ loc.wire s.mem (lp + x.1) x.2.1)
            [3, b.die, b.bay, r.seq, i, lp + x.1, x.2.1, r.pc]) s
        let key := rem.node * 8 + dpaDie rem.base
        .done s (if wet then { r with spTokens := if r.spTokens.contains key then r.spTokens else r.spTokens ++ [key] } else r))

/-- SP.GET (05 R125): asks for a remote range; the data is written as it arrives. -/
def execSpGet (b : BayRef) (f : Fields) (transfer : Nat) (s : State) : Outcome :=
  .next (s.strokeStep b 0xB1 f fun s r =>
    let i := f.imm.toNat >>> 24
    let loc := r.desc i
    let rem := r.desc (f.imm.toNat >>> 16 % 256)
    let lp := (r.sreg f.src1).toNat
    let rp := (r.sreg f.src2).toNat
    let n := (r.sreg f.src3).toNat
    match spFault loc rem lp rp n with
    | some (st, d) => .viol st d.base (some d)
    | none =>
      if !s.free b r (accessOf true (loc.access lp n)) then .hold
      else
        let s := (spParts loc.fmt n).foldl (fun (s : State) (x : Nat × Nat × Bool) =>
          s.send 0x12 rem.node (dpaDie rem.base) (spHeader r.inst.job false x.2.2 (rp + x.1) x.2.1 transfer 0 rem)
            [4, b.die, b.bay, r.seq, i, lp + x.1, x.2.1, r.pc]) s
        .done s r)

/-- Why an SP.ACC is refused when it executes (05 R132, R502; 10 R258). -/
def State.accReqFault (s : State) (b : BayRef) (r : Running) (loc rem : Desc) (slot lp rp n : Nat) : Option Nat :=
  let sl := s.slot b.die loc.slot
  let tok := strokeToken b.die b.bay r.seq
  if lp % 32 ≠ 0 ∨ rp % 32 ≠ 0 ∨ n % 32 ≠ 0 then some stMalformed
  else if sl.role ≠ .contributor ∨ sl.remoteSlot ≠ slot ∨ sl.state = .free ∨ sl.state = .lost then some stMalformed
  else if sl.token.isSome ∧ sl.token ≠ some tok then some stMalformed
  else if 64 ≤ sl.ranges.length then some stMalformed
  else if 32 * sl.blocks < lp + n ∨ loc.count < lp + n ∨ rem.count < rp + n then some stRange
  else none

/-- SP.ACC (05 R502; 10 R252, R256): the range is recorded; it is sent once the owner has granted it. -/
def execSpAcc (b : BayRef) (f : Fields) (s : State) : Outcome :=
  .next (s.strokeStep b 0xB2 f fun s r =>
    let loc := r.desc (f.imm.toNat >>> 24)
    let rem := r.desc (f.imm.toNat >>> 16 % 256)
    let lp := (r.sreg f.src1).toNat
    let rp := (r.sreg f.src2).toNat
    let n := (r.sreg f.src3).toNat
    let tok := strokeToken b.die b.bay r.seq
    match s.accReqFault b r loc rem (f.imm.toNat % 4096) lp rp n with
    | some st => .viol st loc.base (some loc)
    | none =>
      if !s.free b r (accessOf false (loc.access lp n)) then .hold
      else
        let sl := s.slot b.die loc.slot
        let rg := (lp / 32, rp / 32, n / 32)
        if sl.state = .held then .done s r
        else
          let s := s.modSlot b.die loc.slot fun sl => { sl with token := some tok, state := .released, ranges := sl.ranges ++ [rg] }
          let s := s.modBay b.die b.bay (·.modJournal r.seq fun e => { e with contribs := e.contribs ++ [(loc.slot, tok, [rg])] })
          let s := if sl.state = .opened then s.openReqSend b.die loc.slot
            else if sl.grantedC then (s.queueRange b.die loc.slot 0x04 (if sl.replay then 2 else 0) tok rg.1 rg.2.1 rg.2.2).pump b.die loc.slot
            else s
          .done s r)

end Sys2Proof.Machine
end

