-- ==== Sys2Proof/Machine/Record.lean ====
section
/-! DEFINITION. Varnish's records: shard descriptors, record pairs and their current copy, exact values and their split, and the
anchor array (11 R272 to R279). -/

namespace Sys2Proof.Machine

open Sys2Proof

/-! ### Shards (11 R273, R274) -/

/-- A shard of a die. -/
def State.shard (s : State) (die k : Nat) : Shard := mgetD {} (s.die die).shards k

/-- A 4-byte field of the descriptor as a word. -/
def Shard.word (h : Shard) (o : Nat) : Word := BitVec.ofNat 32 (fld h.raw o 4)
/-- The rule byte. -/
def Shard.rule (h : Shard) : Nat := fld h.raw 4 1
/-- Sparse. -/
def Shard.sparse (h : Shard) : Bool := bitOf h.rule 3
/-- Whole-layer. -/
def Shard.whole (h : Shard) : Bool := bitOf h.rule 2
/-- Host tier. -/
def Shard.hostTier (h : Shard) : Bool := bitOf h.rule 4
/-- The host port of a host-tier shard. -/
def Shard.port (h : Shard) : Nat := fld h.raw 7 1 % 2
/-- block_count. -/
def Shard.blocks (h : Shard) : Nat := fld h.raw 8 4
/-- norm_anchor. -/
def Shard.normAnchor (h : Shard) : Nat := fld h.raw 0xC 1

/-- The shard number of a slot (11 R274). -/
def Slot.shard (sl : Slot) : Nat := sl.shardF >>> 22
/-- The shard block of the slot's block 0 (11 R274). -/
def Slot.first (sl : Slot) : Nat := sl.shardF % 2 ^ 22

/-- Where a host-tier address lies in the store of what the part has written to the host's records (log 13): beyond every DPA. -/
def hostKey (port a : Nat) : Nat := (port + 1) * 2 ^ 64 + a

/-- A shard address in its tier. -/
def Shard.tier (h : Shard) (a : Nat) : Nat := if h.hostTier then hostKey h.port a else a

/-- The address of a record copy (11 R276). -/
def Shard.copyAt (h : Shard) (j c : Nat) : Nat := h.tier (fld h.raw 0x10 8 + 832 * j + 416 * c)
/-- The address of a block's outer-round anchor (11 R276). -/
def Shard.anchorAt (h : Shard) (j : Nat) : Nat := h.tier (fld h.raw 0x18 8 + 128 * j)

/-! ### Record copies (11 R276 to R278) -/

/-- One parameter of a record: θ, m, τ, μ. -/
structure Par where
  theta : Word
  m : Word
  tau : Int
  mu : Nat
deriving DecidableEq, Repr

/-- A record copy. -/
structure Rec where
  count : Nat := 0
  touched : Nat := 0
  hint : Nat := 0
  scale : Nat := 0
  flags : Nat := 0
  outerRound : Nat := 0
  pars : List Par := []
deriving DecidableEq, Repr

/-- Parses the 416 bytes of a copy. -/
def parseRec (bs : List Byte) : Rec :=
  { count := fld bs 0 4, touched := fld bs 4 4, hint := fld bs 8 1, scale := fld bs 9 1, flags := fld bs 0xA 2,
    outerRound := fld bs 0xC 4,
    pars := (List.range 32).map fun i =>
      let o := 0x20 + 12 * i
      { theta := BitVec.ofNat 32 (fld bs o 4), m := BitVec.ofNat 32 (fld bs (o + 4) 4), tau := sgn 16 (fld bs (o + 8) 2),
        mu := fld bs (o + 10) 2 } }

/-- The 416 bytes of a copy. -/
def Rec.bytes (r : Rec) : List Byte :=
  pack [(4, r.count), (4, r.touched), (1, r.hint), (1, r.scale), (2, r.flags), (4, r.outerRound)] ++ zeros 16 ++
  r.pars.flatMap fun p => pack [(4, p.theta.toNat), (4, p.m.toNat), (2, unsgn 16 p.tau), (2, p.mu)]

/-- seq. -/
def Rec.seq (r : Rec) : Nat := r.flags >>> 14
/-- outer. -/
def Rec.isOuter (r : Rec) : Bool := bitOf r.flags 12
/-- valid and not void. -/
def Rec.good (r : Rec) : Bool := bitOf r.flags 0 && !bitOf r.flags 13

/-- Reads a copy. -/
def Shard.rd (h : Shard) (m : Mem) (j c : Nat) : Rec := parseRec (rdBytes m (h.copyAt j c) 416)

/-- Which copy of a pair is current, from the two flags; none where the pair is damaged (11 R278). -/
def currentOf (a b : Rec) : Option Nat :=
  if a.good && b.good then
    (if a.seq = (b.seq + 1) % 4 then some 0 else if b.seq = (a.seq + 1) % 4 then some 1 else none)
  else if a.good then some 0
  else if b.good then some 1
  else none

/-- The current copy of block `j`: its number and the record. -/
def Shard.current (h : Shard) (m : Mem) (j : Nat) : Option (Nat × Rec) :=
  (currentOf (h.rd m j 0) (h.rd m j 1)).map fun c => (c, h.rd m j c)

/-- Flags of record B: seq one above record A's, valid, not void (11 R278). -/
def flagsB (a : Rec) (outer : Bool) : Nat := ((a.seq + 1) % 4) <<< 14 + b2n outer <<< 12 + 1

/-- Writes a copy; a host-tier copy goes to the host in one transaction too (11 R296). -/
def State.wrCopy (s : State) (h : Shard) (j c : Nat) (r : Rec) : State :=
  let s := { s with mem := wrBytes s.mem (h.copyAt j c) r.bytes }
  if h.hostTier then s.hostWrite h.port (fld h.raw 0x10 8 + 832 * j + 416 * c) r.bytes else s

/-- Sets void in the current copy of a block, which makes the other copy current (11 R279). -/
def State.voidBlock (s : State) (h : Shard) (j : Nat) : State :=
  match h.current s.mem j with
  | some (c, r) => s.wrCopy h j c { r with flags := r.flags ||| 2 ^ 13 }
  | none => s

/-- Writes an outer-round anchor. -/
def State.wrAnchor (s : State) (h : Shard) (j : Nat) (ws : List Word) : State :=
  let bs := ws.flatMap fun w => natLe 4 w.toNat
  let s := { s with mem := wrBytes s.mem (h.anchorAt j) bs }
  if h.hostTier then s.hostWrite h.port (fld h.raw 0x18 8 + 128 * j) bs else s

/-- Reads an outer-round anchor. -/
def Shard.anchor (h : Shard) (m : Mem) (j : Nat) : List Word :=
  (List.range 32).map fun i => BitVec.ofNat 32 (rdNat m (h.anchorAt j + 4 * i) 4)

/-! ### Exact values and their split (11 R277, R288) -/

/-- The exponent of q for a master (11 R277). -/
def qExp (theta : Word) : Int :=
  let e := theta.toNat >>> 23 % 256
  if e = 0 then -165 else (e : Int) - 127 - 39

/-- The exponent of the grid that holds every value p. -/
def pGrid : Int := -165

/-- θ + τ × q on the grid 2^-165; an infinite or NaN master has no such value and is read as 0. -/
def pOf (theta : Word) (tau : Int) : Int :=
  match fpVal theta with
  | .fin n m _ e => onGrid pGrid n m e + tau * ((1 <<< (qExp theta - pGrid).toNat : Nat) : Int)
  | _ => 0

/-- The values of a record's parameters as format values (11 R297). -/
def Rec.vals (r : Rec) : List Val :=
  r.pars.map fun p => match fpVal p.theta with
    | .fin _ _ _ _ => intVal (pOf p.theta p.tau) pGrid
    | v => v

/-- V = n · 2^e split into θ1, τ1 and whether θ1 overflowed (11 R288, R290): rounding to nearest with ties toward +Inf. -/
def splitV (n : Int) (e : Int) : Word × Int × Bool :=
  if n = 0 then (0#32, 0, false)
  else
    let u : Int := max ((n.natAbs.log2 : Int) + e - 23) (-149)
    let k : Int := if u ≤ e then n * ((1 <<< (e - u).toNat : Nat) : Int)
      else (2 * n + ((1 <<< (u - e).toNat : Nat) : Int)) / ((1 <<< (u - e + 1).toNat : Nat) : Int)
    let (w, x) := fin32 true .ne (decide (n < 0)) k.natAbs 1 u
    if 0 < x.ov then (w, 0, true)
    else
      let q := qExp w
      let g := min e (min u q)
      let d := n * ((1 <<< (e - g).toNat : Nat) : Int) - k * ((1 <<< (u - g).toNat : Nat) : Int)
      (w, d / ((1 <<< (q - g).toNat : Nat) : Int), false)

/-! ### Hints and slot anchors (10 R246; 11 R291) -/

/-- The anchor hints of the records of a slot's blocks; none while a pair is damaged. -/
def State.slotHints (s : State) (die n : Nat) : Option (List Nat) :=
  let sl := s.slot die n
  let h := s.shard die sl.shard
  (List.range sl.blocks).mapM fun i => (h.current s.mem (sl.first + i)).map (·.2.hint)

/-- The anchor array of a slot. -/
def State.slotAnchors (s : State) (die n : Nat) : List Nat :=
  let d := s.slotDesc die n
  (List.range (s.slot die n).blocks).map fun i => d.rdSide s.mem i

/-- The anchor a block of a slot takes from its record's hint (10 R246); free while the pair is damaged. -/
def State.slotHint (s : State) (die n i : Nat) : Nat :=
  let sl := s.slot die n
  match (s.shard die sl.shard).current s.mem (sl.first + i) with
  | some x => max 1 (min 254 x.2.hint)
  | none => 1 + (Config.openAnchor i).val

/-- The anchors a slot reopens with: those Varnish left in its array (10 R269; 11 R291), and the record's hint where a block was left
non-numeric, as an anchor lies in 1 to 254 (10 R246; 02 R48, R52). -/
def State.nextAnchors (s : State) (die n : Nat) : List Nat :=
  (s.slotAnchors die n).zipIdx.map fun x => if 1 ≤ x.1 ∧ x.1 ≤ 254 then x.1 else s.slotHint die n x.2

/-- Zeroes a slot's elements and writes its anchors (10 R246). -/
def State.anchorSlot (s : State) (die n : Nat) (as : List Nat) : State :=
  let d := s.slotDesc die n
  let m := clrBytes s.mem d.base (256 * (s.slot die n).blocks)
  { s with mem := wrBytes m d.sideBase (as.map fun a => BitVec.ofNat 8 a) }

/-- Frees the touch-directory entries of a slot (11 R293). -/
def State.untouch (s : State) (die n : Nat) : State :=
  (s.modDie die fun d => { d with touch := d.touch.filter (·.1 != n) }).modSlot die n fun sl => { sl with touchOver := false }

end Sys2Proof.Machine
end

