-- ==== Sys2Proof/Machine/Reduction.lean ====
section
/-! DEFINITION. The reduction protocol at owner, twin and contributor: messages, grants, the inclusion set, back-pressure, slice
resets and release (10 R252 to R271). -/

namespace Sys2Proof

open Sys2Proof.Machine

/-! ### Headers (10 R254, R255) -/

/-- flags of a reduction message. -/
def SpanMsg.redFlags (m : SpanMsg) : Nat := fld m.body 1 1
/-- job. -/
def SpanMsg.redJob (m : SpanMsg) : Nat := fld m.body 4 2
/-- slot. -/
def SpanMsg.redSlot (m : SpanMsg) : Nat := fld m.body 6 2
/-- step. -/
def SpanMsg.redStep (m : SpanMsg) : Nat := fld m.body 8 4
/-- contributor. -/
def SpanMsg.redWho (m : SpanMsg) : Nat := fld m.body 0xC 2
/-- block_count. -/
def SpanMsg.redCount (m : SpanMsg) : Nat := fld m.body 0xE 2
/-- first_block. -/
def SpanMsg.redFirst (m : SpanMsg) : Nat := fld m.body 0x10 4
/-- token. -/
def SpanMsg.redToken (m : SpanMsg) : Nat := fld m.body 0x18 8
/-- carried. -/
def SpanMsg.redCarried (m : SpanMsg) : Bool := bitOf m.redFlags 0
/-- replay. -/
def SpanMsg.redReplay (m : SpanMsg) : Bool := bitOf m.redFlags 1

/-- The step of the slot that a withdrawal concerns: its own, or for a carried contribution the one after (10 R263). -/
def SpanMsg.withdrawFor (m : SpanMsg) : Nat := m.redStep + b2n m.redCarried

/-- A source block of a message: anchor and elements. -/
def SpanMsg.block (m : SpanMsg) (i : Nat) : Bx :=
  ⟨fld m.body (32 + i) 1, (List.range 32).map fun k => fld m.body (96 + 256 * i + 8 * k) 8⟩

end Sys2Proof

namespace Sys2Proof.Machine

open Sys2Proof

/-- Bytes of a message of a type (10 R253, R255); SLICE_DONE's anchors are checked against the slot. -/
def redLenOk (m : SpanMsg) : Bool :=
  let n := m.body.length
  if m.kind = 4 ∨ m.kind = 6 then decide (1 ≤ m.redCount ∧ m.redCount ≤ 64) && n == 96 + 256 * m.redCount
  else m.redCount == 0 && m.redFirst == 0 &&
    (if m.kind = 9 then decide (304 < n) else if m.kind = 0xB then n == 304 else n == 32)

/-- A reduction message is well formed on its own (10 R254, R255). -/
def redOk (m : SpanMsg) : Bool :=
  redLenOk m && fld m.body 0 1 == m.kind && decide (m.redFlags < 8) && fld m.body 2 2 == m.src && decide (m.redSlot < 4096) &&
  decide (m.redWho < 1024) && zeroAt m.body 0x14 4 && zeroAt m.body 0x18 2 &&
  (if m.kind = 4 ∨ m.kind = 6 then zeroAt m.body (32 + m.redCount) (64 - m.redCount) else true)

/-- Receives a reduction message. -/
def State.redRecv (s : State) (die kind : Nat) (m : SpanMsg) (f : State → State × Answer) : State :=
  s.recv die kind m (redOk m) f

/-- Answers an accepted message later: the answer is recorded and sent (14 R366, R371). -/
def State.lateAnswer (s : State) (m : SpanMsg) (status : Nat) : State :=
  let k := chanKey m.src (vcOf m.kind)
  let old := mgetD [] s.span.answers k
  let s := { s with span := { s.span with answers := mset s.span.answers k ((mset old m.seq (0x30 * 65536 + status)).drop (old.length - 255)) } }
  s.answer m 0x30 status

/-! ### Members and the inclusion record (10 R261, R264) -/

/-- The slot receives contributions as owner: an owner slot, or a twin slot after takeover (12 R325). -/
def State.actsOwner (s : State) (die n : Nat) : Bool :=
  let sl := s.slot die n
  sl.role == .owner || (sl.role == .twin && s.part.takenOver)

/-- The twin a slot reports to: none after takeover or where the twin is fenced. -/
def State.twinOf (s : State) (die n : Nat) : Option Nat :=
  let sl := s.slot die n
  if sl.role = .owner ∧ !s.part.takenOver ∧ !s.part.fencedNodes.contains sl.twinNode then some sl.twinNode else none

/-- A member of a slot: a contributor's contribution of a step. -/
def Slot.member (sl : Slot) (c : Nat) (carried : Bool) (step : Nat) : Option Member :=
  sl.members.find? fun x => x.index == c && x.carried == carried && x.step == step

/-- Changes a member. -/
def Slot.modMember (sl : Slot) (c : Nat) (carried : Bool) (step : Nat) (f : Member → Member) : Slot :=
  { sl with members := sl.members.map fun y => if y.index = c ∧ y.carried = carried ∧ y.step = step then f y else y }

/-- Adds or replaces a member. -/
def Slot.putMember (sl : Slot) (x : Member) : Slot :=
  if (sl.member x.index x.carried x.step).isSome then sl.modMember x.index x.carried x.step fun _ => x
  else { sl with members := sl.members ++ [x] }

/-- The member's contribution belongs to the set. -/
def Member.inSet (x : Member) : Bool := x.granted && !x.dropped && !x.withdrawn

/-- included_count. -/
def Slot.included (sl : Slot) : Nat := (sl.members.filter fun x => x.inSet && !x.carried).length
/-- carried_count. -/
def Slot.carriedN (sl : Slot) : Nat := (sl.members.filter fun x => x.inSet && x.carried).length

/-- A bitmap of 128 bytes. -/
def bitmap (is : List Nat) : List Byte :=
  natLe 128 (is.dedup.foldl (fun a i => a + 2 ^ i) 0)

/-- The 272 B inclusion record (10 R264). -/
def Slot.inclusion (sl : Slot) (n : Nat) : List Byte :=
  let is := fun c => (sl.members.filter fun x => x.inSet && x.carried == c).map (·.index)
  pack [(4, sl.step), (2, n), (2, sl.included), (2, sl.carriedN), (2, sl.expected), (1, sl.resets), (3, 0)] ++
  bitmap (is false) ++ bitmap (is true)

/-- Owner and twin slots of a die in GATED or UPDATING (10 R266). -/
def State.pendingSlots (s : State) (die : Nat) : Nat :=
  ((s.die die).slots.filter fun x => x.2.role != .contributor && (x.2.state == .gated || x.2.state == .updating)).length

/-- The die lets a slot with no grant yet in its step grant (10 R266). -/
def State.mayGrant (s : State) (die n : Nat) : Bool :=
  (s.slot die n).members.any (·.granted) || decide (s.pendingSlots die < (s.die die).pendingLimit)

/-! ### Fixing, gating, consumption (10 R261, R262; 11 R281) -/

/-- An earlier-step slot of the same shard and an overlapping block range is GATED or UPDATING (11 R281). -/
def State.earlierSlot (s : State) (die n : Nat) : Bool :=
  let sl := s.slot die n
  (s.die die).slots.any fun x => x.1 != n && x.2.role != .contributor && x.2.shard == sl.shard && decide (x.2.step < sl.step) &&
    overlaps sl.first sl.blocks x.2.first x.2.blocks && (x.2.state == .gated || x.2.state == .updating)

/-- A Varnish unit under field test lets no slot of its die begin (12 R320). -/
def State.varnishTested (s : State) (die : Nat) : Bool := s.ks.tests.any fun t => t.unit == 3 && t.die == die

/-- Varnish begins to consume an UPDATING slot that waits for no earlier one; what a field test has made it wait counts as stall
(12 R320). -/
def State.beginConsume (s : State) (die n : Nat) : State :=
  let sl := s.slot die n
  if sl.state ≠ .updating ∨ sl.halted ∨ (mget (s.die die).cons n).isSome ∨ s.earlierSlot die n ∨ s.varnishTested die then s
  else
    let t := sl.testWait.getD s.part.tai
    (s.modSlot die n fun sl => { sl with testWait := none }).modDie die fun d => { d with
      cons := mset d.cons n { since := t, stallUs := (s.part.tai - t) / 1000 } }

/-- A GATED slot whose members have all sealed becomes UPDATING (10 R262); a halted slice goes no further (10 R268). -/
def State.gateCheck (s : State) (die n : Nat) : State :=
  let sl := s.slot die n
  if sl.state = .gated ∧ !sl.halted ∧ (sl.members.filter (·.inSet)).all (·.isSealed) then
    (s.modSlot die n fun sl => { sl with
      state := .updating, testWait := if s.varnishTested die then some s.part.tai else none }).beginConsume die n
  else s

/-- Gives the credit a reset withheld: the contributions that came in it are answered (10 R268; 14 R371). -/
def State.giveCredit (s : State) (die n : Nat) : State :=
  (s.slot die n).withheld.foldl (fun (s : State) q => s.lateAnswer q stOk) (s.modSlot die n fun sl => { sl with withheld := [] })

/-- Sends a message of an owner slot to its twin over Pier (10 R253). -/
def State.twinSend (s : State) (die n kind flags step who token : Nat) (payload : List Byte) : State :=
  match s.twinOf die n with
  | some t => s.send kind t die (redBody kind flags (s.part.node.getD 0) (s.slot die n).job n step who 0 0 token payload)
  | none => s

/-- The die a token names (10 R254). -/
def tokenDie (t : Nat) : Nat := t >>> 24 % 256

/-- Sends a message of an owner slot to a contributor. -/
def State.memberSend (s : State) (die n kind flags : Nat) (x : Member) (payload : List Byte) : State :=
  s.send kind x.node (tokenDie (x.token.getD 0))
    (redBody kind (flags + b2n x.carried) (s.part.node.getD 0) (s.slot die n).job n x.step x.index 0 0 (x.token.getD 0) payload)

/-- Fixes the inclusion set; the slot becomes GATED and the twin is told (10 R261). A halted slice stays (10 R268). -/
def State.fixSet (s : State) (die n : Nat) : State :=
  if (s.slot die n).halted then s
  else
    let s := (s.modSlot die n fun sl => { sl with state := .gated, fixed := true, tFixed := s.part.tai }).giveCredit die n
    let sl := s.slot die n
    (s.twinSend die n 0x0B 0 sl.step 0 0 (sl.inclusion n)).gateCheck die n

/-- Fixes the set once each of the N contributors has been granted or has withdrawn. -/
def State.fixCheck (s : State) (die n : Nat) : State :=
  let sl := s.slot die n
  if s.actsOwner die n ∧ sl.state = .opened ∧
      sl.expected ≤ (sl.members.filter fun x => !x.carried && (x.granted || x.withdrawn)).length then s.fixSet die n
  else s

/-- DEADLINE_EXPIRY: deadline_us has passed since the first grant (10 R261). -/
def execDeadlineExpiry (die slot : Nat) (s : State) : Outcome :=
  .next (
    let sl := s.slot die slot
    if s.live ∧ s.actsOwner die slot ∧ sl.state = .opened ∧ sl.deadline ≠ 0 ∧ sl.members.any (fun x => x.granted && !x.carried) ∧
        sl.tFirst + sl.deadline * 1000 ≤ s.part.tai then s.fixSet die slot
    else s)

/-! ### Requests (10 R256, R263, R266) -/

/-- What the owner decides about a request. -/
inductive Decision where
  | hold
  | grant (slot : Nat) (carried : Bool)
  | drop
deriving DecidableEq, Repr

/-- Decides a request of contributor for `step` addressed to slot `n` (10 R263, R266). -/
def State.verdict (s : State) (die n step : Nat) : Decision :=
  let sl := s.slot die n
  let p := s.slot die sl.partner
  if sl.expected = 0 ∨ sl.step < step then .hold
  else if step = sl.step ∧ !sl.fixed ∧ sl.state = .opened then (if s.mayGrant die n then .grant n false else .hold)
  else if step = sl.step ∧ !sl.fixed ∧ sl.opening.isSome then .hold
  else if !sl.carry ∨ p.expected = 0 ∨ p.role ≠ sl.role ∨ p.job ≠ sl.job ∨ step + 1 < p.step then .drop
  else if p.step < step + 1 then .hold
  else if p.fixed then .drop
  else if p.state = .opened then (if s.mayGrant die sl.partner then .grant sl.partner true else .hold)
  else if p.opening.isSome then .hold
  else .drop

/-- Grants a request (10 R256): GRANT_NOTE to the twin, then GRANT. -/
def State.grantTo (s : State) (die n : Nat) (carried : Bool) (m : SpanMsg) : State :=
  let first := !carried && !(s.slot die n).members.any fun x => x.granted && !x.carried
  let x : Member := { index := m.redWho, node := m.src, carried := carried, granted := true, token := some m.redToken, step := m.redStep }
  let s := s.modSlot die n fun sl => { sl.putMember x with tFirst := if first then s.part.tai else sl.tFirst }
  let s := s.modSlot die m.redSlot fun sl => { sl with lateCarried := if carried then min 255 (sl.lateCarried + 1) else sl.lateCarried }
  let s := s.twinSend die n 0x0A (b2n carried) m.redStep m.redWho m.redToken []
  (s.memberSend die n 0x02 0 x []).fixCheck die n

/-- The payload of SLICE_DONE (10 R253, R269). -/
def State.donePayload (s : State) (die n : Nat) : List Byte :=
  (s.slot die n).inclusion n ++ (s.nextAnchors die n).map fun a => BitVec.ofNat 8 a

/-- Answers LATE_DROP; the contributor gets SLICE_DONE at the slot's release, at once where the slot has been released
(10 R263, R269). -/
def State.dropReq (s : State) (die n : Nat) (m : SpanMsg) : State :=
  let x : Member := { index := m.redWho, node := m.src, dropped := true, token := some m.redToken, step := m.redStep }
  let s := s.modSlot die n fun sl => { sl with lateDropped := min 65535 (sl.lateDropped + 1) }
  let s := s.memberSend die n 0x03 0 x []
  if (s.slot die n).state = .free ∧ (s.slot die n).opening.isNone then s.memberSend die n 0x09 0 x (s.donePayload die n)
  else s.modSlot die n fun sl => { sl with members := sl.members ++ [x] }

/-- Carries a decision out. -/
def State.settleReq (s : State) (die n : Nat) (m : SpanMsg) : Decision → State
  | .grant p carried => s.grantTo die p carried m
  | .drop => s.dropReq die n m
  | .hold => s

/-- Holds a request with the time it came. -/
def State.holdReq (s : State) (die n : Nat) (m : SpanMsg) : State :=
  s.modSlot die n fun sl => { sl with heldMsgs := sl.heldMsgs ++ [m], heldSince := sl.heldSince ++ [s.part.tai] }

/-- The member that a request addressed to a slot stands for already: of the slot itself, or, carried, of its partner; with the number
of the slot it belongs to (10 R252, R263). -/
def State.asked (s : State) (die n : Nat) (m : SpanMsg) : Option (Nat × Member) :=
  let sl := s.slot die n
  match sl.member m.redWho false m.redStep with
  | some x => if x.granted || x.dropped then some (n, x) else none
  | none => match (s.slot die sl.partner).member m.redWho true m.redStep with
    | some x => if x.granted then some (sl.partner, x) else none
    | none => none

/-- Notes the node of the contributor a grant was noted for before its request came (10 R269; 12 R325). -/
def State.noteSender (s : State) (die : Nat) (k : Nat × Member) (node : Nat) : State :=
  s.modSlot die k.1 (·.modMember k.2.index k.2.carried k.2.step fun x => { x with node := node })

/-- OPEN_REQ: the owner grants, drops or holds; the twin answers once it knows of the grant (10 R256, R263, R266; 14 R371). A twin that
has taken over and knew only of the grant answers it with a GRANT of its own (12 R325). -/
def execOpenReq (die : Nat) (m : SpanMsg) (s : State) : Outcome :=
  .next (s.redRecv die 0x01 m fun s =>
    let n := m.redSlot
    let sl := s.slot die n
    if sl.expected ≠ 0 ∧ (sl.role = .contributor ∨ sl.job ≠ m.redJob ∨ sl.expected ≤ m.redWho) then (s.discardMsg m, .nak stMalformed)
    else match s.asked die n m with
      | some k =>
        if sl.role = .twin ∧ k.2.node = 0xFFF then
          let s := s.noteSender die k m.src
          (if s.part.takenOver then s.memberSend die k.1 0x02 0 { k.2 with node := m.src } [] else s, .ack stOk)
        else if s.actsOwner die n then (s.discardMsg m, .nak stMalformed)
        else (s, .ack stOk)
      | none =>
        if sl.role = .twin ∧ !s.part.takenOver then (s.holdReq die n m, .silent)
        else match s.verdict die n m.redStep with
          | .hold => (s.holdReq die n m, .silent)
          | d => (s.settleReq die n m d, .ack stOk))

/-- Takes the held requests of a slot that satisfy a test off it. -/
def Slot.dropHeld (sl : Slot) (t : SpanMsg → Bool) : Slot :=
  let keep := (List.zip sl.heldMsgs sl.heldSince).filter fun x => !t x.1
  { sl with heldMsgs := keep.map (·.1), heldSince := keep.map (·.2) }

/-- Takes a held request off a slot, counting the time it was held (10 R266, R271). -/
def State.unhold (s : State) (die n : Nat) (m : SpanMsg) : State :=
  let sl := s.slot die n
  let t := (((List.zip sl.heldMsgs sl.heldSince).find? fun x => x.1 == m).map (·.2)).getD s.part.tai
  s.modSlot die n fun sl => { sl.dropHeld (· == m) with
    heldUs := if m.kind = 1 then satAdd 32 sl.heldUs ((s.part.tai - t) / 1000) else sl.heldUs }

/-- A twin slot takes note of a grant and answers the request it held of that contributor (10 R256; 14 R371). -/
def State.noteGrant (s : State) (die n : Nat) (m : SpanMsg) : State :=
  let sl := s.slot die n
  let first := !m.redCarried && !sl.members.any fun x => x.granted && !x.carried
  let x : Member := { index := m.redWho, carried := m.redCarried, granted := true, token := some m.redToken, step := m.redStep }
  let s := s.modSlot die n fun sl => { sl.putMember x with tFirst := if first then s.part.tai else sl.tFirst }
  let at_ := if m.redCarried then sl.partner else n
  let s := if m.redCarried then s.modSlot die at_ fun sl => { sl with lateCarried := min 255 (sl.lateCarried + 1) } else s
  match (s.slot die at_).heldMsgs.find? fun q => q.kind == 1 && q.redWho == m.redWho && q.redStep == m.redStep with
  | some q => ((s.unhold die at_ q).noteSender die (n, x) q.src).lateAnswer q stOk
  | none => s

/-- GRANT_NOTE: the twin learns of a grant and answers the request it held (10 R256; 14 R371). -/
def execGrantNote (die : Nat) (m : SpanMsg) (s : State) : Outcome :=
  .next (s.redRecv die 0x0A m fun s =>
    if (s.slot die m.redSlot).role ≠ .twin ∨ (s.slot die m.redSlot).job ≠ m.redJob then (s.discardMsg m, .nak stMalformed)
    else (s.noteGrant die m.redSlot m, .ack stOk))

/-- Answers the requests a twin slot holds for which no grant can follow: the owner has dropped them (10 R256, R263, R271). -/
def State.flushTwin (s : State) (die n : Nat) (t : SpanMsg → Bool) : State :=
  ((s.slot die n).heldMsgs.filter fun q => q.kind == 1 && t q).foldl (fun (s : State) q =>
    ((s.unhold die n q).modSlot die n fun sl => { sl with lateDropped := min 65535 (sl.lateDropped + 1) }).lateAnswer q stOk) s

/-- The contributors of a bitmap at an offset of an inclusion record. -/
def setOf (incl : List Byte) (o : Nat) : List Nat :=
  let v := fld incl o 128
  (List.range 1024).filter v.testBit

/-- A twin slot takes the inclusion set: it is GATED, members the set does not name leave it, and no request it holds can be granted
any more (10 R256, R262). -/
def State.takeSet (s : State) (die n : Nat) (incl : List Byte) : State :=
  let sl := s.slot die n
  let named := fun (x : Member) => (setOf incl (if x.carried then 0x90 else 0x10)).contains x.index
  let s := s.modSlot die n fun sl => { sl with
    state := .gated, fixed := true, tFixed := s.part.tai, members := sl.members.map fun x => { x with dropped := x.dropped || !named x } }
  let s := s.giveCredit die n
  let s := if sl.carry then s else s.flushTwin die n fun q => decide (q.redStep ≤ sl.step)
  (s.flushTwin die sl.partner fun q => decide (q.redStep < sl.step)).gateCheck die n

/-- SET_FIXED: the twin receives the set (10 R256, R262). -/
def execSetFixed (die : Nat) (m : SpanMsg) (s : State) : Outcome :=
  .next (s.redRecv die 0x0B m fun s =>
    let sl := s.slot die m.redSlot
    if sl.role ≠ .twin ∨ sl.job ≠ m.redJob ∨ sl.step ≠ fld (m.body.drop 32) 0 4 then (s.discardMsg m, .nak stMalformed)
    else (s.takeSet die m.redSlot (m.body.drop 32), .ack stOk))

/-! ### Contributions at a receiver (10 R255, R257, R259, R263) -/

/-- The block less another as it was aligned; none where that cannot restore it (10 R259). -/
def bxRetract (b : Bx) (vs : List Val) : Option Bx :=
  if b.anchor = 255 ∨ (bxMarker vs).isSome then none
  else
    let (n, sat) := bxAdd (b.ns.map (sgn 64)) ((vs.map (bxAlign b.anchor)).map (0 - ·))
    if sat then none else some ⟨b.anchor, n.map (unsgn 64)⟩

/-- The receiver takes contributions for the slot: OPEN or GATED, or in RESET those of a replay (10 R255, R268). -/
def Slot.takes (sl : Slot) (m : SpanMsg) : Bool :=
  sl.state == .opened || sl.state == .gated || (sl.state == .resetting && m.redReplay)

/-- The member a message is of, where it may contribute and has not sealed. -/
def Slot.sender (sl : Slot) (m : SpanMsg) : Option Member :=
  (sl.member m.redWho m.redCarried m.redStep).bind fun x => if x.granted && !x.dropped && !x.isSealed then some x else none

/-- What a receiver does with a contribution it does not take: in a reset its credit is withheld until the set is fixed again (10 R268);
else it is answered and has no effect. -/
def State.notTake (s : State) (die n : Nat) (m : SpanMsg) : State × Answer :=
  if (s.slot die n).state = .resetting then (s.modSlot die n fun sl => { sl with withheld := sl.withheld ++ [m] }, .silent)
  else (s, .ack stOk)

/-- Some block of a range has anchor 0: an accumulate into it is malformed (02 R52). -/
def State.unanchored (s : State) (die n first count : Nat) : Bool :=
  let d := s.slotDesc die n
  (List.range count).any fun i => d.rdSide s.mem (first + i) == 0

/-- Applies the blocks of a CONTRIB. -/
def State.applyContrib (s : State) (die n : Nat) (m : SpanMsg) : State :=
  let d := s.slotDesc die n
  (List.range m.redCount).foldl (fun (s : State) i =>
    let b := m.block i
    s.accumulate die d (m.redFirst + i) b.vals (b.anchor != 0)) s

/-- CONTRIB (10 R255; 14 R371); into a block with anchor 0 it is malformed (02 R52). -/
def execContrib (die : Nat) (m : SpanMsg) (s : State) : Outcome :=
  .next (s.redRecv die 0x04 m fun s =>
    let n := m.redSlot
    let sl := s.slot die n
    match sl.sender m with
    | none => (s.discardMsg m, .nak stMalformed)
    | some _ =>
      if sl.role = .contributor ∨ sl.job ≠ m.redJob then (s.discardMsg m, .nak stMalformed)
      else if sl.blocks < m.redFirst + m.redCount then (s.discardMsg m, .nak stRange)
      else if !sl.takes m then s.notTake die n m
      else if s.unanchored die n m.redFirst m.redCount then (s.discardMsg m, .nak stMalformed)
      else
        let s := s.modSlot die n (·.modMember m.redWho m.redCarried m.redStep fun x =>
          { x with delivered := x.delivered + 1, token := some m.redToken, resent := x.resent || m.redReplay })
        (s.applyContrib die n m, .ack stOk))

/-! ### Slice reset (10 R267, R268) -/

/-- The event data of a slot (17 R439). -/
def Slot.data (sl : Slot) (n last : Nat) : List Byte := pack [(2, n), (2, 0), (4, sl.step), (1, last)]

/-- Outer updates of a die wait for an inner update no more (01 R31). -/
def Die.innerOver (d : Die) (n : Nat) : Die :=
  { d with cons := d.cons.map fun c => (c.1, { c.2 with behind := c.2.behind.filter (·.2 != n) }) }

/-- Clears a slot's buffer and its members' courses for a reset (10 R268 steps 1 and 2), the anchors from the records' hints (R246);
records that a consumption of it wrote are voided (12 R318 stage 1). -/
def State.clearSlot (s : State) (die n : Nat) : State :=
  let s := match mget (s.die die).cons n with
    | some c => c.written.foldl (fun (s : State) i => s.voidBlock (s.shard die (s.slot die n).shard) ((s.slot die n).first + i)) s
    | none => s
  let s := (s.anchorSlot die n ((List.range (s.slot die n).blocks).map (s.slotHint die n))).untouch die n
  (s.modSlot die n fun sl => { sl with
    state := .resetting, fixed := true, resets := sl.resets + 1
    members := sl.members.map fun x => { x with delivered := 0, isSealed := false, resent := false } }).modDie die fun d =>
      ({ d with cons := mdel d.cons n, staged := d.staged.filter (·.1 != n) } : Die).innerOver n

/-- Ends a reset once every member of the set has sent again and sealed, or withdrawn (10 R268 step 5). -/
def State.resetCheck (s : State) (die n : Nat) : State :=
  let sl := s.slot die n
  if s.actsOwner die n ∧ sl.state = .resetting ∧ (sl.members.filter (·.inSet)).all (·.isSealed) then s.fixSet die n else s

/-- Resets a slice (10 R268); a third trigger in one step halts it. A twin that finds the trigger tells the owner, which resets the slice:
DESIGN CHOICE, by a RESET_NOTE to the owner, as the spec names no message for it (log 28). -/
def State.resetSlice (s : State) (die n : Nat) : State :=
  let sl := s.slot die n
  if sl.role = .twin ∧ !s.part.takenOver ∧ sl.state ≠ .free then
    s.send 0x0C sl.ownerNode die (redBody 0x0C 0 (s.part.node.getD 0) sl.job n sl.step 0 0 0 0 [])
  else if !s.actsOwner die n ∨ sl.halted then s
  else if 2 ≤ sl.resets then
    (s.modSlot die n fun sl => { sl with halted := true }).event evSliceReset sl.job die stSliceLost (sl.data n 3)
  else
    let s := s.clearSlot die n
    let s := s.modJob sl.job fun j => { j with sliceResets := satAdd 32 j.sliceResets 1 }
    let s := s.event evSliceReset sl.job die stOk (sl.data n (sl.resets + 1))
    let s := s.twinSend die n 0x0C 0 sl.step 0 0 []
    let s := s.modSlot die n fun sl => { sl with members := sl.members.map fun x =>
      { x with dropped := x.dropped || s.part.fencedNodes.contains x.node } }
    let s := ((s.slot die n).members.filter (·.inSet)).foldl (fun (s : State) x => s.memberSend die n 0x08 0 x []) s
    s.resetCheck die n

/-- RESET_NOTE: the twin resets too; from the twin, the owner resets the slice (10 R267, R268). -/
def execResetNote (die : Nat) (m : SpanMsg) (s : State) : Outcome :=
  .next (s.redRecv die 0x0C m fun s =>
    let sl := s.slot die m.redSlot
    if sl.role = .contributor ∨ sl.job ≠ m.redJob ∨ sl.step ≠ m.redStep ∨ (sl.role = .owner ∧ m.src ≠ sl.twinNode) then
      (s.discardMsg m, .nak stMalformed)
    else (if sl.role = .owner then s.resetSlice die m.redSlot else s.clearSlot die m.redSlot, .ack stOk))

/-- Subtracts the blocks of a RETRACT; a block that cannot be restored resets the slice (10 R259, R267). -/
def State.retractBlocks (s : State) (die n : Nat) (m : SpanMsg) : State :=
  let d := s.slotDesc die n
  let s := s.modSlot die n fun sl => { (sl.modMember m.redWho m.redCarried m.redStep fun x => { x with delivered := x.delivered - 1 }) with
    retractions := min 65535 (sl.retractions + 1) }
  let r := (List.range m.redCount).foldl (fun (a : State × Bool) i =>
    let src := m.block i
    let j := m.redFirst + i
    match bxRetract (d.rdBx a.1.mem j) src.vals with
    | some b =>
      let t : State := { a.1 with mem := d.wrBx a.1.mem j b }
      (if src.anchor ≠ 0 then t.touch die n j else t, a.2)
    | none => (a.1, true)) (s, false)
  if r.2 then r.1.resetSlice die n else r.1

/-- RETRACT: takes back what a CONTRIB added (10 R259, R267). -/
def execRetract (die : Nat) (m : SpanMsg) (s : State) : Outcome :=
  .next (s.redRecv die 0x06 m fun s =>
    let sl := s.slot die m.redSlot
    match sl.sender m with
    | none => (s.discardMsg m, .nak stMalformed)
    | some _ =>
      if sl.role = .contributor ∨ sl.job ≠ m.redJob then (s.discardMsg m, .nak stMalformed)
      else if sl.blocks < m.redFirst + m.redCount then (s.discardMsg m, .nak stRange)
      else if !sl.takes m then s.notTake die m.redSlot m
      else (s.retractBlocks die m.redSlot m, .ack stOk))

/-- SEAL: the contribution is final at this receiver (10 R257, R262). -/
def execReductionSeal (die : Nat) (m : SpanMsg) (s : State) : Outcome :=
  .next (s.redRecv die 0x05 m fun s =>
    let n := m.redSlot
    let sl := s.slot die n
    match sl.sender m with
    | none => (s.discardMsg m, .nak stMalformed)
    | some _ =>
      if sl.role = .contributor ∨ sl.job ≠ m.redJob then (s.discardMsg m, .nak stMalformed)
      else if !sl.takes m then (s, .ack stOk)
      else
        let s := s.modSlot die n fun sl => { (sl.modMember m.redWho m.redCarried m.redStep fun x =>
          { x with isSealed := true, token := some m.redToken }) with tSealed := s.part.tai }
        ((s.gateCheck die n).resetCheck die n, .ack stOk))

/-- A withdrawal at a receiver: before any CONTRIB the contributor leaves the set, after one the slice is reset, in a reset the
member leaves (10 R249, R261, R267, R268). -/
def State.withdrawn (s : State) (die n : Nat) (m : SpanMsg) : State :=
  let sl := s.slot die n
  let old := sl.member m.redWho m.redCarried m.redStep
  let had : Nat := (old.map (·.delivered)).getD 0
  let x : Member := { index := m.redWho, node := m.src, carried := m.redCarried, step := m.redStep }
  let s := s.modSlot die n fun sl =>
    { sl.putMember { old.getD x with withdrawn := true } with withdrawnN := min 65535 (sl.withdrawnN + 1) }
  if sl.state = .resetting then s.resetCheck die n
  else if had ≠ 0 then s.resetSlice die n
  else if sl.state = .gated ∧ s.actsOwner die n then s.fixSet die n
  else (s.fixCheck die n).gateCheck die n

/-- A withdrawal for the step the slot serves takes effect; one for a later step waits until the slot opens for it (10 R266), and one for
an earlier step finds nothing to leave. -/
def State.takeWithdraw (s : State) (die n : Nat) (m : SpanMsg) : State × Answer :=
  let sl := s.slot die n
  if sl.step < m.withdrawFor ∨ (sl.step = m.withdrawFor ∧ sl.opening.isSome) then (s.holdReq die n m, .silent)
  else (if sl.step = m.withdrawFor ∧ sl.state ≠ .free then s.withdrawn die n m else s, .ack stOk)

/-- WITHDRAW (10 R249, R261, R267). -/
def execWithdraw (die : Nat) (m : SpanMsg) (s : State) : Outcome :=
  .next (s.redRecv die 0x07 m fun s =>
    let sl := s.slot die m.redSlot
    if sl.role = .contributor ∨ sl.job ≠ m.redJob ∨ sl.expected ≤ m.redWho ∨
        ((sl.member m.redWho m.redCarried m.redStep).map (·.isSealed)).getD false then
      (s.discardMsg m, .nak stMalformed)
    else s.takeWithdraw die m.redSlot m)

/-- A held message may be settled: a request the owner decides, a withdrawal whose step the slot serves. -/
def State.heldReady (s : State) (die n : Nat) (m : SpanMsg) : Bool :=
  let sl := s.slot die n
  if m.kind = 7 then decide (m.withdrawFor ≤ sl.step) && sl.opening.isNone
  else s.actsOwner die n && s.verdict die n m.redStep != .hold

/-- HELD_REQUEST_RELEASE: the oldest held request that may proceed does (10 R266; 20 R503). -/
def execHeldRequestRelease (die slot : Nat) (s : State) : Outcome :=
  .next (
    if !s.live ∨ (s.slot die slot).role = .contributor then s
    else match (s.slot die slot).heldMsgs.find? (s.heldReady die slot) with
      | none => s
      | some m =>
        let t := s.unhold die slot m
        (if m.kind = 7 then (t.takeWithdraw die slot m).1 else t.settleReq die slot m (s.verdict die slot m.redStep)).lateAnswer m stOk)

/-! ### Messages to a contributor (10 R256, R263, R268, R270) -/

/-- The contributor slot of a die that a message of an owner is about. -/
def State.contribOf (s : State) (die : Nat) (m : SpanMsg) : Option Nat :=
  ((s.die die).slots.find? fun x =>
    let sl := x.2
    sl.role == .contributor && sl.state != .free && sl.job == m.redJob && sl.expected == m.redWho && sl.step == m.redStep &&
    (sl.ownerNode == m.src || sl.twinNode == m.src) &&
    (sl.sendSlot == m.redSlot || (m.kind == 2 && m.redCarried && sl.token == some m.redToken))).map (·.1)

/-- GRANT: the contributor starts to send with the credit the grant carries; a carried grant is for the partner slot
(10 R256, R263; 14 R371). -/
def execGrant (die : Nat) (m : SpanMsg) (s : State) : Outcome :=
  .next (s.redRecv die 0x02 m fun s =>
    match s.contribOf die m with
    | none => (s.discardMsg m, .nak stMalformed)
    | some n =>
      let sl := s.slot die n
      if sl.state ≠ .released then (s, .ack stOk)
      else
        let s := s.modSlot die n fun sl => { sl with
          grantedC := true, carriedC := m.redCarried, sendSlot := m.redSlot,
          credit := if sl.credit.contains m.src then sl.credit else sl.credit ++ [m.src] }
        ((if sl.grantedC then s.pump die n else s.sendRanges die n 0).trySeal die n, .ack stOk))

/-- LATE_DROP: the contribution is dropped and the slot becomes HELD (10 R263; 14 R372). -/
def execLateDrop (die : Nat) (m : SpanMsg) (s : State) : Outcome :=
  .next (s.redRecv die 0x03 m fun s =>
    match s.contribOf die m with
    | none => (s.discardMsg m, .nak stMalformed)
    | some n =>
      if (s.slot die n).state ≠ .released then (s, .ack stOk)
      else ((s.modSlot die n fun sl => { sl with state := .held, ranges := [], sendQ := [] }).gatherAsk die n, .ack stOk))

/-- The messages of a contribution that a reset has made void no longer take up its credit or keep it from sealing: their answers are
withheld until the set is fixed again (10 R268). DESIGN CHOICE: the spec does not say how a member regains its credit (log 28). -/
def State.forgetFlying (s : State) (die n : Nat) : State :=
  { s with span := { s.span with unacked := s.span.unacked.map fun k =>
      (k.1, k.2.map fun u => if u.ctx.drop 1 = [die, n] ∧ u.kind ≠ 1 then { u with ctx := [] } else u) } }

/-- REPLAY_REQ: the contribution is sent again from its buffer with the replay flag; a LOST slot withdraws (10 R268). -/
def execReplayReq (die : Nat) (m : SpanMsg) (s : State) : Outcome :=
  .next (s.redRecv die 0x08 m fun s =>
    match s.contribOf die m with
    | none => (s.discardMsg m, .nak stMalformed)
    | some n =>
      let sl := s.slot die n
      if sl.state = .lost then
        ((s.redTargets die n).foldl (fun s node => s.redSend die n node 0x07 2 0 0 (sl.token.getD 0) []) s, .ack stOk)
      else if !sl.grantedC then (s, .ack stOk)
      else
        let s := s.modSlot die n fun sl => { sl with replay := true, sealSent := false, sendQ := [], sent := [], retractDue := false }
        let s := s.forgetFlying die n
        ((s.sendRanges die n 2).trySeal die n, .ack stOk))

/-- A slot begins to open for a step with anchors: its buffer is allocated wet, zeroed and anchored (04 R97; 10 R246). -/
def State.openSlot (s : State) (die n step : Nat) (as : List Nat) : State :=
  let sl := s.slot die n
  let b := s.phys die sl.lbay
  let s := s.modSlot die n fun sl => { sl with
    state := .free, step := step, opening := some as, members := [], fixed := false, resets := 0, halted := false, tFirst := 0, tFixed := 0,
    tSealed := 0, tAgreed := 0, heldUs := 0, retractions := 0, lateCarried := 0, lateDropped := 0, withdrawnN := 0, token := none,
    ranges := [], grantedC := false, sendQ := [], sent := [], credit := [], sealSent := false, wantRelease := false, touchOver := false,
    retractDue := false, withdrawDue := false, sendSlot := sl.remoteSlot, carriedC := false, replay := false, testWait := none,
    disputed := false, withheld := [] }
  let s := s.modBay die b fun x => x.register sl.elemOff (256 * sl.blocks) .wet (.slot n)
  s.modBay die b fun x => x.register sl.anchorOff sl.blocks .wet (.slot n)

/-- A slot's buffer is released: its entries become free (04 R97). -/
def State.freeBuffer (s : State) (die n : Nat) : State :=
  { s with bays := s.bays.map fun x =>
      if x.1 / 132 = die then (x.1, x.2.modSeals (fun e => e.state == .wet && e.owner == .slot n) SealEnt.freed) else x }

/-- SLICE_DONE: the slot leaves HELD or LOST: it becomes FREE, or opens for its step + 2 with the anchors carried (10 R270). -/
def execSliceDone (die : Nat) (m : SpanMsg) (s : State) : Outcome :=
  .next (s.redRecv die 0x09 m fun s =>
    match s.contribOf die m with
    | none => (s.discardMsg m, .ack stOk)
    | some n =>
      let sl := s.slot die n
      if sl.state ≠ .held ∧ sl.state ≠ .lost then (s, .ack stOk)
      else
        let as := (m.body.drop 304).map (·.toNat)
        let s := (s.modSlot die n fun sl => { sl with state := .free, token := none, ranges := [] }).freeBuffer die n
        (if sl.recycle ∧ sl.blocks ≤ as.length then s.openSlot die n (sl.step + 2) (as.take sl.blocks) else s, .ack stOk))

/-- SLOT_OPEN_DONE: the buffer is zero and anchored, and the slot is OPEN; owner and twin slots opened without anchors take the
record hints (10 R246). -/
def execSlotOpenDone (die slot : Nat) (s : State) : Outcome :=
  .next (
    let sl := s.slot die slot
    let as := match sl.opening with
      | none => none
      | some [] => s.slotHints die slot
      | some as => some as
    match as with
    | none => s
    | some as =>
      if !s.live then s
      else (s.anchorSlot die slot as).modSlot die slot fun sl => { sl with state := .opened, opening := none })

/-! ### Release after agreement (10 R269) -/

/-- Owner and twin release their buffers; SLICE_DONE goes to every contributor included, carried or dropped as late; the slot
becomes FREE or opens for step + 2 (10 R269). -/
def State.releaseSlice (s : State) (die n : Nat) : State :=
  let sl := s.slot die n
  let as := s.nextAnchors die n
  let s := s.modSlot die n fun sl => { sl with tAgreed := s.part.tai, inclRec := sl.inclusion n, wcStep := some sl.step }
  let s := if s.actsOwner die n then
      (sl.members.filter fun x => (x.granted && !x.withdrawn) || x.dropped).foldl
        (fun (s : State) x => s.memberSend die n 0x09 0 x (s.donePayload die n)) s
    else s
  let s := if sl.role = .twin ∧ !s.part.takenOver then s.flushTwin die n fun q => decide (q.redStep ≤ sl.step) else s
  let s := ((s.modSlot die n fun sl => { sl with state := .free }).freeBuffer die n).untouch die n
  if sl.recycle then s.openSlot die n (sl.step + 2) as else s

end Sys2Proof.Machine
end

