-- ==== Sys2Proof/Machine/Rule.lean ====
section
/-! DEFINITION. Varnish's arithmetic: learning rate, norm, clipping, the rule, lazy catch-up, the outer rule and whole-layer
orthogonalisation (11 R283 to R292, R300, R301). -/

namespace Sys2Proof.Machine

open Sys2Proof

/-! ### Operations: one FP32 rounding to nearest, ties to even -/

/-- a + b. -/
def vadd (a b : Word) : FRes := fadd false .ne a b
/-- a − b. -/
def vsub (a b : Word) : FRes := fsub false .ne a b
/-- a × b. -/
def vmul (a b : Word) : FRes := fmul false .ne a b
/-- a / b. -/
def vdiv (a b : Word) : FRes := fdiv false .ne a b
/-- a × b + c. -/
def vfma (a b c : Word) : FRes := ffma false .ne a b c

/-- A quotient of two naturals, rounded once. -/
def natDiv (a b : Nat) : Word := (fin32 false .ne false a b 0).1

/-- A natural in FP32. -/
def nat32 (a : Nat) : Word := natDiv a 1

/-- √(m · 2^e) / d correctly rounded to FP32. -/
def sqrtDiv (m : Nat) (e : Int) (d : Nat) : Word :=
  let e' := e / 2 - 128
  let q := m <<< (e - 2 * e').toNat
  let r := isqrt q
  (fin32 false .ne false (2 * r + b2n (decide (r * r ≠ q))) (2 * d) e').1

/-- a > b for words that are not NaN. -/
def vgt (a b : Word) : Bool := !isNaN a && !isNaN b && flt b a

/-! ### The learning rate (11 R283) -/

/-- RN(π). -/
def pi32 : Word := 0x40490FDB#32

/-- η_t. -/
def Shard.etaAt (h : Shard) (t : Nat) : Word :=
  let mx := h.word 0x2C
  let mn := h.word 0x30
  let w := fld h.raw 0x34 4
  let total := fld h.raw 0x38 4
  let warm := (vmul mx (natDiv (t + 1) w)).1
  match fld h.raw 6 1 % 4 with
  | 0 => mx
  | 1 =>
    if t < w then warm
    else if t < total then
      let c := vcos (vmul pi32 (natDiv (t - w) (total - w))).1
      let k := (vmul 0x3F000000#32 (vsub mx mn).1).1
      (vadd mn (vmul k (vadd one32 c).1).1).1
    else mn
  | 2 => if t < w then warm else (vmul mx (frsqrt false .ne (natDiv (t + 1) w)).1).1
  | _ =>
    let n := fld h.raw 0x3C 4
    let k := t / n
    let y := fun i => at' 0 h.table i
    if 255 ≤ k then y 255
    else (vadd (y k) (vmul (natDiv (t % n) n) (vsub (y (k + 1)) (y k)).1).1).1

/-! ### The norm (11 R284, R285) -/

/-- A block of the buffer in the norm pass. -/
inductive GradKind where
  | zero
  | numeric
  | saturated
  | nonfinite
deriving DecidableEq, Repr

/-- The class of a block by its anchor (11 R284). -/
def Bx.kind (b : Bx) : GradKind :=
  if b.anchor = 0 then .zero else if b.anchor < 255 then .numeric else if b.sub = 4 then .saturated else .nonfinite

/-- Q of a block in units of 2^-340. -/
def Bx.squares (b : Bx) : Nat :=
  if b.kind = .numeric then (b.ns.foldl (fun a n => a + (sgn 64 n).natAbs ^ 2) 0) <<< (2 * b.anchor - 2) else 0

/-- Every element is zero. -/
def Bx.allZero (b : Bx) : Bool := b.kind == .zero || (b.kind == .numeric && b.ns.all (· == 0))

/-- sq_fixed on the grid 2^(norm_anchor − 171). -/
def sqFixed (q d anchor : Nat) : Nat := min (2 ^ 63 - 1) (q / (d ^ 2 * 2 ^ (169 + anchor)))

/-- G of an integer sum on that grid. -/
def globalNorm (sum anchor : Nat) : Word := sqrtDiv sum ((anchor : Int) - 171) 1

/-- N > κ × r, the product exact (11 R286). -/
def absurd (n kappa r : Word) : Bool :=
  match fpVal n, mulVal (fpVal kappa) (fpVal r) with
  | .fin _ mn dn en, some (.fin _ m d e) => magLt m d e mn dn en
  | _, _ => false

/-! ### The rule (11 R288 to R290) -/

/-- What is constant over an updated slice. -/
structure SliceK where
  form : Nat
  whole : Bool
  beta1 : Word
  beta2 : Word
  lambda : Word
  gamma : Word
  eta : Word
  s : Word
  t : Nat
deriving DecidableEq, Repr

/-- 1 − β1. -/
def SliceK.c1 (k : SliceK) : Word := (vsub one32 k.beta1).1
/-- 1 − β2. -/
def SliceK.c2 (k : SliceK) : Word := (vsub one32 k.beta2).1

/-- g = round(x × s), the product exact. -/
def SliceK.grad (k : SliceK) (x : Val) : FRes :=
  match mulVal x (fpVal k.s) with
  | some (.fin n m d e) => fin32 false .ne n m d e
  | some (.inf n) => (inf32 n, {})
  | _ => invalidRes

/-- (g, a, m1) from the gradient and the moment. -/
def SliceK.moment (k : SliceK) (x : Val) (m : Word) : Word × Word × Word × Exc :=
  let (g, x0) := k.grad x
  let (a, x1) := vmul k.c1 g
  let (m1, x2) := vfma k.beta1 m a
  (g, a, m1, excSum [x0, x1, x2])

/-- sign(w): −1, 0 or +1; of a zero, 0. -/
def sign32 (w : Word) : Word := if isZero w then 0#32 else if isNeg w then 0xBF800000#32 else one32

/-- bc = 1 / (1 − pow(β1, c)), the difference exact, rounded once (11 R289). -/
def biasFactor (beta1 : Word) (c : Nat) : FRes :=
  if c = 2 ^ 32 - 1 ∨ isZero beta1 then (one32, {})
  else match fpVal (vpow beta1 c) with
    | .fin n m _ e =>
      let q := min e 0
      let d := ((1 <<< (-q).toNat : Nat) : Int) - onGrid q n m e
      if d = 0 then (inf32 false, { dz := 1 }) else fin32 false .ne (decide (d < 0)) 1 d.natAbs (-q)
    | .inf n => (zero32 (!n), {})
    | _ => (qNaN, {})

/-- V = p − v split into θ1 and τ1; an infinite master or v leaves τ1 = 0 (11 R288, R290). -/
def subSplit (theta : Word) (tau : Int) (v : Word) : Word × Int × Exc :=
  match fpVal theta, fpVal v with
  | .fin .., .fin n m _ e =>
    let g := min pGrid e
    let (w, t, o) := splitV (pOf theta tau * ((1 <<< (pGrid - g).toNat : Nat) : Int) - onGrid g n m e) g
    (w, t, { ov := b2n o })
  | _, _ => let (w, x) := vsub theta v; (w, 0, x)

/-- One parameter of a block: its new θ, τ and m, and its events. `d0`: the direction of whole-layer mode with its moment. -/
def SliceK.param (k : SliceK) (bc : Word) (x : Val) (p : Par) (d0 : Option (Word × Word)) : Par × Exc :=
  let (g, a, m1, x0) := k.moment x p.m
  let (d, m1, x1) := match d0 with
    | some (u, m1) => let (d, x) := vmul k.gamma u; (d, m1, x)
    | none => match k.form with
      | 0 => let (d, x) := vmul m1 bc; (d, m1, excSum [x0, x])
      | 1 => let (d, x) := vfma k.beta1 m1 a; (d, m1, excSum [x0, x])
      | _ =>
        let (b, x) := vmul k.c2 g
        let (y, x') := vfma k.beta2 p.m b
        (sign32 y, m1, excSum [x0, x, x'])
  let (w, x2) := vfma k.lambda p.theta d
  let (v, x3) := vmul k.eta w
  let (theta, tau, x4) := subSplit p.theta p.tau v
  ({ p with theta := theta, tau := tau, m := m1 }, excSum [x1, x2, x3, x4])

/-- Δ of a record (11 R292). -/
def SliceK.delta (k : SliceK) (r : Rec) : Nat := if r.count = 0 ∨ k.t ≤ r.touched then 0 else k.t - r.touched - 1

/-- P = p × w split (11 R292). -/
def mulSplit (theta : Word) (tau : Int) (w : Word) : Word × Int × Exc :=
  match fpVal theta, fpVal w with
  | .fin .., .fin n m _ e =>
    let (t, u, o) := splitV (pOf theta tau * (if n then -(m : Int) else m)) (pGrid + e)
    (t, u, { ov := b2n o })
  | _, _ => let (t, x) := vmul theta w; (t, 0, x)

/-- Lazy catch-up of a record's parameters (11 R292). -/
def SliceK.catchUp (k : SliceK) (r : Rec) : List Par × Exc :=
  let n := k.delta r
  if n = 0 then (r.pars, {})
  else
    let bm := vpow k.beta1 n
    let (el, x0) := vmul k.eta k.lambda
    let (b, x1) := vsub one32 el
    let bp := vpow b n
    let ps := r.pars.map fun p =>
      let (m, x2) := vmul p.m bm
      let (theta, tau, x3) := mulSplit p.theta p.tau bp
      (({ p with m := m, theta := theta, tau := tau } : Par), x2.add x3)
    (ps.map (·.1), excSum ([x0, x1] ++ ps.map (·.2)))

/-- The hint of an updated block (11 R291). -/
def hintOf (b : Bx) (old : Nat) : Nat :=
  let (m, d, e) := amaxOf b.vals
  if m = 0 then old else (max 1 (min 254 (127 + vlog2 m d e))).toNat

/-- Record B of an updated block, without its wc_scale, from record A and the gradient; with its events (11 R288). `u`: U and M of
the block in whole-layer mode. -/
def SliceK.update (k : SliceK) (a : Rec) (g : Bx) (u : Option (List Word × List Word)) : Rec × Exc :=
  let (ps, x0) := k.catchUp a
  let c := satAdd 32 a.count 1
  let (bc, x1) := if k.form = 0 ∧ !k.whole then biasFactor k.beta1 c else (one32, {})
  let rs := (List.range 32).map fun i =>
    k.param bc (at' .nan g.vals i) (at' ⟨0, 0, 0, 0⟩ ps i) (u.map fun x => (at' 0 x.1 i, at' 0 x.2 i))
  ({ a with count := c, touched := k.t, hint := hintOf g a.hint, flags := flagsB a false, pars := rs.map (·.1) },
    excSum ([x0, x1] ++ rs.map (·.2)))

/-- M of a block: m1 of its parameters after catch-up (11 R301 pass 1). A saturated block receives no update and its moment stays as it
is in record A (R291): that is what M takes of it (DEDUCED, log 28). -/
def SliceK.momentsOf (k : SliceK) (a : Rec) (g : Bx) : List Word :=
  if g.kind = .saturated then (List.range 32).map fun i => (at' ⟨0, 0, 0, 0⟩ a.pars i).m
  else
    let ps := (k.catchUp a).1
    (List.range 32).map fun i => (k.moment (at' .nan g.vals i) (at' ⟨0, 0, 0, 0⟩ ps i).m).2.2.1

/-! ### The outer rule (11 R300; 15 R408) -/

/-- round_bf16, with its events. -/
def bf16Of (w : Word) : Nat × Exc := fBF16.ofVal true (fpVal w)

/-- A BF16 code as an FP32 word. -/
def ofBf16 (c : Nat) : Word := BitVec.ofNat 32 (c * 2 ^ 16)

/-- V = p + ((a1 − a) + δ), exact, split into θ1 and τ1 (11 R300; 15 R408); a term that is not finite leaves τ1 = 0. -/
def moveSplit (p : Par) (a a1 delta : Word) : Word × Int × Exc :=
  match fpVal p.theta, fpVal a, fpVal a1, fpVal delta with
  | .fin .., .fin n0 m0 _ e0, .fin n1 m1 _ e1, .fin n2 m2 _ e2 =>
    let g := min (min pGrid e0) (min e1 e2)
    let v := pOf p.theta p.tau * ((1 <<< (pGrid - g).toNat : Nat) : Int) + onGrid g n1 m1 e1 - onGrid g n0 m0 e0 + onGrid g n2 m2 e2
    let (w, t, o) := splitV v g
    (w, t, { ov := b2n o })
  | _, _, _, _ => let (w, x) := vadd p.theta (vadd (vsub a1 a).1 delta).1; (w, 0, x)

/-- An outer update of one parameter: new parameter and anchor from the averaged difference and the own difference; with its events. -/
def outerParam (beta eta : Word) (nesterov : Bool) (p : Par) (a dbar delta : Word) : Par × Word × Exc :=
  let (u, x0) := vfma beta (ofBf16 p.mu) dbar
  let (mu1, x1) := bf16Of u
  let (s, x2) := if nesterov then vfma beta (ofBf16 mu1) dbar else (ofBf16 mu1, {})
  let (e, x3) := vmul eta s
  let (a1, x4) := vsub a e
  let (w, t, x5) := moveSplit p a a1 delta
  ({ p with theta := w, tau := t, mu := mu1 }, a1, excSum [x0, x1, x2, x3, x4, x5])

/-- The catch-up update of one parameter: the anchor is the rejoin anchor less the average, the momentum stays (15 R408). -/
def catchupParam (p : Par) (ar dbar delta : Word) : Par × Word × Exc :=
  let (a1, x0) := vsub ar dbar
  let (w, t, x1) := moveSplit p ar a1 delta
  ({ p with theta := w, tau := t }, a1, x0.add x1)

/-- δ = a − p, exact, rounded once (11 R300). -/
def deltaOf (a : Word) (p : Par) : Word :=
  match fpVal a, fpVal p.theta with
  | .fin n m _ e, .fin .. =>
    let g := min pGrid e
    let d := onGrid g n m e - pOf p.theta p.tau * ((1 <<< (pGrid - g).toNat : Nat) : Int)
    (fin32 false .ne (decide (d < 0)) d.natAbs 1 g).1
  | _, _ => (vsub a p.theta).1

/-! ### Whole-layer mode (11 R301) -/

/-- A matrix by rows. -/
abbrev Mat := List (List Word)

/-- The exact sum of products, rounded once. -/
def dot32 (a b : List Word) : Word :=
  (exactRound ((List.zip a b).map fun (x, y) => (mulVal (fpVal x) (fpVal y)).getD .nan))
where
  /-- The exact sum of values, rounded once. -/
  exactRound (vs : List Val) : Word :=
    let mk := (vs.map marksOf).foldl Marks.or {}
    if mk.any then (match mk.val with | .inf n => inf32 n | _ => qNaN)
    else
      let n := vs.foldl (fun a v => match v with | .fin n m _ e => a + onGrid (-298) n m e | _ => a) (0 : Int)
      (fin32 false .ne (decide (n < 0)) n.natAbs 1 (-298)).1

/-- The transpose of a matrix of `k` columns. -/
def matT (k : Nat) (a : Mat) : Mat := (List.range k).map fun j => a.map fun r => at' 0 r j

/-- A · B with B given by its columns. -/
def matMulT (a bt : Mat) : Mat := a.map fun r => bt.map fun c => dot32 r c

/-- Entries of an n × n matrix by row and column. -/
def matOf (n : Nat) (f : Nat → Nat → Word) : Mat := (List.range n).map fun i => (List.range n).map fun j => f i j

/-- An entry. -/
def matAt (a : Mat) (i j : Nat) : Word := at' 0 (at' [] a i) j

/-- One round of the iteration: (Y, Z). -/
def orthoRound (n : Nat) (yz : Mat × Mat) : Mat × Mat :=
  let (y, z) := yz
  let zy := matMulT z (matT n y)
  let t := matOf n fun i j =>
    (vsub (if i = j then 0x3FC00000#32 else 0#32) (vmul 0x3F000000#32 (matAt zy i j)).1).1
  (matMulT y (matT n t), matMulT t (matT n z))

/-- ‖I − Z · Y‖_F / √n. -/
def orthoRes (n : Nat) (yz : Mat × Mat) : Word :=
  let zy := matMulT yz.2 (matT n yz.1)
  let es := ((List.range n).flatMap fun i => (List.range n).map fun j => (vsub (if i = j then one32 else 0#32) (matAt zy i j)).1)
  (vdiv (root (dot32 es es)) (sqrtDiv n 0 1)).1
where
  /-- √x rounded. -/
  root (x : Word) : Word := match fpVal x with
    | .fin false m _ e => sqrtDiv m e 1
    | .fin true m _ _ => if m = 0 then x else qNaN
    | .inf false => x
    | _ => qNaN

/-- One attempt with λ: U where its residual is at most 0.1. -/
def orthoTry (n : Nat) (m g : Mat) (k : Nat) (tr lam : Word) : Option Mat :=
  let s := (vadd tr (vmul (nat32 n) lam).1).1
  let y := matOf n fun i j => (vdiv (vadd (matAt g i j) (if i = j then lam else 0#32)).1 s).1
  let z := matOf n fun i j => if i = j then one32 else 0#32
  let yz := (orthoRound n)^[6] (y, z)
  let res := orthoRes n yz
  if !isNaN res && !vgt res 0x3DCCCCCD#32 then
    let r := (frsqrt false .ne s).1
    some ((matMulT yz.2 (matT k m)).map fun row => row.map fun x => (vmul x r).1)
  else none

/-- The procedure of 11 R301: the outcome (0, 6 or 7) and U. -/
def orthogonalise (n k : Nat) (lamAbs rho : Word) (m : Mat) : Nat × Mat :=
  let g := matMulT m m
  let tr := dot32 ((List.range n).map fun i => matAt g i i) (List.replicate n one32)
  if isZero tr then (7, [])
  else
    let lam := (fmaxN false lamAbs (vdiv (vmul rho tr).1 (nat32 n)).1).1
    let ten := 0x41200000#32
    let l1 := (vmul ten lam).1
    let l2 := (vmul ten l1).1
    match orthoTry n m g k tr lam with
    | some u => (0, u)
    | none => match orthoTry n m g k tr l1 with
      | some u => (0, u)
      | none => match orthoTry n m g k tr l2 with
        | some u => (0, u)
        | none => (6, m.map fun row =>
            let q := dot32 row row
            if isZero q then row else let r := (frsqrt false .ne q).1; row.map fun x => (vmul x r).1)

end Sys2Proof.Machine
end

