-- ==== Sys2Proof/Machine/Varnish.lean ====
section
/-! DEFINITION. Varnish: the norm pass and decision, staging, block updates, working copies, slice reports, roll-back and
agreement (11 R280 to R302; 04 R99; 12 R317, R319, R325). -/

namespace Sys2Proof.Machine

open Sys2Proof

/-- The Varnish units of a die issue: the part runs, their domain is powered (01 R35) and no queue of the die is frozen (12 R326). -/
def State.varnishRuns (s : State) (die : Nat) : Bool :=
  s.live && decide (die < s.dieCount) && s.domOn die 11 && (List.range 4).all fun c => !s.isFrozen (masterWord 3 die c)

/-- A shard's slices proceed: no completion error of its host tier has stopped them (11 R296; 12 R303). -/
def State.shardRuns (s : State) (die n : Nat) : Bool := s.varnishRuns die && !(s.shard die (s.slot die n).shard).stopped

/-- A consumption by its key. -/
def State.consOf (s : State) (die key : Nat) : Option Consume := mget (s.die die).cons key
/-- Changes a consumption. -/
def State.modCons (s : State) (die key : Nat) (f : Consume → Consume) : State :=
  s.modDie die fun d => { d with cons := mmod d.cons key f }
/-- The slot of a key of kinds 0 and 2. -/
def keySlot (key : Nat) : Nat := key % 65536

/-! ### Working copies (04 R99; 11 R297, R298) -/

/-- The bound working-copy descriptor of a slot, resolved; none while the binding is empty. -/
def State.wcDesc (s : State) (die n : Nat) : Option Desc := (mgetD none (s.die die).bindings n).map (s.resolveDesc die 0xFF)

/-- The format and tensor scale a slot's working copy is derived in; of an empty binding the format is free (log 14). -/
def State.wcFormat (s : State) (die n : Nat) : Nat × Word :=
  match s.wcDesc die n with
  | some d => (d.fmt, d.tscale)
  | none => (3 + (Config.emptyBindingFormat n).val, 0)

/-- The seal-table ranges of a slot's working copy: (bay, first byte, length). -/
def State.wcRegs (s : State) (die n : Nat) : List (Nat × Nat × Nat) :=
  match s.wcDesc die n with
  | some d => d.regs.map fun x => (x.2.1, x.2.2.1, x.2.2.2)
  | none => []

/-- The working copy is wet under Varnish. -/
def State.wcIsOpen (s : State) (die n : Nat) : Bool :=
  (s.wcRegs die n).all fun x =>
    let b := s.bay die x.1
    b.allAt .wet x.2.1 x.2.2 && (b.entsAt x.2.1 x.2.2).all (·.owner == .varnish n)

/-- The working copy can be written: each entry is wet under Varnish, or dry with no reader and no pending release, or free
(04 R99, R100). -/
def State.wcMayOpen (s : State) (die n : Nat) : Bool :=
  (s.wcRegs die n).all fun x => ((s.bay die x.1).entsAt x.2.1 x.2.2).all fun e =>
    (e.state == .wet && e.owner == .varnish n) || (e.state == .dry && e.readers == 0 && !e.release)

/-- Opens the working copy: dry entries become wet, free bytes are registered wet (04 R97, R99). -/
def State.wcOpen (s : State) (die n : Nat) : State :=
  if !s.wcMayOpen die n then s
  else (s.wcRegs die n).foldl (fun (s : State) x =>
    let b := s.bay die x.1
    if b.freeAt x.2.1 x.2.2 then s.modBay die x.1 fun b => b.register x.2.1 x.2.2 .wet (.varnish n)
    else s.modBay die x.1 fun b => b.modSeals (fun e => e.state == .dry && overlaps x.2.1 x.2.2 e.start e.bytes)
      fun e => { e with state := .wet, owner := .varnish n }) s

/-- The working copy becomes dry (01 R29). -/
def State.wcDry (s : State) (die n : Nat) : State :=
  s.modSealsDie die (fun e => e.state == .wet && e.owner == .varnish n) SealEnt.dried

/-- A consumption that writes working copies and has some left to write. -/
def Consume.writes (c : Consume) : Bool := c.decided && !c.done && (c.outcome == 0 || c.outcome == 5 || c.outcome == 6)

/-- WC_REOPEN: the wait for readers and a pending release is over (04 R99). -/
def execWcReopen (die slot : Nat) (s : State) : Outcome :=
  .next (
    if s.varnishRuns die ∧ (s.die die).cons.any (fun c => (c.1 / 65536 == 1 || keySlot c.1 == slot) && c.2.writes) then
      s.wcOpen die slot
    else s)

/-- A block of a working copy as derived: its scale byte, codes, values, and the events of the conversion. -/
structure WcBlock where
  scale : Nat
  codes : List Nat
  vals : List Val
  exc : Exc
deriving DecidableEq, Repr

/-- Derives a working-copy block from a record (11 R297; 02 R42, R44). -/
def State.wcDerive (s : State) (die n i : Nat) (r : Rec) : WcBlock :=
  let (fmt, ts) := s.wcFormat die n
  let vs := r.vals
  let sc := mxScale fmt ts vs
  let (cs, x) := mxEncode fmt sc ts vs
  let k := match s.wcDesc die n with | some d => (d.blockPos i).2 | none => 32
  let cs := cs.take k ++ List.replicate (32 - k) 0
  ⟨sc, cs, (cs.take k).map (mxVal fmt sc ts), x⟩

/-- The bytes of a block in a digest: packed codes, then the scale byte (11 R299; 12 R319). -/
def State.wcBytes (s : State) (die n : Nat) (w : WcBlock) : List Byte :=
  packBlock (s.wcFormat die n).1 w.codes ++ [BitVec.ofNat 8 w.scale]

/-- Writes a block of an uncompressed bound working copy. -/
def State.wcWrite (s : State) (die n i : Nat) (w : WcBlock) : State :=
  match s.wcDesc die n with
  | some d => if d.compressed then s else { s with mem := d.wrSide (d.wrBlock s.mem i w.codes) i w.scale }
  | none => s

/-- The binding is compressed. -/
def State.wcPacked (s : State) (die n : Nat) : Bool := match s.wcDesc die n with | some d => d.compressed | none => false

/-- Every block of a slot's working copy derived from its current record. -/
def State.wcAll (s : State) (die n : Nat) : List WcBlock :=
  let sl := s.slot die n
  let h := s.shard die sl.shard
  (List.range sl.blocks).map fun i => s.wcDerive die n i (((h.current s.mem (sl.first + i)).map (·.2)).getD {})

/-- A slot and its partner share one bound working copy: the key of its count of updates (11 R275, R298). -/
def Slot.pair (sl : Slot) (n : Nat) : Nat := min n sl.partner

/-- Encodes a compressed working copy whole, with a new table or the one it replaces (11 R298; 09 R227 to R230). -/
def State.wcEncode (s : State) (die n : Nat) (d : Desc) : State :=
  let sl := s.slot die n
  let h := s.shard die sl.shard
  let ws := s.wcAll die n
  let old := mget h.updates (sl.pair n)
  let build := match old with | none => true | some c => decide (fld h.raw 0x5C 2 ≤ c + 1)
  let g := (s.die die).paletteGen
  let codes := ws.map (·.codes)
  let image := if build then palImage d.fmt g (palLengths 64 (palCounts d.fmt (codes.flatMap id)))
    else rdBytes s.mem (d.chunkBase + 0x40) 144
  let (bytes, offs) := palEncode d.fmt d.pslot image codes
  let m := wrBytes (wrBytes s.mem d.base bytes) d.chunkBase (palDirectory d.fmt d.pslot d.blocks bytes.length image offs)
  let m := (List.range ws.length).foldl (fun m i => d.wrSide m i (at' 0 (ws.map (·.scale)) i)) m
  ({ s with mem := m } : State).modDie die fun x => { x with
    paletteGen := if build then (if g = 16383 then 1 else g + 1) else g
    shards := mset x.shards sl.shard { h with updates := mset h.updates (sl.pair n) (if build then 0 else old.getD 0 + 1) } }

/-- WC_ENCODE: after the last block is staged the working copy is encoded whole (11 R298). `slot` may name a re-derivation. -/
def execWcEncode (die slot : Nat) (s : State) : Outcome :=
  .next (
    let n := keySlot slot
    match s.consOf die slot, s.wcDesc die n with
    | some c, some d =>
      if !s.varnishRuns die ∨ c.kind = 1 ∨ !c.writes ∨ !c.todo.isEmpty ∨ c.wcDone ∨ !d.compressed then s
      else
        let s := s.wcOpen die n
        if s.wcIsOpen die n then (s.wcEncode die n d).modCons die slot fun c => { c with wcDone := true } else s
    | _, _ => s)

/-! ### The norm pass (11 R284 to R287) -/

/-- A block of a slot's buffer. -/
def State.gradBlock (s : State) (die n i : Nat) : Bx := (s.slotDesc die n).rdBx s.mem i

/-- The blocks of a slot's buffer. -/
def State.gradBlocks (s : State) (die n : Nat) : List Bx := (List.range (s.slot die n).blocks).map (s.gradBlock die n)

/-- The gradient digest (11 R299): the inclusion record, then each block's anchor byte and elements. -/
def gradDigestOf (incl : List Byte) (bs : List Bx) : List Byte :=
  sha256 (incl ++ bs.flatMap fun b => BitVec.ofNat 8 b.anchor :: b.ns.flatMap (natLe 8))

/-- The slots consumed together: the slot itself, or in whole-layer mode every slot of the shard for the step (11 R301). -/
def State.sliceSlots (s : State) (die n : Nat) : List Nat :=
  let sl := s.slot die n
  if (s.shard die sl.shard).whole then
    ((s.die die).slots.filter fun x => x.2.role != .contributor && x.2.role == sl.role && x.2.shard == sl.shard && x.2.step == sl.step &&
      x.2.state == .updating).map (·.1)
  else [n]

/-- The slots cover every block of a whole-layer shard. -/
def State.sliceWhole (s : State) (die : Nat) (h : Shard) (ns : List Nat) : Bool :=
  !h.whole || (ns.foldl (fun rs n => cutRange (s.slot die n).first (s.slot die n).blocks rs) [(0, h.blocks)]).isEmpty

/-- G of a job for a step, and whether it is stale (11 R285). -/
def Job.gFor (j : Job) (t anchor : Nat) : Option (Word × Bool) :=
  match (j.gnorms.filter fun x => x.1 < t).foldl (fun (a : Option (Nat × Int)) x => match a with
      | some y => if x.1 < y.1 then a else some x
      | none => some x) none with
  | some (st, sum) => some (globalNorm sum.toNat anchor, decide (st + 1 ≠ t))
  | none => none

/-- Adds a slice's sq_fixed to the die's total of its job and step, keeping the last 4 steps (11 R285). -/
def Die.addTotal (d : Die) (job t q : Nat) : Die :=
  let old : List (Nat × Int) := mgetD [] d.totals job
  let new : List (Nat × Int) := if old.any (·.1 == t) then old.map fun x => if x.1 = t then (t, x.2 + q) else x else old ++ [(t, (q : Int))]
  { d with totals := mset d.totals job (new.drop (new.length - 4)) }

/-- The global step of a slot (11 R283). -/
def State.globalStep (s : State) (die n : Nat) : Nat :=
  ((s.slot die n).step + fld (s.shard die (s.slot die n).shard).raw 0x58 4) % 2 ^ 32

/-- The constants of a slice's rule. -/
def State.sliceK (s : State) (die n : Nat) (c : Consume) : SliceK :=
  let h := s.shard die (s.slot die n).shard
  { form := h.rule % 4, whole := h.whole, beta1 := h.word 0x20, beta2 := h.word 0x24, lambda := h.word 0x28, gamma := h.word 0x70,
    eta := c.eta, s := c.scale, t := c.step }

/-! ### Roll-back (11 R287) -/

/-- The slot whose working copy holds a shard block now: of the bound slots that cover it, the one that was consumed last. -/
def State.wcSlotOf (s : State) (die shard j : Nat) : Option Nat :=
  let d := s.die die
  let ns := (d.slots.filter fun x => x.2.role != .contributor && x.2.shard == shard && decide (x.2.first ≤ j ∧ j < x.2.first + x.2.blocks)).map (·.1)
  match (d.reports.filter fun r => ns.contains r.2.slot).getLast? with
  | some r => some r.2.slot
  | none => ns.head?

/-- The inner update of step `t` wrote the current copy of a block. -/
def Shard.wroteAt (h : Shard) (m : Mem) (j t : Nat) : Bool :=
  match h.current m j with
  | some (_, r) => !r.isOuter && r.count != 0 && r.touched == t
  | none => false

/-- The blocks of a shard whose current copy the inner update of step `t` wrote. -/
def Shard.written (h : Shard) (m : Mem) (t : Nat) : List Nat := (List.range h.blocks).filter fun j => h.wroteAt m j t

/-- Begins deriving blocks of a slot's working copy again from their current records, as an update of a step (11 R287, R297). -/
def State.derive (s : State) (die n t : Nat) (is : List Nat) : State :=
  if is.isEmpty then s
  else s.modDie die fun d => { d with cons := mset d.cons (131072 + n) { (mgetD {} d.cons (131072 + n)) with
    kind := 2, step := t, outcome := 5, decided := true, done := false, wcDone := false, todo := is, since := s.part.tai } }

/-- Voids the records that the update of step `t` wrote in a shard and begins deriving the working copies of the slots that hold them
again, wet until digests agree; the blocks voided. -/
def State.voidShard (s : State) (die k t : Nat) : State × List Nat :=
  let h := s.shard die k
  let js := h.written s.mem t
  let s := js.foldl (fun (s : State) j => s.voidBlock h j) s
  (((js.filterMap (s.wcSlotOf die k)).dedup).foldl (fun (s : State) n =>
    s.derive die n t ((js.filter fun j => s.wcSlotOf die k j == some n).map (· - (s.slot die n).first))) s, js)

/-- A report of a slice that is rolled back: outcome 5, and the refused flag where some block it wrote is not rolled back. -/
def Report.rolled (r : Report) (refused : Bool) : Report :=
  let b := splice r.bytes 7 [5#8]
  { r with outcome := 5, bytes := if refused then splice b 0xE (natLe 1 (fld b 0xE 1 ||| 32)) else b }

/-- Rolls back what a part did for a job's step on one die: every record its updates wrote that is still current, the reports kept of
completed slices, slices in progress; the blocks rolled back. -/
def State.rollDie (s : State) (job t die : Nat) : State × Nat :=
  let d := s.die die
  let kept := fun (r : Report) =>
    let sl := s.slot die r.slot
    r.written.any fun i => !(s.shard die sl.shard).wroteAt s.mem (sl.first + i) t
  let a := (mkeys (d.shards.filter fun h => h.2.job == job)).foldl (fun (a : State × Nat) k =>
    let (s', js) := a.1.voidShard die k t
    (s', a.2 + js.length)) (s, 0)
  let s' := a.1.modDie die fun d => { d with
    reports := d.reports.map fun r =>
      if (s.slot die r.2.slot).job = job ∧ r.2.step = t ∧ (r.2.outcome = 0 ∨ r.2.outcome = 6) then (r.1, r.2.rolled (kept r.2)) else r
    cons := d.cons.map fun c =>
      if c.2.kind = 0 ∧ c.2.step = t ∧ c.2.writes ∧ (s.slot die c.1).job = job then
        (c.1, { c.2 with outcome := 4, todo := [], written := [], codes := [], recs := [] })
      else c }
  (s', a.2)

/-- Rolls a step of a job back on the part: every slice not yet updated for it will be skipped with outcome 4. -/
def State.rollback (s : State) (job t : Nat) : State × Nat :=
  let s := s.modJob job fun j => { j with rolledBack := (j.rolledBack ++ [t]).dedup }
  (List.range s.dieCount).foldl (fun (a : State × Nat) die =>
    let (s, k) := a.1.rollDie job t die
    (s, a.2 + k)) (s, 0)

/-- What the decision gives: outcome, norm, clip factor, scale, flags. -/
structure Decided where
  outcome : Nat
  norm : Word
  clip : Word
  scale : Word
  flags : Nat
deriving DecidableEq, Repr

/-- The decision (11 R286). -/
def decideSlice (h : Shard) (job : Job) (t d q : Nat) (nonfinite : Bool) : Decided :=
  let n := if d = 0 then 0#32 else sqrtDiv q (-340) d
  let mode := fld h.raw 5 1 % 4
  let g := job.gFor t h.normAnchor
  let c := h.word 0x48
  let cg := h.word 0x4C
  let fs := if bitOf mode 0 && vgt n c then (vdiv c n).1 else one32
  let (fg, stale) := match g with
    | some (gn, st) => if bitOf mode 1 then (if vgt gn cg then (vdiv cg gn).1 else one32, st) else (one32, false)
    | none => (one32, false)
  let f := (fminN false fs fg).1
  let k := h.word 0x50
  let out := if job.rolledBack.contains t then 4
    else if d = 0 then 1
    else if nonfinite ∨ isInf n then 2
    else if !isZero k ∧ 16 ≤ h.accepted ∧ absurd n k h.norm then 3
    else 0
  ⟨out, n, f, if d = 0 then 0#32 else (vdiv f (nat32 d)).1,
    2 * b2n stale + 4 * b2n (vgt one32 fs) + 8 * b2n (vgt one32 fg) + 16 * b2n h.hostTier⟩

/-- A block leaves staging. -/
def State.unstage (s : State) (die n i : Nat) : State := s.modDie die fun d => { d with staged := d.staged.filter (· != (n, i)) }

/-- Pass 1 of a block of a whole-layer slice: M takes its m1 from record A as read, and the block leaves staging (11 R301). -/
def State.passOne (s : State) (die n i : Nat) : State :=
  let sn := s.slot die n
  let j := sn.first + i
  match (s.shard die sn.shard).current s.mem j, s.consOf die n with
  | some x, some c => (s.modCons die n fun c' => { c' with
      moments := mset c'.moments j ((s.sliceK die n c).momentsOf x.2 (s.gradBlock die n i)) }).unstage die n i
  | _, _ => s

/-- What the norm pass of a slice decides for every slot of it: the outcome, the divisor, the norm and its clip, the step's rate, which
blocks will be written, the digest of the gradients; saturated blocks and elements read with a reserved sub-code are counted (02 R48); the
accepted step's running norm, and the roll-back it triggers (11 R284 to R287, R299). What a whole-layer slice has staged goes through
pass 1 (R301). -/
def State.normPass (s : State) (die slot : Nat) : State :=
  let sl := s.slot die slot
  let h := s.shard die sl.shard
  let ns := s.sliceSlots die slot
  let bs := ns.map fun n => (n, s.gradBlocks die n)
  let all := bs.flatMap (·.2)
  let q := all.foldl (fun a b => a + b.squares) 0
  let d := sl.included + sl.carriedN
  let t := s.globalStep die slot
  let r := decideSlice h (mgetD {} s.jobs sl.job) t d q (all.any (·.kind == .nonfinite))
  let s := bs.foldl (fun (s : State) x =>
    let n := x.1
    let sn := s.slot die n
    let dn := sn.included + sn.carriedN
    let qn := x.2.foldl (fun a b => a + b.squares) 0
    let sq := if dn = 0 then 0 else sqFixed qn dn h.normAnchor
    let idx := List.range x.2.length
    let live := idx.filter fun i => let b := at' ⟨0, []⟩ x.2 i; !h.sparse || b.kind == .saturated || !b.allZero
    let go := decide (r.outcome = 0)
    let s := s.modCons die n fun c => { c with
      step := t, outcome := r.outcome, decided := true, divisor := dn, norm := r.norm, clip := r.clip
      scale := if dn = 0 then 0#32 else (vdiv r.clip (nat32 dn)).1, eta := h.etaAt t, sqFixed := sq
      flags := r.flags + b2n (h.sparse && sn.touchOver) + 64 * b2n (sn.role == .twin)
      todo := if go then live else [], untouched := if go then idx.length - live.length else 0
      saturated := (x.2.filter (·.kind == .saturated)).length
      exc := addExc c.exc { inv := 32 * (x.2.filter fun b => b.anchor == 255 && (b.sub == 0 || decide (5 ≤ b.sub))).length }
      gradDigest := gradDigestOf (sn.inclusion n) x.2 }
    if dn = 0 then s else s.modDie die fun y => y.addTotal sn.job t sq) s
  let s := if r.outcome = 0 then s.modDie die fun y => { y with shards := mset y.shards sl.shard { h with
      accepted := h.accepted + 1
      norm := (vfma (h.word 0x54) h.norm (vmul (vsub one32 (h.word 0x54)).1 r.norm).1).1 } } else s
  let s := if h.whole ∧ r.outcome = 0 then
      ((s.die die).staged.filter fun x => ns.contains x.1).foldl (fun (s : State) x => s.passOne die x.1 x.2) s
    else s
  if (r.outcome = 2 ∨ r.outcome = 3) ∧ bitOf (fld h.raw 5 1) 2 then
    (s.rollback sl.job t).1.event evNonfinite sl.job die stNonfinite (sl.data slot r.outcome)
  else s

/-- VARNISH_NORM_PASS_DONE: sums and gradient digest, the decision, and a roll-back it triggers (11 R280, R284 to R287). -/
def execVarnishNormPassDone (die slot : Nat) (s : State) : Outcome :=
  .next (
    let ns := s.sliceSlots die slot
    if !s.shardRuns die slot ∨ !s.sliceWhole die (s.shard die (s.slot die slot).shard) ns ∨
        !ns.all (fun n => match s.consOf die n with | some c => c.kind == 0 && !c.decided | none => false) ∨ ns.isEmpty then s
    else s.normPass die slot)

/-- UPDATING_WAIT_END: the earlier-step slot is done and consumption begins (11 R281). -/
def execUpdatingWaitEnd (die slot : Nat) (s : State) : Outcome :=
  .next (if s.varnishRuns die then s.beginConsume die slot else s)

/-! ### Staging (11 R295, R296) -/

/-- Blocks in flight of a die's unit. -/
def State.inFlight (s : State) (die unit : Nat) : Nat :=
  ((s.die die).staged.filter fun x => ((s.slot die x.1).first + x.2) % 4 == unit).length

/-- The pair of a block is damaged and the twin's mirror has not replaced it: its operations wait (12 R316). -/
def State.pairLost (s : State) (die shard j : Nat) : Bool := (s.die die).pairWait.contains (shard, j)

/-- Record A of a block of a slot is still to be read into staging: not staged, not damaged, and its consumption has not done with it; of
a sparse slot, a block of the directory, or any once it overflowed (11 R294, R295). -/
def State.toStage (s : State) (die slot i : Nat) : Bool :=
  let sl := s.slot die slot
  let h := s.shard die sl.shard
  (sl.state != .free || sl.opening.isSome) && !(s.die die).staged.contains (slot, i) &&
  (h.hostTier || (h.current s.mem (sl.first + i)).isSome) &&
  !s.pairLost die sl.shard (sl.first + i) &&
  (!h.sparse || sl.touchOver || (s.die die).touch.contains (slot, i)) && (match s.consOf die slot with
    | some c => !c.decided || c.todo.contains i
    | none => true)

/-- The schedule lets a block be prefetched: the slots listed before its own, of the same step or an earlier one, have no block of its unit
left to read (11 R295). -/
def State.inOrder (s : State) (die slot j : Nat) : Bool :=
  let os := (s.die die).order
  let at_ := fun n => ((s.slot die n).step, os.idxOf n)
  os.all fun m =>
    let a := at_ m
    let b := at_ slot
    !decide (a.1 < b.1 ∨ (a.1 = b.1 ∧ a.2 < b.2)) ||
      (List.range (s.slot die m).blocks).all fun i => ((s.slot die m).first + i) % 4 != j % 4 || !s.toStage die m i

/-- The pair of a host-tier block as a read of host memory returns it (11 R296). -/
def State.hostPair (s : State) (h : Shard) (j : Nat) (data : List Byte) : State :=
  if h.hostTier then { s with mem := wrBytes s.mem (h.copyAt j 0) data } else s

/-- RECORD_PREFETCH: record A of a block is read into staging as room allows, in the order of the schedule, or once the slot is GATED;
of a sparse slot, blocks of the directory, or any once it overflowed (11 R294, R295). A host-tier pair comes from host memory, over a
port that serves the part (R296). In pass 1 of a whole-layer slice the block goes straight into M (R301). -/
def execRecordPrefetch (die slot : Nat) (x : RecordRead) (s : State) : Outcome :=
  .next (
    let block := x.block
    let sl := s.slot die slot
    let h := s.shard die sl.shard
    let j := sl.first + block
    let d := s.die die
    let pass1 := h.whole ∧ (s.consOf die slot).any fun c => c.decided && c.writes && c.ortho.isEmpty
    if s.shardRuns die slot ∧ sl.role ≠ .contributor ∧ block < sl.blocks ∧ j < h.blocks ∧ s.toStage die slot block ∧
        s.inFlight die (j % 4) < 30247 ∧
        ((d.order.contains slot ∧ s.inOrder die slot j) ∨ (!d.order.contains slot ∧ (sl.state = .gated ∨ sl.state = .resetting)) ∨
          sl.state = .updating) ∧
        (!h.hostTier ∨ ((s.host h.port).usable s.ks.ideRequired ∧ x.data.length = 832)) ∧
        (h.current (s.hostPair h j x.data).mem j).isSome then
      let s := s.hostPair h j x.data
      let s := if pass1 then s.passOne die slot block else s.modDie die fun d => { d with staged := d.staged ++ [(slot, block)] }
      if sl.state = .updating then s.modCons die slot fun c => { c with stallUs := (s.part.tai - c.since) / 1000 } else s
    else s)

/-! ### Block updates (11 R288 to R292, R297) -/

/-- An outer update of the block pends, and does not wait for the inner update of slot `n` itself (01 R31). -/
def State.outerPending (s : State) (die shard n j : Nat) : Bool :=
  (s.die die).cons.any fun c => c.1 / 65536 == 1 &&
    (let f := mgetD {} s.via.frags (c.1 - 65536)
     f.die == die && f.shard == shard && c.2.todo.any fun i => f.first + i == j && !c.2.behind.contains (i, n))

/-- The slots whose inner update is in progress on a block: read in, in pass 1, or written and not yet digested (01 R31). -/
def State.innerBusy (s : State) (die shard j : Nat) : List Nat :=
  ((s.die die).cons.filter fun c =>
    let sl := s.slot die c.1
    c.2.kind == 0 && c.2.writes && sl.shard == shard && decide (sl.first ≤ j ∧ j < sl.first + sl.blocks) &&
    (let i := j - sl.first
     c.2.written.contains i || (c.2.todo.contains i && ((s.die die).staged.contains (c.1, i) || (mget c.2.moments j).isSome)))).map (·.1)

/-- A saturated block: the hint is raised and sat set in place in record A, and the hint goes to the anchor array (11 R291). -/
def State.raiseHint (s : State) (die n i : Nat) (h : Shard) (j c : Nat) (a : Rec) : State :=
  let hint := min 254 (a.hint + 18)
  let put := fun (s : State) (o v : Nat) =>
    let s : State := { s with mem := wrBytes s.mem (h.copyAt j c + o) (natLe 1 v) }
    if h.hostTier then s.hostWrite h.port (fld h.raw 0x10 8 + 832 * j + 416 * c + o) (natLe 1 v) else s
  let s := put (put s 8 hint) 0xB ((a.flags ||| 2 ^ 11) >>> 8)
  { s with mem := (s.slotDesc die n).wrSide s.mem i hint }

/-- Applies the rule to a block and its gradient, writes record B and the working copy (11 R288, R291, R297). -/
def State.updateBlock (s : State) (die n i : Nat) (c : Consume) (copy : Nat) (a : Rec) (x : Bx) : State :=
  let sl := s.slot die n
  let h := s.shard die sl.shard
  let j := sl.first + i
  let k := s.sliceK die n c
  let u := (mget c.ortho j).map fun x => (x, mgetD [] c.moments j)
  let (b, x) := k.update a x u
  let w := s.wcDerive die n i b
  let b := { b with scale := w.scale }
  let s := s.wrCopy h j (1 - copy) b
  let s : State := { s with mem := (s.slotDesc die n).wrSide s.mem i b.hint }
  let bytes := s.wcBytes die n w
  (s.wcWrite die n i w).modCons die n fun c => { c with
    todo := c.todo.filter (· != i), written := c.written ++ [i], caughtUp := c.caughtUp + b2n (decide (k.delta a ≠ 0))
    exc := addExc c.exc (x.add w.exc), codes := mset c.codes i bytes, recs := mset c.recs i b.bytes
    histM := c.histM.addBlock (b.pars.map fun p => fpVal p.theta), histW := c.histW.addBlock w.vals }

/-- Derives the working copy of a block again from its current record (11 R287, R297). -/
def State.rederiveBlock (s : State) (die key i : Nat) (a : Rec) : State :=
  let n := keySlot key
  let w := s.wcDerive die n i a
  let bytes := s.wcBytes die n w
  (s.wcWrite die n i w).modCons die key fun c => { c with
    todo := c.todo.filter (· != i), written := c.written ++ [i], codes := mset c.codes i bytes, recs := mset c.recs i a.bytes
    exc := addExc c.exc w.exc }

/-- VARNISH_BLOCK_UPDATE: a staged block is updated once no outer update of it pends and its working copy is open
(11 R280, R288, R291, R292, R297; 01 R31). `slot` may name a re-derivation. -/
def execVarnishBlockUpdate (die slot block : Nat) (s : State) : Outcome :=
  .next (
    let n := keySlot slot
    let sl := s.slot die n
    let h := s.shard die sl.shard
    let j := sl.first + block
    match s.consOf die slot, h.current s.mem j with
    | some c, some (copy, a) =>
      if !s.shardRuns die n ∨ c.kind = 1 ∨ !c.writes ∨ !c.todo.contains block ∨ s.outerPending die sl.shard n j ∨
          s.pairLost die sl.shard j then s
      else if c.kind = 0 ∧ (!(s.die die).staged.contains (n, block) ∨ (h.whole ∧ (mget c.ortho j).isNone)) then s
      else if c.kind = 0 ∧ (s.gradBlock die n block).kind = .saturated then
        ((s.raiseHint die n block h j copy a).modCons die n fun c => { c with todo := c.todo.filter (· != block) }).unstage die n block
      else
        let s := if s.wcPacked die n then s else s.wcOpen die n
        if !s.wcPacked die n ∧ !s.wcIsOpen die n then s
        else if c.kind = 0 then (s.updateBlock die n block c copy a (s.gradBlock die n block)).unstage die n block
        else s.rederiveBlock die slot block a
    | _, _ => s)

/-- The orthogonalised matrix of a whole-layer slice, kept with every slot of it; a matrix that is all zero makes the outcome 7 and writes
nothing (11 R301). -/
def State.orthoPass (s : State) (die slot : Nat) : State :=
  let h := s.shard die (s.slot die slot).shard
  let ns := s.sliceSlots die slot
  let ms : SMap (List Word) := ns.foldl (fun (m : SMap (List Word)) n =>
    ((s.consOf die n).map (·.moments)).getD [] |>.foldl (fun m x => mset m x.1 x.2) m) []
  let rows := fld h.raw 0x60 4
  let cols := fld h.raw 0x64 4
  let mat : Mat := (List.range rows).map fun i => (List.range (cols / 32)).flatMap fun b => mgetD [] ms (i * (cols / 32) + b)
  let (out, u) := orthogonalise rows cols (h.word 0x68) (h.word 0x6C) mat
  let us : SMap (List Word) := if out = 7 then [] else (mkeys ms).map fun j =>
    (j, ((at' [] u (j / (cols / 32))).drop (32 * (j % (cols / 32)))).take 32)
  ns.foldl (fun (s : State) n => s.modCons die n fun c => { c with
    outcome := out, ortho := us, todo := if out = 7 then [] else c.todo }) s

/-- The logical bays of a whole-layer shard (11 R273, R301). -/
def Shard.bays (h : Shard) : List Nat := (List.range (fld h.raw 0x75 1 % 64 + 1)).map (fld h.raw 0x74 1 + ·)

/-- WHOLE_LAYER_ORTHO: once pass 1 has given the whole of M, the procedure gives U on the whole-layer bays, which the job holds, or skips
the slice (11 R301). -/
def execWholeLayerOrtho (die slot : Nat) (s : State) : Outcome :=
  .next (
    let h := s.shard die (s.slot die slot).shard
    let formed := fun n => match s.consOf die n with
      | some c => (List.range (s.slot die n).blocks).all fun i => (mget c.moments ((s.slot die n).first + i)).isSome
      | none => false
    match s.consOf die slot with
    | none => s
    | some c =>
      if !s.shardRuns die slot ∨ !h.whole ∨ c.kind ≠ 0 ∨ !c.writes ∨ !c.ortho.isEmpty ∨ !(s.sliceSlots die slot).all formed ∨
          !h.bays.all (fun b => s.holds h.job 1 die b) then s
      else s.orthoPass die slot)

/-! ### Reports and agreement (11 R299, R302; 12 R317, R325) -/

/-- The update digest: block index and record B of each written block as the consumption wrote it, then their working-copy codes and
scales. -/
def Consume.updDigestOf (c : Consume) : List Byte :=
  let is := c.written.mergeSort (· ≤ ·)
  sha256 (is.flatMap (fun i => natLe 4 i ++ mgetD [] c.recs i) ++ is.flatMap fun i => mgetD [] c.codes i)

/-- The 736 bytes of a slice report (11 R302). -/
def State.reportBytes (s : State) (die n : Nat) (c : Consume) : List Byte :=
  let sl := s.slot die n
  pack [(4, sl.step), (2, n), (1, die), (1, c.outcome), (4, sl.shardF), (2, c.divisor), (2, c.flags), (4, c.written.length), (4, c.untouched),
    (4, c.saturated), (4, c.caughtUp), (4, c.norm.toNat), (4, c.clip.toNat), (4, c.eta.toNat), (4, c.stallUs), (8, c.sqFixed), (8, s.part.tai)] ++
  c.gradDigest ++ c.updDigest ++ c.exc.flatMap (natLe 4) ++ zeros 16 ++ c.histM.bytes ++ c.histW.bytes

/-- Keeps a report, the last 1024 of the die; adds its counters to the shard's. -/
def State.report (s : State) (die n : Nat) (c : Consume) : State :=
  let sl := s.slot die n
  let h := s.shard die sl.shard
  let r : Report := ⟨n, c.step, c.outcome, c.written, s.reportBytes die n c⟩
  s.modDie die fun d => { d with
    reports := if d.nextReport < 1024 then mset d.reports d.nextReport r else mdel (mset d.reports d.nextReport r) (d.nextReport - 1024)
    nextReport := d.nextReport + 1
    shards := mset d.shards sl.shard { h with counters := List.zipWith (satAdd 64) h.counters c.exc } }

/-- The body of DIGESTS (log 13). -/
def digestsBody (job die kind n step : Nat) (g u : List Byte) : List Byte :=
  pack [(2, job), (1, die), (1, kind), (2, n), (2, 0), (4, step)] ++ g ++ u

/-- The job, the field that names the object and the step of a consumption in DIGESTS and AGREE. -/
def State.consId (s : State) (die key : Nat) (c : Consume) : Nat × Nat × Nat :=
  if c.kind = 1 then ((mgetD {} s.via.frags (key - 65536)).job, key - 65536, c.step)
  else ((s.slot die (keySlot key)).job, keySlot key, if c.kind = 0 then (s.slot die (keySlot key)).step else c.step)

/-- This part is the twin of a consumption. -/
def State.consTwin (s : State) (die key : Nat) (c : Consume) : Bool :=
  if c.kind = 1 then bitOf c.flags 6 else (s.slot die (keySlot key)).role == .twin

/-- The node of the other part of a consumption. -/
def State.consPeer (s : State) (die key : Nat) (c : Consume) : Option Nat :=
  let sl := s.slot die (keySlot key)
  if c.kind = 1 then s.part.twinNode else some (if sl.role = .twin then sl.ownerNode else sl.twinNode)

/-- The counterpart lies on a fenced part: the consumption completes alone (12 R325). -/
def State.consAlone (s : State) (die key : Nat) (c : Consume) : Bool :=
  s.part.takenOver || (match s.consPeer die key c with | some p => s.part.fencedNodes.contains p | none => true)

/-- Sends a digest message to the other part of a consumption. -/
def State.peerSend (s : State) (die key : Nat) (c : Consume) (kind : Nat) (body : List Byte) : State :=
  match s.consPeer die key c with
  | some p => s.send kind p die body
  | none => s

/-- The body of AGREE (log 13). -/
def agreeBody (job die result n kind step : Nat) : List Byte :=
  pack [(2, job), (1, die), (1, result), (2, n), (2, kind), (4, step)]

/-- Sends AGREE of a consumption; stage 4 carries the owner's digest of record A after the listed fields (log 13). -/
def State.agreeSend (s : State) (die key : Nat) (c : Consume) (result : Nat) (more : List Byte := []) : State :=
  let (job, n, step) := s.consId die key c
  s.peerSend die key c 0x63 (agreeBody job die result n c.kind step ++ more)

/-- The slots whose working copies a consumption writes. -/
def State.consSlots (s : State) (die key : Nat) (c : Consume) : List Nat :=
  let f := mgetD {} s.via.frags (key - 65536)
  if c.kind = 1 then ((c.todo ++ c.written).filterMap fun i => s.wcSlotOf die f.shard (f.first + i)).dedup
  else if c.decided then [keySlot key] else []

/-- The end of a consumption by agreement: the working copies it wrote become dry, but for one that another consumption has written and
not agreed on, and a slice is released (01 R29; 10 R269; 12 R317). -/
def State.agreeCons (s : State) (die key : Nat) (c : Consume) : State :=
  let ns := s.consSlots die key c
  let s := s.modDie die fun d => { d with
    cons := mdel d.cons key, peers := d.peers.filter (·.1 != key)
    staged := if c.kind = 0 then d.staged.filter (·.1 != key) else d.staged
    slots := if c.kind = 1 then d.slots else mmod d.slots (keySlot key) fun sl => { sl with disputed := false } }
  let held := (s.die die).cons.flatMap fun x => if x.2.todo.isEmpty && x.2.written.isEmpty then [] else s.consSlots die x.1 x.2
  let s := (ns.filter fun n => !held.contains n).foldl (fun (s : State) n => s.wcDry die n) s
  if c.kind = 0 then s.releaseSlice die key else s

/-- The digest of a slot's working copy for its replicas (12 R319). -/
def State.replicaDigestOf (s : State) (die n : Nat) : List Byte := sha256 ((s.wcAll die n).flatMap (s.wcBytes die n))

/-- Completes a consumption: digests, report, the replica digest of every N-th step, and the digests to the twin's owner; alone, its
own digest stands for agreement (11 R299, R302; 12 R317, R319, R325). -/
def State.finishCons (s : State) (die key shard : Nat) (c : Consume) : State :=
  let u := c.updDigestOf
  let g := if c.kind = 0 then c.gradDigest else sha256 []
  let c := { c with done := true, updDigest := u, gradDigest := g }
  let s := s.modCons die key fun _ => c
  let n := keySlot key
  let sl := s.slot die n
  let s := if c.kind = 0 then (s.report die n c).modDie die (·.innerOver n)
    else s.modDie die fun d => { d with shards := mmod d.shards shard fun h => { h with counters := List.zipWith (satAdd 64) h.counters c.exc } }
  let per := (mgetD {} s.jobs sl.job).period
  let s := if c.kind = 0 ∧ s.actsOwner die n ∧ (c.outcome = 0 ∨ c.outcome = 6) ∧ sl.step % per = 0 then
      ({ s with span := { s.span with digests := (s.span.digests.filter fun x => !(x.1 == die && x.2.1 == n)) ++
        [(die, n, sl.step, s.replicaDigestOf die n)] } } : State) else s
  let s := if s.consTwin die key c then
      let (job, n, step) := s.consId die key c
      s.peerSend die key c 0x62 (digestsBody job die c.kind n step g u)
    else s
  if s.consAlone die key c then s.agreeCons die key c else s

/-- VARNISH_SLICE_DONE: every block is updated and the working copy written (11 R280, R299, R302). `slot` may name a
re-derivation. -/
def execVarnishSliceDone (die slot : Nat) (s : State) : Outcome :=
  .next (
    let n := keySlot slot
    let sl := s.slot die n
    match s.consOf die slot with
    | some c =>
      if s.shardRuns die n ∧ c.kind ≠ 1 ∧ c.decided ∧ !c.done ∧ c.todo.isEmpty ∧ (c.wcDone ∨ !c.writes ∨ !s.wcPacked die n) then
        s.finishCons die slot sl.shard c
      else s
    | none => s)

end Sys2Proof.Machine
end

