-- ==== Sys2Proof/Machine/Fence.lean ====
section
/-! DEFINITION. What faults lead to: fail-stop and takeover, the retirement of a bay and its substitution, containment domains, and the
start of field tests (04 R107 to R109; 10 R249, R267; 12 R303, R313 to R316, R320 to R325). -/

namespace Sys2Proof.Machine

open Sys2Proof

/-! ### Fail-stop and takeover (12 R324, R325) -/

/-- Sends FENCED naming a node on every Span port that is up, but one (14 R374). -/
def State.floodFenced (s : State) (node tai : Nat) (but : Option Nat) : State :=
  ((List.range 16).filter fun k => (s.port k).up && but != some k).foldl (fun (s : State) k =>
    s.transmit ⟨k, 0, 0x41, 0, 0xFFF, s.part.node.getD 0xFFF, 0, 0, pack [(2, node), (8, tai)]⟩) s

/-- The part fail-stops: everything stops, FENCED and TAKEOVER leave, EV_FENCED to both hosts, a record and a report (12 R324). -/
def State.failStop (s : State) (detector reason : Nat) : State :=
  if s.part.state = 3 then s
  else
    let s := s.floodFenced (s.part.node.getD 0) s.part.tai none
    let s := match s.part.twinNode with
      | some t => s.send 0x61 t 0 (pack [(8, s.part.tai), (2, reason)])
      | none => s
    let s : State := { s with part := { s.part with state := 3, failReason := reason }, ks := { s.ks with state := 2 } }
    let s := s.event evFenced 0 s.ks.leader reason (pack [(2, s.part.node.getD 0), (2, reason)])
    s.logFault ⟨0, detector, 4, 6, s.ks.leader, 0, reason, 0, 0, 0, 0, 0, []⟩

/-- The die of a fabric port (01 R19). -/
def State.portDie (s : State) (k : Nat) : Nat := if k < 16 then k / 2 else if k = 17 ∧ s.dieCount ≠ 2 then 2 else 1

/-- The other port of a fabric port: of the same die for a Span port, of the link for a Pier port. -/
def otherPort (k : Nat) : Nat := if 16 ≤ k then 33 - k else if k % 2 = 0 then k + 1 else k - 1

/-- Unanswered messages that left by a port are sent again, resent, over the die's other port (12 R303, row 6; 14 R366). -/
def State.reissueOver (s : State) (k : Nat) : State :=
  let o := otherPort k
  if !(s.port o).up || (s.port o).training then s
  else s.span.unacked.foldl (fun (s : State) u => (u.2.take 256).foldl (fun (s : State) x =>
    match s.portFor x.kind (u.1 / 4) with
    | some (p, c) => if p = k then s.transmit ⟨o, c, x.kind, 1, u.1 / 4, s.part.node.getD 0xFFF, 0, x.seq, x.body⟩ else s
    | none => s) s) s

/-- Moves what a Pier port had not got acknowledged, then what it had still to send, ahead of the other port's messages (14 R375). -/
def Port.carryOver (p q : Port) : Port :=
  { q with tx := (List.range 8).map fun c =>
      (p.replay.filterMap fun x =>
        if fld x.2 0 1 % 4 * 2 + fld x.2 0 1 / 4 % 2 = c then
          some ⟨0, sub x.2 8 256, if fld x.2 5 2 < 256 then some (fld x.2 5 2) else none⟩ else none) ++ at' [] p.tx c ++ at' [] q.tx c }

/-- A port goes down: what it was sending is discarded, or resent on the other Pier port; a part without a port left fail-stops
(14 R355, R373, R375, R377). -/
def State.portDown (s : State) (k : Nat) : State :=
  let p := s.port k
  if !p.up && !p.training then s
  else
    let s := s.modPort k fun p => { p with
      up := false, training := false, replay := [], tx := List.replicate 8 [], streams := List.replicate 8 [] }
    let other := 33 - k
    let s := if k < 16 then s.event evSpanDown 0 (s.portDie k) 0 (pack [(1, k)])
      else if (s.port other).up then ((s.modPort other p.carryOver).pumpPort other).event evPierDown 0 (s.portDie k) 0 (pack [(1, k - 16)])
      else s.event evPierDown 0 (s.portDie k) 0 (pack [(1, 0xFF)])
    if s.live ∧ (List.range 18).all (fun x => !(s.port x).up && !(s.port x).training) then s.failStop 6 (Config.faultStatus 6) else s

/-- A contributor's messages to a fenced node are given up: unanswered and waiting ones (12 R325). -/
def State.dropNode (s : State) (node : Nat) : State :=
  let s : State := { s with span := { s.span with unacked := s.span.unacked.filter fun k => k.1 / 4 != node } }
  (List.range s.dieCount).foldl (fun (s : State) die =>
    (mkeys ((s.die die).slots.filter fun x => x.2.role == .contributor)).foldl (fun (s : State) n =>
      ((s.modSlot die n fun sl => { sl with
        sendQ := sl.sendQ.filter (·.headD 0 != node), sent := sl.sent.filter (·.headD 0 != node) }).trySeal die n).tryRetract die n) s) s

/-- The slices of this part with a member of a fenced node whose contribution is not sealed are reset (10 R267). -/
def State.fencedMembers (s : State) (node : Nat) : State :=
  (List.range s.dieCount).foldl (fun (s : State) die =>
    (mkeys ((s.die die).slots.filter fun x => (x.2.state == .opened || x.2.state == .gated || x.2.state == .resetting) &&
        x.2.members.any fun m => m.node == node && m.granted && !m.dropped && !m.isSealed)).foldl (fun s n => s.resetSlice die n) s) s

/-- Records a node as fenced; replicas ask the twin for what the node had not sent (14 R372, R374; 10 R267; 12 R325). -/
def State.recordFenced (s : State) (node : Nat) : State :=
  let s : State := { s with part := { s.part with fencedNodes := s.part.fencedNodes ++ [node] } }
  let s := ((s.dropNode node).fencedMembers node).srcSettle
  s.span.gather.foldl (fun (s : State) e => match e.2.asked with
    | some step => if e.2.ownerNode = node ∧ !s.part.fencedNodes.contains e.2.twinNode then
        s.send 0x20 e.2.twinNode e.2.ownerDie (pack [(2, e.1), (2, 0), (4, step)]) [5, e.1, step] else s
    | none => s) s

/-- The part takes over from its twin: consumptions complete alone, the twin's slots act as owner (12 R325). -/
def State.takeOver (s : State) (reason : Nat) : State :=
  match s.part.twinNode with
  | none => s
  | some t =>
    if s.part.takenOver then s
    else
      let s : State := { s with part := { s.part with takenOver := true } }
      let s := s.event evTakeover 0 s.ks.leader reason (pack [(2, t), (2, reason)])
      let s := if s.part.fencedNodes.contains t then s else s.recordFenced t
      let s := s.fencedMembers t
      -- the twin's sessions speak for the pair from here (15 R386)
      let s : State := { s with via := { s.via with sessions := s.via.sessions.map fun x =>
        if x.2.state = .standby then (x.1, { x.2 with state := .running, lastBeat := s.part.tai, cleanSince := s.round x.2.job + 1 }) else x } }
      (List.range s.dieCount).foldl (fun (s : State) die =>
        let s := (s.die die).cons.foldl (fun (s : State) c => if c.2.done then s.agreeCons die c.1 c.2 else s) s
        (mkeys ((s.die die).slots.filter fun x => x.2.role == .twin)).foldl (fun s n => (s.fixCheck die n).gateCheck die n) s) s

/-! ### Substitution and retirement (04 R107 to R109) -/

/-- Row and column of a physical bay (00 R15). -/
def bayXY (b : Nat) : Nat × Nat := (b / 12, b % 12)

/-- Hops between two bays of a die (01 R23). -/
def hops (a b : Nat) : Nat :=
  let d := fun (x y : Nat) => (x - y) + (y - x)
  1 + d (bayXY a).1 (bayXY b).1 + cdiv (d (bayXY a).2 (bayXY b).2) 2

/-- Among candidate bays: one of the bay's own group, else the nearest, the lowest number on equal distance (04 R109). DESIGN CHOICE: where
the own group holds several, the lowest number is taken; the spec gives no order inside the group (log 25). -/
def nearest (b : Nat) (cs : List Nat) : Option Nat :=
  match cs.find? (fun c => groupOf c == groupOf b) with
  | some c => some c
  | none => cs.foldl (fun (a : Option Nat) c => match a with
      | some x => if hops c b < hops x b then some c else some x
      | none => some c) none

/-- The reserve spares of a die by number. -/
def State.reserves (s : State) (die : Nat) : List Nat := (List.range 132).filter fun b => (s.bay die b).cond == .reserve

/-- Copies a range of the store elsewhere; the target is overwritten. -/
def moveMem (m : Mem) (src dst n : Nat) : Mem :=
  (m.filter fun c => decide (src ≤ c.1 ∧ c.1 < src + n)).foldl (fun m c => wrByte m (dst + (c.1 - src)) c.2) (clrBytes m dst n)

/-- An address in a bay's SRAM moved to the same byte of another bay. -/
def moveAddr (die b c a : Nat) : Nat :=
  if dpaOnDie a ∧ dpaRegion a = 0 ∧ dpaDie a = die ∧ dpaBay a = b then sramDpa die c (dpaByte a) else a

/-- A resolved descriptor after a bay's buffers moved. -/
def Desc.moved (die b c : Nat) (d : Desc) : Desc :=
  if d.isRem then d else { d with base := moveAddr die b c d.base, sideBase := moveAddr die b c d.sideBase,
                                  chunkBase := moveAddr die b c d.chunkBase }

/-- References of one bay's strokes to a moved bay. -/
def Bay.refsMoved (die b c : Nat) (x : Bay) : Bay :=
  let m3 := fun (y : Nat × Nat × Nat) => (if y.1 = b then c else y.1, y.2)
  { x with
    slots := x.slots.map fun r => { r with inputs := r.inputs.map m3, descs := r.descs.map (Desc.moved die b c) }
    replays := x.replays.map fun i => { i with gens := i.gens.map (·.map m3) }
    journal := x.journal.map fun e => { e with inputs := e.inputs.map m3 } }

/-- References of a mover request to a moved bay; a bounce buffer there is lost and taken again. -/
def MvReq.refsMoved (die b c : Nat) (q : MvReq) : MvReq :=
  { q with
    dst := q.dst.moved die b c, src := q.src.moved die b c, idx := q.idx.map (Desc.moved die b c)
    readers := q.readers.map fun y => (if y.1 = b then c else y.1, y.2)
    bounce := match q.bounce with
      | some (d, y, a) => if d = die ∧ y = b then none else some (d, y, a)
      | none => none }

/-- The strokes of a die that hold wet entries in a bay, or run on it: (bay, sequence number). -/
def State.strokesIn (s : State) (die b : Nat) : List (Nat × Nat) :=
  (((s.bay die b).slots.map fun r => (b, r.seq)) ++ (s.bay die b).seals.filterMap fun e => match e.owner, e.state with
    | .stroke k, .wet => some (k % 256, k / 256)
    | _, _ => none).dedup

/-- Abandons strokes of a die for replay (12 R313). `home`: where those of `b` replay. A frozen stroke is never replayed: it stays for
inspection (12 R327, R328). -/
def State.abandonAll (s : State) (die b home outcome : Nat) (ks : List (Nat × Nat)) : State :=
  ks.foldl (fun (s : State) k => match (s.bay die k.1).slots.find? (fun r => r.seq == k.2 && !r.frozen) with
    | some r => if k.1 = b then s.abandonTo ⟨die, b⟩ r home outcome else s.abandon ⟨die, k.1⟩ r
    | none => s) s

/-- Discards the frozen strokes of a bay that is replaced: its wet entries go, and a violation is never replayed (04 R108; 12 R327). -/
def State.discardFrozen (s : State) (die b : Nat) : State :=
  ((s.bay die b).slots.filter (·.frozen)).foldl (fun (s : State) r => s.discardStroke ⟨die, b⟩ r) s

/-- The reduction slots of a die whose buffer lies in a logical bay and is held. -/
def State.slotsIn (s : State) (die l : Nat) : List Nat :=
  mkeys ((s.die die).slots.filter fun x => x.2.lbay == l && (x.2.state != .free || x.2.opening.isSome))

/-- What becomes of the slots of a bay that is lost: contributors are LOST, an owner's slice is reset (10 R249, R267). -/
def State.slotsLost (s : State) (die : Nat) (ns : List Nat) : State :=
  ns.foldl (fun (s : State) n => if (s.slot die n).role = .contributor then s.slotLost die n else s.resetSlice die n) s

/-- Varnish derives again what it had written of working copies in a bay that is lost (11 R297; 12 R316). -/
def State.wcLost (s : State) (die b : Nat) : State :=
  ((s.bay die b).seals.filterMap fun e => match e.owner, e.state with
    | .varnish n, .wet => some n
    | _, _ => none).dedup.foldl (fun (s : State) n => match s.consOf die n with
      | some c => if c.written.isEmpty then s else s.modDie die fun d => { d with cons := mset d.cons (131072 + n) {
          kind := 2, step := c.step, outcome := 5, decided := true, todo := c.written, since := s.part.tai } }
      | none => s) s

/-- The logical number of a bay passes to a spare: strokes and wet entries are abandoned, dry entries, side memory and status array
move, the journal and the queues follow the logical bay (04 R107, R108; 07 R179). -/
def State.substitute (s : State) (die b spare l : Nat) (wakes : Bool) : State :=
  let ns := s.slotsIn die l
  let s := s.wcLost die b
  let s := (s.discardFrozen die b).abandonAll die b spare 2 (s.strokesIn die b)
  let x := s.bay die b
  let dry := x.seals.filter fun e => e.state != .wet
  let kept := fun (n : Nat) => (s.slot die n).role != .contributor || (s.slot die n).opening.isSome
  let owned := x.seals.filter fun e => e.state == .wet && (match e.owner with | .slot n => kept n | _ => false)
  let gone := (x.seals.filter fun e => e.state == .wet && !owned.contains e).map SealEnt.freed
  let want := x.seals.filterMap fun e => match e.owner, e.state with | .gather k st, .wet => some (k, st) | _, _ => none
  let again := fun (g : Nat × Gather) => match want.find? fun (w : Nat × Nat) => w.1 == g.1 with
    | some w => (g.1, { g.2 with want := some w.2, asked := none })
    | none => g
  let s := s.modBay die spare fun y => { y with
    cond := .substituted, waking := wakes, seals := dry ++ owned ++ gone, journal := x.journal, nextSeq := x.nextSeq, recs := x.recs
    queue := x.queue, replays := x.replays ++ y.replays, pal := [{}, {}, {}, {}]
    bad := x.bad.filter fun w => w.1 == 1 || (w.1 == 0 && dry.any fun e => e.state == .dry && decide (e.start ≤ 4 * w.2 ∧ 4 * w.2 < e.start + e.bytes)) }
  let s := s.modBay die b fun y => { y with seals := [], journal := [], recs := [], queue := [], replays := [], tiles := [], slots := [] }
  let m := dry.foldl (fun m e => if e.state = .dry then moveMem m (sramDpa die b e.start) (sramDpa die spare e.start) e.bytes else m) s.mem
  let m := moveMem m (bayDpa 1 die b 0) (bayDpa 1 die spare 0) (regionSize 1)
  let s : State := { s with
    mem := m
    bays := s.bays.map fun y => if y.1 / 132 = die then (y.1, y.2.refsMoved die b spare) else y
    movers := s.movers.map fun y => if y.1 / 16 = die then (y.1, { y.2 with queue := y.2.queue.map (MvReq.refsMoved die b spare) }) else y
    span := { s.span with gather := s.span.gather.map again } }
  let s := s.modDie die fun d => { d with lmap := setAt d.lmap l spare, copies := d.copies.map (MvReq.refsMoved die b spare) }
  (s.slotsLost die ns).gatherRetry

/-- The job that holds a logical bay. -/
def State.bayJob (s : State) (die l : Nat) : Nat := (s.jobOfItem 1 die l).getD 0

/-- A mover's requests go to the group's other mover; an offending request of a frozen mover stays, as it is never issued again
(12 R320, R321, R327). -/
def State.queueToPeer (s : State) (die m : Nat) (g : Mover → Mover) : State :=
  let q := (s.mover die m).queue
  let k := b2n (s.isFrozen (masterWord 2 die m))
  (s.modMover die m fun y => g { y with queue := q.take k }).modMover die (m ^^^ 1) fun y => { y with queue := y.queue ++ q.drop k }

/-- Retires a bay: its spare takes its logical number, the retirement is persistent and reported; with no spare left the part
fail-stops (04 R108; 18 R452, R459). `arbiter`: a lent spare that takes the number, as it leaves that condition cleared (12 R309). -/
def State.retireBay (s : State) (die b detector : Nat) (arbiter : Option Nat) : State :=
  let mark := fun (s : State) =>
    let k := s.ks.retirements + 1
    let s : State := { s with ks := { s.ks with retirements := k, flash := { s.ks.flash with
      retired := s.ks.flash.retired ++ [bayKey die b] } } }
    s.modBay die b fun x => { x with cond := .retired, retiredAt := k, waking := false, retireAt := none }
  let log := fun (s : State) (job : Nat) =>
    s.logFault ⟨0, detector, 1, 4, die, 0, Config.faultStatus detector, job, b, 0, 0, 0, []⟩
  match s.logical die b with
  | none => log (mark s) 0
  | some l =>
    match arbiter.orElse (fun _ => nearest b (s.reserves die)) with
    | none => (log (mark s) (s.bayJob die l)).failStop detector (Config.faultStatus detector)
    | some sp =>
      let awake := (s.bay die sp).cond == .lent && !(s.bay die sp).waking
      let s := if (s.bay die sp).cond = .lent then s.clearSpare die sp else s
      let s := mark (s.substitute die b sp l (!awake))
      let job := s.bayJob die l
      (log s job).event evBayRetired job die 0 (pack [(1, l), (1, b), (1, sp)])

/-! ### Field tests (12 R320) -/

/-- A unit is under field test. -/
def State.testing (s : State) (unit die index : Nat) : Bool :=
  s.ks.tests.any fun t => t.unit == unit && t.die == die && t.index == index

/-- A unit exists: 1 bay, 2 mover, 3 Varnish unit, 4 decode engine, 5 Span port, 6 Pier port, 7 Viaduct port. -/
def State.unitExists (s : State) (unit die index : Nat) : Bool :=
  decide (die < s.dieCount) && (match unit with
    | 1 => decide (index < 132)
    | 2 => decide (index < 16)
    | 3 => decide (index < 4)
    | 4 => decide (index < 4)
    | 5 => decide (index / 2 = die)
    | 6 => decide (index < 2)
    | 7 => s.viaExists index && decide (s.viaDie index = die)
    | _ => false)

/-- The refusals of 12 R320. -/
def State.testRefused (s : State) (unit die index : Nat) : Bool :=
  s.testing unit die index || (match unit with
    | 1 => (s.reserves die).filter (· != index) == [] && (s.logical die index).isSome
    | 2 => (s.mover die (index ^^^ 1)).fenced || (s.mover die (index ^^^ 1)).testing
    | 4 => (List.range 4).all fun k => k == index || (at' {} (s.die die).engines k).fenced
    | 5 => !(s.port (index ^^^ 1)).up || (s.port (index ^^^ 1)).testing
    | 6 => !(s.port (33 - (16 + index))).up || (s.port (33 - (16 + index))).testing
    | 7 => s.via.sessions.any fun x => x.1 / 256 == index && x.2.state != .closed
    | _ => false)

/-- The engine of a die with the fewest streams, lowest number first, among those that serve (13 R341). -/
def State.engineFor (s : State) (die : Nat) : Option Nat :=
  let d := s.die die
  let load := fun k => (d.streams.filter fun x => x.2.engine == k).length
  ((List.range 4).filter fun k => !(at' {} d.engines k).fenced && !(at' {} d.engines k).testing).foldl (fun (a : Option Nat) k => match a with
    | some b => if load k < load b then some k else a
    | none => some k) none

/-- The streams of an engine move to the die's other engines (13 R342; 12 R320). -/
def State.moveStreams (s : State) (die engine : Nat) : State :=
  (mkeys ((s.die die).streams.filter fun x => x.2.engine == engine)).foldl (fun (s : State) n => match s.engineFor die with
    | some k => s.modDie die fun d => { d with streams := mmod d.streams n fun x => { x with engine := k } }
    | none => s) s

/-- Starts a field test and its arrangement: a spare takes a bay's place, a mover's queue goes to its peer, a port goes down. -/
def State.startTest (s : State) (t : FTest) : State :=
  let s : State := { s with ks := { s.ks with tests := s.ks.tests ++ [t] } }
  match t.unit with
  | 1 => match s.logical t.die t.index, nearest t.index ((s.reserves t.die).filter (· != t.index)) with
    | some l, some sp => ((s.substitute t.die t.index sp l true).clearSpare t.die t.index).modBay t.die t.index fun x => { x with cond := .lent }
    | _, _ => (s.clearSpare t.die t.index).modBay t.die t.index fun x => { x with cond := .lent }
  | 2 => s.queueToPeer t.die t.index fun m => { m with testing := true }
  | 4 => (s.modDie t.die fun d => { d with
      engines := d.engines.modify t.index fun e => { e with testing := true } }).moveStreams t.die t.index
  | 5 => s.modPort t.index fun p => { p with testing := true, up := false }
  | 6 => s.modPort (16 + t.index) fun p => { p with testing := true, up := false }
  | 7 => { s with via := { s.via with ports := mmod s.via.ports t.index fun p => { p with testing := true } } }
  | _ => s

/-- A bay that must be tested at once, where a spare can take its place (12 R309, R316, R319). -/
def State.testBay (s : State) (die b : Nat) : State :=
  if s.testRefused 1 die b then s else s.startTest { unit := 1, die := die, index := b }

/-! ### Domains (12 R321 to R323) -/

/-- The domain of a detected fault; a host-tier fault names its shard. -/
def State.domainOf (s : State) (x : FaultDesc) : Domain :=
  let sub := fun k => ({ level := 2, id := x.die * 256 + k } : Domain)
  match x.detector with
  | 5 => sub (x.unit / 2 % 8)
  | 6 => sub (if x.unit < 16 then 13 else x.unit - 2)
  | 7 => sub (9 + x.unit % 4)
  | 8 => sub (9 + x.unit % 4)
  | 9 => sub (18 + (s.shard x.die x.unit).port)
  | 10 => sub (9 + x.unit % 4)
  | 11 => { level := 3, id := x.die }
  | 12 => { level := 4, id := 0 }
  | _ => { level := 1, id := x.die * 256 + x.unit }

/-- The smallest domain that strictly encloses one (12 R321). -/
def Domain.up (d : Domain) : Domain :=
  match d.level with
  | 1 => { d with level := 2, id := d.id / 256 * 256 + groupOf (d.id % 256) }
  | 2 => { d with level := 3, id := d.id / 256 }
  | _ => { d with level := 4, id := 0 }

/-- A domain encloses or equals another. -/
def Domain.covers (d e : Domain) : Bool :=
  let same := fun (x : Domain) => x.level == d.level && x.id == d.id
  same e || (decide (e.level < 4) && same e.up) || (decide (e.level < 3) && same e.up.up) || (decide (e.level < 2) && same e.up.up.up)

/-- A handling is under way while a watched bay replays or arbitrates, or while a consumption of the domain is in 12 R318. -/
def State.handlingOn (s : State) (d : Domain) : Bool :=
  (d.watch.any fun k =>
    let x := mgetD {} s.bays k
    !x.replays.isEmpty || x.slots.any (·.inst.replayOf.isSome) || x.waking || x.retireAt.isSome ||
    s.ks.arbs.any fun a => bayKey a.die a.bay == k) ||
  (d.level == 2 && decide (9 ≤ d.id % 256 ∧ d.id % 256 ≤ 12) && ((s.die (d.id / 256)).cons.any (·.2.stage != 0) ||
    (s.die (d.id / 256)).slots.any (·.2.disputed)))

/-- Drops handlings that are complete (12 R322). -/
def State.settleHandling (s : State) : State :=
  { s with ks := { s.ks with handling := s.ks.handling.filter fun d => s.handlingOn d } }

/-- Puts a domain in handling; the handlings it encloses are absorbed. -/
def State.handle (s : State) (d : Domain) : State :=
  let (inner, rest) := s.ks.handling.partition d.covers
  { s with ks := { s.ks with handling := rest ++ [{ d with watch := (d.watch ++ inner.flatMap (·.watch)).dedup }] } }

/-- Logs a fault with an action. -/
def State.logDetected (s : State) (x : FaultDesc) (level action status job seq : Nat) : State :=
  s.logFault ⟨0, x.detector, level, action, x.die, 0, status, job, x.unit, seq, 0, if x.detector = 10 then 0 else x.addr, x.detail⟩

/-- Queues a fault that lies outside every domain in handling, or that finds no arbiter; a full queue fail-stops the part (12 R323). -/
def State.queueFault (s : State) (x : FaultDesc) (level : Nat) : State :=
  if 32 ≤ s.ks.queue.length then s.failStop x.detector (Config.faultStatus x.detector)
  else
    let s : State := { s with ks := { s.ks with queue := s.ks.queue ++ [x] } }
    s.logDetected x level 8 (Config.faultStatus x.detector) 0 0

/-- Abandons every unsealed stroke of some bays of a die for replay (12 R321). -/
def State.abandonBays (s : State) (die : Nat) (t : Nat → Bool) : State :=
  ((List.range 132).filter t).foldl (fun (s : State) b =>
    s.abandonAll die b (s.homeOf ⟨die, b⟩) 1 ((s.bay die b).slots.map fun r => (b, r.seq))) s

/-- The bays of a domain. -/
def Domain.bays (d : Domain) (dies : Nat) : List (Nat × Nat) :=
  match d.level with
  | 1 => [(d.id / 256, d.id % 256)]
  | 2 => if d.id % 256 < 8 then ((List.range 132).filter fun b => groupOf b == d.id % 256).map fun b => (d.id / 256, b) else []
  | 3 => (List.range 132).map fun b => (d.id, b)
  | _ => (List.range dies).flatMap fun die => (List.range 132).map fun b => (die, b)

/-- Fences a host port: it takes and makes no requests any more, and its peer carries the work (12 R321). DESIGN CHOICE: the fence is its
link going down, as the spec names no other state of a port that is out of use (log 25). -/
def State.fenceHost (s : State) (p : Nat) : State := s.modHost p fun h => { h with linkUp := false }

/-- Fences the failing unit where a peer takes its work; a unit without a peer makes the part fail-stop (12 R321). Above the die
subsystem a failing bay is retired: the die serves the job on its spare, or the part fail-stops (04 R108). -/
def State.fenceUnit (s : State) (x : FaultDesc) (level : Nat) : State :=
  let stop := s.failStop x.detector (Config.faultStatus x.detector)
  match x.detector with
  | 5 => if (s.mover x.die (x.unit % 16 ^^^ 1)).fenced then stop
    else s.queueToPeer x.die (x.unit % 16) fun m => { m with fenced := true }
  | 6 => s.portDown x.unit
  | 7 => stop
  | 8 => stop
  | 9 =>
    let p := (s.shard x.die x.unit).port
    if (s.host (1 - p)).linkUp then s.fenceHost p else stop
  | 10 => stop
  | 11 => if x.recurs then stop else s
  | 12 => if x.recurs then stop else s
  | _ => if 3 ≤ level ∧ (s.logical x.die x.unit).isSome then s.retireBay x.die x.unit x.detector none else s

/-- Handling at a level above the fault's own first action: strokes of the domain are abandoned and replayed, the unit fenced; the
package retrains the failing link once (12 R321). -/
def State.handleAt (s : State) (x : FaultDesc) (d : Domain) (status : Nat) : State :=
  let bs := d.bays s.dieCount
  let busy := bs.filter fun b => !(s.bay b.1 b.2).slots.isEmpty || !(s.bay b.1 b.2).replays.isEmpty
  let s := s.logDetected x d.level (if d.level = 2 then 0 else 5) status 0 0
  let s := busy.foldl (fun (s : State) b => s.abandonBays b.1 (· == b.2)) s
  let s := s.fenceUnit x d.level
  if s.part.state = 3 then s
  else s.handle { d with watch := (busy.map fun b => bayKey b.1 (s.homeOf ⟨b.1, b.2⟩)).dedup }

/-! ### Arbitration (12 R308) -/

/-- The operand bytes of the held tile of a bay: the element and side intervals its array reads (12 R308). -/
def State.heldOperands (s : State) (die b : Nat) : List (Nat × Nat) :=
  match (s.bay die b).tiles.find? (·.phase == .held) with
  | some t => match (s.bay die b).slots.find? (·.seq == t.seq) with
    | some r => ((r.tileAccess t).filter fun x => !x.2.2).map fun x => (x.1, x.2.1)
    | none => []
  | none => []

/-- The bytes that the operands take in an arbiter. -/
def operandBytes (rs : List (Nat × Nat)) : Nat := alignUp ((rs.map (·.2)).foldl (· + ·) 0) 256

/-- The arbiter of a tile: a lent spare, a reserve spare, or an active bay of the same job with a free slot and free SRAM. -/
def State.arbiterFor (s : State) (die b : Nat) : Option Nat :=
  let used := fun (c : Nat) => s.ks.arbs.any fun a => a.die == die && a.arbiter == c
  let all := (List.range 132).filter fun c => c != b && !used c
  let lent := all.filter fun c => (s.bay die c).cond == .lent && !s.testing 1 die c
  let job := s.bayJob die ((s.logical die b).getD 0xFF)
  let peers := all.filter fun c => (match s.logical die c with | some l => s.holds job 1 die l | none => false) &&
    s.slotFree ⟨die, c⟩ && ((s.bay die c).fit (operandBytes (s.heldOperands die b))).isSome
  (nearest b lent).orElse fun _ => (nearest b ((s.reserves die).filter fun c => !used c)).orElse fun _ => peers.head?

/-- Copies byte ranges one after another to an address. -/
def copyRanges (m : Mem) (rs : List (Nat × Nat)) (a : Nat) : Mem :=
  (rs.foldl (fun (x : Mem × Nat) r => (wrBytes x.1 x.2 (rdBytes m r.1 r.2), x.2 + r.2)) (m, a)).1

/-- Begins the arbitration of the held tile of a bay: a reserve spare is lent, its SRAM cleared, and wakes; the operand slices and scale
arrays are copied into the arbiter, which keeps them wet while it recomputes (12 R308). DESIGN CHOICE: they take the lowest free place
there, one after another, as the spec names none (log 25). -/
def State.startArb (s : State) (die b c : Nat) : State :=
  let spare := (s.bay die c).cond == .reserve
  let s := if spare then (s.clearSpare die c).modBay die c fun x => { x with cond := .lent, waking := true } else s
  let rs := s.heldOperands die b
  let n := operandBytes rs
  let a := ((s.bay die c).fit n).getD 0
  let s := ({ s with mem := copyRanges s.mem rs (sramDpa die c a) } : State).modBay die c fun x =>
    if n = 0 then x else x.register a n .wet (.arbiter b)
  { s with ks := { s.ks with arbs := s.ks.arbs ++ [⟨die, b, c, (s.bay die c).cond == .lent, !spare, (a, n)⟩] } }

/-! ### First actions (12 R303, R314, R316) -/

/-- A stroke that waits for damaged data is replayed without counting the attempt (12 R314). -/
def State.abandonUncounted (s : State) (b : BayRef) (r : Running) : State :=
  (s.abandon b r).modBay b.die (s.homeOf b) fun x =>
    { x with replays := x.replays.dropLast ++ (x.replays.getLast?.map fun i => { i with attempt := r.inst.attempt }).toList }

/-- Excludes the damaged 256 B unit of a bay; 16 of them test the bay (12 R316). -/
def State.excludeUnit (s : State) (die b addr : Nat) : State :=
  let u := dpaByte addr / 256
  let x := s.bay die b
  let s := if x.excluded.contains u then s else s.modBay die b fun x => { x with excluded := x.excluded ++ [u] }
  if 16 ≤ (s.bay die b).excluded.length then s.testBay die b else s

/-- A data fault or a fault inside a bay (12 R303 rows 1, 2 and 4; R314). -/
def State.bayFault (s : State) (x : FaultDesc) (d : Domain) : State :=
  let die := x.die
  let b := x.unit
  let buf := ((s.bay die b).seals.filterMap fun e => match e.owner, e.state with
    | .slot n, .wet => if dpaOnDie x.addr ∧ e.start ≤ dpaByte x.addr ∧ dpaByte x.addr < e.start + e.bytes then some n else none
    | _, _ => none)
  let reads := fun (r : Running) => r.descs.any fun y => !y.isRem && y.spans.any fun z => decide (z.1 ≤ x.addr ∧ x.addr < z.1 + z.2)
  let run := ((s.bay die b).slots.find? reads).orElse fun _ => (s.bay die b).issuing.orElse fun _ => (s.bay die b).slots.head?
  let job := (run.map (·.inst.job)).getD (s.bayJob die ((s.logical die b).getD 0xFF))
  let seq := (run.map (·.seq)).getD 0
  let spent := (s.bay die b).slots.any fun r => decide (2 ≤ r.inst.attempt)
  -- a parity error in the decode structures of a palette slot sets it empty (09 R239)
  let s := if x.detector = 1 ∧ dpaOnDie x.addr ∧ dpaRegion x.addr = 2 ∧ dpaByte x.addr < 0x400 then s.modBay die b fun y =>
      { y with pal := y.pal.modify (dpaByte x.addr / 0x100) fun p => { p with image := [], valid := false } } else s
  if x.detector = 1 ∧ !buf.isEmpty then
    let s := (s.logDetected x 1 0 (Config.faultStatus x.detector) job seq).slotsLost die buf
    if x.recurs then s.excludeUnit die b x.addr else s
  else if x.detector ≠ 2 ∧ x.recurs then
    let s := (s.logDetected x 1 0 (Config.faultStatus x.detector) job seq).excludeUnit die b x.addr
    match run with
    | some r => (s.abandonUncounted ⟨die, b⟩ r).handle { d with watch := [bayKey die (s.homeOf ⟨die, b⟩)] }
    | none => s
  else if spent then s.handleAt x d.up stReplayExhausted
  else if x.detector = 2 ∨ run.any fun r => r.inst.attempt == 1 && r.inst.outcome != 2 then
    let l := s.logical die b
    let s := s.retireBay die b x.detector none
    if s.part.state = 3 then s else s.handle { d with watch := (l.map fun l => bayKey die (s.phys die l)).toList }
  else match run with
    | some r =>
      let s := s.logDetected x 1 0 (Config.faultStatus x.detector) job seq
      (s.abandon ⟨die, b⟩ r).handle { d with watch := [bayKey die (s.homeOf ⟨die, b⟩)] }
    | none => s.logDetected x 1 1 (Config.faultStatus x.detector) job 0

/-- Strokes of a die with contributions that owner or twin has not acknowledged (12 R303 row 6). -/
def State.undelivered (s : State) (die : Nat) : List (Nat × Nat) :=
  (List.range 132).flatMap fun b => ((s.bay die b).slots.filter fun r =>
    (s.slotsOfToken die (strokeToken die b r.seq)).any fun n =>
      !(s.slot die n).sendQ.isEmpty || decide (s.flyingAll die n ≠ 0)).map fun r => (b, r.seq)

/-- The first action on a fault (12 R303). -/
def State.firstAction (s : State) (x : FaultDesc) : State :=
  let d := s.domainOf x
  let st := Config.faultStatus x.detector
  match x.detector with
  | 3 => match s.arbiterFor x.die x.unit with
    | some c => (s.startArb x.die x.unit c).handle { d with watch := [bayKey x.die x.unit] }
    | none => s.queueFault x 1
  | 5 => if x.recurs then s.handleAt x d st else s.logDetected x 2 1 st 0 0
  | 6 =>
    let ks := s.undelivered x.die
    let s := (s.logDetected x 2 0 st 0 0).reissueOver x.unit
    (s.abandonAll x.die 0xFF 0xFF 1 ks).handle { d with watch := (ks.map fun k => bayKey x.die (s.homeOf ⟨x.die, k.1⟩)).dedup }
  | 7 =>
    if x.recurs then s.handleAt x d st
    else
      let other := fun (k : Nat × Nat) =>
        let a := (s.shard x.die (s.slot x.die k.1).shard).copyAt ((s.slot x.die k.1).first + k.2) 0
        !decide (a ≤ x.addr ∧ x.addr < a + 832)
      (s.logDetected x 2 1 st 0 0).modDie x.die fun y => { y with staged := y.staged.filter other }
  -- a second uncorrectable result at one address is damaged data: recovered, and its place used no more (12 R305, R316)
  | 8 => if x.recurs then (s.logDetected x 2 0 st 0 0).modDie x.die fun y =>
        { y with excluded := if y.excluded.contains (x.addr / 256) then y.excluded else y.excluded ++ [x.addr / 256] }
      else s.logDetected x 2 1 st 0 0
  | 9 =>
    let h := s.shard x.die x.unit
    (s.logDetected x 2 0 st h.job 0).modDie x.die fun y => { y with shards := mset y.shards x.unit { h with stopped := true } }
  | 10 => ((s.logDetected x 2 0 st 0 0).handle d).modDie x.die fun y => { y with
      slots := mmod y.slots x.addr fun sl => { sl with disputed := true }
      cons := mmod y.cons x.addr fun c => { c with stage := max 1 c.stage } }
  | 11 => s.handleAt x d st
  | 12 => s.handleAt x d st
  | _ => s.bayFault x d

/-- A detected fault against the domains in handling (12 R323). -/
def State.fault (s : State) (x : FaultDesc) : State :=
  let s := s.settleHandling
  let d := s.domainOf x
  let hs := s.ks.handling
  let st := Config.faultStatus x.detector
  if hs.any (·.level == 4) then s.failStop x.detector st
  else if hs.any d.covers then (if d.level = 4 then s.failStop x.detector st else s.handleAt x d.up st)
  else if hs.isEmpty then s.firstAction x
  else s.queueFault x d.level

end Sys2Proof.Machine
end

