-- ==== Sys2Proof/Machine/Convert.lean ====
section
/-! DEFINITION. Conversions between the formats, tensor scales, the sketch pass and table look-up (02 R53 to R55; 03 R79; 06 R160 to
R169). -/

namespace Sys2Proof.Machine

open Sys2Proof

/-! ### CVT (06 R160) -/

/-- A NaN converted under STRICT: quieted, sign and the most significant fraction bits kept (02 R59; log 11). -/
def cvtNaN (sf tf : Fmt) (code : Nat) : Nat :=
  let fr := code % 2 ^ (sf.p - 1)
  let fr' := if sf.p ≤ tf.p then fr <<< (tf.p - sf.p) else fr >>> (sf.p - tf.p)
  tf.sign (code.testBit sf.signBit) (tf.infCode.getD 0 + (fr' ||| 2 ^ (tf.p - 2)))

/-- One element from one of FP32, BF16, FP16, INT32 to another (02 R53, R55). -/
def cvt1 (strict : Bool) (r : Rnd) (sf tf code : Nat) : Nat × Exc :=
  let v := plainVal sf code
  if tf = 9 then i32OfVal r v
  else if !strict then plainCode tf v
  else match v with
    | .fin neg m d e => (fmtOf tf).round r true false neg m d e
    | .inf neg => ((fmtOf tf).sign neg ((fmtOf tf).infCode.getD 0), {})
    | _ => (cvtNaN (fmtOf sf) (fmtOf tf) code, { inv := b2n (!code.testBit ((fmtOf sf).p - 2)) })

/-- A register as one number, lane 0 lowest (06 R144). -/
def regNat (x : Lanes) : Nat := packCodes 32 (x.map (·.toNat))
/-- A number as a register. -/
def natReg (n : Nat) : Lanes := (unpackCodes 32 64 n).map (BitVec.ofNat 32)
/-- The elements of a register in a format (06 R144). -/
def regCodes (fmt : Nat) (x : Lanes) : List Nat := unpackCodes (elemBits fmt) (regElems fmt) (regNat x)
/-- A register from its elements; the lanes beyond them are 0. -/
def codesReg (fmt : Nat) (cs : List Nat) : Lanes := natReg (packCodes (elemBits fmt) cs)

/-- CVT's register result: every target element's code, the events, by source elements and predicate (05 R116, 06 R160). -/
def Running.cvt (r : Running) (f : Fields) : Running :=
  let m := modOf false f
  let sf := f.imm.toNat >>> 4 % 16
  let tf := f.imm.toNat % 16
  let p := f.imm.toNat >>> 8 % 8
  let src := regCodes sf (r.vreg f.src1)
  let old := regCodes tf (r.vreg f.dst)
  let sn := regElems sf
  let tn := regElems tf
  -- the source element of a target element, and the lane that governs it
  let pick := fun (e : Nat) =>
    if sn = tn then some (e, if sn = 64 then e else e / 2)
    else if tn < sn then some (64 * p + e, e)
    else if 64 * p ≤ e ∧ e < 64 * p + 64 then some (e - 64 * p, e - 64 * p) else none
  let ys := (List.range tn).map fun e => match pick e with
    | some (i, l) => if r.on m l then cvt1 (modStrict m) (modRnd m) sf tf (at' 0 src i) else (at' 0 old e, {})
    | none => (at' 0 old e, {})
  (r.setV f.dst (codesReg tf (ys.map (·.1)))).raise (modStrict m) (excSum (ys.map (·.2)))

/-- CVT (06 R160). -/
def execCvt (b : BayRef) (f : Fields) (s : State) : Outcome :=
  .next (s.strokeStep b 0x70 f fun s r => .done s (r.cvt f))

/-! ### XCVT and XSIDE (06 R161, R162) -/

/-- The source blocks of XCVT and XSIDE: the values of each, and whether they are read under a reserved sub-code (02 R48, R57). -/
def Running.xsource (r : Running) (f : Fields) : List (List Val × Bool) :=
  let i := f.imm.toNat
  let sf := i >>> 4 % 16
  let g := groupSize sf (i % 16)
  let cs := ((regCodes sf (r.vreg f.src1)).drop (i >>> 12 % 16 * g)).take g
  let bs := (parts 32 cs).zipIdx.map fun (c, k) => (c, (r.lane f.src2 (i >>> 20 % 64 + k)).toNat % 256)
  bs.map fun (c, sd) => (Machine.blockVals sf sd r.tsrc c, sf == 10 && (Bx.mk sd c).reserved)

/-- One block into a target format against its given side byte: codes, events, and whether a BX64 anchor is refused (06 R162). -/
def xblock (tf side : Nat) (t : Word) (vs : List Val) : List Nat × Exc × Bool :=
  if isMX tf then
    let (cs, x) := mxEncode tf side t vs
    (cs, if anyNaN vs ∧ side ≠ 255 then { inv := vs.length } else x, false)
  else if tf = 10 then
    if !bxGivenOk side vs then ([], {}, true)
    else match bxMarker vs with
      | some c => (c :: List.replicate 31 0, { inv := if side = 255 ∧ !vs.any (· == .sat) then 0 else 32 }, false)
      | none => ((bxFrom side vs).ns, {}, false)
  else
    let ys := vs.map (plainCode tf)
    (ys.map (·.1), excSum (ys.map (·.2)), false)

/-- The same with the source's sub-code: each element of a block read under a reserved one is counted once (02 R57). -/
def xblockOf (tf side : Nat) (t : Word) (v : List Val × Bool) : List Nat × Exc × Bool :=
  let y := xblock tf side t v.1
  if v.2 then (y.1, { inv := v.1.length }, y.2.2) else y

/-- XCVT (06 R161, R162). -/
def execXcvt (b : BayRef) (f : Fields) (s : State) : Outcome :=
  .next (s.strokeStep b 0x71 f fun s r =>
    let i := f.imm.toNat
    let tf := i % 16
    let g := groupSize (i >>> 4 % 16) tf
    let ys := (r.xsource f).zipIdx.map fun (v, k) => xblockOf tf ((r.lane f.src3 (i >>> 26 + k)).toNat % 256) r.tdst v
    if ys.any fun y => y.2.2 then .viol stMalformed 0 none
    else
      let cs := splice' (regCodes tf (r.vreg f.dst)) (i >>> 16 % 16 * g) (ys.flatMap (·.1))
      .done s ((r.setV f.dst (codesReg tf cs)).raise false (excSum (ys.map (·.2.1)))))
where
  /-- Overwrites elements of a list from a place. -/
  splice' (xs : List Nat) (o : Nat) (ys : List Nat) : List Nat := xs.take o ++ ys ++ xs.drop (o + ys.length)

/-- XSIDE (06 R161): the side bytes chosen for the group; the other lanes stay. DESIGN CHOICE: it reads the elements of a block with a
reserved sub-code and so counts them under invalid, as the XCVT that follows counts them again; 02 R57 speaks of element results, which
XSIDE has none of (log 26). -/
def execXside (b : BayRef) (f : Fields) (s : State) : Outcome :=
  .next (s.strokeStep b 0x72 f fun s r =>
    let i := f.imm.toNat
    let tf := i % 16
    let vs := r.xsource f
    let sides := vs.map fun v => if tf = 10 then bxAnchor v.1 else mxScale tf r.tdst v.1
    let x := sides.zipIdx.foldl (fun x (sd, k) => setAt x (i >>> 26 + k) (BitVec.ofNat 32 sd)) (r.vreg f.dst)
    .done s ((r.setV f.dst x).raise false (excSum (vs.map fun v => if v.2 then { inv := v.1.length } else {}))))

/-! ### Tensor scales (06 R146, R163) -/

/-- TSC.SET: 0 sets none; a scale that is not positive, finite and normal is malformed (06 R163). -/
def execTscSet (b : BayRef) (f : Fields) (s : State) : Outcome :=
  .next (s.strokeStep b 0x73 f fun s r =>
    let t := r.sreg f.src1
    if t ≠ 0#32 ∧ !tsOk t then .viol stMalformed 0 none
    else .done s (if f.imm.toNat.testBit 0 then { r with tdst := t } else { r with tsrc := t }))

/-- TSCALE (06 R163). -/
def execTscale (b : BayRef) (f : Fields) (s : State) : Outcome :=
  .next (s.strokeStep b 0x74 f fun s r =>
    let a := fabs (r.sreg f.src1)
    if isNaN a ∨ isInf a then .viol stMalformed 0 none else .done s (r.setS f.dst (tscaleOf a)))

/-- TSCALE.H: from the amax of a descriptor's record, once earlier writes to it have completed (06 R163). -/
def execTscaleH (b : BayRef) (f : Fields) (s : State) : Outcome :=
  .next (s.strokeStep b 0x75 f fun s r =>
    let i := f.imm.toNat % 256
    if !s.settled b r (r.desc i) then .hold
    else .done s (r.setS f.dst (tscaleOf (BitVec.ofNat 32 (mgetD Hist.empty r.hists i).amax))))

/-! ### The sketch pass (03 R79) -/

/-- The record of a tensor as it stands, and the elements read under a reserved sub-code. -/
def Desc.sketch (d : Desc) (m : Mem) : Hist × Nat :=
  if d.side then
    ((List.range d.blocks).foldl (fun h j => h.addBlock (d.blockVals m j)) Hist.empty,
     if d.fmt = 10 then (List.range d.blocks).foldl (fun n j => n + if (d.rdBx m j).reserved then (d.blockPos j).2 else 0) 0 else 0)
  else ((List.range d.count).foldl (fun h p => h.add (d.valAt m p)) Hist.empty, 0)

/-- Writes the 72 words of a record into an INT32 tensor. -/
def Desc.putHist (d : Desc) (m : Mem) (h : Hist) : Mem :=
  h.words.zipIdx.foldl (fun m (w, p) => d.wr m p w) m

/-- VSKETCH (03 R79; 06 R161). -/
def execVsketch (b : BayRef) (f : Fields) (s : State) : Outcome :=
  .next (s.strokeStep b 0x76 f fun s r =>
    let src := r.desc (f.imm.toNat >>> 8 % 256)
    let dst := r.desc (f.imm.toNat % 256)
    if !s.free b r (accessOf false src.spans ++ accessOf true dst.spans) then .hold
    else
      let (h, reserved) := src.sketch s.mem
      .done { s with mem := dst.putHist s.mem h } (r.raise false { inv := reserved }))

/-! ### Table look-up (06 R165 to R169) -/

/-- A built-in function of a lane with its events. -/
def Running.lut (r : Running) (f : Fields) (zeroDiv nonzero : Bool) (g : Bool → Word → Word) : Running :=
  r.flanes f (modOf false f) fun l =>
    let x := r.lane f.src1 l
    let y := g (f.imm.toNat.testBit 0) x
    (y, lutExc zeroDiv nonzero x y)

/-- LUT.EXP2 (06 R166, R167). -/
def execLutExp2 (b : BayRef) (f : Fields) (s : State) : Outcome :=
  .next (s.strokeStep b 0x60 f fun s r => .done s (r.lut f false true lutExp2))

/-- LUT.LOG2 (06 R166, R167). -/
def execLutLog2 (b : BayRef) (f : Fields) (s : State) : Outcome :=
  .next (s.strokeStep b 0x61 f fun s r => .done s (r.lut f true false lutLog2))

/-- LUT.RCP (06 R166, R167). -/
def execLutRcp (b : BayRef) (f : Fields) (s : State) : Outcome :=
  .next (s.strokeStep b 0x62 f fun s r => .done s (r.lut f true true lutRcp))

/-- LUT.SIG (06 R166, R167). -/
def execLutSig (b : BayRef) (f : Fields) (s : State) : Outcome :=
  .next (s.strokeStep b 0x63 f fun s r => .done s (r.lut f false true lutSig))

/-- LUT.TANH (06 R166, R167). -/
def execLutTanh (b : BayRef) (f : Fields) (s : State) : Outcome :=
  .next (s.strokeStep b 0x64 f fun s r => .done s (r.lut f false false lutTanh))

/-- LUT.LD: N + 1 or N + 2 entries into a bank (06 R168). -/
def execLutLd (b : BayRef) (f : Fields) (s : State) : Outcome :=
  .next (s.strokeStep b 0x68 f fun s r =>
    let i := f.imm.toNat
    let d := r.desc (i >>> 16 % 256)
    let n := i >>> 4 % 512
    let k := n + (if i.testBit 2 then 2 else 1)
    if !s.free b r (accessOf false (d.access 0 k)) then .hold
    else .done s { r with luts := setAt r.luts (i % 4) (some
      ⟨n, i.testBit 3, i.testBit 2, r.sreg f.src1, r.sreg f.src2, (List.range k).map fun p => BitVec.ofNat 32 (d.rd s.mem p)⟩) })

/-- LUT.USR (06 R169). -/
def execLutUsr (b : BayRef) (f : Fields) (s : State) : Outcome :=
  .next (s.strokeStep b 0x69 f fun s r =>
    match at' none r.luts (f.imm.toNat % 4) with
    | none => .viol stMalformed 0 none
    | some t => .done s (r.flanes f (modOf false f) fun l =>
        let x := r.lane f.src1 l
        let y := lutUser t x
        (y, lutExc false false x y)))

end Sys2Proof.Machine
end

