-- ==== Sys2Proof/Machine/RowEngine.lean ====
section
/-! DEFINITION. The row engine: normalisation, soft maximum, loss, activation and pooling over rows (chapter 07). -/

namespace Sys2Proof.Machine

open Sys2Proof

/-! ### Roles and rows (07 R170, R171, R190) -/

/-- The descriptor bound to a role: 0 X, 1 Y, 2 MASK, 3 DY, 4 DX, 5 PLANE, 6 SCALE, 7 BIAS, 8 SPILL, 9 DSCALE, 10 DBIAS, 11 LABELS. -/
def Running.role (r : Running) (k : Nat) : Option Desc := (at' none r.roles k).map r.desc

/-- A role is bound. -/
def Running.bound (r : Running) (k : Nat) : Bool := (at' none r.roles k).isSome

/-- A parameter (07 R174). -/
def Running.parm (r : Running) (k : Nat) : Word := at' 0#32 r.parms k

/-- An element of FP32, BF16 or FP16 as FP32. -/
def Desc.word (d : Desc) (m : Mem) (p : Nat) : Word :=
  BitVec.ofNat 32 (if d.fmt = 0 then d.rd m p else (fFP32.ofVal false (plainVal d.fmt (d.rd m p))).1)

/-- A row of `n` elements. -/
def Desc.rowOf (d : Desc) (m : Mem) (row n : Nat) : List Word := (List.range n).map fun j => d.word m (row * n + j)

/-- A row of a bit-plane of `n` elements; a single plane row serves every data row (07 R190). -/
def Desc.planeRow (d : Desc) (m : Mem) (row n : Nat) : List Bool :=
  (List.range n).map fun j => (d.rd m ((if d.rows = 1 then 0 else row * cdiv n 32) + j / 32)).testBit (j % 32)

/-- The row's index along the second-innermost dimension (07 R170). -/
def Desc.rowIndex (d : Desc) (row : Nat) : Nat := if d.rank ≤ 1 then 0 else row % d.shape.getD 1 1

/-- The positions of a row that are not masked: MASK by imm[0], causal by imm[1] (07 R182, R185). -/
def Running.unmasked (r : Running) (m : Mem) (imm : Nat) (x : Desc) (row : Nat) : List Bool :=
  let a := match r.role 2 with
    | some d => if imm.testBit 0 then d.planeRow m row x.n else List.replicate x.n true
    | none => List.replicate x.n true
  if imm.testBit 1 then
    a.zipIdx.map fun (k, j) => k && decide ((j : Int) ≤ (x.rowIndex row : Int) + sgn 32 (r.parm 6).toNat)
  else a

/-- The format has no infinity: an infinite result saturates in it, and the conversion counts the overflow (02 R42, R45). -/
def mxSat (fmt : Nat) : Bool := isMX fmt && (mxCode fmt (.inf false)).2.ov != 0

/-- Writes one row of results into a role, with the element results' events, each counted once (07 R171, R172; 02 R57). -/
def Running.putRole (r : Running) (s : State) (k row : Nat) (ws : List Word) (x : Exc) : State × Running :=
  match at' none r.roles k with
  | some i =>
    let d := r.desc i
    let q := d.putRow (s.sink r i) (row * ws.length) (ws.map fpVal)
    ({ s with mem := q.mem }, (r.take i q).raise false (if mxSat d.fmt then { x with ov := 0 } else x))
  | none => (s, r)

/-- Writes one row of a bit-plane role: every word of it (07 R190). DESIGN CHOICE: a plane, like a SPILL row, that asks for a histogram has
none of these words counted, as 07 R172 names only Y and DX; RE.PST's words are counted as stores are (log 27). -/
def Running.putPlane (r : Running) (s : State) (row : Nat) (bs : List Bool) : State :=
  match r.role 5 with
  | some d =>
    let ws := (parts 32 bs).map fun c => c.foldr (fun b a => b2n b + 2 * a) 0
    { s with mem := ws.zipIdx.foldl (fun m (w, j) => d.wr m (row * ws.length + j) w) s.mem }
  | none => s

/-- The events of an element result, once each (02 R57; log 11): `nan`: an input was NaN; `fin`: the inputs were finite. -/
def elemExc (nan fin : Bool) (y : FRes) : Exc :=
  { inv := b2n (isNaN y.1 && !nan), ov := b2n (isInf y.1 && fin), uf := y.2.uf }

/-- Finite FP32. -/
def isFin (w : Word) : Bool := !isNaN w && !isInf w

/-! ### Statistics (07 R176 to R178) -/

/-- The status word. -/
def statWord (kind producer count : Nat) : Nat := kind <<< 30 + producer <<< 27 + count

/-- Writes a statistics row, in side memory or in SPILL. -/
def Running.putStat (r : Running) (s : State) (b : BayRef) (row : Nat) (s0 s1 : Word) (st : Nat) : State :=
  if row < 8192 then
    let a := bayDpa 1 b.die b.bay 0
    { s with mem := wrNat (wrNat (wrNat s.mem (a + 8 * row) 4 s0.toNat) (a + 8 * row + 4) 4 s1.toNat) (a + 0x10000 + 4 * row) 4 st }
  else match r.role 8 with
    | some d => { s with mem := [s0.toNat, s1.toNat, st, 0].zipIdx.foldl (fun m (w, j) => d.wr m (4 * (row - 8192) + j) w) s.mem }
    | none => s

/-- Reads a statistics row: stat0, stat1, status word. -/
def Running.stat (r : Running) (s : State) (b : BayRef) (row : Nat) : Word × Word × Nat :=
  if row < 8192 then
    let a := bayDpa 1 b.die b.bay 0
    (BitVec.ofNat 32 (rdNat s.mem (a + 8 * row) 4), BitVec.ofNat 32 (rdNat s.mem (a + 8 * row + 4) 4), rdNat s.mem (a + 0x10000 + 4 * row) 4)
  else match r.role 8 with
    | some d => let w := fun j => d.rd s.mem (4 * (row - 8192) + j); (BitVec.ofNat 32 (w 0), BitVec.ofNat 32 (w 1), w 2)
    | none => (0#32, 0#32, 0)

/-- Statistics rows sb to sb + nr − 1 have a place (07 R177). -/
def Running.statOk (r : Running) (sb nr : Nat) : Bool :=
  decide (sb + nr ≤ 8192) || (match r.role 8 with | some d => decide (4 * (sb + nr - 8192) ≤ d.count) | none => false)

/-! ### Exact sums (07 R180; 03 R69, R70) -/

/-- An exact sum of FP32 values over n, rounded once. -/
def meanOf (ws : List Word) (n : Nat) : Word :=
  let mk := (ws.map fun w => marksOf (fpVal w)).foldl Marks.or {}
  if mk.any then (match mk.val with | .inf g => inf32 g | _ => qNaN)
  else
    let t := (ws.map exact149).foldl (· + ·) (0 : Int)
    if t = 0 then zero32 (decide (ws ≠ []) && ws.all (· == 0x80000000#32))
    else (fin32 false .ne (decide (t < 0)) t.natAbs n (-149)).1

/-- An exact sum of exact products over n, rounded once. -/
def dotOf (ps : List (Word × Word)) (n : Nat) : Word :=
  let vs := ps.map fun p => (mulVal (fpVal p.1) (fpVal p.2)).getD .nan
  let mk := (vs.map marksOf).foldl Marks.or {}
  if mk.any then (match mk.val with | .inf g => inf32 g | _ => qNaN)
  else
    let t := (ps.map fun p => exact149 p.1 * exact149 p.2).foldl (· + ·) (0 : Int)
    if t = 0 then zero32 (decide (ps ≠ []) && vs.all fun v => v matches .fin true 0 _ _)
    else (fin32 false .ne (decide (t < 0)) t.natAbs n (-298)).1

/-! ### The shape of a row instruction -/

/-- Accesses of the roles a row instruction reads and writes, for rows r0 to r0 + nr − 1 of `rows` (05 R104). -/
def Running.rowAccess (r : Running) (rd wr : List Nat) (rows r0 nr : Nat) : List Access :=
  let one := fun (w : Bool) (k : Nat) => match r.role k with
    | some d =>
      let q := d.count / rows
      accessOf w (if k = 6 ∨ k = 7 ∨ k = 8 ∨ k = 9 ∨ k = 10 ∨ (k = 2 ∧ d.rows = 1) then d.access 0 d.count else d.access (r0 * q) (nr * q))
    | none => []
  rd.flatMap (one false) ++ wr.flatMap (one true)

/-- A row instruction: needs its roles, checks its rows, waits for what it reads, checks its statistics, and runs row by row (07 R170,
R173, R178; 05 R104, R132). `stats`: 0 none, 1 written, 2 read from one of the given producers. `bad` is a further reason to refuse. -/
def State.rowStep (s : State) (b : BayRef) (op : Nat) (f : Fields) (need rd wr : List Nat) (stats : Nat) (producers : List Nat)
    (bad : State → Running → Nat → Nat → Option (Nat × Desc)) (go : State → Running → Nat → Nat → State × Running) : State :=
  s.strokeStep b op f fun s r =>
    let data := if r.bound 0 then 0 else 3
    let r0 := (r.sreg f.src1).toNat
    let nr := (r.sreg f.src2).toNat
    let sb := (r.sreg f.dst).toNat
    match r.role data with
    | none => .viol stMalformed 0 none
    | some x =>
      if need.any fun k => !r.bound k then .viol stMalformed x.base (some x)
      else if nr = 0 then .done s r
      else if x.rows < r0 + nr then .viol stRange (x.addr (r0 * x.n)) (some x)
      else if stats ≠ 0 ∧ !r.statOk sb nr then .viol stRange 0 (r.role 8)
      else if !s.free b r (r.rowAccess rd wr x.rows r0 nr) then .hold
      else if stats = 2 ∧ (List.range nr).any (fun i => !producers.contains (bitsOf (r.stat s b (sb + i)).2.2 29 27)) then
        .viol stMalformed (bayDpa 1 b.die b.bay (8 * sb)) none
      else match bad s r r0 nr with
        | some (st, d) => .viol st d.base (some d)
        | none =>
          let (s, r) := (List.range nr).foldl (fun (a : State × Running) i => go a.1 a.2 (sb + i) (r0 + i)) (s, r)
          .done s (if op = 0x83 ∨ op = 0x85 then r.accMark r.pc else r)

/-! ### Bindings and parameters (07 R173, R174) -/

/-- RE.BIND: the three roles of a group; a role whose valid bit is 0 becomes unbound. -/
def execReBind (b : BayRef) (f : Fields) (s : State) : Outcome :=
  .next (s.strokeStep b 0x80 f fun s r =>
    let i := f.imm.toNat
    let g := 3 * (i % 4)
    let put := fun (rs : List (Option Nat)) (k v sh : Nat) => setAt rs (g + k) (if i.testBit v then some (i >>> sh % 256) else none)
    .done s { r with roles := put (put (put r.roles 0 7 24) 1 6 16) 2 5 8 })

/-- A parameter's legal values. -/
def parmOk (k : Nat) (v : Word) : Bool :=
  match k with
  | 0 => isFin v && !isNeg v
  | 1 => isFin v && !isNeg v && !isZero v
  | 3 => isFin v && !isNeg v && !isZero v
  | 6 => true
  | 7 => false
  | _ => isFin v

/-- RE.PARM. -/
def execReParm (b : BayRef) (f : Fields) (s : State) : Outcome :=
  .next (s.strokeStep b 0x81 f fun s r =>
    let k := f.imm.toNat % 8
    let v := r.sreg f.src1
    if !parmOk k v then .viol stMalformed 0 none else .done s { r with parms := setAt r.parms k v })

/-! ### Normalisation (07 R182 to R184) -/

/-- xhat of a row, from its mean and ρ; +0 where ρ is +Inf or +0 (07 R182, R183). -/
def xhatOf (mu rho : Word) (x : Word) : Word :=
  if isInf rho || isZero rho then 0#32 else ml (sb x mu) rho

/-- One row of RE.LN.F or RE.RMS.F. -/
def Running.normF (r : Running) (s : State) (b : BayRef) (rms : Bool) (imm srow row : Nat) : State × Running :=
  match r.role 0 with
  | none => (s, r)
  | some x =>
    let xs := x.rowOf s.mem row x.n
    let sel := r.unmasked s.mem (imm % 2) x row
    let live := (xs.zip sel).filterMap fun p => if p.2 then some p.1 else none
    let n := live.length
    let producer := if rms then 2 else 1
    if n = 0 then
      let (s, r) := r.putRole s 1 row (xs.map fun _ => 0#32) {}
      (r.putStat s b srow 0#32 0#32 (statWord 1 producer 0), r)
    else if live.any fun w => !isFin w then
      let (s, r) := r.putRole s 1 row (xs.map fun _ => qNaN) { inv := if live.any isNaN then 0 else xs.length }
      (r.putStat s b srow qNaN qNaN (statWord 3 producer n), r)
    else
      let s1 := (live.map exact149).foldl (· + ·) (0 : Int)
      let s2 := (live.map fun w => exact149 w * exact149 w).foldl (· + ·) (0 : Int)
      let eps := exact149 (r.parm 0) * 2 ^ 149
      let mu := if rms then 0#32 else meanOf live n
      let v := if rms then (fin32 false .ne false (s2 + n * eps).natAbs n (-298)).1
        else (fin32 false .ne false (n * s2 - s1 * s1 + n * n * eps).natAbs (n * n) (-298)).1
      let rho := if isInf v then 0#32 else (rrsqrt v).1
      let scale := fun j => match r.role 6 with | some d => d.word s.mem j | none => 0x3F800000#32
      let bias := fun j => match r.role 7 with | some d => d.word s.mem j | none => 0#32
      -- where ρ is +Inf or +0, y is the bias itself (07 R183)
      let ys : List FRes := (xs.zip sel).zipIdx.map fun (p, j) =>
        if !p.2 then (0#32, {})
        else if isInf rho || isZero rho then (bias j, {})
        else ffma false .ne (xhatOf mu rho p.1) (scale j) (bias j)
      let ex := excSum (ys.zipIdx.map fun (y, j) => elemExc (isNaN (scale j) || isNaN (bias j)) (isFin (scale j) && isFin (bias j)) y)
      let (s, r) := r.putRole s 1 row (ys.map (·.1)) ex
      (r.putStat s b srow mu rho (statWord 0 producer n), r)

/-- RE.LN.F (07 R182). -/
def execReLnF (b : BayRef) (f : Fields) (s : State) : Outcome :=
  .next (s.rowStep b 0x82 f [0, 1] [0, 2, 6, 7] [1, 8] 1 [] (fun _ _ _ _ => none) fun s r srow row => r.normF s b false f.imm.toNat srow row)

/-- RE.RMS.F (07 R182). -/
def execReRmsF (b : BayRef) (f : Fields) (s : State) : Outcome :=
  .next (s.rowStep b 0x84 f [0, 1] [0, 2, 6, 7] [1, 8] 1 [] (fun _ _ _ _ => none) fun s r srow row => r.normF s b true f.imm.toNat srow row)

/-- Accumulates one row of values into the blocks of DSCALE or DBIAS (07 R184; 02 R49). -/
def Running.accRow (r : Running) (s : State) (b : BayRef) (k : Nat) (vs : List Val) : State :=
  match r.role k with
  | some d => if r.already then s
      else (parts 32 vs).zipIdx.foldl (fun (s : State) (p : List Val × Nat) => s.accumulate b.die d p.2 p.1 (bxAnchor p.1 != 0)) s
  | none => s

/-- One row of RE.LN.B or RE.RMS.B. -/
def Running.normB (r : Running) (s : State) (b : BayRef) (rms : Bool) (imm srow row : Nat) : State × Running :=
  match r.role 0, r.role 3 with
  | some x, some dyD =>
    let xs := x.rowOf s.mem row x.n
    let dys := dyD.rowOf s.mem row x.n
    let sel := r.unmasked s.mem (imm % 2) x row
    let (mu, rho, st) := r.stat s b srow
    let kind := bitsOf st 31 30
    let mu := if rms then 0#32 else mu
    if kind = 1 then r.putRole s 4 row (xs.map fun _ => 0#32) {}
    else if kind = 3 then
      let (s, r) := r.putRole s 4 row (xs.map fun _ => qNaN) {}
      (r.accRow (r.accRow s b 9 (xs.map fun _ => .nan)) b 10 (xs.map fun _ => .nan), r)
    else
      let zero : Val := .fin false 0 1 0
      let s := r.accRow s b 10 ((dys.zip sel).map fun p => if p.2 then fpVal p.1 else zero)
      if isInf rho || isZero rho then r.putRole s 4 row (xs.map fun _ => 0#32) {}
      else
        let xh := xs.map (xhatOf mu rho)
        let s := r.accRow s b 9 (((dys.zip xh).zip sel).map fun p => if p.2 then (mulVal (fpVal p.1.1) (fpVal p.1.2)).getD .nan else zero)
        let scale := fun j => match r.role 6 with | some d => d.word s.mem j | none => 0x3F800000#32
        let g := dys.zipIdx.map fun (d, j) => ml d (scale j)
        let live := ((g.zip xh).zip sel).filterMap fun p => if p.2 then some p.1 else none
        let a := if rms then 0#32 else meanOf (live.map (·.1)) live.length
        let c := dotOf live live.length
        let ys : List FRes := ((g.zip xh).zip sel).map fun p =>
          if p.2 then fmul false .ne rho (fm (fneg p.1.2) c (sb p.1.1 a)) else (0#32, {})
        -- an element's inputs are the row's unmasked gradients and scales
        let used := (dys.zipIdx.zip sel).flatMap fun p => if p.2 then [p.1.1, scale p.1.2] else []
        let ex := excSum (ys.map (elemExc (used.any isNaN) (used.all isFin)))
        r.putRole s 4 row (ys.map (·.1)) ex
  | _, _ => (s, r)

/-- A reduction-buffer role that is still to be accumulated into is not an open slot's (04 R98), or has a block with E = 0 (02 R52). -/
def Running.accBad (r : Running) (s : State) (die : Nat) : Option (Nat × Desc) :=
  ([9, 10].filterMap fun k => if r.already then none else r.role k).findSome? fun d =>
    if !s.redOpen die r.inst.step d (List.range d.count) then some (stProtected, d)
    else if d.accOk s.mem (List.range d.blocks) then none else some (stMalformed, d)

/-- RE.LN.B (07 R184). -/
def execReLnB (b : BayRef) (f : Fields) (s : State) : Outcome :=
  .next (s.rowStep b 0x83 f [0, 3, 4] [0, 2, 3, 6, 8] [4, 9, 10] 2 [1] (fun s r _ _ => r.accBad s b.die) fun s r srow row =>
    r.normB s b false f.imm.toNat srow row)

/-- RE.RMS.B (07 R184). -/
def execReRmsB (b : BayRef) (f : Fields) (s : State) : Outcome :=
  .next (s.rowStep b 0x85 f [0, 3, 4] [0, 2, 3, 6, 8] [4, 9, 10] 2 [2] (fun s r _ _ => r.accBad s b.die) fun s r srow row =>
    r.normB s b true f.imm.toNat srow row)

/-! ### Soft maximum and loss (07 R185 to R189) -/

/-- What the passes of a soft maximum find in a row (07 R185, R186): kind, statistics, count, the sum s, and m. -/
structure SmxRow where
  kind : Nat
  s0 : Word
  s1 : Word
  count : Nat
  sum : Word
  scaled : List Word
deriving DecidableEq, Repr

/-- The row scaled by tau, and its statistics. -/
def smxRow (tau : Word) (xs : List Word) (sel : List Bool) : SmxRow :=
  let xp := xs.map (ml tau)
  let live := (xp.zip sel).filterMap fun p => if p.2 then some p.1 else none
  let k := live.countP (· == 0x7F800000#32)
  if xs.any isNaN then ⟨3, qNaN, qNaN, live.length, 0#32, xp⟩
  else if 0 < k then ⟨2, inf32 false, inf32 false, k, 0#32, xp⟩
  else if live.all isInf then ⟨1, inf32 true, inf32 true, live.length, 0#32, xp⟩
  else
    let m := live.foldl (fun a w => (fmaxN false a w).1) (live.headD 0#32)
    let s := meanOf (live.map fun w => (rexp (sb w m)).1) 1
    ⟨0, m, ad m (rln s).1, live.length, s, xp⟩

/-- The forward outputs of a row with their events (07 R185, R186). -/
def SmxRow.outputs (q : SmxRow) (sel : List Bool) : List FRes :=
  match q.kind with
  | 3 => q.scaled.map fun _ => (qNaN, {})
  | 2 => (q.scaled.zip sel).map fun p => if p.2 && p.1 == 0x7F800000#32 then ((fin32 false .ne false 1 q.count 0).1, {}) else (0#32, {})
  | 1 => q.scaled.map fun _ => (0#32, {})
  | _ => (q.scaled.zip sel).map fun p => if p.2 then rexp (sb p.1 q.s1) else (0#32, {})

/-- One row of RE.SMX.F (07 R185, R186). -/
def Running.smxF (r : Running) (s : State) (b : BayRef) (imm srow row : Nat) : State × Running :=
  match r.role 0 with
  | none => (s, r)
  | some x =>
    let sel := r.unmasked s.mem imm x row
    let q := smxRow (r.parm 1) (x.rowOf s.mem row x.n) sel
    let ys := q.outputs sel
    let (s, r) := r.putRole s 1 row (ys.map (·.1)) (excSum (ys.map fun y => { uf := y.2.uf }))
    (r.putStat s b srow q.s0 q.s1 (statWord q.kind 3 q.count), r)

/-- RE.SMX.F (07 R185). -/
def execReSmxF (b : BayRef) (f : Fields) (s : State) : Outcome :=
  .next (s.rowStep b 0x86 f [0, 1] [0, 2] [1, 8] 1 [] (fun _ _ _ _ => none) fun s r srow row => r.smxF s b f.imm.toNat srow row)

/-- One row of RE.SMX.B (07 R187). -/
def Running.smxB (r : Running) (s : State) (b : BayRef) (imm srow row : Nat) : State × Running :=
  match r.role 0, r.role 3 with
  | some x, some dyD =>
    let xs := x.rowOf s.mem row x.n
    let dys := dyD.rowOf s.mem row x.n
    let sel := r.unmasked s.mem imm x row
    let (_, l, st) := r.stat s b srow
    let kind := bitsOf st 31 30
    if kind = 3 then r.putRole s 4 row (xs.map fun _ => qNaN) {}
    else if kind ≠ 0 then r.putRole s 4 row (xs.map fun _ => 0#32) {}
    else
      let ys := (xs.zip sel).map fun p => if !p.2 then 0#32 else if imm.testBit 2 then p.1 else (rexp (sb (ml (r.parm 1) p.1) l)).1
      let live := ((dys.zip ys).zip sel).filterMap fun p => if p.2 then some p.1 else none
      let dd := dotOf live 1
      let used := ((dys.zip xs).zip sel).flatMap fun p => if p.2 then [p.1.1, p.1.2] else []
      let out : List FRes := ((dys.zip ys).zip sel).map fun p =>
        if p.2 then fmul false .ne (r.parm 1) (ml p.1.2 (sb p.1.1 dd)) else (0#32, {})
      r.putRole s 4 row (out.map (·.1)) (excSum (out.map (elemExc (used.any isNaN) (used.all isFin))))
  | _, _ => (s, r)

/-- RE.SMX.B (07 R187). -/
def execReSmxB (b : BayRef) (f : Fields) (s : State) : Outcome :=
  .next (s.rowStep b 0x87 f [0, 3, 4] [0, 2, 3, 8] [4] 2 [3, 4] (fun _ _ _ _ => none) fun s r srow row => r.smxB s b f.imm.toNat srow row)

/-- Adds a row's loss to the loss accumulator (07 R189). -/
def Running.addLoss (r : Running) (w : Word) (counted : Bool) : Running :=
  { r with loss := r.loss + exact149 w, lossMarks := r.lossMarks.or (marksOf (fpVal w)),
           lossCount := if counted then (r.lossCount + 1) % 2 ^ 32 else r.lossCount }

/-- The loss of a row with target `t`, whether it is counted, and its events (07 R188). DESIGN CHOICE: the +Inf of an infinite row is not
counted under overflow, even at a masked target, as the row's own sentence counts nothing; and its round(ln k) is the row engine's ln,
within 1 ulp, as 07 R188 gives every loss (log 27). -/
def SmxRow.lossOf (q : SmxRow) (sel : List Bool) (t : Nat) : Word × Bool × Exc :=
  let xt := at' 0#32 q.scaled t
  let live := at' false sel t
  match q.kind with
  | 3 => (qNaN, true, {})
  | 2 => if live && xt == 0x7F800000#32 then ((rln (ofInt32 q.count)).1, true, {}) else (inf32 false, true, {})
  | 1 => (0#32, false, {})
  | _ =>
    if !live then (inf32 false, true, { ov := 1 })
    else if isInf xt then (inf32 false, true, {})
    else let y := rloss q.s0 xt q.sum; (y.1, true, { ov := y.2.ov, uf := y.2.uf })

/-- One row of RE.XENT (07 R188). DESIGN CHOICE: a row with L < 0 is ignored even where it is a NaN row: loss +0 and DX +0 (log 27). -/
def Running.xent (r : Running) (s : State) (b : BayRef) (imm srow row : Nat) : State × Running :=
  match r.role 0, r.role 11 with
  | some x, some lab =>
    let sel := r.unmasked s.mem imm x row
    let q := smxRow (r.parm 1) (x.rowOf s.mem row x.n) sel
    let t := sgn 32 (lab.rd s.mem row)
    let c := ml (r.parm 1) (r.parm 4)
    let s := r.putStat s b srow q.s0 q.s1 (statWord q.kind 4 q.count)
    if t < 0 then
      let (s, r) := r.putRole s 1 row [0#32] {}
      let (s, r) := r.putRole s 4 row (q.scaled.map fun _ => 0#32) {}
      (s, r.addLoss 0#32 false)
    else
      let (loss, counted, ex) := q.lossOf sel t.toNat
      let dx : List FRes := match q.kind with
        | 3 => q.scaled.map fun _ => (qNaN, {})
        | 0 => ((q.outputs sel).zip sel).zipIdx.map fun (p, j) =>
            if p.2 then fmul false .ne c (sb p.1.1 (if j = t.toNat then one32 else 0#32)) else (0#32, {})
        | _ => q.scaled.map fun _ => (0#32, {})
      let (s, r) := r.putRole s 1 row [loss] ex
      let (s, r) := r.putRole s 4 row (dx.map (·.1)) (if q.kind = 3 then {} else excSum (dx.map (elemExc false true)))
      (s, r.addLoss loss counted)
  | _, _ => (s, r)

/-- A label of the rows that is out of range (07 R188). -/
def Running.labelFault (r : Running) (s : State) (r0 nr : Nat) : Option (Nat × Desc) :=
  match r.role 0, r.role 11 with
  | some x, some lab => if (List.range nr).any fun i => decide ((x.n : Int) ≤ sgn 32 (lab.rd s.mem (r0 + i))) then some (stRange, lab) else none
  | _, _ => none

/-- RE.XENT (07 R188). -/
def execReXent (b : BayRef) (f : Fields) (s : State) : Outcome :=
  .next (s.rowStep b 0x88 f [0, 1, 4, 11] [0, 2, 11] [1, 4, 8] 1 []
    (fun s r r0 nr => r.labelFault s r0 nr) fun s r srow row => r.xent s b f.imm.toNat srow row)

/-- The loss accumulator's sum, rounded once, with its events (07 R189; 03 R70). -/
def Running.lossSum (r : Running) : FRes :=
  let mk := r.lossMarks
  if mk.any then ((match mk.val with | .inf g => inf32 g | _ => qNaN), { inv := b2n (mk.pinf && mk.ninf && !mk.nan) })
  else if r.loss = 0 then (0#32, {})
  else
    let y := fin32 false .ne (decide (r.loss < 0)) r.loss.natAbs 1 (-149)
    (y.1, { ov := y.2.ov, uf := y.2.uf })

/-- RE.LSUM (07 R189). -/
def execReLsum (b : BayRef) (f : Fields) (s : State) : Outcome :=
  .next (s.strokeStep b 0x8F f fun s r =>
    let i := f.imm.toNat
    let y := if i.testBit 0 then (BitVec.ofNat 32 r.lossCount, {}) else r.lossSum
    let r := (r.setS f.dst y.1).raise false y.2
    .done s (if i.testBit 1 then { r with loss := 0, lossMarks := {}, lossCount := 0 } else r))

/-! ### Bit-planes (07 R190 to R193) -/

/-- Forward activation of an element: value, plane bit, events (07 R191). -/
def actF (fn : Nat) (alpha clip keep : Word) (bit : Bool) (x : Word) : Word × Bool × Exc :=
  let pos := !isNaN x && flt 0#32 x
  if fn = 3 then
    if bit then let y := fmul false .ne x keep; (y.1, bit, elemExc (isNaN x) (isFin x) y) else (0#32, bit, {})
  else if isNaN x then (qNaN, false, {})
  else match fn with
    | 0 => (if pos then x else 0#32, pos, {})
    | 1 => if pos then (x, true, {}) else let y := fmul false .ne alpha x; (y.1, false, elemExc false (isFin x) y)
    | _ => if !pos then (0#32, false, {}) else if flt x clip then (x, true, {}) else (clip, false, {})

/-- Backward activation of an element (07 R191). -/
def actB (fn : Nat) (alpha keep : Word) (bit : Bool) (dy : Word) : FRes :=
  match fn with
  | 1 => if bit then (dy, {}) else fmul false .ne alpha dy
  | 3 => if bit then fmul false .ne dy keep else (0#32, {})
  | _ => if bit then (dy, {}) else (0#32, {})

/-- One row of RE.ACT.F (07 R191). -/
def Running.actRowF (r : Running) (s : State) (fn row : Nat) : State × Running :=
  match r.role 0, r.role 5 with
  | some x, some pl =>
    let bits := pl.planeRow s.mem row x.n
    let ys := ((x.rowOf s.mem row x.n).zip bits).map fun p => actF fn (r.parm 2) (r.parm 3) (r.parm 5) p.2 p.1
    let (s, r) := r.putRole s 1 row (ys.map (·.1)) (excSum (ys.map (·.2.2)))
    (if fn = 3 then s else r.putPlane s row (ys.map (·.2.1)), r)
  | _, _ => (s, r)

/-- RE.ACT.F (07 R191). -/
def execReActF (b : BayRef) (f : Fields) (s : State) : Outcome :=
  let fn := f.imm.toNat % 8
  .next (s.rowStep b 0x89 f [0, 1, 5] (if fn = 3 then [0, 5] else [0]) (if fn = 3 then [1] else [1, 5]) 0 []
    (fun _ r _ _ => if 3 < fn then (r.role 0).map fun d => (stMalformed, d) else none)
    fun s r _ row => r.actRowF s fn row)

/-- One row of RE.ACT.B (07 R191). -/
def Running.actRowB (r : Running) (s : State) (fn row : Nat) : State × Running :=
  match r.role 3, r.role 5 with
  | some dyD, some pl =>
    let dys := dyD.rowOf s.mem row dyD.n
    let ys := (dys.zip (pl.planeRow s.mem row dyD.n)).map fun p => (actB fn (r.parm 2) (r.parm 5) p.2 p.1, p.1)
    r.putRole s 4 row (ys.map (·.1.1)) (excSum (ys.map fun y => elemExc (isNaN y.2) (isFin y.2) y.1))
  | _, _ => (s, r)

/-- RE.ACT.B (07 R191). -/
def execReActB (b : BayRef) (f : Fields) (s : State) : Outcome :=
  let fn := f.imm.toNat % 8
  .next (s.rowStep b 0x8A f [3, 4, 5] [3, 5] [4] 0 []
    (fun _ r _ _ => if 3 < fn then (r.role 3).map fun d => (stMalformed, d) else none)
    fun s r _ row => r.actRowB s fn row)

/-- The place a window selects: its first NaN, else its lowest maximum (07 R192). -/
def poolPick (ws : List Word) : Nat :=
  match ws.findIdx? isNaN with
  | some i => i
  | none => (ws.zipIdx.foldl (fun (a : Nat × Word) p => if fkey a.2 < fkey p.1 then (p.2, p.1) else a) (0, ws.headD 0#32)).1

/-- One row of RE.POOL.F (07 R192). -/
def Running.poolRowF (r : Running) (s : State) (w row : Nat) : State × Running :=
  match r.role 0 with
  | some x =>
    let wins := parts w (x.rowOf s.mem row x.n)
    let sel := wins.map poolPick
    let ys := (wins.zip sel).map fun p => at' 0#32 p.1 p.2
    let (s, r) := r.putRole s 1 row ys {}
    (r.putPlane s row ((wins.zip sel).flatMap fun p => (List.range p.1.length).map (· == p.2)), r)
  | none => (s, r)

/-- RE.POOL.F (07 R192). -/
def execRePoolF (b : BayRef) (f : Fields) (s : State) : Outcome :=
  let w := f.imm.toNat % 32
  .next (s.rowStep b 0x8B f [0, 1, 5] [0] [1, 5] 0 [] (fun _ _ _ _ => none) fun s r _ row => r.poolRowF s w row)

/-- One row of RE.POOL.B (07 R192). -/
def Running.poolRowB (r : Running) (s : State) (w row : Nat) : State × Running :=
  match r.role 3, r.role 4, r.role 5 with
  | some dyD, some dxD, some pl =>
    let dys := dyD.rowOf s.mem row (dxD.n / w)
    let bits := pl.planeRow s.mem row dxD.n
    r.putRole s 4 row (bits.zipIdx.map fun (k, j) => if k then at' 0#32 dys (j / w) else 0#32) {}
  | _, _, _ => (s, r)

/-- RE.POOL.B (07 R192). -/
def execRePoolB (b : BayRef) (f : Fields) (s : State) : Outcome :=
  let w := f.imm.toNat % 32
  .next (s.rowStep b 0x8C f [3, 4, 5] [3, 5] [4] 0 [] (fun _ _ _ _ => none) fun s r _ row => r.poolRowB s w row)

/-- Two words of one innermost row (07 R193; 05 R123). -/
def Desc.pairFault (d : Desc) (p : Nat) : Option Nat :=
  if d.count < p + 2 then some stRange else if p / d.n ≠ (p + 1) / d.n then some stMalformed else d.wordFault p

/-- RE.PST (07 R193). -/
def execRePst (b : BayRef) (f : Fields) (s : State) : Outcome :=
  .next (s.strokeStep b 0x8D f fun s r =>
    let i := f.imm.toNat % 256
    let d := r.desc i
    let p := (r.sreg f.src2).toNat
    match d.pairFault p with
    | some st => .viol st (d.addr p) (some d)
    | none =>
      if !s.free b r (accessOf true (d.access p 2)) then .hold
      else
        let v := (r.preg f.src1.toNat).toNat
        let mem := d.wr (d.wr s.mem p (v % 2 ^ 32)) (p + 1) (v / 2 ^ 32)
        .done { s with mem := mem } (r.countElems i mem [p, p + 1]))

/-- RE.PLD (07 R193). -/
def execRePld (b : BayRef) (f : Fields) (s : State) : Outcome :=
  .next (s.strokeStep b 0x8E f fun s r =>
    let d := r.desc (f.imm.toNat % 256)
    let p := (r.sreg f.src1).toNat
    match d.pairFault p with
    | some st => .viol st (d.addr p) (some d)
    | none =>
      if !s.free b r (accessOf false (d.access p 2)) then .hold
      else .done s (r.setP f.dst (BitVec.ofNat 64 (d.rd s.mem p + d.rd s.mem (p + 1) * 2 ^ 32))))

end Sys2Proof.Machine
end

