-- ==== Sys2Proof/Machine/Mover.lean ====
section
/-! DEFINITION. Mover requests: issue with its checks and validation pass, bounce buffers, scatter-add rounds and completion
(05 R124; 08 R207 to R217; 09 R230; 03 R79). -/

namespace Sys2Proof.Machine

open Sys2Proof

/-! ### Checks at issue -/

/-- A descriptor's outermost extent: what indexed operations count positions by (08 R212). -/
def Desc.outer (d : Desc) : Nat := d.shape.getLastD 1

/-- Resolves one index by the policy of its descriptor (08 R213): none where it is out of range under ERROR. -/
def resolveIndex (policy x : Nat) (i : Int) : Option (Option Nat) :=
  let i := if policy = 1 ∧ i < 0 then i + x else i
  if 0 ≤ i ∧ i < x then some (some i.toNat) else if policy = 2 then some none else none

/-- Offsets rise from 0 or more to X or less (08 R213). -/
def offsetsOk (x : Nat) (is : List Int) : Bool :=
  is.all (fun i => decide (0 ≤ i ∧ i ≤ (x : Int))) && (List.zip is (is.drop 1)).all fun p => decide (p.1 ≤ p.2)

/-- The validated indices or offsets of a request, or none (08 R213). -/
def MvReq.validate (m : Mem) (q : MvReq) (ix : Desc) : Option (List (Option Nat)) :=
  let is := (List.range (q.count + b2n q.seg)).map fun k => sgn 32 (ix.rd m (q.s0 + k))
  if q.seg then
    if offsetsOk q.src.outer is then some (is.map fun i => some i.toNat) else none
  else
    let x := if q.op = 0xA1 then q.src.outer else q.dst.outer
    is.foldr (fun i acc => do let a ← acc; let y ← resolveIndex ix.policy x i; pure (y :: a)) (some [])

/-- The address interval of positions over elements and side bytes; of a compressed tensor over all its bytes (08 R209). -/
def Desc.interval (d : Desc) (p n : Nat) : Nat × Nat :=
  match hull (d.access p n) with
  | x :: _ => (x.1, x.1 + x.2)
  | [] => (0, 0)

/-- The copy moves every element onto itself (08 R209); a compressed tensor where both descriptors name the same bytes. -/
def MvReq.identity (q : MvReq) : Bool :=
  let sides := (List.range q.count).all fun k =>
    !q.src.side || q.src.sideAddr (q.src.blockOf (q.s0 + k)) == q.dst.sideAddr (q.dst.blockOf (q.d0 + k))
  q.src.fmt == q.dst.fmt && q.src.compressed == q.dst.compressed && sides &&
  (if q.src.compressed then q.src.base == q.dst.base && q.src.chunkBase == q.dst.chunkBase
    else (List.range q.count).all fun k => q.src.bitAt (q.src.off (q.s0 + k)) == q.dst.bitAt (q.dst.off (q.d0 + k)))

/-- The overlap of a copy as (first byte, length) (08 R209). -/
def MvReq.overlap (q : MvReq) : Nat × Nat :=
  let (a, b) := q.src.interval q.s0 q.count
  let (c, d) := q.dst.interval q.d0 q.count
  (max a c, min b d - max a c)

/-- Ranges a request reads and writes must be granted to the job (12 R327; 17 R440). -/
def State.mvGranted (s : State) (job : Nat) (a : List Access) : Bool := a.all fun x => s.holdsDpa job x.1 x.2.1

/-- Why a mover request is refused at issue, with the descriptor at fault (08 R203, R207, R212, R213; 05 R132). -/
def MvReq.fault (m : Mem) (q : MvReq) : Option (Nat × Desc) :=
  match q.op with
  | 0xA0 =>
    if q.src.count < q.s0 + q.count then some (stRange, q.src)
    else if q.dst.count < q.d0 + q.count then some (stRange, q.dst)
    else if q.src.compressed || q.dst.compressed then
      (if q.s0 ≠ 0 ∨ q.d0 ≠ 0 ∨ q.count ≠ q.src.count then some (stMalformed, q.dst) else none)
    else if !q.dst.wholeBlocks q.d0 q.count then some (stMalformed, q.dst)
    else if !q.src.wholeBlocks q.s0 q.count then some (stMalformed, q.src)
    else none
  | 0xA6 => none
  | _ => match q.idx with
    | none => some (stMalformed, q.dst)
    | some ix =>
      let (near, far) := if q.op = 0xA2 ∨ q.op = 0xA3 then (q.src, q.dst) else (q.dst, q.src)
      if near.outer < q.d0 + q.count then some (stRange, near)
      else if ix.count < q.s0 + q.count + b2n q.seg then some (stRange, ix)
      else if near.slice ≠ far.slice ∨ (isMX far.fmt ∧ far.slice % 32 ≠ 0) then some (stMalformed, far)
      else if (q.op = 0xA1 ∨ q.op = 0xA2) ∧ !(q.dst.wholeBlocks 0 q.dst.slice && q.dst.wholeBlocks q.dst.slice q.dst.slice) then
        some (stMalformed, q.dst)
      else match q.validate m ix with
        | none => some (stIndexRange, ix)
        | some _ => none

/-- Why a BX64 accumulate of a request cannot start once nothing before it writes its bytes: they are not an open slot's (04 R98;
10 R247), or a block has E = 0 (02 R52). -/
def State.mvAccFault (s : State) (die step : Nat) (q : MvReq) : Option (Nat × Desc) :=
  if q.dst.fmt ≠ 10 ∨ (q.op ≠ 0xA3 ∧ q.op ≠ 0xA4) ∨ q.skip then none
  else if q.dst.isRed ∧ !s.redOpen die step q.dst q.dstPos then some (stProtected, q.dst)
  else if !q.dst.accOk s.mem (q.dstPos.map q.dst.blockOf).dedup then some (stMalformed, q.dst)
  else none

/-- Bay SRAM that a request takes bytes from: (bay, first byte, length). -/
def sramReads (rs : List (Nat × Nat)) : List (Nat × Nat × Nat) := rs.filterMap fun r => (sramOf r.1).map fun x => (x.2.1, x.2.2, r.2)

/-- A request may read ranges now: what it names is not wet but for what its own stroke wrote, where `own` permits that, no release is
pending, and no reader count is full (04 R98, R100; 05 R127; 08 R214). -/
def State.mvReadable (s : State) (b : BayRef) (seq : Nat) (own : Bool) (rs : List (Nat × Nat)) : Bool :=
  (sramReads rs).all fun r => ((s.bay b.die r.1).entsAt r.2.1 r.2.2).all fun e =>
    if e.state = .wet then own && e.owner == .stroke (seq * 256 + b.bay) else !e.release && decide (e.readers < 65535)

/-- The request of a mover instruction (05 R124). -/
def Running.mvReq (r : Running) (b : BayRef) (op : Nat) (f : Fields) : MvReq :=
  let i := f.imm.toNat
  { op := op, bay := b.bay, seq := r.seq, pc := r.pc, job := r.inst.job, dst := r.desc (i >>> 24), src := r.desc (i >>> 16 % 256),
    idx := if i.testBit 0 then some (r.desc (i >>> 8 % 256)) else none,
    d0 := (r.sreg f.src1).toNat, s0 := (r.sreg f.src2).toNat, count := (r.sreg f.src3).toNat, skip := r.already }

/-- A request with its indices validated (08 R212, R213) and the overlap of a copy found (08 R210). -/
def MvReq.ready (q : MvReq) (m : Mem) : MvReq :=
  let zeroed := match q.idx with
    | some ix => if q.op = 0xA0 then [] else (q.validate m ix).getD []
    | none => []
  let (lo, n) := if q.op = 0xA0 then q.overlap else (0, 0)
  { q with resolved := zeroed, needBounce := n, overlapAt := lo }

/-- The mover of a logical group that takes a request: it belongs to the bay's group, is not fenced and not under test (01 R20). -/
def State.mvTakes (s : State) (b : BayRef) (mv : Nat) : Bool :=
  decide (mv < 16 ∧ mv / 2 = s.lgroupOf b.die b.bay) && !(s.mover b.die mv).fenced && !(s.mover b.die mv).testing

/-- The dry entries a request reads. -/
def State.mvEnts (s : State) (die : Nat) (q : MvReq) : List (Nat × Nat × Nat) :=
  s.readEnts die (sramReads (q.src.accessAt q.srcPos ++ q.idxReads))

/-- A request starts: its indices that are zeroed are counted, its dry entries have one more reader, and it joins a mover's queue
(08 R213; 04 R100). -/
def State.mvStart (s : State) (die mv : Nat) (q : MvReq) : State :=
  let ys := s.mvEnts die q
  let s := s.modJob q.job fun j => { j with indexZeroed := satAdd 32 j.indexZeroed (q.resolved.countP (·.isNone)) }
  (s.addReaders die ys).modMover die mv fun m => { m with queue := m.queue ++ [{ q with readers := ys }] }

/-- Issues a request to a mover of the bay's logical group, which must be awake (05 R124; 04 R109): once what it validates is written,
its checks and its validation pass, its overlap, and then the wait for what it reads. The other side of the stroke's scoreboard holds
later instructions until it completes. -/
def State.mv (s : State) (b : BayRef) (op : Nat) (f : Fields) (mv : Nat) : State :=
  s.strokeStep b op f fun s r =>
    let q := (r.mvReq b op f).ready s.mem
    if !s.mvTakes b mv ∨ !s.domOn b.die (bgDom (s.lgroupOf b.die b.bay)) ∨ !s.free b r (accessOf false q.idxReads) then .hold
    else match (r.mvReq b op f).fault s.mem with
    | some (st, d) => .viol st d.base (some d)
    | none =>
      if q.access.any fun x => dpaOnDie x.1 && s.lgroupOf b.die (dpaBay x.1) != s.lgroupOf b.die b.bay then .viol stMalformed q.dst.base (some q.dst)
      else if !s.mvGranted r.inst.job q.access then .viol stRange q.dst.base (some q.dst)
      else if !s.free b r q.access then .hold
      else match s.mvAccFault b.die r.inst.step q with
      | some (st, d) => .viol st d.base (some d)
      | none =>
        if op = 0xA0 ∧ q.identity then .done s r
        else if 64 * 2 ^ 20 < q.needBounce then .viol stOverlap q.dst.base (some q.dst)
        else if !s.mvReadable b r.seq (op != 0xA1) (q.src.accessAt q.srcPos) ∨ !s.mvReadable b r.seq true q.idxReads then .hold
        else .done (s.mvStart b.die mv q) r

/-- MV.COPY (08 R207; 09 R230). -/
def execMvCopy (b : BayRef) (f : Fields) (mv : Nat) (s : State) : Outcome := .next (s.mv b 0xA0 f mv)
/-- MV.GATHER (08 R214). -/
def execMvGather (b : BayRef) (f : Fields) (mv : Nat) (s : State) : Outcome := .next (s.mv b 0xA1 f mv)
/-- MV.SCATTER (08 R215). -/
def execMvScatter (b : BayRef) (f : Fields) (mv : Nat) (s : State) : Outcome := .next (s.mv b 0xA2 f mv)
/-- MV.SCADD (08 R216). -/
def execMvScadd (b : BayRef) (f : Fields) (mv : Nat) (s : State) : Outcome := .next (s.mv b 0xA3 f mv)
/-- MV.SEGSUM (08 R217). -/
def execMvSegsum (b : BayRef) (f : Fields) (mv : Nat) (s : State) : Outcome := .next (s.mv b 0xA4 f mv)
/-- MV.SEGMAX (08 R217). -/
def execMvSegmax (b : BayRef) (f : Fields) (mv : Nat) (s : State) : Outcome := .next (s.mv b 0xA5 f mv)
/-- MV.SKETCH (05 R124; 03 R79). -/
def execMvSketch (b : BayRef) (f : Fields) (mv : Nat) (s : State) : Outcome := .next (s.mv b 0xA6 f mv)

/-! ### Bounce buffers (08 R210) -/

/-- The physical bays of a bay's logical group, the bay itself first (04 R109). -/
def State.groupBays (s : State) (die bay : Nat) : List Nat :=
  bay :: (((s.die die).lmap.zipIdx.filter fun p => s.lgroupOf die p.1 == s.lgroupOf die bay && p.1 != bay && p.1 != 0xFF).map (·.1))

/-- Where a request's bounce buffer is placed: a bay of the group that the job holds, with room (08 R210). -/
def State.bouncePlace (s : State) (die : Nat) (q : MvReq) : Option (Nat × Nat) :=
  (s.groupBays die q.bay).findSome? fun p =>
    match s.logical die p with
    | some l => if s.holds q.job 1 die l then ((s.bay die p).fit (alignUp q.needBounce 256)).map fun a => (p, a) else none
    | none => none

/-- The stores after the overlapping source bytes of a request are copied to address `a` (08 R210). -/
def MvReq.bounced (q : MvReq) (m0 : Mem) (a : Nat) : Mem :=
  let reached := (q.src.accessAt ((List.range q.count).map (q.s0 + ·)))
  (List.range q.needBounce).foldl (fun m k =>
    let x := q.overlapAt + k
    if reached.any fun y => decide (y.1 ≤ x ∧ x < y.1 + y.2) then wrByte m (a + k) (rdByte m0 x) else m) m0

/-- The stores as a staged copy reads them: the overlapping source bytes from its bounce buffer, all others from their places
(08 R210). -/
def MvReq.staged (q : MvReq) (m : Mem) : Mem :=
  match q.bounce with
  | some (die, p, a) =>
    let reached := q.src.accessAt ((List.range q.count).map (q.s0 + ·))
    (List.range q.needBounce).foldl (fun x k =>
      let y := q.overlapAt + k
      if reached.any fun z => decide (z.1 ≤ y ∧ y < z.1 + z.2) then wrByte x y (rdByte m (sramDpa die p a + k)) else x) m
  | none => m

/-- BOUNCE_BUFFER_TAKE: the buffer is registered wet and the overlapping source bytes are copied into it (08 R210). -/
def execBounceBufferTake (die mover : Nat) (s : State) : Outcome :=
  .next (match (s.mover die mover).queue.head? with
    | some q =>
      if !s.live ∨ q.needBounce = 0 ∨ q.bounce.isSome ∨ s.isFrozen (masterWord 2 die mover) then s
      else match s.bouncePlace die q with
        | none => s
        | some (p, a) =>
          let s := State.modBay { s with mem := q.bounced s.mem (sramDpa die p a) } die p fun x =>
            x.register a (alignUp q.needBounce 256) .wet (.bounce mover)
          s.modMover die mover fun y => { y with queue := y.queue.modifyHead fun h => { h with bounce := some (die, p, a) } }
    | none => s)

/-! ### What a request writes -/

/-- After the last element of a row that ends in a partial block, its padding codes are 0 (08 R201). -/
def Desc.padRow (d : Desc) (m : Mem) (p : Nat) : Mem :=
  if d.side ∧ d.n % 32 ≠ 0 ∧ p % d.n + 1 = d.n then
    (List.range (32 - d.n % 32)).foldl (fun m (i : Nat) => wrBits m (d.bitAt (d.off p + 1 + i)) d.bits 0) m
  else m

/-- Copies elements by position pairs, whole blocks with their side bytes, from memory as it was before. -/
def copyPairs (m0 m : Mem) (src dst : Desc) (ps : List (Nat × Nat)) : Mem :=
  ps.foldl (fun m p =>
    let m := dst.padRow (dst.wr m p.2 (src.rd m0 p.1)) p.2
    if dst.side && p.2 % dst.n % 32 == 0 then dst.wrSide m (dst.blockOf p.2) (src.rdSide m0 (src.blockOf p.1)) else m) m

/-- Position pairs of slices. -/
def slicePairs (src dst : Desc) (i j : Nat) : List (Nat × Nat) := (List.range src.slice).map fun k => (i * src.slice + k, j * dst.slice + k)

/-- Writes a slice of zeros: code 0, scale 127 for MX, anchor 0 for BX64 (08 R213). -/
def Desc.zeroSlice (d : Desc) (m : Mem) (j : Nat) : Mem :=
  (List.range d.slice).foldl (fun m k =>
    let p := j * d.slice + k
    let m := d.padRow (d.wr m p 0) p
    if d.side && p % d.n % 32 == 0 then d.wrSide m (d.blockOf p) (if isMX d.fmt then 127 else 0) else m) m

/-- Encodes a dense MX tensor, or copies a compressed one whole (09 R227 to R230; 08 R204), reading the source in `m0`. The die's
generation counter advances where a table is built (09 R228). -/
def State.encodeCopy (s : State) (m0 : Mem) (die : Nat) (q : MvReq) : State :=
  let src := q.src
  let dst := q.dst
  let side := fun (m : Mem) => (List.range dst.blocks).foldl (fun m j => dst.wrSide m j (src.rdSide m0 j)) m
  if src.compressed then
    let total := rdNat m0 (src.chunkBase + 0xC) 4
    let m := wrBytes s.mem dst.base (rdBytes m0 src.base total)
    { s with mem := side (wrBytes m dst.chunkBase (rdBytes m0 src.chunkBase (208 + 4 * src.chunks))) }
  else
    let blocks := (List.range src.blocks).map fun j => let cs := src.rdBlock m0 j; cs ++ List.replicate (32 - cs.length) 0
    let g := (s.die die).paletteGen
    let (image, s') := match q.idx with
      | some t => (rdBytes m0 (t.chunkBase + 0x40) 144, s)
      | none => (palImage src.fmt g (palLengths 64 (palCounts src.fmt (blocks.flatMap id))), s.modDie die fun d => { d with paletteGen := if d.paletteGen = 16383 then 1 else d.paletteGen + 1 })
    let (bytes, offs) := palEncode src.fmt dst.pslot image blocks
    let m := wrBytes s.mem dst.base bytes
    { s' with mem := side (wrBytes m dst.chunkBase (palDirectory src.fmt dst.pslot src.blocks bytes.length image offs)) }

/-! ### Scatter-add and segments (08 R216, R217) -/

/-- One element formed from values in a saturating block sum: its value, by markers, saturation or its exact sum. -/
def formElem (vs : List Val) (anchor : Nat) (sat : Bool) : Val :=
  let mk := (vs.map marksOf).foldl Marks.or {}
  if mk.any then mk.val
  else if sat then .sat
  else
    let n := (vs.map (bxAlign anchor)).foldl (· + ·) (0 : Int)
    if n = 0 then .fin (!vs.isEmpty && vs.all fun v => v matches .fin true 0 _ _) 0 1 0 else intVal n ((anchor : Int) - 171)

/-- One block formed as in 08 R216: per element the values in order; the block saturates when a sum of any element reaches 2^62. -/
def formBlock (cols : List (List Val)) : List Val :=
  let (m, d, e) := amaxOf (cols.flatMap id)
  let anchor := if m = 0 then 0 else (max 1 (min 254 (127 + vlog2 m d e))).toNat
  let sat := m ≠ 0 && cols.any fun vs =>
    ((vs.map (bxAlign anchor)).foldl (fun (a : Int × Bool) x => (a.1 + x, a.2 || decide (bxLimit ≤ x.natAbs) || decide (bxLimit ≤ (a.1 + x).natAbs))) (0, false)).2
  if m = 0 then cols.map fun vs => formElem vs 1 false else cols.map fun vs => formElem vs anchor sat

/-- The contributions to a destination position of an FP32 scatter-add or segment sum: source slices in order. -/
def MvReq.contribs (m : Mem) (q : MvReq) (p : Nat) : List Val :=
  let sl := p / q.dst.slice
  let k := p % q.dst.slice
  let srcs := if q.op = 0xA3 then
      (q.resolved.zipIdx.filter fun x => x.1 == some sl).map fun x => q.d0 + x.2
    else
      let g := sl - q.d0
      let lo := (at' none q.resolved g).getD 0
      let hi := (at' none q.resolved (g + 1)).getD 0
      (List.range (hi - lo)).map (lo + ·)
  srcs.map fun j => q.src.valAt m (j * q.src.slice + k)

/-- An element that becomes NaN from infinities of both signs and no NaN is an invalid operation (03 R70). -/
def formInvalid (vs : List Val) : Bool :=
  let mk := (vs.map marksOf).foldl Marks.or {}
  mk.pinf && mk.ninf && !mk.nan

/-- Forms and writes some FP32 blocks of the destination, of a segment sum only the positions of its slices; saturated elements are
counted under invalid (08 R216, R217; 03 R70). -/
def MvReq.formBlocks (q : MvReq) (m : Mem) (existing : Bool) (js : List Nat) : Mem × Exc :=
  js.foldl (fun (a : Mem × Exc) j =>
    let (p0, n) := q.dst.blockPos j
    let ps := ((List.range n).map (p0 + ·)).filter fun p => existing || decide (q.d0 ≤ p / q.dst.slice ∧ p / q.dst.slice < q.d0 + q.count)
    let cols := ps.map fun p => (if existing then [q.dst.valAt m p] else []) ++ q.contribs m p
    let k := (List.zip ps (formBlock cols)).foldl (fun (x : Sink) v => q.dst.putVal x v.1 v.2) ⟨a.1, [0, 0, 0, 0], none⟩
    (k.mem, a.2.add ⟨at' 0 k.exc 0 + cols.countP formInvalid, at' 0 k.exc 1, at' 0 k.exc 2, at' 0 k.exc 3, 0⟩)) (m, {})

/-- The destination blocks any index touches, in ascending order. -/
def MvReq.touched (q : MvReq) : List Nat := (((slicePos q.dst (q.resolved.filterMap id)).map q.dst.blockOf).dedup).mergeSort

/-- The ranges of 512 block numbers of an FP32 scatter-add, in ascending order (08 R216). -/
def MvReq.ranges (q : MvReq) : List Nat := (q.touched.map (· / 512)).dedup

/-- Adds events to the counters of the stroke that issued a request. -/
def State.mvCount (s : State) (die : Nat) (q : MvReq) (x : Exc) : State :=
  s.modBay die q.bay fun y => { y with slots := y.slots.map fun r => if r.seq = q.seq then r.raise false x else r }

/-- SCADD_ROUND: one locked range of an FP32 scatter-add; a range another mover of the part is forming waits (08 R216). What it counts
enters the counters when the request completes. -/
def execScaddRound (die mover : Nat) (s : State) : Outcome :=
  .next (match (s.mover die mover).queue.head? with
    | some q =>
      if !s.live ∨ q.op ≠ 0xA3 ∨ q.dst.fmt ≠ 0 ∨ q.ranges.length ≤ q.rounds ∨ s.isFrozen (masterWord 2 die mover) then s
      else
        let g := at' 0 q.ranges q.rounds
        let (m, x) := q.formBlocks s.mem true (q.touched.filter fun j => j / 512 == g)
        ({ s with mem := m } : State).modMover die mover fun y =>
          { y with queue := y.queue.modifyHead fun h => { h with rounds := h.rounds + 1, exc := h.exc.add x } }
    | none => s)

/-- Accumulates slices into BX64 destination blocks, block by block (08 R216, R217; 05 R128). -/
def State.accSlices (s : State) (die : Nat) (q : MvReq) (pairs : List (Nat × Nat)) : State :=
  let n := q.dst.slice
  pairs.foldl (fun (s : State) (p : Nat × Nat) =>
    s.accRange die q.dst (p.2 * n) n
      (fun m x => if p.2 * n ≤ x ∧ x < p.2 * n + n then q.src.valAt m (p.1 * n + (x - p.2 * n)) else .fin false 0 1 0)
      fun _ _ vs => q.dst.isRed && bxAnchor vs != 0) s

/-- The elementwise maximum of values of a segment (08 R217). -/
def segMax (fmt : Nat) (cs : List Nat) : Nat :=
  if fmt = 9 then unsgn 32 ((cs.map (sgn 32)).foldl max (-(2 ^ 31 : Int)))
  else match cs with
    | [] => 0xFF800000
    | c :: rest =>
      let w := rest.foldl (fun a x => (fmaxN false a (BitVec.ofNat 32 x)).1) (BitVec.ofNat 32 c)
      (if isNaN w then qNaN else w).toNat

/-- What a request writes when it completes. -/
def State.mvApply (s : State) (die : Nat) (q : MvReq) : State :=
  match q.op with
  | 0xA0 =>
    if q.dst.compressed then s.encodeCopy (q.staged s.mem) die q
    else { s with mem := copyPairs (q.staged s.mem) s.mem q.src q.dst ((List.range q.count).map fun k => (q.s0 + k, q.d0 + k)) }
  | 0xA1 =>
    let mem := q.resolved.zipIdx.foldl (fun (m : Mem) (x : Option Nat × Nat) => match x.1 with
      | some i => copyPairs s.mem m q.src q.dst (slicePairs q.src q.dst i (q.d0 + x.2))
      | none => q.dst.zeroSlice m (q.d0 + x.2)) s.mem
    { s with mem := mem }
  | 0xA2 =>
    let mem := q.resolved.zipIdx.foldl (fun (m : Mem) (x : Option Nat × Nat) => match x.1 with
      | some i => copyPairs s.mem m q.src q.dst (slicePairs q.src q.dst (q.d0 + x.2) i)
      | none => m) s.mem
    { s with mem := mem }
  | 0xA3 =>
    if q.dst.fmt = 10 then
      if q.skip then s
      else (s.accSlices die q (q.resolved.zipIdx.filterMap fun x => x.1.map fun i => (q.d0 + x.2, i))).modBay die q.bay fun y =>
        { y with slots := y.slots.map fun r => if r.seq = q.seq then r.accMark q.pc else r }
    else s.mvCount die q q.exc
  | 0xA4 =>
    let segs := (List.range q.count).map fun g => ((at' none q.resolved g).getD 0, (at' none q.resolved (g + 1)).getD 0, q.d0 + g)
    if q.dst.fmt = 10 then
      if q.skip then s
      else (s.accSlices die q (segs.flatMap fun x => (List.range (x.2.1 - x.1)).map fun k => (x.1 + k, x.2.2))).modBay die q.bay fun y =>
        { y with slots := y.slots.map fun r => if r.seq = q.seq then r.accMark q.pc else r }
    else
      let js := ((slicePos q.dst ((List.range q.count).map (q.d0 + ·))).map q.dst.blockOf).dedup
      let (m, x) := q.formBlocks s.mem false js
      ({ s with mem := m } : State).mvCount die q x
  | 0xA5 =>
    let mem := (List.range q.count).foldl (fun (m : Mem) g =>
      let lo := (at' none q.resolved g).getD 0
      let hi := (at' none q.resolved (g + 1)).getD 0
      (List.range q.dst.slice).foldl (fun m k => q.dst.wr m ((q.d0 + g) * q.dst.slice + k)
        (segMax q.dst.fmt ((List.range (hi - lo)).map fun j => q.src.rd s.mem ((lo + j) * q.src.slice + k)))) m) s.mem
    { s with mem := mem }
  | _ =>
    { s with mem := q.dst.putHist s.mem (q.src.sketch s.mem).1 }

/-- Records a completed request whose sources in bay SRAM are dry, so that what it wrote there can be copied again (12 R316); requests
whose destination has been freed since are forgotten. -/
def State.mvKeep (s : State) (die : Nat) (q : MvReq) : State :=
  let lives := fun (x : MvReq) => x.dst.regs.any fun r => !(s.bay die r.2.1).freeAt r.2.2.1 r.2.2.2
  if q.readers.isEmpty ∨ q.dst.regs.isEmpty ∨ q.dst.isRed then s
  else s.modDie die fun d => { d with copies := d.copies.filter lives ++ [{ q with bounce := none, needBounce := 0 }] }

/-- The stores that a request reaches are awake (19 R463). -/
def State.mvMemOn (s : State) (q : MvReq) : Bool := s.memOn q.dst.base && s.memOn q.src.base && q.idx.all fun d => s.memOn d.base

/-- MOVER_REQUEST_DONE: the request at the head, its bounce buffer taken and its rounds done, writes its last byte and completes
(05 R124; 08 R210, R216). -/
def execMoverRequestDone (die mover : Nat) (s : State) : Outcome :=
  .next (match (s.mover die mover).queue.head? with
    | some q =>
      if !s.live ∨ s.isFrozen (masterWord 2 die mover) ∨ !s.domOn die (bgDom (mover / 2)) ∨ !s.mvMemOn q ∨ (q.needBounce ≠ 0 ∧ q.bounce.isNone) ∨
          (q.op = 0xA3 ∧ q.dst.fmt = 0 ∧ q.rounds < q.ranges.length) then s
      else ((s.mvApply die q).mvKeep die q).dropMv die mover q
    | none => s)

end Sys2Proof.Machine
end

