-- ==== Sys2Proof/Machine/Tile.lean ====
section
/-! DEFINITION. The matrix array: issuing tiles, exact accumulators, the Truss comparison and retirement (chapter 03 R61 to R80, R500;
04 R89 to R95; 05 R118 to R121; 09 R232 to R240). -/

namespace Sys2Proof.Machine

open Sys2Proof

/-! ### Issue (05 R118 to R120) -/

/-- Rows and K positions of an operand in its orientation. -/
def opDims (d : Desc) (trans : Bool) : Nat × Nat :=
  let r := d.shape.getD 1 1
  if trans then (d.n, r) else (r, d.n)

/-- An MX operand's range starts inside a block and its descriptor does not permit that (08 R202). -/
def misaligned (d : Desc) (trans : Bool) (row k : Nat) : Bool :=
  isMX d.fmt && !d.isMisal && (if trans then row % 32 != 0 else k % 32 != 0)

/-- Why a tile cannot be issued, with the descriptor at fault (05 R120; 08 R202, R203; 02 R52; 04 R98; 10 R247). -/
def State.tileFault (s : State) (die : Nat) (r : Running) (t : Tile) : Option (Nat × Desc) :=
  let step := r.inst.step
  let a := r.desc t.a
  let b := r.desc t.b
  let c := r.desc t.c
  let (ar, ak) := opDims a t.ta
  let (br, bk) := opDims b t.tb
  let cols := (List.range t.m).map fun i => (t.m0 + i) * c.n + t.n0
  if ar < t.m0 + t.m ∨ ak < t.k0 + t.k then some (stRange, a)
  else if br < t.n0 + t.n ∨ bk < t.k0 + t.k then some (stRange, b)
  else if c.shape.getD 1 1 < t.m0 + t.m ∨ c.n < t.n0 + t.n then some (stRange, c)
  else if misaligned a t.ta t.m0 t.k0 then some (stMalformed, a)
  else if misaligned b t.tb t.n0 t.k0 then some (stMalformed, b)
  else if c.side ∧ !cols.all (fun p => c.wholeBlocks p t.n) then some (stMalformed, c)
  else if t.acc ∧ !t.skip ∧ !s.redOpen die step c (rectPos c false t.m0 t.m t.n0 t.n) then some (stProtected, c)
  else if t.acc ∧ !t.skip ∧ !c.accOk s.mem (cols.flatMap fun p => c.blocksOf p t.n) then some (stMalformed, c)
  else none

/-- The tile an MXT instruction issues (05 R118, R119). -/
def Running.tileOf (r : Running) (f : Fields) (ta tb acc : Bool) : Tile :=
  let w := (r.sreg f.dst).toNat
  let i := f.imm.toNat
  { seq := r.seq, pc := r.pc, a := i >>> 24, b := i >>> 16 % 256, c := i >>> 8 % 256, m0 := (r.sreg f.src1).toNat,
    n0 := (r.sreg f.src2).toNat, k0 := (r.sreg f.src3).toNat, m := w >>> 26 + 1, n := w >>> 20 % 64 + 1, k := w % 2 ^ 20 + 1,
    ta := ta, tb := tb, acc := acc, skip := acc && r.already }

/-- An operand's palette slot is being filled, or a fill it needs is still to start (09 R238). -/
def Bay.fillingFor (x : Bay) (m : Mem) (d : Desc) : Bool :=
  let p := at' {} x.pal d.pslot
  d.compressed && (p.filling || (!p.wants.isEmpty && !(p.valid && p.image == sub (rdBytes m d.chunkBase 208) 0x40 144)))

/-- Issues one tile: it waits for the array, at most four wait (04 R93), and names chunks of its compressed operands (09 R237). -/
def State.mxt (s : State) (b : BayRef) (op : Nat) (f : Fields) (ta tb acc : Bool) : State :=
  s.strokeStep b op f fun s r =>
    let t := r.tileOf f ta tb acc
    match s.tileFault b.die r t with
    | some (st, d) => .viol st d.base (some d)
    | none =>
      let x := s.bay b.die b.bay
      if !s.free b r (r.tileAccess t) ∨ 4 ≤ (x.tiles.filter (·.phase == .waiting)).length ∨ x.fillingFor s.mem (r.desc t.a) ∨
          x.fillingFor s.mem (r.desc t.b) then .hold
      else .done (s.modBay b.die b.bay fun x => { x.palRef (r.tileChunks t) true with tiles := x.tiles ++ [t] }) r

/-- MXT.NN (05 R118). -/
def execMxtNn (b : BayRef) (f : Fields) (s : State) : Outcome := .next (s.mxt b 0x10 f false false false)
/-- MXT.NT (05 R118). -/
def execMxtNt (b : BayRef) (f : Fields) (s : State) : Outcome := .next (s.mxt b 0x11 f false true false)
/-- MXT.TN (05 R118). -/
def execMxtTn (b : BayRef) (f : Fields) (s : State) : Outcome := .next (s.mxt b 0x12 f true false false)
/-- MXT.TT (05 R118). -/
def execMxtTt (b : BayRef) (f : Fields) (s : State) : Outcome := .next (s.mxt b 0x13 f true true false)
/-- MXT.NN.ACC (05 R121). -/
def execMxtNnAcc (b : BayRef) (f : Fields) (s : State) : Outcome := .next (s.mxt b 0x14 f false false true)
/-- MXT.NT.ACC (05 R121). -/
def execMxtNtAcc (b : BayRef) (f : Fields) (s : State) : Outcome := .next (s.mxt b 0x15 f false true true)
/-- MXT.TN.ACC (05 R121). -/
def execMxtTnAcc (b : BayRef) (f : Fields) (s : State) : Outcome := .next (s.mxt b 0x16 f true false true)
/-- MXT.TT.ACC (05 R121). -/
def execMxtTtAcc (b : BayRef) (f : Fields) (s : State) : Outcome := .next (s.mxt b 0x17 f true true true)

/-- The course of tiles changes one tile of a bay. -/
def Bay.modTile (x : Bay) (t : Tile) (g : Tile → Tile) : Bay :=
  { x with tiles := x.tiles.map fun y => if y.seq = t.seq ∧ y.pc = t.pc then g y else y }

/-- The stroke of a tile. -/
def Bay.strokeOf (x : Bay) (t : Tile) : Option Running := x.slots.find? fun r => r.seq == t.seq

/-! ### Operands -/

/-- An operand element: its value without the block scale, and its block's scale byte (127 for formats without one). -/
abbrev Opd := Val × Nat

/-- Where the chunk of a block of a compressed tensor starts (09 R223). -/
def Desc.chunkAt (d : Desc) (m : Mem) (j : Nat) : Nat := d.base + rdNat m (d.chunkBase + 0xD0 + 4 * (j / 128)) 4

/-- What the expander found, and the chunk it found it in. -/
abbrev Finding := PalErr × Nat

/-- The codes of every block a list of positions touches, decoded where the operand is compressed (09 R232, R239). -/
def blockTable (m : Mem) (d : Desc) (img : List Byte) (js : List Nat) : Except Finding (SMap (List Nat)) :=
  js.foldlM (fun t j =>
    if d.compressed then match palDecode m d img j with
      | .ok cs => .ok (mset t j cs)
      | .error e => .error (e, d.chunkAt m j)
    else .ok (mset t j (d.rdBlock m j))) []

/-- The elements of an operand: for each row, its K elements. -/
def operand (m : Mem) (d : Desc) (img : List Byte) (trans : Bool) (r0 rn k0 kn : Nat) : Except Finding (List (List Opd)) :=
  let pos := (List.range rn).map fun i => (List.range kn).map fun k => opPos d trans (r0 + i) (k0 + k)
  if isMX d.fmt then do
    let t ← blockTable m d img ((pos.flatMap id).map d.blockOf).dedup
    pure (pos.map fun row => row.map fun p =>
      (mxElem d.fmt (at' 0 (mgetD [] t (d.blockOf p)) (p % d.n % 32)), d.rdSide m (d.blockOf p)))
  else pure (pos.map fun row => row.map fun p => (plainVal d.fmt (d.rd m p), 127))

/-! ### Accumulation (03 R61 to R70, R75) -/

/-- Product-bound and grid halves of an MX format (04 R92). -/
def halfH (fmt : Nat) : Int := match fmt with | 3 => 9 | 4 => 16 | 5 => 5 | 6 => 3 | 7 => 3 | _ => 1

/-- The encoded exponent of a non-zero element of FP32, BF16 or FP16 (03 R64). -/
def encExp (fmt : Nat) (v : Val) : Option Int :=
  match v with
  | .fin _ m _ e => if m = 0 then none
    else some (max (vlog2 m 1 e) (match fmt with | 2 => -14 | _ => -126))
  | _ => none

/-- One product: what it adds as (numerator, exponent), and the marker it sets (03 R70). -/
structure Product where
  n : Int
  e : Int
  marker : Marks
  negZero : Bool
deriving DecidableEq, Repr

/-- The product of two elements with their scales. -/
def prodOf (a b : Opd) : Product :=
  if a.2 = 255 ∨ b.2 = 255 then ⟨0, 0, { nan := true }, false⟩
  else match mulVal a.1 b.1 with
    | none => ⟨0, 0, { nan := true }, false⟩
    | some (.fin neg m _ e) =>
      ⟨if neg then -(m : Int) else m, e + ((a.2 : Int) - 127) + ((b.2 : Int) - 127), {}, neg && m == 0⟩
    | some (.inf neg) => ⟨0, 0, if neg then { ninf := true } else { pinf := true }, false⟩
    | some _ => ⟨0, 0, { nan := true }, false⟩

/-- The exact sum of products, as (numerator, exponent). -/
def sumProducts (ps : List Product) : Int × Int :=
  let q := ps.foldl (fun q p => if p.n = 0 then q else min q p.e) (ps.foldl (fun q p => max q p.e) 0)
  ((ps.foldl (fun (t : Int) p => if p.n = 0 then t else t + p.n * 2 ^ (p.e - q).toNat) 0), q)

/-- A sum truncated toward zero to a whole number of 2^(A − 76), and whether bits were lost (03 R66). -/
def truncTo (a : Int) (s : Int × Int) : Int × Bool :=
  let (w, rem, _) := scaleTo s.1.natAbs 1 s.2 (a - 76)
  (if s.1 < 0 then -(w : Int) else w, rem != 0)

/-- One output's contributions: the block pairs' exact sums and what fixes the anchor (03 R62, R64, R65; 04 R91). -/
structure Contribs where
  sums : List (Int × Int)
  anchor : Option Int
  marks : Marks
  invalid : Bool
  negZero : Bool
deriving DecidableEq, Repr

/-- Splits products into block pairs of 32 K positions, or takes each alone (04 R91, 08 R202). -/
def blockPairs {α : Type} (single : Bool) (ps : List α) : List (List α) := if single then ps.map ([·]) else parts 32 ps

/-- The contributions of one output. `pmax`: the product bound of the pair; `fp`: the operands have no stored scales. -/
def contribsOf (fa fb : Nat) (single : Bool) (ra rb : List Opd) : Contribs :=
  let ps := List.zipWith prodOf ra rb
  let pairs := List.zip ra rb
  let blocks := blockPairs single ps
  let pb := blockPairs single pairs
  let anchor := if isMX fa then
      let ss := (pairs.filter fun x => x.1.2 != 255 && x.2.2 != 255).map fun x => ((x.1.2 : Int) - 127) + ((x.2.2 : Int) - 127)
      ss.max?.map (· + halfH fa + halfH fb)
    else
      let es := pb.filterMap fun blk => do
        let ea ← (blk.filterMap fun x => encExp fa x.1.1).max?
        let eb ← (blk.filterMap fun x => encExp fb x.2.1).max?
        pure (ea + eb)
      es.max?.map (· + 2)
  { sums := blocks.map sumProducts, anchor := anchor, marks := (ps.map (·.marker)).foldl Marks.or {},
    invalid := !(pairs.any fun x => x.1.1 == .nan || x.2.1 == .nan || x.1.2 == 255 || x.2.2 == 255),
    negZero := ps.all (·.negZero) }

/-- The accumulator an output ends with. -/
def accOf (c : Contribs) : Acc :=
  match c.anchor with
  | none => { marks := c.marks, negZero := c.negZero }
  | some a =>
    let ts := c.sums.map (truncTo a)
    let n := ts.foldl (fun (t : Int) x => t + x.1) 0
    { anchor := a, n := n, marks := c.marks, sat := decide (2 ^ 96 ≤ n.natAbs), trunc := ts.any (·.2), negZero := c.negZero }

/-- Some contribution of a checksum accumulator loses bits, or a marker reaches it (03 R500). -/
def checksumLoses (cs : List Contribs) : Bool :=
  match (cs.filterMap (·.anchor)).max? with
  | none => false
  | some a =>
    let k := (cs.map (·.sums.length)).foldl max 0
    (List.range k).any fun i => (truncTo (a + 6) (sumProducts (cs.map fun c => let s := at' (0, 0) c.sums i; Product.mk s.1 s.2 {} false))).2

/-- Every accumulator of a tile, and whether its comparison is not made (03 R80, R500). -/
def tileAccs (fa fb : Nat) (single : Bool) (as bs : List (List Opd)) : List Acc × Bool :=
  let rows := as.map fun ra => bs.map fun rb => contribsOf fa fb single ra rb
  let accs := rows.map fun row => row.map accOf
  let cols := (List.range bs.length).map fun j => rows.map fun row => at' ⟨[], none, {}, false, false⟩ row j
  (accs.flatMap id,
   (accs.flatMap id).any (fun a => a.trunc || a.marks.any || a.sat) || rows.any checksumLoses || cols.any checksumLoses)

/-- An output that becomes NaN from products that are not NaN operands (03 R70). -/
def accInvalid (as : List Opd) (bs : List Opd) (a : Acc) : Bool :=
  a.marks.any && a.marks.val == .nan && !(List.zip as bs).any fun x => x.1.1 == .nan || x.2.1 == .nan || x.1.2 == 255 || x.2.2 == 255

/-- The accumulators of a tile of a stroke as the array computes them, whether its comparison is not made, and its NaN outputs that are
counted under invalid; or what the expander found wrong. -/
def State.tileCompute (s : State) (b : BayRef) (r : Running) (t : Tile) : Except Finding (List Acc × Bool × Nat) := do
  let a := r.desc t.a
  let bb := r.desc t.b
  let img := fun (d : Desc) => let p := at' {} (s.bay b.die b.bay).pal d.pslot; if p.valid then p.image else []
  let as ← operand s.mem a (img a) t.ta t.m0 t.m t.k0 t.k
  let bs ← operand s.mem bb (img bb) t.tb t.n0 t.n t.k0 t.k
  let odd := fun (d : Desc) trans row => isMX d.fmt && (trans || decide (t.k0 % 32 ≠ 0) || (trans && decide (row % 32 ≠ 0)))
  let (accs, unchecked) := tileAccs a.fmt bb.fmt (odd a t.ta t.m0 || odd bb t.tb t.n0) as bs
  pure (accs, unchecked, (List.range accs.length).countP fun i =>
    accInvalid (at' [] as (i / bs.length)) (at' [] bs (i % bs.length)) (at' {} accs i))

/-- What the expander finds when a tile's compressed operands are read (09 R239). -/
def State.expanderCheck (s : State) (b : BayRef) (r : Running) (t : Tile) : Option Finding :=
  let img := fun (d : Desc) => let p := at' {} (s.bay b.die b.bay).pal d.pslot; if p.valid then p.image else []
  match operand s.mem (r.desc t.a) (img (r.desc t.a)) t.ta t.m0 t.m t.k0 t.k,
      operand s.mem (r.desc t.b) (img (r.desc t.b)) t.tb t.n0 t.n t.k0 t.k with
  | .error e, _ => some e
  | _, .error e => some e
  | _, _ => none

/-- A finding of the expander: a stale chunk abandons its stroke for replay (09 R240); a damaged one does too, as a data fault of row 4
of 12 R303 (09 R239). Either found again in the same chunk on the replay is a data fault that recurs. -/
def State.found (s : State) (b : BayRef) (r : Running) (e : Finding) : State :=
  let again := r.inst.foundAt == some e.2
  let r := { r with inst := { r.inst with foundAt := some e.2 } }
  let s := s.putRunning b r
  if e.1 = .stale ∧ !again then s.abandon b r else s.fault ⟨4, b.die, b.bay, e.2, again, []⟩

/-- The oldest waiting tile enters the array once it is free and one of the two accumulator sets is (04 R94). -/
def execTileProductPassStart (b : BayRef) (s : State) : Outcome :=
  let x := s.bay b.die b.bay
  .next (match x.tiles.find? (·.phase == .waiting) with
    | some t =>
      if s.bayLive b ∧ x.tiles.all (·.phase != .pass) ∧ (x.tiles.filter (·.phase != .waiting)).length < 2 then
        match x.strokeOf t with
        | some r => match s.expanderCheck b r t with
          | none => s.modBay b.die b.bay (·.modTile t fun y => { y with phase := .pass })
          | some e => s.found b r e
        | none => s
      else s
    | none => s)

/-- The product pass ends: the accumulators hold their values and the Truss comparison is made, or is not made (03 R80, R500).
`agree` is what the checker finds; where it disagrees the set is held (12 R308). -/
def execTileProductPassEnd (b : BayRef) (agree : Bool) (s : State) : Outcome :=
  let x := s.bay b.die b.bay
  .next (match x.tiles.find? (·.phase == .pass) with
    | some t => match x.strokeOf t with
      | some r =>
        match s.tileCompute b r t with
        | .ok (accs, unchecked, invalid) =>
          s.modBay b.die b.bay fun x => (x.palRef (r.tileChunks t) false).modTile t fun y =>
            { y with phase := if unchecked || agree then .drain else .held, accs := accs, unchecked := unchecked, invalid := invalid }
        | .error e => s.found b r e
      | none => s
    | none => s)

/-! ### Retirement (03 R71 to R77; 04 R94) -/

/-- An accumulator's value (03 R69, R70, R75). -/
def Acc.val (a : Acc) : Val :=
  if a.marks.any then a.marks.val
  else if a.sat then .sat
  else if a.n = 0 then .fin a.negZero 0 1 0
  else intVal a.n (a.anchor - 76)

/-- A saturated accumulator that retires into a format other than BX64: a NaN, counted under invalid by `Fmt.ofVal` and in
saturated_acc (03 R75, R77). -/
def satCount (h : Option Hist) (n : Nat) : Option Hist := h.map fun h => { h with satAcc := satAdd 32 h.satAcc n }


/-- Retires a tile's accumulators into C (03 R71, R72). -/
def State.retire (s : State) (b : BayRef) (r : Running) (t : Tile) : State :=
  let c := r.desc t.c
  let rows := (List.range t.m).map fun i => ((t.m0 + i) * c.n + t.n0, ((t.accs.drop (i * t.n)).take t.n).map Acc.val)
  if t.acc then
    if t.skip then s
    else if !s.redOpen b.die r.inst.step c (rectPos c false t.m0 t.m t.n0 t.n) then s.freezeBayAt b r t.pc stProtected c.base (some c)
    else
      let s := rows.foldl (fun (s : State) (x : Nat × List Val) =>
        (parts 32 x.2).zipIdx.foldl (fun (s : State) (y : List Val × Nat) =>
          s.accumulate b.die c (c.blockOf (x.1 + 32 * y.2)) y.1 (bxAnchor y.1 != 0)) s) s
      s.putRunning b ((r.accMark t.pc).raise false { inv := t.invalid })
  else
    let k := rows.foldl (fun k (x : Nat × List Val) => c.putRow k x.1 x.2) (s.sink r t.c)
    let sats := if c.fmt = 10 then 0 else (t.accs.filter fun a => a.sat && !a.marks.any).length
    let k := { k with hist := (satCount k.hist sats).map fun h => { h with unchecked := satAdd 32 h.unchecked (b2n t.unchecked) } }
    ({ s with mem := k.mem } : State).putRunning b ((r.take t.c k).raise false { inv := t.invalid })

/-- Retires the oldest tile whose pass has ended, in tile order, once its drain is over (04 R94). -/
def execTileRetire (b : BayRef) (s : State) : Outcome :=
  let x := s.bay b.die b.bay
  .next (match x.tiles.head? with
    | some t =>
      if t.phase = .drain then
        match x.strokeOf t with
        | some r => (s.retire b r t).modBay b.die b.bay fun x => { x with tiles := x.tiles.filter fun y => !(y.seq == t.seq && y.pc == t.pc) }
        | none => s
      else s
    | none => s)

end Sys2Proof.Machine
end

