-- ==== Sys2Proof/Machine/Loader.lean ====
section
/-! DEFINITION. The Easel loader's checks of a stroke image: descriptors, instructions, register values and the work count
(05 R111 to R116, R134, R135, R501; 08 R194 to R205; 07 R171 to R175; 09 R230, R231, R234; 10 R258). -/

namespace Sys2Proof.Machine

open Sys2Proof

/-- A check: a status and the offset of the field found wrong. -/
abbrev Chk := Except (Nat × Nat)

/-- A condition whose failure is ST_MALFORMED at an offset. -/
def need (c : Bool) (off : Nat) : Chk Unit := if c then .ok () else .error (stMalformed, off)

/-- A condition whose failure is another status. -/
def needSt (c : Bool) (st : Nat) : Chk Unit := if c then .ok () else .error (st, 0)

/-! ### Descriptors (08 R194 to R199, R204) -/

/-- The element bytes as bit offsets from address 0: lowest, and highest plus one. -/
def Desc.bitSpan (d : Desc) : Int × Int :=
  let (lo, hi) := d.extent
  ((d.base : Int) * 8 + lo * d.bits, (d.base : Int) * 8 + hi * d.bits)

/-- The byte ranges every element, padding position, side byte and directory byte can occupy. -/
def Desc.reach (d : Desc) : List (Int × Int) :=
  let (lo, hi) := d.bitSpan
  (if d.compressed then [((d.base : Int), (d.base : Int) + d.smax), ((d.chunkBase : Int), (d.chunkBase : Int) + 208 + 4 * d.chunks)]
   else [(lo / 8, (hi + 7) / 8)]) ++
  (if d.side then [((d.sideBase : Int), (d.sideBase : Int) + ((d.blocks - 1) * d.sideStride : Nat) + 1)] else [])

/-- A descriptor does not alias itself (08 R198). -/
def Desc.noAlias (d : Desc) : Bool :=
  let ds := ((List.zip d.shape d.stride).filter fun x => decide (1 < x.1)).map fun x => (x.2.natAbs, x.1)
  let ds := ds.mergeSort fun a b => decide (a.1 ≤ b.1)
  (ds.foldl (fun (a : Bool × Nat) x => (a.1 && decide (1 + a.2 ≤ x.1), a.2 + x.1 * (x.2 - 1))) (true, 0)).1

/-- Base alignment of MX and BX64 tensors (08 R199). -/
def baseAlign (fmt : Nat) : Nat := match fmt with | 7 => 16 | 5 => 8 | 6 => 8 | 10 => 256 | _ => 32

/-- Everything the loader checks of one descriptor (08 R194 to R199, R204); `cap`: populated LPDDR5X bytes by die. -/
def descCheck (dies : Nat) (cap : List Nat) (bs : List Byte) : Chk Desc := do
  let d := parseDesc bs
  let f := d.flags
  need (bitsOf (fld bs 0 8) 63 60 == 0 && (d.isRem || d.node == 0)) 0
  need (decide (f < 128) && [d.isIn, d.isDst, d.isScr, d.isRed].countP id == 1 && (!d.isRem || !d.isScr) && (!d.isHist || (d.isDst && !d.isRem))) 8
  need (decide (fld bs 0xC 1 ≤ 10)) 0xC
  need (decide (1 ≤ d.rank ∧ d.rank ≤ 6)) 0xD
  need (bitsOf (fld bs 0xE 1) 6 2 == 0 && (!d.compressed || (isMX d.fmt && !d.isMisal && !d.isRem))) 0xE
  need (decide (fld bs 0xF 1 ≤ 2) && (d.policy == 0 || d.fmt == 9)) 0xF
  need (d.shape.all (fun e => decide (1 ≤ e)) && zeroAt bs (0x10 + 4 * d.rank) (24 - 4 * d.rank)) 0x10
  need (zeroAt bs (0x28 + 8 * d.rank) (48 - 8 * d.rank) && (!d.side || (d.contig && (d.stride.drop 1).all fun s => s % 32 == 0)) &&
    (d.isIn || d.noAlias) && (!d.compressed || d.dense)) 0x28
  need (d.side || d.sideBase == 0) 0x58
  need (if d.side then decide (1 ≤ d.sideStride) else d.sideStride == 0) 0x60
  need (d.tscale == 0#32 || (isMX d.fmt && tsOk d.tscale)) 0x64
  need (d.compressed || d.chunkBase == 0) 0x68
  need (decide (fld bs 0x70 2 < 4096) && (d.isRed || d.slot == 0)) 0x70
  need (zeroAt bs 0x72 14) 0x72
  need (!d.side || d.base % baseAlign d.fmt == 0) 0
  if d.isRem then pure d
  else
    let rs := d.reach
    need (rs.all fun r => decide (0 ≤ r.1 ∧ r.1 / 2 ^ 44 = (d.base / 2 ^ 44 : Nat) ∧ (r.2 - 1) / 2 ^ 44 = (d.base / 2 ^ 44 : Nat))) 0
    if dpaOnDie d.base then
      need (dpaDie d.base == 0 && dpaRegion d.base == 0 && (dpaBay d.base == 0xFF || decide (dpaBay d.base ≤ 127))) 0
      need (rs.all fun r => decide (r.1 / 2 ^ 24 = (d.base / 2 ^ 24 : Nat) ∧ (r.2 - 1) / 2 ^ 24 = (d.base / 2 ^ 24 : Nat) ∧
        (r.2 - 1) % 2 ^ 24 < (sramSize : Int))) 0
    else
      needSt (decide (dpaDie d.base < dies) && rs.all fun r => decide ((r.2 - 1) % 2 ^ 44 < (at' 0 cap (dpaDie d.base) : Int))) stRange
    pure d

/-- A descriptor names the issuing bay (08 R198). -/
def Desc.own (d : Desc) : Bool := !d.isRem && dpaOnDie d.base && dpaBay d.base == 0xFF

/-- Destinations of a stroke that overlap each other or an input (08 R205), judged on the spans as 256 B units. A reduction buffer
is no destination: the stroke registers nothing for it (R97), and two views of one buffer may be named. -/
def descsClash (a b : Desc) : Bool :=
  let dest := fun (d : Desc) => d.isDst || d.isScr
  !a.isRem && !b.isRem && ((dest a && (dest b || b.isIn)) || (a.isIn && dest b)) && (a.regs.any fun x => b.regs.any fun y =>
    x.1 == y.1 && x.2.1 == y.2.1 && overlaps x.2.2.1 x.2.2.2 y.2.2.1 y.2.2.2)

/-! ### What an instruction's descriptors must be -/

/-- Formats of A and B pair (04 R92). -/
def pairOk (a b : Nat) : Bool := (isFP a && a == b) || (isMX a && isMX b)

/-- A plain destination: DST or SCR, not remote, not compressed. -/
def Desc.writable (d : Desc) : Bool := (d.isDst || d.isScr) && !d.isRem && !d.compressed

/-- A reduction buffer a stroke accumulates into (05 R121, R128). -/
def Desc.buffer (d : Desc) : Bool := d.isRed && !d.isRem && d.fmt == 10

/-- What the loader follows through a stroke: scalar registers (none: not followed), the argument each came from, LUT banks
loaded, row-engine roles, local descriptors of SP.ACC, and costs. -/
structure LoadSt where
  regs : List (Option Nat) := List.replicate 32 (some 0)
  fromArg : List (Option Nat) := List.replicate 32 none
  banks : List Nat := []
  roles : List (Option Nat) := List.replicate 12 none
  accs : List Nat := []
  shapeArgs : List Nat := []
  cost : Nat := 0
  accCost : Option Nat := none
deriving DecidableEq, Repr

/-- The value of a register for the work count, or the largest the descriptors admit (05 R501). -/
def LoadSt.reg (l : LoadSt) (r : BitVec 6) (bound : Nat) : Nat := (at' none l.regs r.toNat).getD bound

/-- The descriptors an instruction names, by index. -/
def opDescs (op i : Nat) : List Nat :=
  if 0x10 ≤ op ∧ op ≤ 0x17 then [i >>> 24, i >>> 16 % 256, i >>> 8 % 256]
  else if op = 0x90 ∨ op = 0x91 ∨ op = 0x98 ∨ op = 0x99 ∨ op = 0xC0 ∨ op = 0x75 ∨ op = 0x8D ∨ op = 0x8E then [i % 256]
  else if op = 0xC1 ∨ op = 0x76 then [i >>> 8 % 256, i % 256]
  else if 0xA0 ≤ op ∧ op ≤ 0xA6 then [i >>> 24, i >>> 16 % 256] ++ (if i.testBit 0 then [i >>> 8 % 256] else [])
  else if 0xB0 ≤ op ∧ op ≤ 0xB2 then [i >>> 24, i >>> 16 % 256]
  else if op = 0xC9 then [i >>> 8 % 256]
  else if op = 0x68 then [i >>> 16 % 256]
  else if op = 0x80 then (if i.testBit 7 then [i >>> 24] else []) ++ (if i.testBit 6 then [i >>> 16 % 256] else []) ++ (if i.testBit 5 then [i >>> 8 % 256] else [])
  else []

/-- The roles a row instruction needs, and those it writes (07 R182 to R192). -/
def rowNeeds (op fn : Nat) : List Nat × List Nat :=
  match op with
  | 0x82 => ([0, 1], [1]) | 0x84 => ([0, 1], [1]) | 0x86 => ([0, 1], [1])
  | 0x83 => ([0, 3, 4], [4]) | 0x85 => ([0, 3, 4], [4]) | 0x87 => ([0, 3, 4], [4])
  | 0x88 => ([0, 1, 4, 11], [1, 4])
  | 0x89 => ([0, 1, 5], if fn = 3 then [1] else [1, 5])
  | 0x8A => ([3, 4, 5], [4])
  | 0x8B => ([0, 1, 5], [1, 5])
  | _ => ([3, 4, 5], [4])

/-- The descriptors an instruction writes, of those it names and, for a row instruction, of the roles bound (10 R258). -/
def opWrites (op i : Nat) (roles : List (Option Nat)) : List Nat :=
  if 0x10 ≤ op ∧ op ≤ 0x17 then [i >>> 8 % 256]
  else if op = 0x98 ∨ op = 0x99 ∨ op = 0xC0 ∨ op = 0xC1 ∨ op = 0x76 ∨ op = 0x8D then [i % 256]
  else if (0xA0 ≤ op ∧ op ≤ 0xA6) ∨ op = 0xB1 then [i >>> 24]
  else if 0x82 ≤ op ∧ op ≤ 0x8C then
    ((rowNeeds op (i % 8)).2 ++ (if op ≤ 0x88 then [8] else []) ++ (if op = 0x83 ∨ op = 0x85 then [9, 10] else [])).filterMap fun k => at' none roles k
  else []

/-- Formats and flags of one role (07 R171); a reduction buffer is written only, by the gradient roles (04 R98). -/
def roleOk (k : Nat) (d : Desc) : Bool :=
  let mx := isMX d.fmt && d.n % 32 == 0 && d.tscale == 0#32
  d.own && !d.compressed && (d.isRed == (k == 9 || k == 10)) && (match k with
    | 0 => isFP d.fmt
    | 1 => isFP d.fmt || mx
    | 2 => d.fmt == 9
    | 3 => isFP d.fmt
    | 4 => isFP d.fmt || mx
    | 5 => d.fmt == 9
    | 6 => d.fmt == 0 || d.fmt == 1
    | 7 => d.fmt == 0 || d.fmt == 1
    | 8 => d.fmt == 9
    | 11 => d.fmt == 9
    | _ => d.buffer)

/-- A mover request's descriptors (08 R207, R212; 09 R230; 05 R124). No reduction buffer is a source (04 R98), and one that is a
destination lies in the issuing bay (10 R247). -/
def moverOk (op : Nat) (idx : Bool) (dst src : Desc) (ix : Option Desc) : Bool :=
  let ixOk := match ix with | some d => d.fmt == 9 && !d.isRem && !d.compressed && !d.isRed | none => false
  let into := if dst.isRed then dst.buffer && dst.own else dst.writable
  let sums := (dst.fmt == 0 || dst.fmt == 10) && (isFP src.fmt || src.fmt == 10)
  let plain := !src.compressed && !dst.compressed
  !dst.isRem && !src.isRem && !src.isRed && (match op with
    | 0xA0 =>
      (dst.isDst || dst.isScr) && dst.fmt == src.fmt && dst.tscale == src.tscale &&
      (if dst.compressed then
        dst.shape == src.shape && (if src.compressed then !idx else isMX src.fmt && src.dense &&
          (match ix with | some t => t.compressed && t.isIn && t.fmt == src.fmt | none => !idx))
       else !src.compressed && !idx)
    | 0xA1 => idx && ixOk && plain && dst.writable && dst.fmt == src.fmt
    | 0xA2 => idx && ixOk && plain && dst.writable && dst.fmt == src.fmt
    | 0xA3 => idx && ixOk && plain && sums && into
    | 0xA4 => idx && ixOk && plain && sums && into
    | 0xA5 => idx && ixOk && plain && dst.writable && dst.fmt == src.fmt && (dst.fmt == 0 || dst.fmt == 9)
    | _ => plain && !idx && dst.writable && dst.fmt == 9 && dst.count == 72)


/-- Row length and rows of a row instruction. -/
def rowShape (op : Nat) (role : Nat → Option Desc) : Nat × Nat :=
  let x := ((if (role 0).isSome then role 0 else role 3).getD {})
  (if op = 0x8C then ((role 4).getD {}).n else x.n, x.rows)

/-- A row instruction's roles have the shapes of 07 R171, R190, R192. -/
def rowOk (op imm : Nat) (role : Nat → Option Desc) : Bool :=
  let (n, rows) := rowShape op role
  let (need, wr) := rowNeeds op (imm % 8)
  let norm := op = 0x82 ∨ op = 0x83 ∨ op = 0x84 ∨ op = 0x85
  let like := fun (k len : Nat) => match role k with | some d => d.n == len && d.rows == rows | none => true
  let one := fun (k : Nat) => match role k with | some d => d.n == n && d.rows == 1 | none => true
  let w := imm % 32
  let pool := op = 0x8B ∨ op = 0x8C
  need.all (fun k => (role k).isSome) && wr.all (fun k => match role k with | some d => d.writable | none => true) &&
  decide (1 ≤ n ∧ n ≤ 2 ^ 20) && (!(op ≤ 0x88 ∧ imm.testBit 0) || (match role 2 with
    | some d => d.n == cdiv n 32 && (d.rows == rows || d.rows == 1)
    | none => false)) &&
  (!need.contains 0 || like 0 n) &&
  (!need.contains 1 || (if op = 0x88 then (match role 1 with | some d => d.count == rows && d.fmt == 0 | none => true)
    else like 1 (if pool then n / w else n))) &&
  (!need.contains 3 || like 3 (if pool then n / w else n)) && (!need.contains 4 || like 4 n) &&
  (!need.contains 5 || like 5 (cdiv n 32)) && (!need.contains 11 || (match role 11 with | some d => d.count == rows | none => true)) &&
  (!norm || (one 6 && one 7)) && (!(op = 0x83 ∨ op = 0x85) || (one 9 && one 10)) && (!pool || n % w == 0)

/-! ### Costs (05 R113; 06 R148; 07 R175) -/

/-- Bytes of the first `n` elements with their side bytes, one for each block of each row (08 R200). -/
def Desc.bytesOf (d : Desc) (n : Nat) : Nat :=
  cdiv (n * d.bits) 8 + (if d.side then n / d.n * cdiv d.n 32 + cdiv (n % d.n) 32 else 0)

/-- Retirement cycles of a tile (04 R94). -/
def retireCost (fmt : Nat) (acc : Bool) (mn : Nat) : Nat :=
  let full := if acc then 32768 else match fmt with
    | 0 => 16384 | 1 => 8192 | 2 => 8192 | 5 => 3200 | 6 => 3200 | 7 => 2176 | 10 => 32896 | _ => 4224
  cdiv (cdiv (full * mn) 4096) 128 + (if acc then 4 else 0)

/-- Extents of an operand along K, in its orientation (04 R89). -/
def kExtent (d : Desc) (trans : Bool) : Nat := (opDims d trans).2

/-- The largest K a tile's operands admit (05 R501). -/
def kLargest (a b : Desc) (op : Nat) : Nat := min (min (kExtent a (op.testBit 1)) (kExtent b (op.testBit 0))) (2 ^ 20)

/-- Cost of a tile; `next`: K of the following tile (05 R113; 08 R202; 09 R234). A shape word the loader does not follow counts as
the largest the descriptors admit (05 R501); for M and N, which the rule does not name, that is the smaller of the extents of the
operand and of C, at most 64 (DEDUCED, log 28). -/
def tileCost (a b c : Desc) (op : Nat) (shape : Option Nat) (next : Nat) : Nat :=
  let ta := op.testBit 1
  let tb := op.testBit 0
  let (m, n, k) := match shape with
    | some w => (w >>> 26 % 64 + 1, w >>> 20 % 64 + 1, w % 2 ^ 20 + 1)
    | none => (min 64 (min (opDims a ta).1 (opDims c false).1), min 64 (min (opDims b tb).1 c.n), kLargest a b op)
  let cc := if isMX a.fmt then (if a.isMisal || b.isMisal then 2 else 1) else match a.fmt with | 1 => 2 | 2 => 4 | _ => 16
  let h := ([a, b].filter (·.compressed)).foldl (fun t d => t + min d.chunks (64 * (cdiv k 4096 + 1))) 0
  let longer := if h = 0 then 0 else cdiv (17 * h) 8 + cdiv next 16 + 4 - cc * k
  cdiv k 16 + 10 + (if ta || tb then 64 * cc else 0) + cc * k + 64 + retireCost c.fmt (op.testBit 2) (m * n) +
    (if a.fmt = 1 then cdiv (128 * k) 132 else 0) + longer

/-- The whole address interval of a descriptor (08 R210). -/
def Desc.whole (d : Desc) : Nat × Nat := match hull d.spans with | x :: _ => (x.1, x.1 + x.2) | [] => (0, 0)

/-- Cost of a mover request (05 R113; 08 R208, R210, R213; 09 R231). -/
def moverCost (l : LoadSt) (op : Nat) (f : Fields) (dst src : Desc) (ix : Option Desc) : Nat :=
  let own := fun (d : Desc) (n : Nat) => if d.own then n else 0
  let crosses := let a := dst.whole; let b := src.whole; decide (a.1 < b.2 ∧ b.1 < a.2)
  match op with
  | 0xA0 =>
    let e := l.reg f.src3 (min dst.count src.count)
    if dst.compressed then
      if src.compressed then
        let n := fun (d : Desc) => own d (d.smax + 208 + 4 * d.chunks + d.blocks)
        cdiv ((n src + n dst) * (if crosses then 4 else 1)) 256 + 256
      else
        let b := own src (src.bytesOf e)
        if ix.isSome then cdiv (b + dst.smax + 208 + 4 * dst.chunks) 256 + cdiv e 128 + 256
        else cdiv (2 * b + dst.smax + 208 + 4 * dst.chunks) 256 + cdiv e 128 + 2048 + 256
    else if !dst.contig || !src.contig then (if crosses then e else cdiv e 4) + 256
    else cdiv ((own dst (dst.bytesOf e) + own src (src.bytesOf e)) * (if crosses then 4 else 1)) 256 + 256
  | 0xA6 => cdiv (own src (src.bytesOf src.count) + own dst 288) 256 + 256
  | _ =>
    let x := ix.getD {}
    let seg := op = 0xA4 ∨ op = 0xA5
    let n := l.reg f.src3 (if seg then min (x.count - 1) dst.outer else if op = 0xA1 then min x.count dst.outer else min x.count src.outer)
    let slices := fun (d : Desc) (k : Nat) => own d (k * d.bytesOf d.slice)
    let data := if seg then slices dst n + slices src src.outer else slices dst n + slices src n
    cdiv (data + own x (2 * x.bytesOf (if seg then n + 1 else n))) 256 + 256

/-- One pass over `e` elements reading `b8` eighths of a byte each (07 R175). -/
def passCost (e b8 : Nat) : Nat := cdiv (e * max 64 b8) 1024

/-- Cost of a row instruction (07 R175). -/
def rowCost (l : LoadSt) (op : Nat) (f : Fields) (role : Nat → Option Desc) : Nat :=
  let (n, rows) := rowShape op role
  let nr := l.reg f.src2 rows
  let e := nr * n
  let b := fun k => match role k with | some d => d.bits | none => 0
  let i := f.imm.toNat
  let mask := if op ≤ 0x88 ∧ i.testBit 0 then 1 else 0
  let spill := match role 8 with
    | some d => if op ≤ 0x88 then min (min nr (l.reg f.dst (2 ^ 32) + nr - 8192)) (d.count / 4) else 0
    | none => 0
  let pass := fun b8 => passCost e (b8 + mask)
  spill + (match op with
    | 0x82 => pass (b 0) + pass (b 0 + b 6 + b 7) | 0x84 => pass (b 0) + pass (b 0 + b 6 + b 7)
    | 0x83 => pass (b 0 + b 3 + b 6) + pass (b 0 + b 3 + b 6 + b 9 + b 10)
    | 0x85 => pass (b 0 + b 3 + b 6) + pass (b 0 + b 3 + b 6 + b 9 + b 10)
    | 0x86 => 3 * pass (b 0) | 0x88 => 3 * pass (b 0)
    | 0x87 => 2 * pass (b 0 + b 3)
    | 0x89 => passCost e (b 0 + (if i % 8 = 3 then 1 else 0))
    | 0x8A => passCost e (b 3 + 1)
    | 0x8B => passCost e (b 0)
    | _ => passCost e (b 3 + 1))

/-- Cost of one instruction (05 R113). -/
def instrCost (l : LoadSt) (op : Nat) (f : Fields) (ds : List Desc) (role : Nat → Option Desc) (next : Nat) : Nat :=
  let i := f.imm.toNat
  let d := fun k => at' {} ds k
  let strict := match opInfo op with | some o => (modBits o.mod f).testBit 5 | none => false
  if op = 0x0F then 64
  else if 0x10 ≤ op ∧ op ≤ 0x17 then tileCost (d 0) (d 1) (d 2) op (at' none l.regs f.dst.toNat) next
  else if op = 0x29 ∨ op = 0x2A then (if strict then 16 else 2)
  else if 0x50 ≤ op ∧ op ≤ 0x54 then (if strict then 64 else 1)
  else if op = 0x5C ∨ op = 0x5D ∨ op = 0x63 ∨ op = 0x64 then 2
  else if op = 0x68 then cdiv (4 * (i >>> 4 % 512 + (if i.testBit 2 then 2 else 1))) 128 + 4
  else if op = 0x76 then cdiv ((d 0).bytesOf (d 0).count) 128 + 8
  else if 0x20 ≤ op ∧ op ≤ 0x7F then (if strict then 4 else 1)
  else if 0x82 ≤ op ∧ op ≤ 0x8C then rowCost l op f role
  else if op = 0x90 ∨ op = 0x98 then (if (d 0).isMisal then 4 else 2)
  else if 0xA0 ≤ op ∧ op ≤ 0xA6 then moverCost l op f (d 0) (d 1) (ds[2]?)
  else if 0xB0 ≤ op ∧ op ≤ 0xB2 then cdiv ((d 0).bytesOf (l.reg f.src3 (min (d 0).count (d 1).count))) 256 + 256
  else if op = 0xC0 then 4
  else if op = 0xC1 then cdiv ((d 0).bytesOf (l.reg f.src2 (min (d 0).count (d 1).count))) 128 + 8
  else 1

/-! ### Instructions (05 R112) -/

/-- The descriptors an instruction names have the flags, formats and places it needs. -/
def descsOk (op i : Nat) (ds : List Desc) : Bool :=
  let d := fun k => at' {} ds k
  let rd := fun (x : Desc) => x.own && !x.compressed && !x.isRed
  if 0x10 ≤ op ∧ op ≤ 0x17 then
    let outer := fun (x : Desc) => (x.shape.drop 2).all (· == 1)
    (d 0).own && (d 1).own && (d 2).own && !(d 0).isRed && !(d 1).isRed &&
    ((!(d 0).compressed || (d 0).isIn) && (!(d 1).compressed || (d 1).isIn)) && pairOk (d 0).fmt (d 1).fmt &&
    outer (d 0) && outer (d 1) && outer (d 2) && (if op.testBit 2 then (d 2).buffer else (d 2).writable && (d 2).fmt != 9)
  else if op = 0x90 then rd (d 0) && (!i.testBit 8 || (d 0).side)
  else if op = 0x98 then rd (d 0) && (d 0).writable && (!i.testBit 8 || (d 0).side)
  else if op = 0x91 then rd (d 0) && ((d 0).fmt == 0 || (d 0).fmt == 9)
  else if op = 0x99 then rd (d 0) && (d 0).writable && ((d 0).fmt == 0 || (d 0).fmt == 9)
  else if op = 0xC0 then (d 0).own && (d 0).buffer
  else if op = 0xC1 then rd (d 0) && (d 1).own && (d 1).buffer && ((d 0).fmt == 0 || (d 0).fmt == 10)
  else if op = 0x75 ∨ op = 0xC9 then (d 0).isHist && !(d 0).compressed && (op != 0x75 || (d 0).own)
  else if op = 0x76 then rd (d 0) && rd (d 1) && (d 1).writable && (d 1).fmt == 9 && (d 1).count == 72
  else if op = 0x68 then
    rd (d 0) && (d 0).fmt == 0 && (d 0).contig && decide (i >>> 4 % 512 + (if i.testBit 2 then 2 else 1) ≤ (d 0).n)
  else if op = 0x8D then rd (d 0) && (d 0).writable && (d 0).fmt == 9
  else if op = 0x8E then rd (d 0) && (d 0).fmt == 9
  else if 0xA0 ≤ op ∧ op ≤ 0xA6 then moverOk op (i.testBit 0) (d 0) (d 1) ds[2]?
  else if op = 0xB0 then rd (d 0) && (d 1).isRem && (d 1).isDst && (d 0).fmt == (d 1).fmt
  else if op = 0xB1 then rd (d 0) && (d 0).writable && (d 1).isRem && (d 1).isIn && (d 0).fmt == (d 1).fmt
  else if op = 0xB2 then (d 0).own && (d 0).buffer && (d 1).isRem && (d 1).isRed && (d 1).fmt == 10
  else true

/-- The value an instruction leaves in its s register, as the loader follows it (05 R501). -/
def followed (argMax : List Nat) (op : Nat) (f : Fields) : Option (Option Nat) :=
  if op = 0x40 then some (some f.imm.toNat)
  else if op = 0x95 then some (some (at' 0 argMax (f.imm.toNat % 8)))
  else match opInfo op with
    | some o => if o.dst = .s ∧ !(0x10 ≤ op ∧ op ≤ 0x17) ∧ !(0x82 ≤ op ∧ op ≤ 0x88) then some none else none
    | none => none

/-- Checks one instruction and follows it. `k`: its index; `next`: K of the following tile. -/
def loadInstr (descs : List Desc) (argCount : Nat) (argMax : List Nat) (count k next : Nat) (w : DWord) (l : LoadSt) : Chk LoadSt := do
  let off := 64 + 8 * k
  let op := wordOp w
  let f := wordFields w
  let i := f.imm.toNat
  need ((op == 0x0F) == (k + 1 == count) && strokeOk op f) off
  let ix := opDescs op i
  need (ix.all fun x => decide (x < descs.length)) off
  let ds := ix.map fun x => at' {} descs x
  need (descsOk op i ds) off
  need (op != 0x95 || decide (i % 8 < argCount)) off
  need (op != 0x69 || l.banks.contains (i % 4)) off

  let put := fun (rs : List (Option Nat)) (j v sh : Nat) => setAt rs (3 * (i % 4) + j) (if i.testBit v then some (i >>> sh % 256) else none)
  let roles := if op = 0x80 then put (put (put l.roles 0 7 24) 1 6 16) 2 5 8 else l.roles
  need ((opWrites op i roles).all fun x => !l.accs.contains x) off
  let role := fun (j : Nat) => (at' none roles j).map fun x => at' {} descs x
  need (op != 0x80 || [0, 1, 2].all fun j => match role (3 * (i % 4) + j) with | some d => roleOk (3 * (i % 4) + j) d | none => true) off
  need (!(0x82 ≤ op ∧ op ≤ 0x8C) || rowOk op i role) off
  let cost := instrCost l op f ds role next
  let l := { l with roles := roles, cost := l.cost + cost }
  let l := if 0x10 ≤ op ∧ op ≤ 0x17 then
      (match at' none l.fromArg f.dst.toNat with
        | some a => if l.shapeArgs.contains a then l else { l with shapeArgs := l.shapeArgs ++ [a] }
        | none => l)
    else l
  let l := match followed argMax op f with
    | some v => { l with regs := setAt l.regs f.dst.toNat v, fromArg := setAt l.fromArg f.dst.toNat (if op = 0x95 then some (i % 8) else none) }
    | none => l
  let l := if op = 0x68 then { l with banks := l.banks ++ [i % 4] } else l
  let l := match l.accCost with
    | some c => { l with accCost := some (c + cost) }
    | none => if op = 0xB2 then { l with accCost := some cost } else l
  pure (if op = 0xB2 then { l with accs := l.accs ++ [i >>> 24] } else l)

/-- K of the first tile of the instructions that follow, with the registers as those before it leave them (05 R501; 09 R233,
R234); 0 where there is none. -/
def nextK (descs : List Desc) (argMax : List Nat) : List DWord → List (Option Nat) → Nat
  | [], _ => 0
  | w :: ws, regs =>
    let op := wordOp w
    let f := wordFields w
    let i := f.imm.toNat
    if 0x10 ≤ op ∧ op ≤ 0x17 then
      match at' none regs f.dst.toNat with
      | some v => v % 2 ^ 20 + 1
      | none => kLargest (at' {} descs (i >>> 24)) (at' {} descs (i >>> 16 % 256)) op
    else nextK descs argMax ws (match followed argMax op f with | some v => setAt regs f.dst.toNat v | none => regs)

/-- Checks the instructions in order. -/
def loadInstrs (descs : List Desc) (argCount : Nat) (argMax : List Nat) (count : Nat) : Nat → List DWord → LoadSt → Chk LoadSt
  | _, [], l => .ok l
  | k, w :: ws, l =>
    match loadInstr descs argCount argMax count k (nextK descs argMax ws l.regs) w l with
    | .ok l => loadInstrs descs argCount argMax count (k + 1) ws l
    | .error e => .error e

/-- Loads a stroke image: the three stages of 05 R111. Offsets are within the image. The strict bit of the header (R135) is kept as
written: the loader does not hold it against the STRICT bits of the instructions (DESIGN CHOICE, log 28). -/
def loadStroke (dies : Nat) (cap : List Nat) (job : Nat) (bs : List Byte) : Chk Image := do
  let n := fld bs 6 2
  let nd := fld bs 8 2
  need (decide (64 ≤ bs.length)) 0
  needSt (decide (n ≤ 4096 ∧ nd ≤ 256)) stLimit
  need (fld bs 0 4 == 0x4B525453) 0
  need (fld bs 4 2 == 1) 4
  need (decide (1 ≤ n)) 6
  need (bs.length == 64 + 8 * n + 128 * nd) 6
  let na := fld bs 0xA 1
  need (decide (na ≤ 8)) 0xA
  need (decide (fld bs 0xB 1 < 2)) 0xB
  need (zeroAt bs 0x30 16) 0x30
  let argMax := (List.range 8).map fun k => fld bs (0x10 + 4 * k) 4
  let base := 64 + 8 * n
  let descs ← (List.range nd).foldlM (fun (a : List Desc) k =>
    match descCheck dies cap (sub bs (base + 128 * k) 128) with
    | .ok d => .ok (a ++ [d])
    | .error e => .error (e.1, base + 128 * k + e.2)) []
  need (decide ((descs.filter (·.isHist)).length ≤ 16)) base
  (List.range nd).forM fun k => need (((descs.take k).all fun a => !descsClash a (at' {} descs k))) (base + 128 * k)
  let ws := (List.range n).map fun k => BitVec.ofNat 64 (fld bs (64 + 8 * k) 8)
  let l ← loadInstrs descs na argMax n 0 ws {}
  need (fld bs 0xC 4 == l.cost) 0xC
  needSt (decide (l.cost ≤ 28000 ∧ l.accCost.getD 0 ≤ 14000)) stLimit
  pure { instrs := ws, descs := descs, argCount := na, argMax := argMax, shapeArgs := l.shapeArgs,
         strict := bitOf (fld bs 0xB 1) 0, work := l.cost, job := job }

end Sys2Proof.Machine
end

