-- ==== Sys2Proof/Machine/StrokeEvents.lean ====
section
/-! DEFINITION. Issue and seal of stroke instances (04 R97 to R105; 05 R131 to R134; 09 R236, R238; 10 R258, R270; 12 R311,
R313), the fills of palette slots, and the release of dry entries. -/

namespace Sys2Proof.Machine

open Sys2Proof


/-! ### Issue -/

/-- The image holds an instruction of one of the opcodes. -/
def Image.uses (i : Image) (ops : List Nat) : Bool := i.instrs.any fun w => ops.contains (wordOp w)

/-- Row-engine instructions that write statistics, and those that read them (07 R173, R178). -/
def statWriters : List Nat := [0x82, 0x84, 0x86, 0x88]
/-- Row-engine instructions that read statistics. -/
def statReaders : List Nat := [0x83, 0x85, 0x87]

/-- What the checks at issue find: the instance is held, malformed at an address, or may issue (05 R133). -/
inductive IssueCheck where
  | held
  | malformed (addr : Nat) (d : Option Desc)
  | go (fills : List (Nat × List Byte))
deriving DecidableEq, Repr

/-- The ranges of the descriptors that satisfy a test: (bay, first byte, length) on this die. -/
def rangesOf (ds : List Desc) (t : Desc → Bool) : List (Nat × Nat × Nat) :=
  (ds.filter fun d => t d && !d.isRem).flatMap fun d => d.regs.map fun x => (x.2.1, x.2.2.1, x.2.2.2)

/-- The SP.ACC check at issue (10 R258): the local descriptor whose slot fails; a slot still opening is no failure (10 R270). -/
def State.accIssue (s : State) (die : Nat) (i : Inst) : Option Desc :=
  (i.img.instrs.filter (wordOp · == 0xB2)).findSome? fun w =>
    let f := wordFields w
    let d := at' {} i.img.descs (f.imm.toNat >>> 24)
    let sl := s.slot die d.slot
    if (sl.state = .free ∧ sl.opening.isNone) ∨ sl.role ≠ .contributor ∨ sl.job ≠ i.job ∨ sl.remoteSlot ≠ f.imm.toNat % 4096 then some d
    else none

/-- A reduction buffer an instance accumulates into is not open for its step: it is held (10 R247, R270). A replay may find the slot past
OPEN, as its accumulations and ranges may be done (10 R248); each accumulation that is not is checked when it executes. -/
def State.redHeld (s : State) (die : Nat) (i : Inst) (d : Desc) : Bool :=
  let sl := s.slot die d.slot
  d.isRed && !d.isRem && (sl.step != i.step || sl.state == .free || (i.replayOf.isNone && sl.state != .opened))

/-- An input of a replay is no longer the entry its journal recorded: freed since, so the journal refers to it no more (12 R312).
DESIGN CHOICE: such a replay is held; the spec does not say what becomes of it (log 25). -/
def State.inputGone (s : State) (die : Nat) (i : Inst) : Bool :=
  (i.gens.getD []).any fun g => !(s.bay die g.1).seals.any fun e => e.start == g.2.1 && e.gen == g.2.2 && e.state == .dry

/-- A bay is one of a whole-layer shard's while a slot of that shard is UPDATING: user strokes are held there (11 R301). -/
def State.orthoHeld (s : State) (die bay : Nat) : Bool :=
  match s.logical die bay with
  | some l => (s.die die).shards.any fun h => h.2.whole && h.2.bays.contains l &&
      (s.die die).slots.any fun x => x.2.role != .contributor && x.2.shard == h.1 && x.2.state == .updating
  | none => false

/-- Every check made when an instance is issued to a physical bay: the room of the slots, the power of its group, then 10 R258,
05 R133, 09 R236, 10 R270, 04 R100, 08 R210, 11 R301, 20 R475 and 07 R179. A stroke run again for a damaged output finds its own
destinations wet (12 R316). -/
def State.issueCheck (s : State) (die bay : Nat) (i : Inst) : IssueCheck :=
  let x := s.bay die bay
  let ds := i.img.descs.map (s.resolveDesc die bay)
  let ins := rangesOf ds (·.isIn)
  let outs := rangesOf ds fun d => d.isDst || d.isScr
  let bounce := fun (e : SealEnt) => match e.owner with | .bounce _ => e.state == .wet | _ => false
  let own := fun (e : SealEnt) => match e.owner with | .stroke k => e.state == .wet && i.rerun == some k | _ => false
  let hits := outs.flatMap fun o => ((s.bay die o.1).entsAt o.2.1 o.2.2).filter fun e => !own e
  let dead := outs.find? fun o => ((s.bay die o.1).entsAt o.2.1 o.2.2).any fun e => !bounce e && !own e
  match s.accIssue die i with
  | some d => .malformed d.base (some d)
  | none =>
    if !s.domOn die (bgDom (groupOf bay)) ∨ s.orthoHeld die bay then .held
    else if ins.any (fun r => !(s.bay die r.1).readable r.2.1 r.2.2 || (s.bay die r.1).readersFull r.2.1 r.2.2) then .held
    else if s.inputGone die i then .held
    else if ds.any (s.redHeld die i) then .held
    else match dead with
      | some o => .malformed (sramDpa die o.1 o.2.1) none
      | none =>
        if !hits.isEmpty then .held
        else if outs.any (fun o => decide (1024 < ((s.bay die o.1).seals.filter (·.state != .free)).length +
            (outs.filter (·.1 == o.1)).length)) then .held
        else if i.img.uses statWriters && x.slots.any (fun r => r.inst.img.uses statReaders) then .held
        else match palIssue s.mem x ds with
          | .error d => .malformed d.chunkBase (some d)
          | .ok fills => .go fills

/-- Issues an instance: the next sequence number, its slot with fresh registers, its inputs counted, its destinations wet, its
journal entry and its palette fills (04 R97, R100, R101; 05 R133; 12 R311, R313). -/
def State.issueTo (s : State) (die bay : Nat) (i : Inst) (fills : List (Nat × List Byte)) : State :=
  let x := s.bay die bay
  let seq := x.nextSeq
  let ds := i.img.descs.map (s.resolveDesc die bay)
  let ins := rangesOf ds (·.isIn)
  let outs := rangesOf ds fun d => d.isDst || d.isScr
  let inputs := s.readEnts die ins
  let run : Running := { inst := i, descs := ds, seq := seq, inputs := inputs, accDone := i.accDone,
                         wet := outs.map fun o => (o.1, o.2.1) }
  let s := s.addReaders die inputs
  let s : State := match i.rerun with
    | some k => s.modSealsDie die (fun e => e.state == .wet && e.owner == .stroke k) fun e => { e with owner := .stroke (seq * 256 + bay) }
    | none => outs.foldl (fun (s : State) (o : Nat × Nat × Nat) => s.modBay die o.1 fun z => z.register o.2.1 o.2.2 .wet (.stroke (seq * 256 + bay))) s
  s.modBay die bay fun x =>
    let j : JEntry := { seq := seq, inst := i, inputs := inputs, dests := run.wet, accDone := i.accDone,
                        state := if i.replayOf.isSome then .replaying else .issued }
    let journal := (x.journal ++ [j]).drop (x.journal.length + 1 - 64)
    { x.want seq fills with
      slots := x.slots ++ [run]
      nextSeq := (seq + 1) % 2 ^ 32
      journal := journal
      recs := x.recs.filter fun c => journal.any fun e => e.seq == c.1
      retireAt := x.retireAt.map fun y => if some y.1 = i.replayOf then (seq, y.2) else y }

/-- A malformed instance is not issued; the bay context freezes (05 R133, 09 R236, 10 R258; 12 R328). -/
def State.freezeIssue (s : State) (die bay : Nat) (i : Inst) (addr : Nat) (d : Option Desc) : State :=
  s.freeze ⟨masterWord 1 die bay, i.job, stMalformed, 0, addr, 0, 0, zeros 8 ++ sub ((d.map (·.raw)).getD []) 0 24⟩

/-- STROKE_ISSUE: the first queued instance of a bay takes a free sequencer slot (05 R133; 04 R105). Replays go first
(12 R313). -/
def execStrokeIssue (b : BayRef) (s : State) : Outcome :=
  .next (
    let x := s.bay b.die b.bay
    match x.queue with
    | [] => s
    | i :: rest =>
      if !s.bayLive b ∨ !s.slotFree b ∨ x.replays ≠ [] ∨ (s.logical b.die b.bay).isNone then s
      else match s.issueCheck b.die b.bay i with
        | .held => s
        | .malformed a d => s.freezeIssue b.die b.bay i a d
        | .go fills => (s.modBay b.die b.bay fun x => { x with queue := rest }).issueTo b.die b.bay i fills)

/-! ### Seal -/

/-- The SP.ACC requests of a stroke have all been sent, or their slot was dropped (10 R256). -/
def State.accSent (s : State) (b : BayRef) (r : Running) : Bool :=
  (s.slotsOfToken b.die (strokeToken b.die b.bay r.seq)).all fun n =>
    let sl := s.slot b.die n
    sl.state != .released || (sl.grantedC && sl.sendQ.isEmpty)

/-- The stroke's instructions have all completed, its comparisons agreed (04 R104). -/
def State.sealable (s : State) (b : BayRef) (r : Running) : Bool :=
  r.issued && !r.frozen && s.drained b r && (s.spReqs b r.seq).isEmpty && s.accSent b r

/-- The completion record of a sealed stroke (05 R131). -/
def State.recordOf (s : State) (b : BayRef) (r : Running) (cycles : Nat) : Completion :=
  { seq := r.seq, tag := r.tag, outcome := r.inst.outcome, cycles := min cycles (2 ^ 32 - 1), die := b.die,
    lbay := (s.logical b.die b.bay).getD 0xFF, pbay := b.bay, exc := r.exc, strictFlags := r.strictFlags, sums := r.sums,
    work := r.inst.img.work,
    hists := (List.range r.descs.length).filterMap fun i =>
      if (r.desc i).isHist then some (mgetD Hist.empty r.hists i) else none }

/-- A run takes a sealed instance: its record, and the releases that waited for it (05 R105, R136, R138). -/
def Run.instSealed (g : Run) (iid : Nat) (c : Completion) : Run :=
  { g with
    openInsts := g.openInsts.filter (· != iid)
    recs := (mset g.recs iid c).filter fun x => g.issues.any fun y => y.2.any fun z => z.2 == x.1
    releases := g.releases.map fun x => (x.1, x.2.filter (· != iid)) }

/-- The 128 B and histogram records of a completion record (05 R131; 03 R82). -/
def Completion.bytes (c : Completion) : List Byte :=
  let sums := c.sums.zipIdx
  pack [(4, c.seq), (2, c.tag), (2, c.outcome), (4, c.cycles), (1, c.die), (1, c.lbay), (1, c.pbay), (1, 0)] ++
  pack ((List.range 4).map fun i => (4, at' 0 c.exc i)) ++
  pack [(4, c.strictFlags), (2, sums.foldl (fun a x => a + b2n x.1.isSome * 2 ^ x.2) 0), (2, c.hists.length),
    (4, sums.foldl (fun a x => a + ((x.1.map (·.type)).getD 0) * 4 ^ x.2) 0), (4, c.work)] ++
  pack (c.sums.map fun x => (4, (x.map (·.value)).getD 0)) ++ zeros 16 ++ c.hists.flatMap (·.bytes)

/-- Seals a stroke: its destinations dry, its inputs released, its wet-source targets and its contributions sealed, its record and
summaries delivered; a bay found faulty by arbitration is then retired (04 R97, R100, R105; 05 R126, R127, R131; 10 R257; 12 R309). -/
def State.sealStroke (s : State) (b : BayRef) (r : Running) (cycles : Nat) : State :=
  let tok := strokeToken b.die b.bay r.seq
  let c := s.recordOf b r cycles
  let s := s.dropReaders b.die r.inputs
  let s := s.modSealsDie b.die (fun e => e.state == .wet && e.owner == .stroke (r.seq * 256 + b.bay)) SealEnt.dried
  let s := s.modSealsDie b.die (fun e => e.state == .wet && e.owner == .wetSource tok) SealEnt.dried
  let s := s.srcTokens b r 0x14
  let s := s.modBay b.die b.bay fun x =>
    let x := x.modJournal r.seq fun e => { e with state := .wasSealed, accDone := r.accDone }
    { x with slots := x.slots.filter (·.seq != r.seq), recs := mset x.recs r.seq c }
  let s := s.modDie b.die fun d => { d with runs := mmod d.runs r.inst.run fun g => g.instSealed r.inst.iid c }
  let s := (s.slotsOfToken b.die tok).foldl (fun s n =>
    (s.modSlot b.die n fun sl => { sl with wantRelease := true }).trySeal b.die n) s
  match (s.bay b.die b.bay).retireAt with
  | some (q, a) => if q = r.seq then
      s.retireBay b.die b.bay 3 (if (s.bay b.die a).cond = .lent then some a else none) else s
  | none => s

/-- STROKE_SEAL: the first stroke of a bay whose instructions have completed seals (04 R104, R105). -/
def execStrokeSeal (b : BayRef) (cycles : Nat) (s : State) : Outcome :=
  .next (match (s.bay b.die b.bay).slots.find? (s.sealable b) with
    | none => s
    | some r => if !s.bayLive b then s else s.sealStroke b r cycles)

/-! ### Palette fills -/

/-- Changes a palette slot. -/
def Bay.modPal (x : Bay) (n : Nat) (f : PalSlot → PalSlot) : Bay := { x with pal := setAt x.pal n (f (at' {} x.pal n)) }

/-- The stroke names a palette slot in a compressed descriptor. -/
def Running.names (r : Running) (slot : Nat) : Bool := r.descs.any fun d => d.compressed && d.pslot == slot

/-- PALETTE_FILL_START: the first fill asked for of a slot starts once no chunk names the slot and no stroke ahead of the one that
asked names it and may still issue (09 R238). -/
def execPaletteFillStart (b : BayRef) (slot : Nat) (s : State) : Outcome :=
  .next (
    let x := s.bay b.die b.bay
    let p := at' {} x.pal slot
    match p.wants.head? with
    | none => s
    | some w =>
      if !s.bayLive b ∨ 4 ≤ slot ∨ p.filling ∨ p.refcount ≠ 0 ∨
          (x.slots.takeWhile (·.seq != w.1)).any (fun r => r.names slot && !r.issued) then s
      else s.modBay b.die b.bay (·.modPal slot fun p => { p with filling := true }))

/-- PALETTE_FILL_DONE: the fill under way ends and the slot is valid with its new table (09 R235, R238). -/
def execPaletteFillDone (b : BayRef) (slot : Nat) (s : State) : Outcome :=
  .next (
    let p := at' {} (s.bay b.die b.bay).pal slot
    match p.wants.head? with
    | none => s
    | some w =>
      if !s.bayLive b ∨ !p.filling then s
      else (s.modBay b.die b.bay (·.modPal slot fun p =>
        { p with image := w.2, valid := true, filling := false, fills := (p.fills + 1) % 2 ^ 32, wants := p.wants.drop 1 })).wrote
          (bayDpa 2 b.die b.bay (0x100 * slot)) 0x100)

/-! ### Release -/

/-- SEAL_ENTRY_RELEASE: a dry entry that FREE or MEM-FREE has named becomes free when it has no reader (04 R97, R100; 12 R312); a gather that waits for the range is asked for (14 R372). -/
def execSealEntryRelease (b : BayRef) (start : Nat) (s : State) : Outcome :=
  .next (if s.live then (s.modBay b.die b.bay fun x =>
      x.modSeals (fun e => e.start == start && e.state == .dry && e.release && e.readers == 0) SealEnt.freed).gatherRetry
    else s)

end Sys2Proof.Machine
end

