-- ==== Sys2Proof/Machine/Graph.lean ====
section
/-! DEFINITION. Graph programs: the image's checks, operands, and what each node kind does (05 R136 to R143, R504, R505). -/

namespace Sys2Proof.Machine

open Sys2Proof

/-! ### The image (05 R137, R138, R139, R142) -/

/-- Parses a node. -/
def parseNode (bs : List Byte) : GNode :=
  { kind := fld bs 0 1, flags := fld bs 1 1, p0 := fld bs 4 4, p1 := fld bs 8 4, p2 := fld bs 0xC 4,
    ops := (List.range 8).map fun i => fld bs (0x10 + 4 * i) 4 }

/-- A node of an image by index. -/
def nodeAt (ns : List GNode) (i : Nat) : GNode := at' ⟨0, 0, 0, 0, 0, []⟩ ns i

/-- The node is a STROKE node. -/
def isStrokeNode (ns : List GNode) (i : Nat) : Bool := decide (i < ns.length) && (nodeAt ns i).kind == 1

/-- The image, first logical bay and bay count of a STROKE node. -/
def GNode.range (g : GNode) : Nat × Nat × Nat := (g.p0 % 65536, g.p0 >>> 16 % 256, g.p0 >>> 24 % 128 + 1)

/-- An operand word is well formed (05 R137, R138). -/
def operandOk (ns : List GNode) (consts w : Nat) : Bool :=
  let v := w % 2 ^ 28
  match w >>> 28 with
  | 0 => v == 0
  | 1 => decide (v < consts)
  | 2 => decide (v ≤ 15)
  | 3 => decide (v ≤ 7)
  | 4 => v == 0
  | 5 => !v.testBit 7 && isStrokeNode ns (v >>> 14) && decide (v % 128 < (nodeAt ns (v >>> 14)).range.2.2)
  | 6 => v == 0
  | 7 => v == 0
  | _ => false

/-- Operands a kind reads (05 R138). -/
def opsOf (kind : Nat) : Nat := match kind with | 1 => 8 | 2 => 1 | 4 => 2 | 5 => 2 | 7 => 4 | _ => 0

/-- The first field of a node that is not as 05 R137 to R139 require, as status and offset within the node. -/
def nodeFault (ns : List GNode) (consts dies : Nat) (g : GNode) : Option (Nat × Nat) :=
  let n := ns.length
  let known := (decide (1 ≤ g.kind ∧ g.kind ≤ 10)) || g.kind == 15
  let flagsOk := decide (g.flags ≤ b2n (g.kind == 1))
  let ok0 := match g.kind with
    | 1 => decide (g.p0 < 2 ^ 31)
    | 3 => decide (g.p0 < n) && (nodeAt ns g.p0).kind == 2
    | 4 => decide (g.p0 < 64) && !g.p0.testBit 3 && decide (g.p0 >>> 4 < 3) && (g.p0 % 8 != 7 || g.p0 >>> 4 == 2)
    | 5 => decide (g.p0 < 128 ∧ g.p0 >>> 4 ≤ 4)
    | 6 => decide (g.p0 ≤ 3)
    | 7 => decide (g.p0 ≤ 1)
    | 9 => decide (g.p0 < 4096)
    | 10 => isStrokeNode ns g.p0
    | _ => g.p0 == 0
  let ok1 := match g.kind with
    | 2 => decide (g.p1 < n) && (nodeAt ns g.p1).kind == 3
    | 4 => decide (g.p1 < n)
    | 6 => if g.p0 = 2 then decide (g.p1 < 4096) else if g.p0 = 3 then decide (g.p1 < 65536) else g.p1 == 0
    | 7 => decide (g.p1 < 65536)
    | 10 => decide (g.p1 < 256)
    | _ => g.p1 == 0
  let ok2 := g.p2 == 0 || (g.kind == 7 && g.p0 == 1)
  let opOk := fun i =>
    let w := at' 0 g.ops i
    if g.kind = 6 ∧ g.p0 = 1 ∧ i = 0 then isStrokeNode ns w
    else if i < opsOf g.kind then operandOk ns consts w else w == 0
  if !known then some (stMalformed, 0)
  else if !flagsOk then some (stMalformed, 1)
  else if !ok0 then some (stMalformed, 4)
  else if !ok1 then some (stMalformed, 8)
  else if !ok2 then some (stMalformed, 0xC)
  else match (List.range 8).find? fun i => !opOk i with
    | some i => some (stMalformed, 0x10 + 4 * i)
    | none =>
      if g.kind = 7 ∧ dies ≤ g.p2 then some (stRange, 0xC)
      else if g.kind = 1 ∧ 128 < g.range.2.1 + g.range.2.2 then some (stRange, 4)
      else none

/-- LOOP and END_LOOP pair and nest at most 8 deep: the node where they do not (05 R142). -/
def loopFault (ns : List GNode) : Option Nat :=
  let r := ns.zipIdx.foldl (fun (a : Option Nat × List Nat) (x : GNode × Nat) =>
    match a.1 with
    | some _ => a
    | none =>
      if x.1.kind = 2 then (if a.2.length = 8 then (some x.2, a.2) else (none, x.2 :: a.2))
      else if x.1.kind = 3 then
        match a.2 with
        | l :: rest => if l = x.1.p0 ∧ (nodeAt ns l).p1 = x.2 then (none, rest) else (some x.2, a.2)
        | [] => (some x.2, [])
      else a) (none, [])
  match r.1 with
  | some i => some i
  | none => r.2.head?

/-- The distinct stroke images that a graph names. -/
def strokeRefs (ns : List GNode) : List Nat := ((ns.filter (·.kind == 1)).map (·.range.1)).dedup

/-- A FREE node against the images loaded: its byte offset in the image where it is refused (05 R138, R142). -/
def freeFault (images : SMap Image) (ns : List GNode) : Option Nat :=
  (ns.zipIdx.find? fun x => x.1.kind == 10 && match mget images (nodeAt ns x.1.p0).range.1 with
    | none => false
    | some i => decide (i.descs.length ≤ x.1.p1) || (let d := at' {} i.descs x.1.p1; d.isRem || d.isRed)).map fun x => 32 + 64 * x.2 + 8

/-- Loads a graph image (05 R142). Offsets are within the image. -/
def loadGraph (dies : Nat) (images : SMap Image) (job : Nat) (bs : List Byte) : Chk Graph := do
  let n := fld bs 6 2
  let nc := fld bs 8 2
  need (decide (32 ≤ bs.length)) 0
  need (fld bs 0 4 == 0x48505247) 0
  need (fld bs 4 2 == 1) 4
  need (decide (1 ≤ n ∧ n ≤ 16384)) 6
  need (decide (nc ≤ 1024)) 8
  need (zeroAt bs 0xA 2) 0xA
  need (zeroAt bs 0x10 16) 0x10
  need (bs.length == 32 + 64 * n + 4 * nc) 6
  let raws := (List.range n).map fun i => sub bs (32 + 64 * i) 64
  let ns := raws.map parseNode
  raws.zipIdx.forM fun (x : List Byte × Nat) => do
    need (zeroAt x.1 2 2) (32 + 64 * x.2 + 2)
    need (zeroAt x.1 0x30 16) (32 + 64 * x.2 + 0x30)
    match nodeFault ns nc dies (parseNode x.1) with
    | some (st, o) => .error (st, 32 + 64 * x.2 + o)
    | none => .ok ()
  match loopFault ns with
  | some i => .error (stMalformed, 32 + 64 * i + 4)
  | none =>
    need (fld bs 0xC 4 == (strokeRefs ns).length) 0xC
    match freeFault images ns with
    | some o => .error (stMalformed, o)
    | none => pure { nodes := ns, consts := (List.range nc).map fun i => fld bs (32 + 64 * n + 4 * i) 4, job := job }

/-! ### Runs -/


/-- The nodes of a run's graph. -/
def State.nodes (s : State) (die r : Nat) : List GNode := (mgetD {} (s.die die).graphs (s.run die r).graph).nodes
/-- The node a run is at. -/
def State.node (s : State) (die r : Nat) : GNode := nodeAt (s.nodes die r) (s.run die r).node

/-- The run is executing nodes. -/
def Run.active (g : Run) : Bool := g.state == .running || g.state == .waiting


/-- Control goes to a node; past the last one the graph halts (05 R505). -/
def State.goto (s : State) (die r n : Nat) : State :=
  let s := s.modRun die r fun g => { g with node := n, state := .running, held := false, waitSlot := none }
  if n < (s.nodes die r).length then s else s.haltRun die r stRange

/-- Control goes to the next node. -/
def State.nextNode (s : State) (die r : Nat) : State := s.goto die r ((s.run die r).node + 1)

/-- The run waits at its node. -/
def State.waitRun (s : State) (die r : Nat) (held : Bool) : State := s.modRun die r fun g => { g with state := .waiting, held := held }

/-! ### Operands (05 R137) -/

/-- What reading operands gives: a value, a wait, or a halt with a status. -/
abbrev Opnd := Except (Option Nat)

/-- The nesting level of the LOOP at a node, outermost 0. -/
def loopLevel (ns : List GNode) (i : Nat) : Nat :=
  ((ns.take i).filter fun g => g.kind == 2 && decide (i < g.p1)).length

/-- The value of a summary word and its type as an ordering key; none for NaN. -/
def sumLt (type : Nat) (a b : Word) : Bool := match type with | 2 => flt a b | 1 => decide (a.toInt < b.toInt) | _ => decide (a.toNat < b.toNat)

/-- Combines the values of a node's instances (05 R137). -/
def combine (comb type : Nat) (vs : List Word) (inst : Nat) : Word :=
  match comb with
  | 0 => at' 0 vs inst
  | 3 => if vs.any fun v => !(if type = 2 then isZero v else v == 0#32) then 1#32 else 0#32
  | _ =>
    if type = 2 ∧ vs.any isNaN then qNaN
    else vs.tail.foldl (fun a v => if (if comb = 1 then sumLt type a v else sumLt type v a) then v else a) (vs.headD 0)

/-- A summary operand. -/
def State.summary (s : State) (die r v : Nat) : Opnd Nat :=
  let g := s.run die r
  match mget g.issues (v >>> 14) with
  | none => .error (some stNoObject)
  | some is =>
    let recs := is.map fun i => mget g.recs i.2
    if recs.any (·.isNone) then .error none
    else
      let sl := recs.map fun c => (c.bind fun c => at' none c.sums (v >>> 10 % 16)).getD ⟨0, 0⟩
      .ok (combine (v >>> 8 % 4) ((sl.headD ⟨0, 0⟩).type) (sl.map fun x => BitVec.ofNat 32 x.value) (v % 128)).toNat

/-- The job's current outer round, low 32 bits (05 R137; 15 R398). -/
def State.outerRound (s : State) (job : Nat) : Nat :=
  match (mgetD {} s.jobs job).outer with
  | some o => if o.period = 0 then 0 else s.part.tai / (o.period * 1000000) % 2 ^ 32
  | none => 0

/-- An operand's value; `fan` is the instance's index. -/
def State.operand (s : State) (die r w fan : Nat) : Opnd Nat :=
  let g := s.run die r
  let v := w % 2 ^ 28
  match w >>> 28 with
  | 1 => .ok (at' 0 (mgetD {} (s.die die).graphs g.graph).consts v)
  | 2 => .ok (at' 0 g.counters v)
  | 3 => .ok (((g.loops.find? fun l => loopLevel (s.nodes die r) l.node == v).map (·.index)).getD 0)
  | 4 => .ok fan
  | 5 => s.summary die r v
  | 6 => .ok g.step
  | 7 => .ok (s.outerRound g.job)
  | _ => .ok 0

/-- A node's operand. -/
def State.op (s : State) (die r i : Nat) : Opnd Nat := s.operand die r (at' 0 (s.node die r).ops i) 0

/-- A graph event: the run executes nodes, its node is of the kind, and no hold is in progress. Operands not yet there make it
wait; a halt raises EV_GRAPH_FAULT. -/
def State.nodeStep (s : State) (die r kind : Nat) (f : State → Opnd State) : State :=
  let g := s.run die r
  if !s.live ∨ !(mget (s.die die).runs r).isSome ∨ !g.active ∨ g.held ∨ (s.node die r).kind ≠ kind ∨ !s.domOn die 1 then s
  else match f s with
    | .ok s => s
    | .error none => s.waitRun die r false
    | .error (some st) => s.haltRun die r st

/-! ### STROKE (05 R134, R136, R141) -/

/-- An argument list an image accepts (05 R135, R501). DESIGN CHOICE: arg_max binds the arguments that the header declares by arg_count; the
spec does not say whether it binds those numbered above it (log 28). -/
def Image.argsOk (i : Image) (args : List Nat) : Bool :=
  ((List.range i.argCount).all fun k => decide (at' 0 args k ≤ at' 0 i.argMax k)) &&
  i.shapeArgs.all fun k =>
    let a := at' 0 args k
    let m := at' 0 i.argMax k
    decide (a >>> 26 ≤ m >>> 26 ∧ a >>> 20 % 64 ≤ m >>> 20 % 64 ∧ a % 2 ^ 20 ≤ m % 2 ^ 20)


/-- The arguments of every instance of a STROKE node. -/
def State.strokeArgs (s : State) (die r : Nat) (ops : List Nat) (n : Nat) : Opnd (List (List Nat)) :=
  (List.range n).mapM fun fan => ops.mapM fun w => s.operand die r w fan

/-- Issues the instances of a STROKE node to the queues of their bays. -/
def State.issueNode (s : State) (die r : Nat) (img : Image) (argss : List (List Nat)) : State :=
  let g := s.run die r
  let nd := s.node die r
  let (im, first, n) := nd.range
  let insts := argss.zipIdx.map fun (x : List Nat × Nat) =>
    (first + x.2, ({ iid := g.nextIid + x.2, run := r, node := g.node, fan := x.2, job := g.job, step := g.step, image := im,
                     img := img, args := x.1 } : Inst))
  let s := insts.foldl (fun (s : State) x => s.modBay die (s.phys die x.1) fun b => { b with queue := b.queue ++ [x.2] }) s
  s.modRun die r fun g =>
    let issues := mset g.issues g.node (insts.map fun x => (x.1, x.2.iid))
    { g with
      issues := issues
      openInsts := g.openInsts ++ insts.map (·.2.iid)
      nextIid := g.nextIid + n
      recs := g.recs.filter fun c => issues.any fun y => y.2.any fun z => z.2 == c.1 }

/-- GRAPH_STROKE: issues one instance to each bay of the range once each has a place (05 R138, R141). -/
def execGraphStroke (die run : Nat) (s : State) : Outcome :=
  .next (s.nodeStep die run 1 fun s =>
    let nd := s.node die run
    let (im, first, n) := nd.range
    match mget (s.die die).images im with
    | none => .error (some stNoObject)
    | some img =>
      match s.strokeArgs die run nd.ops n with
      | .error e => .error e
      | .ok argss =>
        if argss.any fun a => !img.argsOk a then
          .ok ((s.countRefusal die 5 1).haltRun die run stLimit)
        else if (List.range n).any fun k => decide (16 ≤ (s.bay die (s.phys die (first + k))).queue.length) then .error none
        else
          let s := s.issueNode die run img argss
          .ok (if nd.flags = 1 then s.waitRun die run true else s.nextNode die run))

/-! ### Control (05 R138, R139, R505) -/

/-- GRAPH_LOOP (05 R138, R505). -/
def execGraphLoop (die run : Nat) (s : State) : Outcome :=
  .next (s.nodeStep die run 2 fun s =>
    match s.op die run 0 with
    | .error e => .error e
    | .ok c =>
      if c = 0 then .ok (s.goto die run ((s.node die run).p1 + 1))
      else .ok ((s.modRun die run fun g => { g with loops := g.loops ++ [⟨g.node, c, 0⟩] }).nextNode die run))

/-- GRAPH_END_LOOP (05 R138, R505). -/
def execGraphEndLoop (die run : Nat) (s : State) : Outcome :=
  .next (s.nodeStep die run 3 fun s =>
    let lp := (s.node die run).p0
    match (s.run die run).loops.find? (·.node == lp) with
    | none => .ok (s.nextNode die run)
    | some l =>
      if l.index + 1 < l.count then
        .ok ((s.modRun die run fun g =>
          { g with loops := g.loops.map fun x => if x.node = lp then { x with index := x.index + 1 } else x }).goto die run (lp + 1))
      else .ok ((s.modRun die run fun g => { g with loops := g.loops.filter (·.node != lp) }).nextNode die run))

/-- A branch condition under a type (05 R139). -/
def branchHolds (cond type : Nat) (a b : Word) : Bool :=
  match cond with
  | 6 => true
  | 7 => isNaN a || isInf a
  | _ =>
    if type = 2 ∧ (isNaN a || isNaN b) then cond == 1
    else
      let lt := sumLt type a b
      let eq := if type = 2 then feq a b else a == b
      match cond with
      | 0 => eq
      | 1 => !eq
      | 2 => lt
      | 3 => lt || eq
      | 4 => !lt && !eq
      | _ => !lt

/-- Control goes to a branch target: the state of every kept loop whose body does not hold it is dropped (05 R505). -/
def State.branchTo (s : State) (die r t : Nat) : State :=
  let ns := s.nodes die r
  (s.modRun die r fun g => { g with loops := g.loops.filter fun l => decide (l.node < t ∧ t ≤ (nodeAt ns l.node).p1) }).goto die r t

/-- GRAPH_BRANCH (05 R138, R139). -/
def execGraphBranch (die run : Nat) (s : State) : Outcome :=
  .next (s.nodeStep die run 4 fun s =>
    let nd := s.node die run
    let cond := nd.p0 % 8
    let a : Opnd Nat := if cond = 6 then .ok 0 else s.op die run 0
    let b : Opnd Nat := if cond = 6 ∨ cond = 7 then .ok 0 else s.op die run 1
    match a, b with
    | .ok a, .ok b =>
      if branchHolds cond (nd.p0 >>> 4 % 4) (BitVec.ofNat 32 a) (BitVec.ofNat 32 b) then .ok (s.branchTo die run nd.p1)
      else .ok (s.nextNode die run)
    | .error (some e), _ => .error (some e)
    | _, .error (some e) => .error (some e)
    | _, _ => .error none)

/-- The value of a SET node (05 R138). -/
def setVal (op a b : Nat) : Nat :=
  match op with
  | 0 => a
  | 1 => (a + b) % 2 ^ 32
  | 2 => (a + 2 ^ 32 - b) % 2 ^ 32
  | 3 => min a b
  | _ => max a b

/-- GRAPH_SET (05 R138). -/
def execGraphSet (die run : Nat) (s : State) : Outcome :=
  .next (s.nodeStep die run 5 fun s =>
    let nd := s.node die run
    match s.op die run 0, s.op die run 1 with
    | .ok a, .ok b =>
      .ok ((s.modRun die run fun g => { g with counters := setAt g.counters (nd.p0 % 16) (setVal (nd.p0 >>> 4 % 8) a b) }).nextNode die run)
    | .error (some e), _ => .error (some e)
    | _, .error (some e) => .error (some e)
    | _, _ => .error none)

/-- GRAPH_STEP (05 R138). -/
def execGraphStep (die run : Nat) (s : State) : Outcome :=
  .next (s.nodeStep die run 8 fun s => .ok ((s.modRun die run fun g => { g with step := (g.step + 1) % 2 ^ 32 }).nextNode die run))

/-! ### WAIT (05 R138, R504, R505) -/

/-- Every instance of a node's most recent issue has sealed. -/
def Run.nodeSealed (g : Run) (n : Nat) : Bool := (mgetD [] g.issues n).all fun i => !g.openInsts.contains i.2

/-- The hold of a run's node is over. -/
def State.waitMet (s : State) (die r : Nat) : Bool :=
  let g := s.run die r
  let nd := s.node die r
  if nd.kind = 1 then g.nodeSealed g.node
  else match nd.p0 with
    | 0 => g.openInsts.isEmpty
    | 1 => g.nodeSealed (at' 0 nd.ops 0)
    | 2 => match g.waitSlot with
      | some (n, step) => (s.slot die n).state == .free || (s.slot die n).step != step
      | none => true
    | _ => g.notes.any fun n => n.tag == nd.p1

/-- The hold ends: a notification wait takes the oldest entry of its tag, and control goes on. -/
def State.endWait (s : State) (die r : Nat) : State :=
  let nd := s.node die r
  let s := if nd.kind = 6 ∧ nd.p0 = 3 then
      s.modRun die r fun g => { g with notes := match g.notes.find? (fun n => n.tag == nd.p1) with
        | some n => g.notes.erase n
        | none => g.notes }
    else s
  s.nextNode die r

/-- GRAPH_WAIT: the wait begins; where its event has occurred it ends at once (05 R505). -/
def execGraphWait (die run : Nat) (s : State) : Outcome :=
  .next (s.nodeStep die run 6 fun s =>
    let nd := s.node die run
    if nd.p0 = 1 ∧ (mget (s.run die run).issues (at' 0 nd.ops 0)).isNone then .error (some stNoObject)
    else
      let w := if nd.p0 = 2 then some (nd.p1, (s.slot die nd.p1).step) else none
      let s := s.modRun die run fun g => { g with waitSlot := w }
      .ok (if s.waitMet die run then s.endWait die run else s.waitRun die run true))

/-- WAIT_EVENT_MET: a held graph goes on when its event occurs (05 R504, R505). -/
def execWaitEventMet (die run : Nat) (s : State) : Outcome :=
  .next (if s.live ∧ (s.run die run).active ∧ (s.run die run).held ∧ s.waitMet die run then s.endWait die run else s)

/-! ### NOTIFY (05 R138, R504) -/

/-- Runs of a job that are running on a die. -/
def State.jobRuns (s : State) (die job : Nat) : List Nat :=
  ((s.die die).runs.filter fun x => x.2.job == job && x.2.active).map (·.1)

/-- Every queue that must receive an entry has room. -/
def State.notifyRoom (s : State) (die job : Nat) : Bool := (s.jobRuns die job).all fun r => decide ((s.run die r).notes.length < 64)

/-- The pool of a die whose release_tag a tag is (13 R348, R352). -/
def State.poolOfTag (s : State) (die job tag : Nat) : Option Nat :=
  ((s.die die).pools.find? fun p => p.2.job == job && fld p.2.raw 0x1A 2 == tag).map (·.1)

/-- Delivers a notification to a die: to the pool whose release_tag it is, else to every queue (05 R504). -/
def State.notify (s : State) (die job tag : Nat) (vals : List Nat) : State :=
  match s.poolOfTag die job tag with
  | some p => s.modDie die fun d => { d with pools := mmod d.pools p fun q => { q with asked := q.asked ++ [vals.headD 0] } }
  | none => (s.jobRuns die job).foldl (fun s r => s.modRun die r fun g => { g with notes := g.notes ++ [⟨tag, vals⟩] }) s

/-- GRAPH_NOTIFY: an event to the host, or an entry to the graphs of the job on a die (05 R138, R504). -/
def execGraphNotify (die run : Nat) (s : State) : Outcome :=
  .next (s.nodeStep die run 7 fun s =>
    let nd := s.node die run
    let job := (s.run die run).job
    match (nd.ops.take 4).mapM fun w => s.operand die run w 0 with
    | .error e => .error e
    | .ok vals =>
      if nd.p0 = 0 then
        .ok ((s.event evGraphNotify job die 0 (pack [(1, run), (1, 0), (2, nd.p1)] ++ pack (vals.map fun v => (4, v)))).nextNode die run)
      else if (s.poolOfTag nd.p2 job nd.p1).isNone ∧ !s.notifyRoom nd.p2 job then .error none
      else .ok ((s.notify nd.p2 job nd.p1 vals).nextNode die run))

/-! ### RELEASE, FREE, END (05 R138; 10 R251, R252) -/

/-- The stroke instances of a run on a die that have not sealed. -/
def State.openOf (s : State) (die r : Nat) : List Inst :=
  (s.bays.filter fun b => b.1 / 132 == die).flatMap fun b =>
    (b.2.queue ++ b.2.replays ++ b.2.slots.map (·.inst)).filter (·.run == r)

/-- The instance's image names a reduction slot as a local buffer. -/
def Inst.namesSlot (i : Inst) (n : Nat) : Bool := i.img.descs.any fun d => d.isRed && !d.isRem && d.slot == n

/-- Releases a contributor slot: a token of the release path, every block, and the request for a grant (10 R251, R252, R256). A slot
that is not an OPEN contributor slot of the job is left as it is. -/
def State.releaseSlot (s : State) (die n job : Nat) : State :=
  let sl := s.slot die n
  if sl.role = .contributor ∧ sl.state = .opened ∧ sl.job = job then
    let seq := (s.die die).releaseSeq
    let s := s.modDie die fun d => { d with releaseSeq := (seq + 1) % 2 ^ 32 }
    let s := s.modSlot die n fun sl => { sl with
      state := .released, token := some (releaseToken die seq), ranges := [(0, 0, sl.blocks)], wantRelease := true }
    s.openReqSend die n
  else s

/-- GRAPH_RELEASE: the release takes effect once the strokes issued before it that name the slot have sealed (05 R138). -/
def execGraphRelease (die run : Nat) (s : State) : Outcome :=
  .next (s.nodeStep die run 9 fun s =>
    let n := (s.node die run).p0
    let is := ((s.openOf die run).filter (·.namesSlot n)).map (·.iid)
    let s := if is.isEmpty ∧ (s.slot die n).opening.isNone then s.releaseSlot die n (s.run die run).job
      else s.modRun die run fun g => { g with releases := g.releases ++ [(n, is)] }
    .ok (s.nextNode die run))

/-- SLOT_RELEASE_EFFECT: a pending RELEASE whose strokes have sealed takes effect (05 R138). -/
def execSlotReleaseEffect (die slot : Nat) (s : State) : Outcome :=
  .next (
    match (s.die die).runs.find? fun x => x.2.releases.contains (slot, []) with
    | none => s
    | some x =>
      if !s.live ∨ (s.slot die slot).opening.isSome then s
      else (s.modRun die x.1 fun g => { g with releases := g.releases.erase (slot, []) }).releaseSlot die slot x.2.job)

/-- The producer of an instance's entries: of the run that sealed or the one that runs (04 R97). -/
def State.producerOf (s : State) (die r : Nat) (logical iid : Nat) : Option Owner :=
  match mget (s.run die r).recs iid with
  | some c => some (.stroke (c.seq * 256 + c.pbay))
  | none =>
    let b := s.phys die logical
    ((s.bay die b).slots.find? fun x => x.inst.run == r && x.inst.iid == iid).map fun x => .stroke (x.seq * 256 + b)

/-- Names for release the entries that descriptor `i` of a node's image registered on every bay of the node's most recent issue, wet
ones too (05 R138; 04 R100). DESIGN CHOICE: where the instance of that issue is still queued, or waits to be replayed, it has registered no
entry, and FREE does nothing on its bay; the spec does not say that the release waits for it (log 28). -/
def State.freeNamed (s : State) (die run node i : Nat) : State :=
  let img := mgetD {} (s.die die).images (nodeAt (s.nodes die run) node).range.1
  let d := at' {} img.descs i
  if !(d.isDst || d.isScr) ∨ d.isRem then s else
    (mgetD [] (s.run die run).issues node).foldl (fun (s : State) i =>
      match s.producerOf die run i.1 i.2 with
      | none => s
      | some o => (s.resolveDesc die (s.phys die i.1) d).regs.foldl (fun (s : State) x => s.modBay die x.2.1 fun b =>
          b.modSeals (fun e => e.state != .free && e.owner == o && overlaps x.2.2.1 x.2.2.2 e.start e.bytes)
            fun e => { e with release := true }) s) s

/-- GRAPH_FREE (05 R138; 04 R100). -/
def execGraphFree (die run : Nat) (s : State) : Outcome :=
  .next (s.nodeStep die run 10 fun s => .ok ((s.freeNamed die run (s.node die run).p0 (s.node die run).p1).nextNode die run))

/-- GRAPH_END: with every issued stroke sealed, the graph is done (05 R138). -/
def execGraphEnd (die run : Nat) (s : State) : Outcome :=
  .next (s.nodeStep die run 15 fun s =>
    if !(s.run die run).openInsts.isEmpty then .error none
    else
      let s := s.modRun die run fun g => { g with state := .done }
      .ok (s.event evGraphDone (s.run die run).job die 0 (s.runData die run)))

end Sys2Proof.Machine
end

