-- ==== Sys2Proof/Machine/Atelier.lean ====
section
/-! DEFINITION. Atelier: segments, the demultiplexer, decoded pictures and clips, tokens, and the shuffle pool (13 R331 to R353). -/

namespace Sys2Proof.Machine

open Sys2Proof

/-! ### Streams and pools -/

/-- A stream of a die. -/
def State.stream (s : State) (die n : Nat) : Stream := mgetD {} (s.die die).streams n
/-- Changes a stream that exists. -/
def State.modStream (s : State) (die n : Nat) (f : Stream → Stream) : State :=
  s.modDie die fun d => { d with streams := mmod d.streams n f }
/-- A pool of a die. -/
def State.pool (s : State) (die p : Nat) : Pool := mgetD {} (s.die die).pools p
/-- Changes a pool that exists. -/
def State.modPool (s : State) (die p : Nat) (f : Pool → Pool) : State :=
  s.modDie die fun d => { d with pools := mmod d.pools p f }

namespace Stream

/-- container. -/
def container (x : Stream) : Nat := fld x.raw 1 1
/-- codec. -/
def codec (x : Stream) : Nat := fld x.raw 2 1
/-- flags[0]: fields separate. -/
def separate (x : Stream) : Bool := bitOf (fld x.raw 3 1) 0
/-- The host port. -/
def port (x : Stream) : Nat := b2n (bitOf (fld x.raw 3 1) 1)
/-- out_fmt. -/
def fmt (x : Stream) : Nat := fld x.raw 0x1D 1
/-- P. -/
def patch (x : Stream) : Nat := fld x.raw 0x1E 1
/-- T. -/
def tubelet (x : Stream) : Nat := fld x.raw 0x1F 1
/-- F. -/
def frames (x : Stream) : Nat := fld x.raw 0x20 1
/-- frame_step. -/
def step (x : Stream) : Nat := fld x.raw 0x21 1
/-- The pool. -/
def pool (x : Stream) : Nat := fld x.raw 0x23 1
/-- W. -/
def w (x : Stream) : Nat := fld x.raw 0x24 2
/-- H. -/
def h (x : Stream) : Nat := fld x.raw 0x26 2
/-- The audio PIDs in use. -/
def audioPids (x : Stream) : List Nat := ((List.range 4).map fun i => fld x.raw (8 + 2 * i) 2).filter (· != 0)
/-- Adds to a counter (13 R342). -/
def count (x : Stream) (i n : Nat) : Stream := { x with counters := setAt x.counters i (satAdd 32 (at' 0 x.counters i) n) }
/-- The counters as bytes. -/
def counterBytes (x : Stream) : List Byte := x.counters.flatMap (natLe 4)
/-- Tokens of a clip (13 R347). -/
def tokens (x : Stream) : Nat := x.w / x.patch * (x.h / x.patch) * (x.frames / x.tubelet)
/-- The token stride L (13 R347). -/
def tokenStride (x : Stream) : Nat :=
  let n := 3 * x.patch ^ 2 * x.tubelet
  if x.fmt = 1 then n else alignUp n 32
/-- S (13 R347). -/
def sample (x : Stream) : Nat := x.tokens * x.tokenStride

end Stream

/-- The stream acts: its die's Atelier is powered (01 R35), it exists, is not stopped or ended, and its master is not frozen. -/
def State.streamRuns (s : State) (die n : Nat) : Bool :=
  s.live && decide (die < s.dieCount) && s.domOn die 10 && (mget (s.die die).streams n).isSome && !s.isFrozen (masterWord 4 die n) &&
  ((s.stream die n).state == .running || (s.stream die n).state == .ending)

/-- Stops a stream; clips written stay (13 R338, R344). -/
def State.streamStop (s : State) (die n status pts : Nat) : State :=
  (s.modStream die n fun x => { x with state := .stopped, clips := [] }).event evStreamStop (s.stream die n).job die status
    (pack [(1, n), (3, 0), (8, pts)])

/-! ### Segments (13 R332, R335) -/

/-- SEGMENT_READ: the oldest segment is read over the stream's host port; outside the grant it freezes the stream, and a completion error
stops it. -/
def execSegmentRead (die stream : Nat) (data : Option (List Byte)) (s : State) : Outcome :=
  .next (
    let x := s.stream die stream
    match x.segs with
    | [] => s
    | g :: rest =>
      if !s.streamRuns die stream then s
      else if !s.holdsRange x.job 3 x.port g.addr g.len then
        (s.modStream die stream fun x => { x with segs := rest }).freeze
          ⟨masterWord 4 die stream, x.job, stRange, 0, g.addr, 0, 0, pack [(8, g.addr), (4, g.len), (2, g.flags), (2, 0)] ++ zeros 16⟩
      else if !(s.host x.port).usable s.ks.ideRequired then s
      else match data with
        | none => s.streamStop die stream stHostIo (x.lastPts.getD 0)
        | some bs =>
          if bs.length ≠ g.len then s
          else s.modStream die stream fun x => { x with
            segs := rest, data := if x.container = 2 then [] else x.data ++ bs, discAt := x.discAt || bitOf g.flags 1
            state := if bitOf g.flags 0 then .ending else x.state })

/-! ### The demultiplexer (13 R333, R334, R337) -/

/-- The CRC-32 of a section, most significant bit first; 0 over a section that ends with its own. -/
def crcMpeg (bs : List Byte) : Nat :=
  (bs.foldl (fun (c : Word) b => (List.range 8).foldl (fun c _ =>
    if c.getLsbD 31 then (c <<< 1) ^^^ 0x04C11DB7#32 else c <<< 1) (c ^^^ ((b.setWidth 32 : Word) <<< 24))) 0xFFFFFFFF#32).toNat

/-- A whole section with a valid CRC that is current. -/
def sectionOf (bs : List Byte) : Option (List Byte) :=
  let n := 3 + fldBe bs 1 2 % 4096
  if bs.length < 3 ∨ bs.length < n ∨ n < 12 ∨ crcMpeg (bs.take n) ≠ 0 ∨ !bitOf (fldBe bs 5 1) 0 then none else some (bs.take n)

/-- The first program of a PAT section: its program_number and the PID of its PMT. -/
def patProgram (sec : List Byte) : Option (Nat × Nat) :=
  ((List.range ((sec.length - 12) / 4)).map fun i => (fldBe sec (8 + 4 * i) 2, fldBe sec (10 + 4 * i) 2 % 8192)).find? (·.1 != 0)

/-- Some descriptor of a loop registers "AV01". -/
def hasAv01 : Nat → List Byte → Bool
  | 0, _ => false
  | k + 1, bs =>
    if bs.length < 2 then false
    else (fldBe bs 0 1 == 5 && decide (4 ≤ fldBe bs 1 1) && fldBe bs 2 4 == 0x41563031) || hasAv01 k (bs.drop (2 + fldBe bs 1 1))

/-- The PID of the first elementary stream of a codec in the stream loop of a PMT section. -/
def pmtStream (codec : Nat) : Nat → List Byte → Option Nat
  | 0, _ => none
  | k + 1, bs =>
    if bs.length < 5 then none
    else
      let n := fldBe bs 3 2 % 4096
      let ok := match codec with
        | 0 => fldBe bs 0 1 == 0x02
        | 1 => fldBe bs 0 1 == 0x1B
        | 2 => fldBe bs 0 1 == 0x24
        | _ => fldBe bs 0 1 == 0x06 && hasAv01 n ((bs.drop 5).take n)
      if ok then some (fldBe bs 1 2 % 8192) else pmtStream codec k (bs.drop (5 + n))

/-- Takes a section of the PAT or the PMT: the selected stream is found, followed, or lost (13 R333). -/
def State.psiSection (s : State) (die n pid : Nat) (sec : List Byte) : State :=
  let x := s.stream die n
  if pid = 0 then
    match fldBe sec 0 1, x.pmtPid, patProgram sec with
    | 0, none, some p => s.modStream die n fun x => { x with pmtPid := some p.2, program := p.1 }
    | _, _, _ => s
  else if fldBe sec 0 1 ≠ 2 ∨ fldBe sec 3 2 ≠ x.program then s
  else
    let v := fldBe sec 5 1 / 2 % 32
    let skip := 12 + fldBe sec 10 2 % 4096
    if x.pmtVersion = some v then s
    else match pmtStream x.codec sec.length ((sec.take (sec.length - 4)).drop skip), x.videoPid with
      | some p, _ => s.modStream die n fun x => { x with pmtVersion := some v, videoPid := some p }
      | none, some _ => s.streamStop die n stUnsupported (x.lastPts.getD 0)
      | none, none => s.modStream die n fun x => { x with pmtVersion := some v }

/-- Collects sections of a PID from a packet's payload. -/
def State.psiPacket (s : State) (die n pid : Nat) (start : Bool) (pay : List Byte) : State :=
  let x := s.stream die n
  let old := mget x.psi pid
  let try_ := fun (s : State) (bs : List Byte) => match sectionOf bs with
    | some sec => (s.psiSection die n pid sec, true)
    | none => (s, false)
  if start then
    let p := fldBe pay 0 1
    let s := match old with | some o => (try_ s (o ++ (pay.drop 1).take p)).1 | none => s
    let bs := pay.drop (1 + p)
    let (s, done) := try_ s bs
    s.modStream die n fun x => { x with psi := if done then mdel x.psi pid else mset x.psi pid bs }
  else match old with
    | some o =>
      let (s, done) := try_ s (o ++ pay)
      s.modStream die n fun x => { x with psi := if done then mdel x.psi pid else mset x.psi pid (o ++ pay) }
    | none => s

/-- A 33-bit time stamp unwrapped to the value nearest the previous one (13 R334). -/
def unwrapPts (last : Option Nat) (p : Nat) : Nat :=
  match last with
  | none => p
  | some l =>
    let d : Int := (p : Int) - (l % 2 ^ 33 : Nat)
    let d := if (2 ^ 32 : Int) ≤ d then d - 2 ^ 33 else if d < -(2 ^ 32) then d + 2 ^ 33 else d
    if (l : Int) + d < 0 then ((l : Int) + d + 2 ^ 33).toNat else ((l : Int) + d).toNat

/-- The PTS of a PES packet, if it has one. -/
def pesPts (bs : List Byte) : Option Nat :=
  if bitOf (fldBe bs 7 1) 7 then
    some (bitsOf (fldBe bs 9 1) 3 1 <<< 30 + fldBe bs 10 1 <<< 22 + (fldBe bs 11 1 / 2) <<< 15 + fldBe bs 12 1 <<< 7 + fldBe bs 13 1 / 2)
  else none

/-- A whole audio PES packet: its payload becomes a record of the audio buffer, or is dropped (13 R337). -/
def State.audioRecord (s : State) (die n pid : Nat) (pes : List Byte) : State :=
  let x := s.stream die n
  if x.audioBase = 0 ∨ pes.length < 9 then s
  else
    let pay := pes.drop (9 + fldBe pes 8 1)
    let pts := match pesPts pes, mget x.audioPts pid with
      | some p, l => unwrapPts l p
      | none, some l => l
      | none, none => (Config.noAudioPts pid).toNat
    let s := if (pesPts pes).isSome then s.modStream die n fun x => { x with audioPts := mset x.audioPts pid pts } else s
    let rec_ := pack [(2, pid), (2, 0), (4, pay.length), (8, pts)] ++ pay ++ zeros (alignUp pay.length 16 - pay.length)
    if x.audioPos + rec_.length ≤ x.audioBytes then
      (s.hostWrite x.port (x.audioBase + x.audioPos) rec_).modStream die n fun x => { x with audioPos := x.audioPos + rec_.length }
    else
      let s := s.modStream die n fun x => { x.count 7 1 with audioFull := true }
      if x.audioFull then s else s.event evAudioFull x.job die 0 (natLe 1 n)

/-- Collects an audio PES packet. -/
def State.audioPacket (s : State) (die n pid : Nat) (start : Bool) (pay : List Byte) : State :=
  let x := s.stream die n
  let old := mget x.audio pid
  let s := match start, old with
    | true, some o => if fldBe o 4 2 = 0 then s.audioRecord die n pid o else s
    | _, _ => s
  let cur := if start then some pay else old.map (· ++ pay)
  match cur with
  | none => s
  | some bs =>
    if 6 ≤ bs.length ∧ fldBe bs 4 2 ≠ 0 ∧ 6 + fldBe bs 4 2 ≤ bs.length then
      (s.audioRecord die n pid (bs.take (6 + fldBe bs 4 2))).modStream die n fun x => { x with audio := mdel x.audio pid }
    else s.modStream die n fun x => { x with audio := mset x.audio pid bs }

/-- The PID whose pictures the stream decodes. -/
def Stream.vpid (x : Stream) : Option Nat := if fld x.raw 6 2 = 0x1FFF then x.videoPid else some (fld x.raw 6 2)

/-- One 188 B packet (13 R333, R335). -/
def State.tsPacket (s : State) (die n : Nat) (pkt : List Byte) : State :=
  let x := s.stream die n
  let pid := fldBe pkt 1 2 % 8192
  let b3 := fldBe pkt 3 1
  let start := bitOf (fldBe pkt 1 1) 6
  let video := x.vpid == some pid
  let audio := x.audioPids.contains pid
  let lose := fun (s : State) => s.modStream die n fun x =>
    if video then { x with damagedNext := true } else if audio then { x with audio := mdel x.audio pid } else x
  if bitOf (fldBe pkt 1 1) 7 ∨ bitsOf b3 7 6 ≠ 0 then lose s
  else
    let alen := if bitOf b3 5 then fldBe pkt 4 1 + 1 else 0
    let pay := if bitOf b3 4 then pkt.drop (4 + alen) else []
    let disc := bitOf b3 5 && decide (1 < alen) && bitOf (fldBe pkt 5 1) 7
    let s := if disc && video then s.modStream die n fun x => { x with discAt := true } else s
    if pid = 0 ∨ (x.pmtPid = some pid ∧ fld x.raw 6 2 = 0x1FFF) then
      if fld x.raw 6 2 = 0x1FFF ∧ !pay.isEmpty then s.psiPacket die n pid start pay else s
    else if !(video || audio) ∨ !bitOf b3 4 then s
    else
      let cc := b3 % 16
      match mget x.cc pid with
      | some l =>
        if cc = l ∧ !disc then s
        else
          let s := if cc ≠ (l + 1) % 16 ∧ !disc then lose s else s
          let s := s.modStream die n fun x => { x with cc := mset x.cc pid cc }
          if audio then s.audioPacket die n pid start pay else s
      | none =>
        let s := s.modStream die n fun x => { x with cc := mset x.cc pid cc }
        if audio then s.audioPacket die n pid start pay else s

/-- TS_PACKET: the demultiplexer takes the next packet, or skips to the next three sync bytes at packet spacing (13 R333). -/
def execTsPacket (die stream : Nat) (s : State) : Outcome :=
  .next (
    let x := s.stream die stream
    let off := if x.container = 1 then 4 else 0
    let size := 188 + off
    if !s.streamRuns die stream ∨ x.container = 2 ∨ x.data.length < size then s
    else if fldBe x.data off 1 = 0x47 then
      (s.tsPacket die stream ((x.data.drop off).take 188)).modStream die stream fun y => { y with data := y.data.drop size }
    else
      let last := x.data.length - (off + 2 * size)
      let hit := ((List.range last).map (· + 1)).find? fun i => decide (i + off + 2 * size < x.data.length) &&
        (List.range 3).all fun k => fldBe x.data (i + off + k * size) 1 == 0x47
      let skip := match hit with | some i => i | none => last
      s.modStream die stream fun x => { x.count 3 skip with data := x.data.drop skip })

/-! ### Pictures and clips (13 R334, R335, R339, R340, R343) -/

/-- Rows of a plane of a width with a parity. -/
def fieldRows (w : Nat) (rows : List Nat) (odd : Bool) : List Nat :=
  (List.range (rows.length / w)).flatMap fun y => if y % 2 = b2n odd then (rows.drop (y * w)).take w else []

/-- The fields of a frame in coded order, as pictures of half height (13 R340). -/
def picFields (p : Picture) : List Picture :=
  let cw := (p.width + 1) / 2
  let field := fun odd => { p with
    height := (p.height + b2n (!odd)) / 2
    luma := fieldRows p.width p.luma odd, cb := fieldRows cw p.cb odd, cr := fieldRows cw p.cr odd }
  if p.bottomFirst then [field true, field false] else [field false, field true]

/-- The crop of a picture, clamped to it: x, y, width, height; none where the intersection is empty (13 R344). -/
def Stream.cropOf (x : Stream) (p : Picture) : Option (Nat × Nat × Nat × Nat) :=
  let cx := fld x.raw 0x28 2
  let cy := fld x.raw 0x2A 2
  let cw := fld x.raw 0x2C 2
  let ch := fld x.raw 0x2E 2
  if cw = 0 then some (0, 0, p.width, p.height)
  else if p.width ≤ cx ∨ p.height ≤ cy then none
  else some (cx, cy, min cw (p.width - cx), min ch (p.height - cy))

/-- The PTS at which a clip may begin. -/
def Stream.clipAt (x : Stream) (c p0 : Nat) : Nat :=
  p0 + (if x.afterDisc then 0 else fld x.raw 0x30 8) + (c - x.c0) * fld x.raw 0x38 4

/-- Begins the clips whose time a picture has reached (13 R343). -/
def Stream.begin (x : Stream) (pts : Nat) : Stream :=
  match x.p0 with
  | none => x
  | some p0 =>
    let t := x.clipAt x.nextClip p0
    if pts < t then x
    else
      let n := (pts - t) / (max 1 (fld x.raw 0x38 4)) + 1
      { x with nextClip := x.nextClip + n, clips := x.clips ++ (List.range n).map fun i => { index := x.nextClip + i } }

/-- A dropped picture passes: clips that would include it are dropped and counted (13 R343). -/
def Stream.passDropped (x : Stream) (pts : Option Nat) : Stream :=
  let x := match pts with | some t => x.begin t | none => x
  let hit := x.clips.filter (·.skip == 0)
  { x.count 5 hit.length with clips := (x.clips.filter (·.skip != 0)).map fun c => { c with skip := c.skip - 1 } }

/-- An output picture passes: clips take it or skip it; complete ones wait to be written (13 R343). -/
def Stream.passPicture (x : Stream) (p : Picture) (pts : Nat) : Stream :=
  let x := (if x.p0.isNone then { x with p0 := some pts, c0 := x.nextClip } else x).begin pts
  let cs := x.clips.map fun c =>
    if c.skip = 0 then { c with pics := c.pics ++ [{ p with pts := some pts }], skip := x.step - 1 } else { c with skip := c.skip - 1 }
  let full := fun (c : Clip) => decide (x.frames ≤ c.pics.length)
  { x with clips := cs.filter fun c => !full c, ready := x.ready ++ cs.filter full }

/-- A discontinuity: clips in progress are dropped, the schedule starts again, and the decoder's reference pictures are discarded, so that
pictures which need them are dropped up to the next random access point (13 R335, R339, R343). -/
def Stream.restart (x : Stream) : Stream :=
  { x.count 5 x.clips.length with clips := [], p0 := none, afterDisc := true, discAt := false, dropping := true }

/-- The duration of a picture in ticks: the descriptor's, else the stream's own; 0 is unknown (13 R334). -/
def Stream.ticksOf (x : Stream) (p : Picture) : Nat := if fld x.raw 0x3C 4 ≠ 0 then fld x.raw 0x3C 4 else p.frameTicks

/-- The PTS of a picture and the one expected; none where its timing fails (13 R334). -/
def Stream.timing (x : Stream) (p : Picture) : Option Nat × Option Nat :=
  let ticks := fld x.raw 0x3C 4
  let dur := x.ticksOf p
  let next := if dur = 0 then none else x.lastPts.map (· + dur)
  if x.container = 2 then (some (x.picIndex * ticks), some (x.picIndex * ticks))
  else match p.pts with
    | some t => (some (unwrapPts x.lastPts t), next)
    | none => (next, next)

/-- The pool of a stream can take clips (13 R350). -/
def Pool.canTake (p : Pool) : Bool := at' false p.bankFree (p.pass % 2) && decide (p.filled < fld p.raw 4 4)

/-- A picture's time against the one expected: a discontinuity by more than the stream's limit (13 R335). -/
def Stream.jumps (x : Stream) (pic : Picture) : Bool :=
  let limit := if fld x.raw 0x40 4 = 0 then 900000 else fld x.raw 0x40 4
  match x.timing pic with
  | (some t, some w) => decide (t + limit < w ∨ w + limit < t)
  | _ => false

/-- The stream with a picture's place in it noted, after a discontinuity with its schedule begun again (13 R334, R335). -/
def Stream.notes (x : Stream) (pic : Picture) : Stream :=
  let y := if x.discAt || pic.discontinuity || x.jumps pic then x.restart else x
  { y with damagedNext := false, lastPts := (x.timing pic).1.or y.lastPts, picIndex := y.picIndex + 1 }

/-- The picture cannot be used: it, or data before it, is damaged, or it has no time (13 R335, R339). -/
def Stream.damages (x : Stream) (pic : Picture) : Bool := pic.damaged || x.damagedNext || (x.timing pic).1.isNone

/-- Pictures that depend on a dropped one are dropped, up to the next random access point (13 R339). -/
def Stream.drops (x : Stream) (pic : Picture) : Bool := (x.notes pic).dropping && !pic.randomAccess && pic.dependsOnDropped

/-- The pictures that one coded picture gives: itself, or its two fields; and the time of each (13 R340). -/
def Stream.outputs (x : Stream) (pic : Picture) : List (Picture × Option Nat) :=
  ((if x.separate && pic.fieldPair then picFields pic else [pic]).zipIdx).map fun p =>
    (p.1, (x.timing pic).1.map fun t => t + p.2 * (x.ticksOf pic / 2))

/-- A picture is dropped and counted as damaged or as dependent (13 R339, R343). -/
def Stream.dropPicture (x : Stream) (pic : Picture) : Stream :=
  let y := (x.outputs pic).foldl (fun (y : Stream) p => y.passDropped p.2) (x.notes pic)
  { y.count (if x.damages pic then 1 else 2) 1 with dropping := true }

/-- A clip takes an output picture at a time. -/
def Stream.takesAt (x : Stream) (t : Nat) : Bool :=
  ((if x.p0.isNone then { x with p0 := some t, c0 := x.nextClip } else x).begin t).clips.any (·.skip == 0)

/-- A picture goes to the clips; false with the stream where a clip would take one whose crop is empty (13 R343, R344). -/
def Stream.usePicture (x : Stream) (pic : Picture) : Stream × Bool :=
  let y := { (x.notes pic).count 0 1 with dropping := (x.notes pic).dropping && !pic.randomAccess }
  (x.outputs pic).foldl (fun (a : Stream × Bool) p =>
    let t := p.2.getD 0
    if !a.2 then a
    else if a.1.takesAt t && (a.1.cropOf p.1).isNone then (a.1, false)
    else (a.1.passPicture p.1 t, true)) (y, true)

/-- PICTURE_DECODE: the engine decodes the stream's next picture; a damaged one, and what depends on one dropped, is dropped; the
others go to the clips (13 R334 to R343). -/
def execPictureDecode (die stream : Nat) (pic : Picture) (s : State) : Outcome :=
  .next (
    let x := s.stream die stream
    let e := at' {} (s.die die).engines x.engine
    if !s.streamRuns die stream ∨ e.fenced ∨ e.testing ∨ !(s.pool die x.pool).canTake then s
    else if pic.unsupported then s.streamStop die stream stUnsupported (((x.timing pic).1.or x.lastPts).getD 0)
    else if x.damages pic || x.drops pic then s.modStream die stream fun _ => x.dropPicture pic
    else
      let s := s.modStream die stream fun _ => (x.usePicture pic).1
      if (x.usePicture pic).2 then s else s.streamStop die stream stRange ((x.timing pic).1.getD 0))

/-- The demultiplexer has no packet left to take: fewer bytes than one, or fewer than would show where packets begin (13 R333). -/
def Stream.drained (x : Stream) : Bool :=
  let off := if x.container = 1 then 4 else 0
  let size := 188 + off
  x.container == 2 || decide (x.data.length < size) || (fldBe x.data off 1 != 0x47 && decide (x.data.length ≤ off + 2 * size))

/-- STREAM_END: after the END segment, once its packets are demultiplexed and its complete clips written, the stream ends; clips in
progress are dropped and counted (13 R332, R343). -/
def execStreamEnd (die stream : Nat) (s : State) : Outcome :=
  .next (
    let x := s.stream die stream
    if !s.streamRuns die stream ∨ x.state ≠ .ending ∨ !x.segs.isEmpty ∨ !x.drained ∨ !x.ready.isEmpty then s
    else
      let s := x.audio.foldl (fun (s : State) a => if fldBe a.2 4 2 = 0 then s.audioRecord die stream a.1 a.2 else s) s
      let s := s.modStream die stream fun x => { x.count 5 x.clips.length with clips := [], audio := [], state := .ended }
      s.event evStreamEnd x.job die 0 (pack [(1, stream), (3, 0)] ++ (s.stream die stream).counterBytes))

/-- ENGINE_FAULT: the first parity fault costs a second decoding; the second fences the engine, whose streams move (13 R342). -/
def execEngineFault (die engine : Nat) (s : State) : Outcome :=
  .next (
    if !s.live ∨ s.dieCount ≤ die ∨ 4 ≤ engine ∨ (at' {} (s.die die).engines engine).fenced then s
    else
      let n := (at' {} (s.die die).engines engine).faults + 1
      let s := s.modDie die fun d => { d with engines := d.engines.modify engine fun e => { e with faults := n, fenced := decide (2 ≤ n) } }
      if n < 2 then s else s.moveStreams die engine)

/-! ### Scaling and colour (13 R344 to R346) -/

/-- The source samples of an axis that output position `x` of `n` covers, with weights: `len` luma samples of crop, `m` samples of a plane whose
sample i begins at (2·step·i + off) half luma samples. The first and last sample reach to the crop's edges. -/
def axisArea (n len m step : Nat) (off : Int) (x : Nat) : List (Nat × Nat) :=
  (List.range m).filterMap fun (i : Nat) =>
    let a : Int := (2 * (step : Int) * i + off) * n
    let b : Int := a + ((2 * step * n : Nat) : Int)
    let a := if i = 0 then min a 0 else a
    let b := if i + 1 = m then max b ((2 * len * n : Nat) : Int) else b
    let d := min b ((2 * (x + 1) * len : Nat) : Int) - max a ((2 * x * len : Nat) : Int)
    if d ≤ 0 then none else some (i, d.toNat)

/-- The two source samples of an axis for bilinear scaling, with weights that sum to 256: the position, clamped to the crop, quantised
to 8 fraction bits. -/
def axisLinear (n len m step : Nat) (off : Int) (x : Nat) : List (Nat × Nat) :=
  -- the position in samples of the plane is num / den
  let num : Int := ((2 * x + 1) * len : Int) - n - (if step = 1 then 0 else (off + 1) * n)
  let den : Int := 2 * step * n
  let q := (256 * 2 * num + den) / (2 * den)
  let q := (max 0 (min q (256 * (m - 1)))).toNat
  if q % 256 = 0 then [(q / 256, 256)] else [(q / 256, 256 - q % 256), (q / 256 + 1, q % 256)]

/-- A plane scaled to w × h: 16-bit samples with 6 fraction bits, rounded to nearest, ties up. -/
def scalePlane (bilinear : Bool) (w h : Nat) (stride x0 y0 cw ch m k step : Nat) (offX offY : Int) (plane : List Nat) : List Nat :=
  let ax := if bilinear then axisLinear else axisArea
  let xs := (List.range w).map (ax w cw m step offX)
  (List.range h).flatMap fun y =>
    let ys := ax h ch k step offY y
    xs.map fun xs =>
      let tot := (xs.foldl (fun a p => a + p.2) 0) * (ys.foldl (fun a p => a + p.2) 0)
      let sum := ys.foldl (fun a q => xs.foldl (fun a p => a + p.2 * q.2 * at' 0 plane ((y0 + q.1) * stride + x0 + p.1)) a) 0
      (128 * sum + tot) / (2 * tot)

/-- kr and kb of a matrix: 0 BT.601, 1 BT.709, 2 BT.2020. -/
def matrixK : Nat → Word × Word
  | 0 => (natDiv 299 1000, natDiv 114 1000)
  | 1 => (natDiv 2126 10000, natDiv 722 10000)
  | _ => (natDiv 2627 10000, natDiv 593 10000)

/-- The matrix of a picture, and whether it is a substitute that is counted (13 R345). -/
def Stream.matrixOf (x : Stream) (code : Nat) : Nat × Bool :=
  match code with
  | 1 => (1, false)
  | 5 => (0, false)
  | 6 => (0, false)
  | 9 => (2, false)
  | 2 => (fld x.raw 0x1C 1, false)
  | 3 => (fld x.raw 0x1C 1, false)
  | _ => (fld x.raw 0x1C 1, true)

/-- Clamped to [0, 1]. -/
def clamp01 (v : Word) : Word := (fminN false (fmaxN false v 0#32).1 one32).1

/-- The RGB of a sample triple (13 R345): samples carry 6 fraction bits over `depth` bits. -/
def rgbOf (k : Word × Word) (full mono : Bool) (depth y cb cr : Nat) : List Word :=
  let u := 2 ^ (depth - 8)
  let smp := fun (n : Nat) (o : Nat) => (vsub (natDiv n 64) (nat32 o)).1
  let luma := if full then (vdiv (natDiv y 64) (nat32 (2 ^ depth - 1))).1 else (vdiv (smp y (16 * u)) (nat32 (219 * u))).1
  let chroma := fun c => if mono then 0#32
    else if full then (vdiv (smp c (2 ^ (depth - 1))) (nat32 (2 ^ depth - 1))).1 else (vdiv (smp c (128 * u)) (nat32 (224 * u))).1
  let two := 0x40000000#32
  let side := fun kx c => (vadd luma (vmul (vmul two (vsub one32 kx).1).1 c).1).1
  let r := side k.1 (chroma cr)
  let b := side k.2 (chroma cb)
  let g := (vdiv (vsub (vsub luma (vmul k.1 r).1).1 (vmul k.2 b).1).1 (vsub (vsub one32 k.1).1 k.2).1).1
  [clamp01 r, clamp01 g, clamp01 b]

/-- The channel values of a clip picture, by pixel: cropped, scaled, converted, normalised (13 R344 to R346). -/
def Stream.pixels (x : Stream) (p : Picture) : List (List Word) :=
  match x.cropOf p with
  | none => []
  | some (cx, cy, cw, ch) =>
    let bl := fld x.raw 0x22 1 == 1
    let y := scalePlane bl x.w x.h p.width cx cy cw ch cw ch 1 0 0 p.luma
    let c := fun plane => scalePlane bl x.w x.h ((p.width + 1) / 2) (cx / 2) (cy / 2) cw ch ((cw + 1) / 2) ((ch + 1) / 2) 2
      ((p.chromaX2 : Int) - 1) ((p.chromaY2 : Int) - 1) plane
    let cb := if p.mono then [] else c p.cb
    let cr := if p.mono then [] else c p.cr
    let k := matrixK (x.matrixOf p.matrixCode).1
    let full := p.fullRange.getD (bitOf (fld x.raw 3 1) 2)
    (List.range (x.w * x.h)).map fun i =>
      (rgbOf k full p.mono p.depth (at' 0 y i) (at' 0 cb i) (at' 0 cr i)).zipIdx.map fun v =>
        (vmul (vsub v.1 (BitVec.ofNat 32 (fld x.raw (0x44 + 4 * v.2) 4))).1 (BitVec.ofNat 32 (fld x.raw (0x50 + 4 * v.2) 4))).1

/-- The token elements of a clip in order, padded tokens included (13 R347). -/
def Stream.tokenise (x : Stream) (c : Clip) : List Word :=
  let px := c.pics.map x.pixels
  let (pp, t) := (x.patch, x.tubelet)
  let n := 3 * pp ^ 2 * t
  (List.range (x.frames / t)).flatMap fun d => (List.range (x.h / pp)).flatMap fun row => (List.range (x.w / pp)).flatMap fun col =>
    (((List.range t).flatMap fun k => (List.range pp).flatMap fun y => (List.range pp).flatMap fun i =>
      at' [] (at' [] px (d * t + k)) ((row * pp + y) * x.w + col * pp + i)) : List Word) ++ List.replicate (x.tokenStride - n) 0

/-! ### The shuffle pool (13 R348 to R353) -/

namespace Pool

/-- N. -/
def slots (p : Pool) : Nat := fld p.raw 4 4
/-- S. -/
def elems (p : Pool) : Nat := fld p.raw 0x10 4
/-- The streams in rotation order. -/
def streams (p : Pool) : List Nat := (List.range (fld p.raw 0x1C 1)).map fun i => fld p.raw (0x20 + i) 1

/-- Sizes of a bank's regions for a format: elements, scales, metadata, draw list (13 R349). -/
def sizes (p : Pool) (fmt : Nat) : List Nat :=
  [alignUp (p.slots * p.elems * elemBits fmt / 8) 256, if fmt = 1 then 0 else alignUp (p.slots * (p.elems / 32)) 256, alignUp (32 * p.slots) 256,
    alignUp (4 * p.slots) 256]

/-- The address of region `r` of a bank. -/
def region (p : Pool) (fmt bank r : Nat) : Nat :=
  let z := p.sizes fmt
  fld p.raw 8 8 + bank * z.foldl (· + ·) 0 + (z.take r).foldl (· + ·) 0

end Pool

/-- h of the draw order (13 R351). -/
def drawH (n : Nat) : Nat := max 1 (cdiv (if n ≤ 1 then 0 else (n - 1).log2 + 1) 2)

/-- key(r). -/
def drawKey (seed p r : Nat) : Nat := (seed + (4 * p + r) * 0xBB67AE85) % 2 ^ 32

/-- f(x, k). -/
def drawF (h x k : Nat) : Nat := ((x * 0x9E3779B9 + k) % 2 ^ 32) >>> (32 - h)

/-- e(x). -/
def drawE (seed p h x : Nat) : Nat :=
  let (l, r) := (List.range 4).foldl (fun (a : Nat × Nat) i => (a.2, a.1 ^^^ drawF h a.2 (drawKey seed p i))) (x >>> h, x % 2 ^ h)
  l <<< h ||| r

/-- Walks the cycle until a value below N; the fuel is the size of the map's domain. -/
def drawWalk (seed p h n : Nat) : Nat → Nat → Nat
  | 0, x => x
  | k + 1, x => let y := drawE seed p h x; if y < n then y else drawWalk seed p h n k y

/-- π_p(d). -/
def drawPi (seed p n d : Nat) : Nat := drawWalk seed p (drawH n) n (2 ^ (2 * drawH n)) d

/-- The stream whose clip the next slot takes in ordered mode: the next of the rotation that has not ended (13 R350). -/
def State.turnOf (s : State) (die p : Nat) : Option (Nat × Nat) :=
  let q := s.pool die p
  let k := q.streams.length
  ((List.range k).map fun i => ((q.turn + i) % k, at' 0 q.streams ((q.turn + i) % k))).find? fun x =>
    !((mget (s.die die).streams x.2).isNone || ((s.stream die x.2).state == .ended && (s.stream die x.2).ready.isEmpty))

/-- The stores with clip `c`'s samples in slot `i` of the pool's bank (13 R346 to R348). -/
def State.clipSamples (s : State) (q : Pool) (x : Stream) (c : Clip) (bank i : Nat) : Mem :=
  let ws := x.tokenise c
  if x.fmt = 1 then wrBytes s.mem (q.region 1 bank 0 + i * q.elems * 2) (ws.flatMap fun w => natLe 2 (fBF16.ofVal true (fpVal w)).1)
  else
    let bs := (parts 32 ws).map fun b =>
      let vs := b.map fpVal
      let sc := mxScale x.fmt 0 vs
      (sc, (mxEncode x.fmt sc 0 vs).1)
    let m := wrBytes s.mem (q.region x.fmt bank 0 + i * q.elems) (bs.flatMap fun b => b.2.map fun e => BitVec.ofNat 8 e)
    wrBytes m (q.region x.fmt bank 1 + i * (q.elems / 32)) (bs.map fun b => BitVec.ofNat 8 b.1)

/-- The 32 bytes of metadata of clip `c` of stream `n` (13 R349). -/
def Clip.meta (c : Clip) (x : Stream) (n pass : Nat) : List Byte :=
  let first := c.pics.head?
  pack [(1, n), (1, b2n x.separate + 2 * b2n (first.any (·.depth == 10))), (2, x.frames), (4, c.index), (8, (first.bind (·.pts)).getD 0), (4, pass),
    (4, (first.map (·.segment)).getD 0), (8, 0)]

/-- A stream's oldest complete clip stands in the next slot of its pool's bank; the rotation goes on (13 R346 to R350). -/
def State.clipTaken (s : State) (die pool stream : Nat) (q : Pool) (x : Stream) (c : Clip) (rest : List Clip) : State :=
  let bank := q.pass % 2
  let turn := s.turnOf die pool
  let m := wrBytes (s.clipSamples q x c bank q.filled) (q.region x.fmt bank 2 + 32 * q.filled) (c.meta x stream q.pass)
  let subst := (c.pics.filter fun p => (x.matrixOf p.matrixCode).2).length
  let s := State.modStream { s with mem := m } die stream fun y => { (y.count 4 1).count 6 subst with ready := rest }
  s.modPool die pool fun q => { q with
    filled := q.filled + 1, turn := match turn with | some t => if fld q.raw 1 1 = 0 then (t.1 + 1) % q.streams.length else q.turn | none => q.turn }

/-- The frame pipeline of a die and the memory its pools lie in are powered (01 R35; 19 R461). -/
def State.poolsRun (s : State) (die : Nat) : Bool := s.domOn die 10 && s.domOn die 11

/-- CLIP_COMPLETE: a complete clip is written into the next slot of the pool's bank, metadata last (13 R346 to R350). -/
def execClipComplete (die pool stream : Nat) (s : State) : Outcome :=
  .next (
    let q := s.pool die pool
    let x := s.stream die stream
    match x.ready with
    | [] => s
    | c :: rest =>
      if !s.live ∨ s.dieCount ≤ die ∨ !s.poolsRun die ∨ (mget (s.die die).pools pool).isNone ∨ s.isFrozen (masterWord 4 die stream) ∨ !q.streams.contains stream ∨
          !q.canTake ∨ (fld q.raw 1 1 = 0 ∧ (s.turnOf die pool).map (·.2) ≠ some stream) then s
      else s.clipTaken die pool stream q x c rest)

/-- The format of a pool's samples: that of its streams. -/
def State.poolFmt (s : State) (die pool : Nat) : Nat :=
  (((s.pool die pool).streams.find? fun n => (mget (s.die die).streams n).isSome).map fun n => (s.stream die n).fmt).getD 1

/-- A bank's draw list is written, its ready_tag delivered, and the next pass begins (13 R350, R351). -/
def State.bankDone (s : State) (die pool : Nat) : State :=
  let q := s.pool die pool
  let bank := q.pass % 2
  let list := (List.range q.slots).flatMap fun d => natLe 4 (drawPi (fld q.raw 0x14 4) q.pass q.slots d)
  let s : State := { s with mem := wrBytes s.mem (q.region (s.poolFmt die pool) bank 3) list }
  let s := s.notify die q.job (fld q.raw 0x18 2) [q.pass, bank, q.slots, 0]
  s.modPool die pool fun q => { q with
    ready := q.ready ++ [q.pass], bankFree := setAt q.bankFree bank false, pass := q.pass + 1, filled := 0 }

/-- BANK_READY: every slot of the pass is filled; the draw list is written, ready_tag delivered, and the next pass may begin
(13 R350, R351). -/
def execBankReady (die pool : Nat) (s : State) : Outcome :=
  .next (
    let q := s.pool die pool
    if !s.live ∨ s.dieCount ≤ die ∨ !s.poolsRun die ∨ (mget (s.die die).pools pool).isNone ∨ q.filled ≠ q.slots ∨ !at' false q.bankFree (q.pass % 2) ∨
        !s.notifyRoom die q.job then s
    else s.bankDone die pool)

/-- BANK_RELEASE: a release that a NOTIFY asked for frees the bank of its pass; of another pass it is ignored and counted (13 R352). -/
def execBankRelease (die pool pass : Nat) (s : State) : Outcome :=
  .next (
    let q := s.pool die pool
    if !s.live ∨ s.dieCount ≤ die ∨ !q.asked.contains pass then s
    else s.modPool die pool fun q =>
      let q := { q with asked := q.asked.erase pass }
      if q.ready.contains pass then { q with ready := q.ready.filter (· != pass), bankFree := setAt q.bankFree (pass % 2) true }
      else { q with ignored := satAdd 32 q.ignored 1 })

end Sys2Proof.Machine
end

