-- ==== Sys2Proof/Machine/Attest.lean ====
section
/-! DEFINITION. Attestation: the measurements and the answers of the SPDM and MCTP responders (18 R452 to R457; 16 R426). -/

namespace Sys2Proof.Machine

open Sys2Proof

/-- The retirement list: its entries, then their HMAC (18 R452). `flash.retired` holds bay keys. -/
def Flash.retiredBytes (f : Flash) : List Byte :=
  let es := f.retired.flatMap fun k => natLe 4 (k / 132 <<< 24 + k % 132 <<< 16)
  es ++ Config.logMac es

/-- Measurements 1 to 8 (18 R455). -/
def State.measurements (s : State) : List (List Byte) :=
  let k := s.ks
  [natLe 4 Config.romVersion.toNat, k.keyDigest ++ natLe 4 k.fwVersion, k.easelDigest ++ natLe 4 k.easelVersion, k.recDigest,
   pack [(4, k.bootFloors.1), (4, k.bootFloors.2)], sha256 k.flash.retiredBytes,
   (match k.flash.owner with | some m => sha256 m | none => zeros 32),
   pack [(1, b2n k.debugOpen), (1, k.bootSlot.getD 0)]]

/-- The SPDM responder's answer to a request (16 R426; 18 R455). -/
def State.spdmAnswer (s : State) (request : List Byte) : List Byte :=
  Config.spdmAnswer (s.out.mgmt.length + s.out.doe.length) s.measurements request

/-- MCTP_SPDM_MESSAGE: answered once the identity key exists (18 R455, R457). -/
def execMctpSpdmMessage (x : List Byte) (s : State) : Outcome :=
  .next (
    if s.part.porN ∧ s.ks.identityOk then { s with out := { s.out with mgmt := s.out.mgmt ++ [s.spdmAnswer x] } }
    else s)

/-- MCTP_CONTROL_MESSAGE: answered (18 R457). -/
def execMctpControlMessage (x : List Byte) (s : State) : Outcome :=
  .next (
    if s.part.porN then { s with out := { s.out with mgmt := s.out.mgmt ++ [Config.mctpAnswer s.out.mgmt.length x] } }
    else s)

end Sys2Proof.Machine
end

