-- ==== Sys2Proof/Machine/Respond.lean ====
section
/-! DEFINITION. Responses of commands and the end of work that continues after its command (17 R429, R435; 18 R457). -/

namespace Sys2Proof.Machine

/-- A response is ready for its mailbox (17 R429), or discarded where the port was reset since the post (16 R425). -/
def State.respond (s : State) (c : Cmd) (status : Nat) (body : List Byte := []) (retry : Nat := 0) (detail : Nat := 0) : State :=
  if c.gone then s else s.modHost c.port fun h => { h with resps := h.resps ++ [⟨c, status, body, retry, detail⟩] }

/-- Ends the work of a command that continues: its response, or once it has been deferred its result, which EV_CMD_DONE carries
(17 R435). -/
def State.finishWork (s : State) (die : Nat) (c : Cmd) (status : Nat) (result : List Byte) : State :=
  match (s.die die).deferred.find? fun d => d.cmd.seq == c.seq && d.result.isNone with
  | none => s
  | some d =>
    if d.token.isSome then s.modDie die fun x => { x with
      deferred := x.deferred.map fun e => if e = d then { e with result := some (status, result) } else e }
    else (s.modDie die fun x => { x with deferred := x.deferred.erase d }).respond d.cmd status result

/-- The reply to a management command (18 R457). -/
def State.mgmtReply (s : State) (code status : Nat) (nonce body : List Byte) : State := s.mgmtSend (code + 128) status nonce body

end Sys2Proof.Machine
end

