-- ==== Sys2Proof/Machine/Check.lean ====
section
/-! DEFINITION. Checking and containment: detected faults, replays, arbitration, damaged data, twin and replica digests, field tests,
fail-stop (12 R303 to R325; 18 R459). -/

namespace Sys2Proof.Machine

open Sys2Proof

/-- FAULT_DETECT: a detector reports; the first action, or nesting, follows (12 R303, R304, R323). A word of bay SRAM, side memory or a
palette slot that fails parity fails until it is written whole (04 R86). -/
def execFaultDetect (x : FaultDesc) (s : State) : Outcome :=
  .next (
    if s.live ∧ 1 ≤ x.detector ∧ x.detector ≤ 12 ∧ x.die < s.dieCount ∧ (x.detector ≤ 4 → x.unit < 132) then
      (if x.detector = 1 ∧ s.dpaOk x.addr then s.markBad x.addr else s).fault x
    else s)

/-- REPLAY_ISSUE: the oldest replay of the bay takes the next free sequencer slot (12 R313). -/
def execReplayIssue (b : BayRef) (s : State) : Outcome :=
  .next (
    let x := s.bay b.die b.bay
    match x.replays with
    | [] => s
    | i :: rest =>
      if !s.bayLive b ∨ !s.slotFree b ∨ (s.logical b.die b.bay).isNone then s
      else match s.issueCheck b.die b.bay i with
        | .held => s
        | .malformed a d => s.freezeIssue b.die b.bay i a d
        | .go fills => (s.modBay b.die b.bay fun x => { x with replays := rest }).issueTo b.die b.bay i fills)

/-- SPARE_WAKE_DONE: the spare's logic is awake; an arbitration that waits for it proceeds (04 R107; 12 R308). -/
def execSpareWakeDone (b : BayRef) (s : State) : Outcome :=
  .next (
    if s.live ∧ (s.bay b.die b.bay).waking then
      let s := s.modBay b.die b.bay fun x => { x with waking := false }
      { s with ks := { s.ks with arbs := s.ks.arbs.map fun a => if a.die = b.die ∧ a.arbiter = b.bay then { a with awake := true } else a } }
    else s)


/-- The verdict of an arbitration of a held tile (12 R309). The arbiter agrees with the held set: it retires, and a bay at its second
checker fault is tested. It agrees with the sums: its outputs retire and, where it was a spare, it takes the bay's place after the seal;
an active bay is released at once. Neither: the stroke is abandoned and handling escalates. -/
def State.arbitrate (s : State) (b : BayRef) (a : Arb) (t : Tile) (r : Running) (arbEqHeld arbEqSums arbOwnOk : Bool) : State :=
  let log := fun (s : State) (action : Nat) =>
    s.logFault ⟨0, 3, 1, action, b.die, 0, Config.faultStatus 3, r.inst.job, b.bay, r.seq, 0, 0, []⟩
  let drain := fun (s : State) => s.modBay b.die b.bay (·.modTile t fun y => { y with phase := .drain })
  if arbEqHeld then
    let s := ((log s 2).releaseArbiter a).modBay b.die b.bay fun x => { x with checkerFaults := x.checkerFaults + 1 }
    let s := drain s
    if 2 ≤ (s.bay b.die b.bay).checkerFaults then s.testBay b.die b.bay else s
  else if arbEqSums ∧ arbOwnOk then
    let s : State := if a.wasSpare then { s with ks := { s.ks with arbs := s.ks.arbs.filter (· != a) } } else s.releaseArbiter a
    (drain (log s 3)).modBay b.die b.bay fun x => { x with
      retireAt := some (r.seq, a.arbiter)
      slots := x.slots.map fun y => if y.seq = r.seq then { y with inst := { y.inst with outcome := max y.inst.outcome 1 } } else y }
  else
    let s := (s.releaseArbiter a).abandon b r
    let f : FaultDesc := ⟨3, b.die, b.bay, 0, false, []⟩
    s.handleAt f (s.domainOf f).up (Config.faultStatus 3)

/-- ARBITRATION_DONE: the verdict of 12 R309 on the bay's held tile. -/
def execArbitrationDone (b : BayRef) (arbEqHeld arbEqSums arbOwnOk : Bool) (s : State) : Outcome :=
  .next (
    let x := s.bay b.die b.bay
    match s.ks.arbs.find? (fun a => a.die == b.die && a.bay == b.bay && a.awake), x.tiles.find? (·.phase == .held) with
    | some a, some t => match x.strokeOf t with
      | none => s
      | some r => if !s.live then s else s.arbitrate b a t r arbEqHeld arbEqSums arbOwnOk
    | _, _ => s)

/-! ### Damaged data (12 R316) -/

/-- The gather entry whose copy holds an address of a bay. -/
def State.gatherAt (s : State) (die b byte : Nat) : Option Nat :=
  (s.span.gather.find? fun g => g.2.die == die && (match g.2.last with
    | some st => (s.gatherRegs g.2 st).any fun x => x.1 == b && decide (x.2.1 ≤ byte ∧ byte < x.2.1 + x.2.2)
    | none => false)).map (·.1)

/-- Frees a replica's copy once nothing reads it and asks for it again (12 R316, R319). -/
def State.refetch (s : State) (e step : Nat) : State :=
  let g := mgetD {} s.span.gather e
  let s := (s.gatherRegs g step).foldl (fun (s : State) x => s.modBay g.die x.1 fun b =>
    b.modSeals (fun y => y.state == .dry && overlaps x.2.1 x.2.2 y.start y.bytes)
      fun y => if y.readers = 0 then y.freed else { y with release := true }) s
  ({ s with span := { s.span with gather := mset s.span.gather e { g with want := some step, asked := none } } }).gatherSend e

/-- Graphs that read a lost buffer halt, and the loss is reported for the job. -/
def State.inputLost (s : State) (die b byte job : Nat) : State :=
  let s := s.modJob job fun j => { j with inputLost := true }
  let reads := fun (i : Inst) => rangesOf (i.img.descs.map (s.resolveDesc die b)) (·.isIn) |>.any fun x =>
    x.1 == b && decide (x.2.1 ≤ byte ∧ byte < x.2.1 + x.2.2)
  let hit := fun (g : Nat) => (List.range 132).any fun c =>
    let y := s.bay die c
    (y.slots.map (·.inst) ++ y.queue ++ y.replays).any fun i => i.run == g && i.job == job && reads i
  (mkeys (s.die die).runs).foldl (fun (s : State) g => if hit g then s.haltRun die g stInputLost else s) s

/-- Seal-table entries recorded as (bay, first byte, generation) are still those, and dry (12 R312). -/
def State.stillDry (s : State) (die : Nat) (es : List (Nat × Nat × Nat)) : Bool :=
  es.all fun i => (s.bay die i.1).seals.any fun y => y.start == i.2.1 && y.gen == i.2.2 && y.state == .dry

/-- The mover request that wrote a damaged byte last and whose sources are still dry with the same generation (12 R316). -/
def State.copyHeld (s : State) (die addr : Nat) : Option MvReq :=
  ((s.die die).copies.filter fun q => (q.dst.spans.any fun z => decide (z.1 ≤ addr ∧ addr < z.1 + z.2)) && s.stillDry die q.readers).getLast?

/-- The journal entry of the producer of a buffer, with its key as an owner, where it is held, sealed, and its inputs are valid
(12 R311, R312). -/
def State.producerHeld (s : State) (die b byte : Nat) : Option (Nat × JEntry) :=
  ((s.bay die b).seals.find? fun e => e.state == .dry && decide (e.start ≤ byte ∧ byte < e.start + e.bytes)).bind fun e =>
    match e.owner with
    | .stroke k => ((s.bay die (k % 256)).journal.find? fun j => j.seq == k / 256 && j.state == .wasSealed && s.stillDry die j.inputs).map
        fun j => (k, j)
    | _ => none

/-- Runs the producing stroke of a damaged buffer again: what it wrote becomes wet until it seals again, with the same generations, so
that it takes the damaged buffer's place; strokes that read it are abandoned, to be replayed afterwards, without counting the attempt
(12 R314, R316). What it had accumulated stays. -/
def State.runAgain (s : State) (die k : Nat) (j : JEntry) : State :=
  let mine := fun (e : SealEnt) => e.owner == .stroke k && e.state == .dry
  let bs := (List.range 132).flatMap fun b => ((s.bay die b).seals.filter mine).map fun e => (b, e)
  let lost := fun (i : Nat × Nat × Nat) => (s.bay die i.1).seals.any fun e => mine e && e.start == i.2.1
  let readers := (List.range 132).flatMap fun b => ((s.bay die b).slots.filter fun r => !r.frozen && r.inputs.any lost).map fun r => (b, r)
  let s := readers.foldl (fun (s : State) x => s.abandonUncounted ⟨die, x.1⟩ x.2) s
  let s := s.modSealsDie die mine fun e => { e with state := .wet }
  let s := bs.foldl (fun (s : State) x => s.wrote (sramDpa die x.1 x.2.start) x.2.bytes) s
  let home := s.homeOf ⟨die, k % 256⟩
  s.modBay die home fun x => { x with replays :=
    { j.inst with replayOf := some j.seq, attempt := 0, accDone := j.accDone, gens := some j.inputs, rerun := some k } :: x.replays }

/-- A damaged buffer that a stroke wrote: the stroke runs again, or the buffer is lost; damaged inputs go first, to a depth of 4
(12 R316). -/
def State.recoverOutput (s : State) (x : DamageDesc) : State :=
  match s.producerHeld x.die x.bay (dpaByte x.addr) with
  | some (k, j) => if x.depth ≤ 4 then s.runAgain x.die k j else s.inputLost x.die x.bay (dpaByte x.addr) x.job
  | none => s.inputLost x.die x.bay (dpaByte x.addr) x.job

/-- Recovers a damaged object by the first method that applies, or loses it (12 R316). A record pair: with `bay` 0 it is this part's own
that is damaged, and the block's operations wait; with `bay` 1 the twin's is, and this part sends its mirror pair. DESIGN CHOICE: how
the twin comes to know is left to that command (log 28). -/
def State.recoverDamage (s : State) (x : DamageDesc) : State :=
  let byte := dpaByte x.addr
  let s := if dpaOnDie x.addr then s.excludeUnit x.die x.bay x.addr
    else if x.kind = 2 ∧ x.bay ≠ 0 then s
    else s.modDie x.die fun d => { d with excluded := if d.excluded.contains (x.addr / 256) then d.excluded else d.excluded ++ [x.addr / 256] }
  match x.kind with
  | 0 => match s.gatherAt x.die x.bay byte with
    | some e => s.refetch e ((mgetD {} s.span.gather e).last.getD 0)
    | none => s.inputLost x.die x.bay byte x.job
  | 1 =>
    let n := ((s.die x.die).slots.filter fun y => y.2.role != .contributor).find? fun y => (s.wcRegs x.die y.1).any fun r =>
      r.1 == x.bay && decide (r.2.1 ≤ byte ∧ byte < r.2.1 + r.2.2)
    match n with
    | some (n, sl) => s.derive x.die n sl.step (List.range sl.blocks)
    | none => s.inputLost x.die x.bay byte x.job
  | 2 =>
    let k := (s.die x.die).shards.findSome? fun h =>
      let base := h.2.tier (fld h.2.raw 0x10 8)
      if base ≤ x.addr ∧ x.addr < base + 832 * h.2.blocks then some (h.1, h.2, (x.addr - base) / 832) else none
    match k, s.part.twinNode with
    | some (n, h, j), some t =>
      if s.part.fencedNodes.contains t then s.inputLost x.die x.bay byte x.job
      else if x.bay = 0 then s.modDie x.die fun d => { d with pairWait := (d.pairWait ++ [(n, j)]).dedup }
      else if (h.current s.mem j).isNone ∨ s.pairLost x.die n j then s
      else s.send 0x65 t x.die (pack [(4, n), (4, j)] ++ rdBytes s.mem (h.copyAt j 0) 832 ++ rdBytes s.mem (h.anchorAt j) 128) []
    | _, _ => s.inputLost x.die x.bay byte x.job
  | 3 => match s.copyHeld x.die x.addr with
    | some q => q.dst.spans.foldl (fun (s : State) z => s.wrote z.1 z.2) (s.mvApply x.die q)
    | none => s.recoverOutput x
  | 4 => s.recoverOutput x
  | _ => s.inputLost x.die x.bay byte x.job

/-- DAMAGED_DATA_RECOVERY: a damaged object is recovered by the first method that applies, or lost (12 R316). -/
def execDamagedDataRecovery (x : DamageDesc) (s : State) : Outcome :=
  .next (if !s.live ∨ s.dieCount ≤ x.die then s else s.recoverDamage x)

/-- The unit of a queued fault has been fenced or retired meanwhile, or the disagreement is gone (12 R323). -/
def State.absorbed (s : State) (x : FaultDesc) : Bool :=
  match x.detector with
  | 3 => (s.bay x.die x.unit).tiles.all (·.phase != .held)
  | 5 => (s.mover x.die (x.unit % 16)).fenced
  | 6 => !(s.port x.unit).up
  | 1 => (s.bay x.die x.unit).cond == .retired
  | 2 => (s.bay x.die x.unit).cond == .retired
  | 4 => (s.bay x.die x.unit).cond == .retired
  | 10 => (s.consOf x.die x.addr).isNone
  | _ => false

/-- QUEUED_FAULT_SERVE: the oldest queued fault, once no handling is under way (12 R323). -/
def execQueuedFaultServe (s : State) : Outcome :=
  .next (
    let s' := s.settleHandling
    match s'.ks.queue with
    | [] => s'
    | x :: rest =>
      if !s.live ∨ !s'.ks.handling.isEmpty then s'
      else
        let t : State := { s' with ks := { s'.ks with queue := rest } }
        if t.absorbed x then t.logDetected x (t.domainOf x).level 7 (Config.faultStatus x.detector) 0 0 else t.firstAction x)

/-- WATCHDOG_CHECK: a missed Easel heartbeat or a slice fault is a die-level fault (12 R303). -/
def execWatchdogCheck (die : Nat) (heartbeat sliceOk : Bool) (s : State) : Outcome :=
  .next (if s.live ∧ die < s.dieCount ∧ !(heartbeat ∧ sliceOk) then s.fault ⟨11, die, die, 0, false, []⟩ else s)

/-- A slice that lost the leader: its die's Span ports send a FENCED notice and go down, with its Pier and Viaduct ports, and the die is
fenced (12 R324). -/
def State.fenceDie (s : State) (die : Nat) : State :=
  let mine := fun (k : Nat) => s.portDie k == die && (s.port k).up
  let s := ((List.range 16).filter mine).foldl (fun (s : State) k =>
    s.transmit ⟨k, 0, 0x41, 0, 0xFFF, s.part.node.getD 0xFFF, 0, 0, pack [(2, s.part.node.getD 0), (8, s.part.tai)]⟩) s
  let s := ((List.range 18).filter mine).foldl (fun (s : State) k => s.portDown k) s
  let s : State := { s with via := { s.via with ports := s.via.ports.map fun v => if s.viaDie v.1 = die then (v.1, { v.2 with up := false }) else v } }
  s.modDie die fun d => { d with fenced := true }

/-- LEADER_CONTACT_LOSS: a slice that is not the leader fences its die's ports (12 R324). -/
def execLeaderContactLoss (die : Nat) (s : State) : Outcome :=
  .next (if !s.live ∨ s.dieCount ≤ die ∨ die = s.ks.leader ∨ (s.die die).fenced then s else s.fenceDie die)

/-- PART_FAIL_STOP (12 R324). -/
def execPartFailStop (reason : Code) (s : State) : Outcome :=
  .next (if s.live then s.failStop Config.failStopDetector reason else s)

/-! ### Field tests (12 R320) -/

/-- What a test's end does to its unit. -/
def State.testEnd (s : State) (t : FTest) (pass : Bool) : State :=
  match t.unit with
  | 1 =>
    if pass then
      ({ s with mem := clrBytes s.mem (sramDpa t.die t.index 0) sramSize } : State).modBay t.die t.index fun x =>
        { x with cond := .reserve, waking := false, pal := [{}, {}, {}, {}], checkerFaults := 0, replicaMisses := 0, bad := [] }
    else (s.clearSpare t.die t.index).retireBay t.die t.index 3 none
  | 2 => s.modMover t.die t.index fun m => { m with testing := false, fenced := m.fenced || !pass }
  | 3 => if pass then s else s.failStop 10 (Config.faultStatus 10)
  | 4 => s.modDie t.die fun d => { d with engines := d.engines.modify t.index fun e => { e with testing := false, fenced := e.fenced || !pass } }
  | 5 =>
    let s := s.modPort t.index fun p => if pass then { p with testing := false, training := true, lanes := List.replicate 4 true, width := 4 } else { p with testing := false }
    if pass then s else s.event evSpanDown 0 t.die 0 (pack [(1, t.index)])
  | 6 =>
    let s := s.modPort (16 + t.index) fun p => if pass then { p with testing := false, training := true, lanes := List.replicate 4 true, width := 4 } else { p with testing := false }
    if pass then s else s.event evPierDown 0 t.die 0 (pack [(1, t.index)])
  | 7 => { s with via := { s.via with ports := mmod s.via.ports t.index fun p => { p with testing := false, up := p.up && pass } } }
  | _ => s

/-- The Keystone logs the result of a field test (12 R320). DESIGN CHOICE: the fault record names no detector for it; it carries detector
0, action 0 on a pass and 5 on a fail, and the failing pattern as the address (log 28). -/
def State.logTest (s : State) (t : FTest) (pass : Bool) (pattern : Nat) : State :=
  s.logFault ⟨0, 0, if t.unit = 1 then 1 else 2, if pass then 0 else 5, t.die, 0, stOk, 0, t.index, 0, 0, if pass then 0 else pattern, [BitVec.ofNat 8 t.unit]⟩

/-- A field test ends: the result goes to the command or the management message that asked for it, and the unit returns, or is retired
or fenced (12 R320). -/
def State.testDone (s : State) (t : FTest) (pass : Bool) (pattern : Nat) : State :=
  let s : State := { s with ks := { s.ks with tests := s.ks.tests.erase t } }
  let body := pack [(1, b2n pass), (3, 0), (4, if pass then 0 else pattern)]
  let s := match t.cmd with
    | some c => s.finishWork c.die c stOk body
    | none => s
  let s := match t.mgmt with
    | some nonce => s.mgmtReply 0x13 stOk nonce body
    | none => s
  (s.logTest t pass pattern).testEnd t pass

/-- A test of a Varnish unit waits for a gap: no slot of its die is being consumed, but one that a digest disagreement holds (12 R320,
R318). -/
def State.testMayEnd (s : State) (t : FTest) : Bool :=
  t.unit != 3 || (s.die t.die).cons.all fun c => c.2.kind != 0 || c.2.done

/-- FIELD_TEST_DONE: the unit passes, or is retired or fenced; the result goes to who asked (12 R320). -/
def execFieldTestDone (unit die index : Nat) (pass : Bool) (pattern : Nat) (s : State) : Outcome :=
  .next (match s.ks.tests.find? fun t => t.unit == unit && t.die == die && t.index == index with
    | none => s
    | some t => if !s.live ∨ !s.testMayEnd t then s else s.testDone t pass pattern)

/-! ### Replica digests (12 R319) -/

/-- The codes of a block of a working copy, decoded where it is compressed. -/
def copyCodes (m : Mem) (d : Desc) (j : Nat) : List Nat :=
  if d.compressed then (match palDecode m d (rdBytes m (d.chunkBase + 0x40) 144) j with | .ok cs => cs | .error _ => [])
  else let cs := d.rdBlock m j; cs ++ List.replicate (32 - cs.length) 0

/-- The digest of a working copy. -/
def copyDigest (m : Mem) (d : Desc) : List Byte :=
  sha256 ((List.range d.blocks).flatMap fun j => packBlock d.fmt (copyCodes m d j) ++ [BitVec.ofNat 8 (d.rdSide m j)])

/-- REPLICA_DIGEST_COMPUTE: of a dry gathered copy, at every N-th step, to the owner (12 R319). -/
def execReplicaDigestCompute (entry : Nat) (s : State) : Outcome :=
  .next (match mget s.span.gather entry with
    | none => s
    | some g => match g.last with
      | none => s
      | some step =>
        if s.live ∧ step % (mgetD {} s.jobs g.job).period = 0 ∧
            (s.gatherRegs g step).all (fun x => (s.bay g.die x.1).allAt .dry x.2.1 x.2.2) then
          let d := s.resolveDesc g.die 0xFF (g.desc step)
          let node := if s.part.fencedNodes.contains g.ownerNode then g.twinNode else g.ownerNode
          s.send 0x42 node g.ownerDie (pack [(2, g.slot), (2, 0), (4, step)] ++ copyDigest s.mem d)
        else s)

/-! ### Twin digests (12 R317, R318) -/

/-- The digest of record A of a slice, over the records the consumption replaced. -/
def State.recordADigest (s : State) (h : Shard) (first : Nat) (c : Consume) : List Byte :=
  sha256 (c.written.flatMap fun i => match h.current s.mem (first + i) with
    | some (k, _) => rdBytes s.mem (h.copyAt (first + i) (1 - k)) 416
    | none => [])

/-- The shard and first shard block of a consumption. -/
def State.consShard (s : State) (die key : Nat) (c : Consume) : Shard × Nat :=
  if c.kind = 1 then let f := mgetD {} s.via.frags (key - 65536); (s.shard die f.shard, f.first)
  else let sl := s.slot die (keySlot key); (s.shard die sl.shard, sl.first)

/-- Rolling a halted slice back: the records that it wrote and that are still current are void, their blocks of the working copy are
derived again, and the slice is reported as outcome 4 (12 R318 stage 4; 11 R287). A re-derivation wrote no record, and ends. An outer
update is never rolled back (11 R300): the command refuses it. -/
def State.rollHalted (s : State) (die key : Nat) (c : Consume) : State :=
  let n := keySlot key
  if c.kind = 2 then s.agreeCons die key c
  else if c.kind = 1 then s
  else
    let sl := s.slot die n
    let h := s.shard die sl.shard
    let is := c.written.filter fun i => h.wroteAt s.mem (sl.first + i) c.step
    let s := is.foldl (fun (s : State) i => s.voidBlock h (sl.first + i)) s
    let s := s.modDie die fun d => { d with
      cons := mdel d.cons key, peers := d.peers.filter (·.1 != key), staged := d.staged.filter (·.1 != key)
      reports := d.reports.map fun r =>
        if r.2.slot = n ∧ r.2.step = c.step then (r.1, { r.2 with outcome := 4, bytes := splice r.2.bytes 7 [4#8] }) else r }
    let s := s.modSlot die n fun x => { x with disputed := false }
    (if is.isEmpty then s.wcDry die n else s.derive die n c.step is).releaseSlice die n

/-- Logs a stage of 12 R318, with the first bytes of this part's digest. -/
def State.logStage (s : State) (die : Nat) (digest : List Byte) : State :=
  s.logFault ⟨0, 10, 2, 0, die, 0, Config.faultStatus 10, 0, 0, 0, 0, 0, sub digest 0 24⟩

/-- The slot halts unresolved: both parts' hosts are told, with the owner's digest of record A (12 R318 stage 4; 17 R439). -/
def State.unresolved (s : State) (die key : Nat) (c : Consume) (ownerA : List Byte) : State :=
  let (job, n, step) := s.consId die key c
  let s := (s.modCons die key fun c => { c with stage := 4 }).logStage die ownerA
  s.event evDigestMismatch job die stUnresolved (pack [(2, n), (2, 0), (4, step)] ++ ownerA)

/-- Field tests of the die's Varnish units (12 R318 stage 3). -/
def State.testVarnish (s : State) (die key : Nat) (c : Consume) : State :=
  let s := (s.modCons die key fun c => { c with stage := 3 }).logStage die c.updDigest
  (List.range 4).foldl (fun (s : State) k => if s.testing 3 die k then s
    else s.startTest { unit := 3, die := die, index := k, slot := some key }) s

/-- The gradient of a block as the update read it: the elements of the held buffer under the anchor they were summed on, which record A
holds as its hint, since the update has put the new hint into the anchor array (10 R246; 11 R291). -/
def State.heldGrad (s : State) (die n i : Nat) (a : Rec) : Bx := ⟨a.hint, (s.gradBlock die n i).ns⟩

/-- Stage 2 of 12 R318 on one side: record A and the held buffer are read again, and record B and the working copy are rewritten from the
recomputation. An outer update is not derived again, as its anchors have been replaced: its records and copies stand as written. -/
def State.recompute (s : State) (die key : Nat) (c : Consume) : State :=
  let n := keySlot key
  let (h, first) := s.consShard die key c
  if c.kind = 1 then s
  else
    let s := c.written.foldl (fun (s : State) i => match h.current s.mem (first + i) with
      | some (k, b) =>
        if c.kind = 0 then
          let a := h.rd s.mem (first + i) (1 - k)
          s.updateBlock die n i c (1 - k) a (s.heldGrad die n i a)
        else s.rederiveBlock die key i b
      | none => s) s
    let s := match s.wcDesc die n with | some d => if d.compressed then s.wcEncode die n d else s | none => s
    s.modCons die key fun x => { c with stage := x.stage, codes := x.codes, recs := x.recs }

/-- A side whose recomputation differed takes it as its result (12 R318 stage 2). -/
def State.takeRecomputed (s : State) (die key : Nat) (c : Consume) : State :=
  (s.recompute die key c).modCons die key fun c => { c with updDigest := c.updDigestOf }

/-- The stages of 12 R318 for a disagreement that the part handles. -/
def State.digestStages (s : State) (die key : Nat) (c : Consume) (p : Nat × Nat × List Byte × List Byte) (obs : DigestObs) : State :=
  if p.2.2.1 ≠ c.gradDigest ∧ c.kind = 0 then
    let s := (s.logStage die c.gradDigest).agreeSend die key c 1
    (s.modDie die fun d => { d with peers := d.peers.filter (·.1 != key) }).resetSlice die key
  else if c.stage < 2 then
    let s := ((s.logStage die c.updDigest).agreeSend die key c 2).modCons die key fun c => { c with stage := 2 }
    if obs.ownRepeats ∧ obs.peerRepeats then (s.agreeSend die key c 3).testVarnish die key c
    else
      let s := if obs.ownRepeats then s else s.takeRecomputed die key c
      if obs.peerRepeats then s else s.modDie die fun d => { d with peers := d.peers.filter (·.1 != key) }
  else if c.stage = 2 then (s.agreeSend die key c 3).testVarnish die key c
  else if s.ks.tests.any (·.slot == some key) then s
  else if !obs.ownTestOk then s.failStop 10 (Config.faultStatus 10)
  else if !obs.peerTestOk then s
  else
    let (h, first) := s.consShard die key c
    let a := s.recordADigest h first c
    (s.agreeSend die key c 4 a).unresolved die key c a

/-- DIGEST_COMPARE: the owner's digests against the twin's; agreement, or the next stage of 12 R318. A disagreement is first a fault of
its die subsystem (R303), and where that is queued the procedure waits until it is served (R323). `slot` is the consumption's key. -/
def execDigestCompare (die slot : Nat) (obs : DigestObs) (s : State) : Outcome :=
  .next (match s.consOf die slot, (s.die die).peers.find? (·.1 == slot) with
    | some c, some p =>
      let begun := fun (s : State) (c : Consume) => c.stage ≠ 0 ∨ (c.kind = 0 ∧ (s.slot die slot).disputed)
      if !s.live ∨ !c.done ∨ s.consTwin die slot c ∨ (s.consId die slot c).2.2 ≠ p.2.1 ∨ c.stage = 4 then s
      else if p.2.2.1 = c.gradDigest ∧ p.2.2.2 = c.updDigest then
        (s.agreeSend die slot c 0).agreeCons die slot c
      else if begun s c then s.digestStages die slot c p obs
      else if s.ks.queue.any fun x => x.detector == 10 && x.die == die && x.addr == slot then s
      else
        let s := s.fault ⟨10, die, 0, slot, false, sub (if p.2.2.1 ≠ c.gradDigest then c.gradDigest else c.updDigest) 0 24⟩
        match s.consOf die slot with
        | some c => if s.live ∧ begun s c then s.digestStages die slot c p obs else s
        | none => s
    | _, _ => s)

end Sys2Proof.Machine
end

