-- ==== Sys2Proof/Machine/Host.lean ====
section
/-! DEFINITION. Host ports: registers, mailboxes and admission, the device-memory window, vectors, resets and link loss, DOE and IDE
(16 R413 to R427; 17 R428 to R436). -/

namespace Sys2Proof.Machine

open Sys2Proof

/-! ### Access (16 R425, R427) -/

/-- The host reaches the function: the link is up, in D0. -/
def State.hostLinked (s : State) (p : Nat) : Bool := decide (p < 2) && (s.host p).linkUp && !(s.host p).d3hot

/-- A memory request is answered with Unsupported Request: IDE is required and no stream is secure (16 R427). -/
def State.hostUr (s : State) (p : Nat) : Bool := s.ks.ideRequired && (s.host p).ideSecure.isEmpty

/-- The part is fenced, or the port's die is (12 R324). -/
def State.hostFenced (s : State) (p : Nat) : Bool := s.part.state == 3 || (s.die (s.hostDie p)).fenced

/-- Host-tier shards on a port stop, and each is reported as a data fault: its function is frozen, its link is down, or a request of it was
completed with an error (11 R296; 12 R303; 16 R425). -/
def State.stopTier (s : State) (p : Nat) : State :=
  if !s.live then s
  else (List.range s.dieCount).foldl (fun (s : State) die =>
    (mkeys ((s.die die).shards.filter fun h => h.2.hostTier && h.2.port == p && !h.2.stopped)).foldl (fun (s : State) n =>
      (s.modDie die fun y => { y with shards := mmod y.shards n fun h => { h with stopped := true } }).fault ⟨9, die, n, 0, false, []⟩) s) s

/-- Freezes a host function; host-tier shards on it stop (12 R329; 11 R296). -/
def State.freezeHost (s : State) (p reason address : Nat) (request : List Byte) : State :=
  (s.freeze ⟨masterWord 7 0 p, 0, reason, 0, address, 0, 0, request⟩).stopTier p

/-- Runs a write of a host, which is dropped where the link is down or the request unsupported, and discarded and counted while the
function is frozen (12 R329; 16 R420). -/
def State.hostWrites (s : State) (p : Nat) (f : State → State) : State :=
  if !s.hostLinked p || s.hostUr p then s else if (s.host p).frozen then s.countHost p 1 else f s

/-- Runs a read of a host: Unsupported Request or Completer Abort where a rule says so. -/
def State.hostReads (s : State) (p : Nat) (f : State → State) : State :=
  if !s.hostLinked p then s
  else if s.hostUr p then { s with out := { s.out with cpl := s.out.cpl ++ [{ port := p, data := none, ur := true }] } }
  else if (s.host p).frozen then s.complete p none else f s

/-! ### BAR0 (16 R416 to R421) -/

/-- The order number. -/
def Variant.order : Variant → Nat
  | .xf202 => 0x0202
  | .xf204 => 0x0204
  | .xf208 => 0x0208

/-- HIF_WIN as 64 bits. -/
def Win.word (w : Win) : Nat := w.job <<< 48 + w.base <<< 30 + 2 * b2n w.writable + b2n w.valid

/-- A 64-bit register by its offset; none for another offset. -/
def State.bar0Wide (s : State) (p off : Nat) : Option Nat :=
  if off = 0x0008 then some ((s.ks.record.map (·.serial)).getD 0)
  else if off = 0x0018 then some s.part.tai
  else if 0x1000 ≤ off ∧ off < 0x2000 ∧ off % 8 = 0 then some (mgetD {} (s.host p).wins ((off - 0x1000) / 8)).word
  else if off = 0x9000 then some ((s.host p).msixPending.foldl (fun a v => a ||| 2 ^ v) 0)
  else none

/-- A 32-bit register word of BAR0; the high half of a 64-bit register is the latched one after its low half was read (16 R416). -/
def State.bar0Word (s : State) (p off : Nat) : Nat :=
  let h := s.host p
  match s.bar0Wide p (off / 8 * 8) with
  | some w =>
    if off % 8 = 0 then w % 2 ^ 32
    else match h.latch with
      | some (o, v) => if o = off then v else w / 2 ^ 32 % 2 ^ 32
      | none => w / 2 ^ 32 % 2 ^ 32
  | none =>
    if off = 0x0000 then
      (match s.ks.record with | some _ => s.part.variant.order <<< 16 + s.dieCount <<< 12 | none => 0) + p <<< 8 + s.part.stepping
    else if off = 0x0010 then s.hifStatus p
    else if off = 0x0014 then h.ctrl
    else if off = 0x2004 then h.busy
    else if off = 0x2008 then h.done
    else if off = 0x3000 then s.kstStatus
    else if off = 0x3004 then s.kstThermal
    else if off = 0x3008 then s.ks.faultsLogged
    else if off = 0x4000 then
      (if h.linkUp then
        (h.ideSecure.filter (· != 0)).length <<< 12 + b2n (h.ideSecure.contains 0) <<< 11 +
          b2n (Config.narrowed p s.part.tai) <<< 9 + b2n h.flit <<< 8 + h.width <<< 4 + h.rate else 0)
    else if off = 0x4004 then s.ks.powerMw
    else if 0x4010 ≤ off ∧ off < 0x4050 then at' 0 (s.host ((off - 0x4010) / 0x20)).counters ((off - 0x4010) % 0x20 / 4)
    else if 0x8000 ≤ off ∧ off < 0x8400 then mgetD (if off % 16 = 12 then 1 else 0) h.msixTable ((off - 0x8000) / 4)
    else 0

/-- An access of 4 or 8 bytes, naturally aligned (16 R416). -/
def bar0Sized (off size : Nat) : Bool := (size == 4 || size == 8) && off % size == 0

/-- BAR0_BAD_SIZE: a write is discarded, a read returns 0, and it is counted; a read of a proper size returns the register (16 R416). -/
def execBar0BadSize (p off size : Nat) (isWrite : Bool) (s : State) : Outcome :=
  .next (
    if isWrite then s.hostWrites p fun s => if bar0Sized off size then s else s.countHost p 3
    else s.hostReads p fun s =>
      if !bar0Sized off size then (s.complete p (some (zeros size))).countHost p 3
      else
        let v := if size = 8 then (s.bar0Wide p off).getD (s.bar0Word p off + s.bar0Word p (off + 4) <<< 32) else s.bar0Word p off
        (s.complete p (some (natLe size v))).modHost p fun h => { h with latch := if h.latch.map (·.1) = some off then none else h.latch })

/-- BAR0_LOW_HALF_READ: the low half is returned and the high half latched for the next read of the register (16 R416). -/
def execBar0LowHalfRead (p off : Nat) (s : State) : Outcome :=
  .next (s.hostReads p fun s =>
    match s.bar0Wide p off with
    | some v => (s.complete p (some (natLe 4 (v % 2 ^ 32)))).modHost p fun h => { h with latch := some (off + 4, v / 2 ^ 32 % 2 ^ 32) }
    | none => s)

/-- Sends the pending messages of vectors that are not masked (16 R424). -/
def State.flushVectors (s : State) (p : Nat) : State :=
  let h := s.host p
  let (go, stay) := h.msixPending.partition fun v => !h.masked v
  if !h.msixEnable || !h.linkUp || h.d3hot || h.ideDown then s
  else go.foldl (fun (s : State) v => s.vector p v) (s.modHost p fun h => { h with msixPending := stay })

/-- Writes a word of the MSI-X table. -/
def State.msixWrite (s : State) (p i v : Nat) : State :=
  (s.modHost p fun h => { h with msixTable := mset h.msixTable i (if i % 4 = 3 then v % 2 else if i % 4 = 0 then v / 4 * 4 else v) }).flushVectors p

/-- MSIX_VECTOR_UNMASK: clearing a vector's mask sends its pending message (16 R424). -/
def execMsixVectorUnmask (p vector : Nat) (s : State) : Outcome :=
  .next (s.hostWrites p fun s => if vector < 64 then s.msixWrite p (4 * vector + 3) 0 else s)

/-- HIF_CTRL: the two enables (16 R416). -/
def State.writeCtrl (s : State) (p v : Nat) : State := s.modHost p fun h => { h with ctrl := v % 4 }

/-- MBX_DONE: write 1 to clear (16 R418). -/
def State.clearDone (s : State) (p v : Nat) : State := s.modHost p fun h => { h with done := h.done &&& (v ^^^ (2 ^ 32 - 1)) }

/-- HIF_CTRL. -/
def execHifCtrl (p : Nat) (value : Word) (s : State) : Outcome := .next (s.hostWrites p fun s => s.writeCtrl p value.toNat)

/-- MBX_DONE. -/
def execMbxDone (p : Nat) (value : Word) (s : State) : Outcome := .next (s.hostWrites p fun s => s.clearDone p value.toNat)

/-- A word written to BAR0 but to MBX_POST: the MSI-X table holds it, the enables and DONE bits take it, every other register ignores
it (16 R416). -/
def State.writeWord (s : State) (p off v : Nat) : State :=
  if off = 0x0014 then s.writeCtrl p v
  else if off = 0x2008 then s.clearDone p v
  else if 0x8000 ≤ off ∧ off < 0x8400 then s.msixWrite p ((off - 0x8000) / 4) v
  else s

/-- REGISTER_WRITE: a write to a register with no behaviour of its own; what it does to any other register is that register's
(16 R416; 00 R11). -/
def execRegisterWrite (p off size : Nat) (value : DWord) (s : State) : Outcome :=
  .next (s.hostWrites p fun s =>
    if !bar0Sized off size then s.countHost p 3
    else
      let s := s.writeWord p off (value.toNat % 2 ^ 32)
      if size = 8 then s.writeWord p (off + 4) (value.toNat / 2 ^ 32) else s)

/-! ### Mailboxes (16 R417, R418; 17 R428 to R430) -/

/-- Bytes of a function's mailboxes. -/
def HostPort.mbxBytes (h : HostPort) (off n : Nat) : List Byte := (List.range n).map fun i => mgetD 0 h.mbx (off + i)
/-- Writes bytes of a function's mailboxes. -/
def HostPort.mbxWrite (h : HostPort) (off : Nat) (bs : List Byte) : HostPort :=
  { h with mbx := bs.zipIdx.foldl (fun m b => mset m (off + b.2) b.1) h.mbx }

/-- A protocol breach freezes the function (16 R418). -/
def State.mbxBreach (s : State) (p off : Nat) (req : List Byte) : State := s.freezeHost p stMailbox off req

/-- MAILBOX_REQUEST_WRITE: the bytes are written; a write to a posted request half or a response half is a breach (16 R418). -/
def execMailboxRequestWrite (p off : Nat) (data : List Byte) (s : State) : Outcome :=
  .next (s.hostWrites p fun s =>
    let h := s.host p
    if data.isEmpty ∨ 0x40000 < off + data.length then s
    else if (List.range data.length).any fun i => decide (0x1000 ≤ (off + i) % 0x2000) || bitOf h.busy ((off + i) / 0x2000) then s.mbxBreach p off data
    else s.modHost p fun h => h.mbxWrite off data)

/-- A field of a request header. -/
def Cmd.group (c : Cmd) : Nat := fld c.hdr 0 1
/-- command. -/
def Cmd.code (c : Cmd) : Nat := fld c.hdr 1 1
/-- job. -/
def Cmd.job (c : Cmd) : Nat := fld c.hdr 4 2
/-- flags. -/
def Cmd.flags (c : Cmd) : Nat := fld c.hdr 6 2

/-- The header does not break the protocol (17 R428). -/
def hdrOk (h : List Byte) : Bool :=
  let f := fld h 6 2
  decide (1 ≤ fld h 0 1 ∧ fld h 0 1 ≤ 12 ∧ f < 4 ∧ fld h 8 4 ≤ (if bitOf f 0 then 4194304 else 4064)) &&
  (bitOf f 0 || zeroAt h 0x10 8) && (bitOf f 1 || zeroAt h 0x18 8)

/-- A row of 17 R441: group, command, standing, primary only, takes job 0, where the body names the executing die (a master word names it
in bits [27:24]), and whether it may continue (D). -/
structure CmdRow where
  group : Nat
  code : Nat
  standing : Nat
  primary : Bool := false
  device : Bool := false
  die : Option Nat := none
  defers : Bool := false
deriving DecidableEq, Repr

/-- The commands of 17 R441. -/
def cmdRows : List CmdRow :=
  [{ group := 1, code := 1, standing := 2, device := true }, { group := 1, code := 2, standing := 2, device := true, die := some 0 },
   { group := 1, code := 3, standing := 2, device := true }, { group := 1, code := 4, standing := 1, primary := true, device := true },
   { group := 1, code := 5, standing := 1, primary := true, device := true },
   { group := 2, code := 1, standing := 1 }, { group := 2, code := 2, standing := 1, die := some 0 }, { group := 2, code := 3, standing := 1, die := some 0, defers := true },
   { group := 3, code := 1, standing := 1 }, { group := 3, code := 2, standing := 1 }, { group := 3, code := 3, standing := 1, defers := true },
   { group := 3, code := 4, standing := 1, defers := true }, { group := 3, code := 5, standing := 2 },
   { group := 4, code := 1, standing := 1, die := some 0 }, { group := 4, code := 2, standing := 1, die := some 0 },
   { group := 4, code := 3, standing := 1, die := some 0 }] ++
  [{ group := 5, code := 1, standing := 1, die := some 0 }, { group := 5, code := 2, standing := 1, die := some 0, defers := true },
   { group := 5, code := 3, standing := 2, die := some 0 }, { group := 5, code := 4, standing := 2, die := some 0 },
   { group := 5, code := 5, standing := 1, die := some 0 },
   { group := 6, code := 1, standing := 2, die := some 0 }, { group := 6, code := 2, standing := 2, die := some 0 },
   { group := 6, code := 3, standing := 2, die := some 0 }, { group := 6, code := 4, standing := 2, die := some 0 },
   { group := 6, code := 5, standing := 2, die := some 0, defers := true }, { group := 6, code := 6, standing := 2, die := some 0 },
   { group := 7, code := 1, standing := 1, die := some 0 }, { group := 7, code := 2, standing := 2, die := some 0 },
   { group := 7, code := 3, standing := 1, die := some 0 }, { group := 7, code := 4, standing := 1, primary := true, device := true },
   { group := 7, code := 5, standing := 1, primary := true, device := true }, { group := 7, code := 6, standing := 1 },
   { group := 7, code := 7, standing := 1, primary := true, device := true, die := some 0 }] ++
  [{ group := 8, code := 1, standing := 1, die := some 0 }, { group := 8, code := 2, standing := 1, die := some 0, defers := true },
   { group := 8, code := 3, standing := 1, die := some 0 }, { group := 8, code := 4, standing := 1, die := some 0 },
   { group := 8, code := 5, standing := 1 }, { group := 8, code := 6, standing := 2, die := some 0 },
   { group := 8, code := 7, standing := 2, die := some 0 }, { group := 8, code := 8, standing := 0, defers := true },
   { group := 8, code := 9, standing := 0, die := some 0, defers := true }, { group := 8, code := 10, standing := 2, die := some 0 },
   { group := 9, code := 1, standing := 1, primary := true, device := true }, { group := 9, code := 2, standing := 1 },
   { group := 9, code := 3, standing := 1 }, { group := 9, code := 4, standing := 1 }, { group := 9, code := 5, standing := 2 },
   { group := 9, code := 6, standing := 1, primary := true, device := true }, { group := 9, code := 7, standing := 2 }] ++
  [{ group := 10, code := 1, standing := 1, die := some 1, defers := true }, { group := 10, code := 2, standing := 0, die := some 3 },
   { group := 10, code := 3, standing := 2, die := some 0 }, { group := 10, code := 4, standing := 2, die := some 3 }, { group := 10, code := 5, standing := 2 },
   { group := 11, code := 1, standing := 2, die := some 0 }, { group := 12, code := 1, standing := 2 }]

/-- The row of a command. -/
def cmdRow (g n : Nat) : Option CmdRow := cmdRows.find? fun r => r.group == g && r.code == n

/-- Entries of a die's admission queue for a standing (17 R434). -/
def admitRoom (standing : Nat) : Nat := if standing = 1 then 48 else 16

/-- An entry of the standing is free. -/
def State.admitFree (s : State) (die standing : Nat) : Bool :=
  decide (((s.die die).admitted.filter (·.standing == standing)).length < admitRoom standing)

/-- A refusal: ST_REFUSED with its hint, counted (17 R434). -/
def State.refuse (s : State) (c : Cmd) (retry : Nat) : State := (s.countRefusal (s.hostDie c.port) 4 c.standing).respond c stRefused [] retry

/-- The commands a fenced part admits: DEV-INFO, DEV-BAYS, DEV-PROBES and TEL-READ (17 R436). -/
def fencedOk (g n : Nat) : Bool := (g == 1 && decide (n ≤ 3)) || g == 11

/-- Admits a posted command at its port's die, or answers it: undefined commands, those of a full standing B or C, and while the part is
fenced all but four (17 R428, R434, R436). -/
def State.admitCmd (s : State) (c : Cmd) : State :=
  match cmdRow c.group c.code with
  | none => s.respond c (if s.hostFenced c.port then stFenced else stMalformed)
  | some r =>
    if s.hostFenced c.port ∧ !fencedOk c.group c.code then s.respond c stFenced
    else if s.admitFree (s.hostDie c.port) r.standing then s.modDie (s.hostDie c.port) fun d => { d with admitted := d.admitted ++ [c] }
    else if r.standing = 0 then s.modHost c.port fun h => { h with posted := h.posted ++ [c] }
    else s.refuse c (10 + (Config.admitRetry s.part.tai).val)

/-- The command that a posted mailbox holds, with its place in the order of posts (17 R428, R432). `hostBody`: what a body in host memory
reads as, none for a completion error. -/
def State.postedCmd (s : State) (p m : Nat) (hostBody : Option (List Byte)) : Cmd :=
  let h := s.host p
  let hdr := h.mbxBytes (0x2000 * m) 32
  let n := fld hdr 8 4
  let far := bitOf (fld hdr 6 2) 0
  let body := if far then (hostBody.getD []).take n else h.mbxBytes (0x2000 * m + 32) n
  let row := cmdRow (fld hdr 0 1) (fld hdr 1 1)
  let die := match row.bind (·.die) with
    | some o =>
      let d := if fld hdr 0 1 = 10 then fld body o 1 % 16 else fld body o 1
      if o < body.length ∧ d < s.dieCount then d else s.hostDie p
    | none => s.hostDie p
  { seq := s.part.posts, port := p, mailbox := m, standing := (row.map (·.standing)).getD 2, die := die, hdr := hdr, body := body,
    hostErr := far && (hostBody.isNone || body.length != n) }

/-- Posts a mailbox (16 R417, R418; 17 R428). -/
def State.post (s : State) (p m : Nat) (hostBody : Option (List Byte)) : State :=
  let h := s.host p
  if !bitOf h.ctrl 0 ∨ (s.part.state ≠ 2 ∧ s.part.state ≠ 3) then s
  else if bitOf h.busy m ∨ !hdrOk (h.mbxBytes (0x2000 * m) 32) then s.mbxBreach p 0x2000 (natLe 4 m)
  else
    let c := s.postedCmd p m hostBody
    let s : State := { s with part := { s.part with posts := s.part.posts + 1 } }
    (s.modHost p fun h => { h with busy := h.busy ||| 2 ^ m, done := h.done &&& (2 ^ m ^^^ (2 ^ 32 - 1)) }).admitCmd c

/-- MBX_POST: bits above the mailbox field are ignored (16 R417, R418). -/
def execMbxPost (p : Nat) (value : Word) (hostBody : Option (List Byte)) (s : State) : Outcome :=
  .next (s.hostWrites p fun s => s.post p (value.toNat % 32) hostBody)

/-- COMMAND_ADMIT: a posted command of standing A is admitted when an entry is free (17 R434). -/
def execCommandAdmit (p m : Nat) (s : State) : Outcome :=
  .next (match (s.host p).posted.find? (·.mailbox == m) with
    | some c =>
      if s.admitFree (s.hostDie p) c.standing then
        (s.modHost p fun h => { h with posted := h.posted.erase c }).modDie (s.hostDie p) fun d => { d with admitted := d.admitted ++ [c] }
      else s
    | none => s)

/-- The 32 bytes of a response header (17 R429). -/
def respHdr (c : Cmd) (status : Nat) (far cut : Bool) (len retry detail tai : Nat) : List Byte :=
  c.hdr.take 4 ++ pack [(2, status), (2, b2n far + 2 * b2n cut), (4, len), (4, retry), (8, detail), (8, tai)]

/-- Writes a response: the body inline, or to host memory before DONE, cut at the room there is (17 R429, R430; 16 R417). -/
def State.writeResponse (s : State) (p : Nat) (r : Resp) (hostOk : Bool) : State :=
  let far := bitOf r.cmd.flags 1
  let fail := far && !r.body.isEmpty && !hostOk
  let room := if far then fld r.cmd.hdr 0xC 4 else 4064
  let body := if fail then [] else r.body.take room
  let status := if fail then stHostIo else r.status
  let hdr := respHdr r.cmd status far (!fail && decide (room < r.body.length)) body.length (if fail then 0 else r.retry)
    (if fail then 0 else r.detail) s.part.tai
  let m := r.cmd.mailbox
  let s := if far ∧ !body.isEmpty then s.hostWrite p (fld r.cmd.hdr 0x18 8) body else s
  let s := s.modHost p fun h => { h.mbxWrite (0x2000 * m + 0x1000) (if far then hdr else hdr ++ body) with
    busy := h.busy &&& (2 ^ m ^^^ (2 ^ 32 - 1)), done := h.done ||| 2 ^ m }
  s.vector p m

/-! ### The device-memory window (16 R422) -/

/-- The window entry and DPA of each byte of an access. -/
def State.winBytes (s : State) (p off n : Nat) : List (Win × Nat) :=
  (List.range n).map fun i =>
    let x := off + i
    let w := mgetD {} (s.host p).wins (x / 2 ^ 30)
    (w, w.base * 2 ^ 30 + x % 2 ^ 30)

/-- Rule 1: the byte has no valid entry, or is out of range. -/
def State.winRule1 (s : State) (write : Bool) (x : Win × Nat) : Bool := !x.1.valid || (write && !x.1.writable) || !s.dpaOk x.2
/-- Rule 2: the byte lies in a bay retired since the entry was written. -/
def State.winRule2 (s : State) (x : Win × Nat) : Bool :=
  dpaOnDie x.2 && decide (dpaRegion x.2 ≤ 1) &&
    (let b := s.bay (dpaDie x.2) (dpaBay x.2); b.cond == .retired && decide (x.1.stamp < b.retiredAt))
/-- Rule 3: the byte lies outside the job's grants, or in the control region. -/
def State.winRule3 (s : State) (x : Win × Nat) : Bool := (dpaOnDie x.2 && dpaRegion x.2 == 0xFF) || !s.holdsDpa x.1.job x.2 1
/-- Rule 4: the byte lies in a bounce buffer. -/
def State.winRule4 (s : State) (x : Win × Nat) : Bool :=
  match sramOf x.2 with
  | some (d, b, a) => ((s.bay d b).entsAt a 1).any fun e => match e.owner with | .bounce _ => true | _ => false
  | none => false
/-- Rule 5: the byte is protected: side memory, palette tables, or SRAM that is not free. -/
def State.winRule5 (s : State) (x : Win × Nat) : Bool :=
  dpaOnDie x.2 && (dpaRegion x.2 != 0 || !(s.bay (dpaDie x.2) (dpaBay x.2)).freeAt (dpaByte x.2) 1)

/-- The window covers the offset (16 R415, R422). -/
def State.winCovers (s : State) (p off n : Nat) : Bool := decide (0 < n ∧ off + n ≤ (s.host p).bar4)

/-- A byte as a host reads it: a bay's palette slots, side memory, SRAM, or LPDDR5X (09 R235; 16 R422). -/
def State.winByte (s : State) (a : Nat) : Byte :=
  if dpaOnDie a ∧ dpaRegion a = 2 then (s.bay (dpaDie a) (dpaBay a)).palByte (dpaByte a) else rdByte s.mem a

/-- BAR4_READ: the first rule that applies decides (16 R422; 12 R324); memory in self-refresh wakes first (19 R463); a word that fails
parity ends it with Completer Abort, and the fault is logged (12 R307). -/
def execBar4Read (p off size : Nat) (s : State) : Outcome :=
  .next (s.hostReads p fun s =>
    let xs := s.winBytes p off size
    let a := (xs.head?.map (·.2)).getD 0
    if !s.winCovers p off size then s
    else if s.hostFenced p then s.complete p none
    else if xs.any (s.winRule1 false) then (s.freezeHost p stRange a []).complete p none
    else if xs.any s.winRule2 then (s.countHost p 4).complete p none
    else if xs.any s.winRule3 then (s.freezeHost p stRange a []).complete p none
    else match xs.find? fun x => s.badWord x.2 with
      | some x => (s.logFault ⟨0, 1, 1, 0, dpaDie x.2, 0, Config.faultStatus 1, 0, dpaBay x.2, 0, 0, x.2, []⟩).complete p none
      | none => (s.memWake a).complete p (some (xs.map fun x => s.winByte x.2)))

/-- BAR4_WRITE: the first rule that applies decides; a frozen access has no effect on any byte (16 R422; 12 R324). A write that covers part
of a word that fails parity leaves it, and the fault is logged (04 R86). -/
def execBar4Write (p off : Nat) (data : List Byte) (s : State) : Outcome :=
  .next (s.hostWrites p fun s =>
    let xs := s.winBytes p off data.length
    let a := (xs.head?.map (·.2)).getD 0
    if !s.winCovers p off data.length then s
    else if s.hostFenced p then s.countHost p 1
    else if xs.any (s.winRule1 true) then s.freezeHost p stRange a data
    else if xs.any s.winRule2 then s.countHost p 4
    else if xs.any s.winRule3 then s.freezeHost p stRange a data
    else if xs.any s.winRule4 then s.countHost p 1
    else if xs.any s.winRule5 then s.freezeHost p stProtected a data
    else
      let s := s.memWake a
      let as := xs.map (·.2)
      let keep := fun (x : Nat) => s.badWord x && !(List.range 4).all fun i => as.contains (x / 4 * 4 + i)
      let s := match as.find? keep with
        | some x => s.logFault ⟨0, 1, 1, 0, dpaDie x, 0, Config.faultStatus 1, 0, dpaBay x, 0, 0, x, []⟩
        | none => s
      let mem := (List.zip as data).foldl (fun m x => if keep x.1 then m else wrByte m x.1 x.2) s.mem
      ({ s with mem := mem } : State).wrote a data.length)

/-! ### Resets and links (16 R423, R425) -/

/-- The mailboxes of a port are reset: responses of posted commands are discarded, the MBX_ registers, HIF_CTRL and the MSI-X table take their
reset values (16 R425). -/
def State.resetPort (s : State) (p : Nat) : State :=
  let drop := fun (c : Cmd) => if c.port = p then { c with gone := true } else c
  let s := s.modHost p fun h => { h with
    ctrl := 0, busy := 0, done := 0, posted := h.posted.map drop, resps := []
    msixTable := [], msixPending := [], msixEnable := false }
  { s with dies := s.dies.map fun d => (d.1, { d.2 with
      admitted := d.2.admitted.map drop
      deferred := d.2.deferred.map fun e => if e.token.isNone then { e with cmd := drop e.cmd } else e }) }

/-- FUNCTION_LEVEL_RESET: a frozen function stays frozen; window entries stay (16 R425). -/
def execFunctionLevelReset (p : Nat) (s : State) : Outcome := .next (if s.hostLinked p then s.resetPort p else s)

/-- LINK_DOWN: link down, hot reset, PERST or D3hot act on the mailboxes as a Function Level Reset (16 R425). -/
def execLinkDown (p : Nat) (why : LinkEvent) (s : State) : Outcome :=
  .next (
    if 2 ≤ p then s
    else
      let s := s.resetPort p
      (s.modHost p fun h => match why with
        | .d3hot => { h with d3hot := true, downSince := h.downSince.or (some s.part.tai) }
        | _ => { h with linkUp := false, ideSecure := [], downSince := h.downSince.or (some s.part.tai) }).stopTier p)

/-- HOST_LINK_UP: the link is usable at a rate and width; what the host configures of MSI-X and of BAR4's size, from 1 to 512 GiB, comes with
it; held vectors go out (16 R413, R415, R424, R425). -/
def execHostLinkUp (p rate width : Nat) (flit msix : Bool) (bar4 : Nat) (s : State) : Outcome :=
  .next (
    if 2 ≤ p ∨ !s.part.porN then s
    else (s.modHost p fun h => { h with
      linkUp := true, d3hot := false, rate := rate, width := width, flit := flit || rate == 6, msixEnable := msix
      bar4 := if (List.range 10).any (fun i => bar4 == 2 ^ (30 + i)) then bar4 else h.bar4
      downSince := if h.frozen || h.ideDown then h.downSince else none }).flushVectors p)

/-- PRIMARY_FAILOVER: the primary moves when its port has been unusable for 1 s and the other's link is up (16 R423). -/
def execPrimaryFailover (s : State) : Outcome :=
  .next (
    let p := s.ks.primary
    let h := s.host p
    if (s.part.state = 2 ∨ s.part.state = 3) ∧ (!h.linkUp || h.d3hot || h.frozen) ∧ (s.host (1 - p)).linkUp ∧
        (h.downSince.any fun t => decide (t + 10 ^ 9 ≤ s.part.tai)) then
      ({ s with ks := { s.ks with primary := 1 - p } } : State).event evPrimary 0 (s.hostDie (1 - p)) 0 (natLe 1 (1 - p))
    else s)

/-- COMPLETION_TIMEOUT: a request of the part on a port is not completed within 50 ms; it is handled as a completion error (16 R425). The request
is the segment read of stream req % 64 of die req / 64 below 512; from there a record of shard (req − 512) % 1024 of die (req − 512) / 1024;
from 16384 the body of the command of mailbox (req − 16384) % 32. -/
def execCompletionTimeout (p req : Nat) (s : State) : Outcome :=
  .next (
    if 2 ≤ p ∨ !s.live then s
    else if req < 512 then
      let x := s.stream (req / 64) (req % 64)
      if s.streamRuns (req / 64) (req % 64) ∧ x.port = p ∧ !x.segs.isEmpty then s.streamStop (req / 64) (req % 64) stHostIo (x.lastPts.getD 0) else s
    else if req < 16384 then
      let die := (req - 512) / 1024
      let n := (req - 512) % 1024
      match mget (s.die die).shards n with
      | some h => if h.hostTier ∧ h.port = p ∧ !h.stopped then s.fault ⟨9, die, n, 0, false, []⟩ else s
      | none => s
    else
      let late := fun (c : Cmd) => if c.port = p ∧ c.mailbox = (req - 16384) % 32 ∧ bitOf c.flags 0 then { c with hostErr := true } else c
      let s := s.modHost p fun h => { h with posted := h.posted.map late }
      { s with dies := s.dies.map fun d => (d.1, { d.2 with admitted := d.2.admitted.map late }) })

/-! ### DOE and IDE (16 R426, R427) -/

/-- DOE_OBJECT: SPDM is answered, IDE_KM makes a stream Secure; an object written while another is in progress is not read (16 R426,
R427). -/
def execDoeObject (p : Nat) (x : DoeObject) (s : State) : Outcome :=
  .next (
    let h := s.host p
    if !s.hostLinked p then s
    else match x with
      | .done => s.modHost p fun h => { h with doeBusy := false }
      | .begun => if h.doeBusy then s.modHost p fun h => { h with doeIgnored := h.doeIgnored + 1 } else s.modHost p fun h => { h with doeBusy := true }
      | .spdm r => if h.doeBusy then s.modHost p fun h => { h with doeIgnored := h.doeIgnored + 1 }
        else if !s.ks.identityOk then s
        else { s with out := { s.out with doe := s.out.doe ++ [(p, s.spdmAnswer r)] } }
      | .ideKeyed n => if h.doeBusy then s.modHost p fun h => { h with doeIgnored := h.doeIgnored + 1 }
        else if 5 ≤ n then s
        else s.modHost p fun h => { h with
          ideSecure := if h.ideSecure.contains n then h.ideSecure else h.ideSecure ++ [n], ideDown := false
          downSince := if h.linkUp && !h.d3hot && !h.frozen then none else h.downSince })

/-- IDE_INTEGRITY_FAIL: counted; the stream is Insecure and the port acts as under link down until a stream is keyed (16 R427). -/
def execIdeIntegrityFail (p stream : Nat) (s : State) : Outcome :=
  .next (
    if !s.hostLinked p ∨ !(s.host p).ideSecure.contains stream then s
    else (((s.countHost p 6).resetPort p).modHost p fun h => { h with
      ideSecure := h.ideSecure.filter (· != stream), ideDown := true, downSince := h.downSince.or (some s.part.tai) }).stopTier p)

end Sys2Proof.Machine
end

