-- ==== Sys2Proof/Machine/Time.lean ====
section
/-! DEFINITION. Time: 1PPS edges, ZDA sentences, the states of the TAI counter, and its error (15 R410 to R412). -/

namespace Sys2Proof.Machine

open Sys2Proof

/-- Changes the time registers. -/
def State.modTime (s : State) (f : Time → Time) : State := { s with time := f s.time }

/-- The code of a time state (15 R411). -/
def TimeState.code : TimeState → Nat
  | .free => 0
  | .locked => 1
  | .holdover => 2

/-- The error estimate in ns (15 R411). -/
def State.timeError (s : State) : Nat :=
  match s.time.state with
  | .free => (Config.freeTimeError s.part.tai).toNat
  | .locked => 20
  | .holdover => 20 + s.time.sigma * (s.part.tai - s.time.holdStart) / 10 ^ 9

/-- A move of the counter, never below 0. -/
def State.moveTai (s : State) (d : Int) : State := { s with part := { s.part with tai := ((s.part.tai : Int) + d).toNat } }

/-- What counts by itself on a die in one µs: stalls by resource and standing, and corrected LPDDR5X errors by channel (20 R481; 12
R305). -/
def Die.count (d : Die) (die us : Nat) : Die := { d with
  stalls := (List.range 18).map fun i => at' 0 d.stalls i + b2n (Config.stalled die i us)
  corrected := (List.range 4).map fun c => at' 0 d.corrected c + Config.correctedErrors die c us }

/-- What counts by itself at a port in one µs (20 R481; 17 TEL groups 0x02 and 0x03). -/
def Port.count (p : Port) (k us : Nat) : Port := { p with
  stalls := (List.range 3).map fun i => at' 0 p.stalls i + b2n (Config.portStalled k i us)
  corrected := p.corrected + Config.correctedCodewords k us }

/-- 15 R410: the counter advances in 40 ns. DESIGN CHOICE: an empty queue is one such period, and of what the part does by itself only
the counters of time advance, at the end of a µs (log 1, 10). -/
def State.tick (s : State) : State :=
  let t := (s.part.tai + 40) % 2 ^ 64
  let counts := s.part.porN && t / 1000 != s.part.tai / 1000
  { s with
    part := { s.part with tai := t }
    dies := if counts then (List.range s.dieCount).foldl (fun m d => mset m d ((s.die d).count d (t / 1000))) s.dies else s.dies
    span := { s.span with
      ports := if counts then ((List.range 18).filter s.portExists).foldl (fun m k => mset m k ((s.port k).count k (t / 1000))) s.span.ports
        else s.span.ports } }

/-! ### NMEA 0183 ZDA (15 R410) -/

/-- The value of ASCII decimal digits; none for another character or no digit. -/
def decNat (bs : List Byte) : Option Nat :=
  if bs.isEmpty ∨ !bs.all (fun b => decide (48 ≤ b.toNat ∧ b.toNat ≤ 57)) then none
  else some (bs.foldl (fun a b => 10 * a + (b.toNat - 48)) 0)

/-- The value of a hexadecimal digit. -/
def hexNat (b : Byte) : Option Nat :=
  let c := b.toNat
  if 48 ≤ c ∧ c ≤ 57 then some (c - 48) else if 65 ≤ c ∧ c ≤ 70 then some (c - 55) else if 97 ≤ c ∧ c ≤ 102 then some (c - 87) else none

/-- Splits at commas. -/
def commas (bs : List Byte) : List (List Byte) :=
  bs.foldr (fun b a => if b.toNat = 44 then [] :: a else match a with | x :: xs => (b :: x) :: xs | [] => [[b]]) [[]]

/-- Days from 1970-01-01 to a Gregorian date. -/
def daysFrom (y m d : Nat) : Nat :=
  let leap := fun y : Nat => b2n (decide (y % 4 = 0 ∧ (y % 100 ≠ 0 ∨ y % 400 = 0)))
  let before := fun y : Nat => 365 * y + (y - 1) / 4 - (y - 1) / 100 + (y - 1) / 400
  before y - before 1970 + (([31, 28 + leap y, 31, 30, 31, 30, 31, 31, 30, 31, 30, 31].take (m - 1)).foldl (· + ·) 0) + (d - 1)

/-- The UTC second, since 1970-01-01T00:00:00, that a ZDA sentence with a valid checksum names. -/
def zdaUtc (bs : List Byte) : Option Nat :=
  let body := (bs.drop 1).takeWhile (·.toNat != 42)
  let tail := (bs.drop 1).dropWhile (·.toNat != 42)
  let sum := body.foldl (fun a b => a ^^^ b) (0 : Byte)
  match (bs.headD 0).toNat, tail with
  | 36, _ :: h :: l :: rest => match hexNat h, hexNat l with
    | some h, some l =>
      if 16 * h + l ≠ sum.toNat ∨ !(rest.isEmpty || rest.map (·.toNat) == [13, 10]) then none
      else match commas body with
        | name :: time :: day :: month :: year :: _ =>
          if name.length ≠ 5 ∨ (name.drop 2).map (·.toNat) ≠ [90, 68, 65] then none
          else match decNat (time.take 2), decNat ((time.drop 2).take 2), decNat ((time.drop 4).take 2), decNat day, decNat month, decNat year with
            | some hh, some mm, some ss, some d, some mo, some y =>
              if 24 ≤ hh ∨ 60 ≤ mm ∨ 60 < ss ∨ d < 1 ∨ 31 < d ∨ mo < 1 ∨ 12 < mo ∨ y < 1970 then none
              else some (86400 * daysFrom y mo d + 3600 * hh + 60 * mm + ss)
            | _, _, _, _, _, _ => none
        | _ => none
    | _, _ => none
  | _, _ => none

/-! ### Edges and states (15 R411) -/

/-- PPS_EDGE: `edge` is the counter at the edge. In LOCKED the counter is brought to the edge, by at most 100 µs; otherwise the edge is
judged against the one before (15 R411). -/
def execPpsEdge (edge : Nat) (s : State) : Outcome :=
  .next (
    if !s.live then s
    else
      let t := s.time
      let ok := match t.lastEdge with
        | some e => decide (e + 10 ^ 9 ≤ edge + 10000 ∧ edge ≤ e + 10 ^ 9 + 10000)
        | none => false
      match t.state, t.label with
      | .locked, some l =>
        let l := l + 1 + t.missing
        let err : Int := (l : Int) * 10 ^ 9 - edge
        let s := s.modTime fun t => { t with lastEdge := some edge, label := some l, labelled := true, edgeOk := ok, missing := 0 }
        if err.natAbs ≤ 100000 then s.moveTai (err + (Config.edgeError edge).val - 20)
        else s.moveTai (if err < 0 then -100000 else 100000)
      | _, _ =>
        let chain := ok && t.labelled
        s.modTime fun t => { t with
          lastEdge := some edge, edgeOk := chain, labelled := false, missing := 0
          good := if chain then t.good else 0, label := if chain then t.label else none })

/-- A sentence labels the edge `e` with UTC second `u`; the sixteenth good edge in a row locks the time, which steps only where nothing was
ever locked and no session is loaded (15 R410, R411; log 21). -/
def State.zdaTaken (s : State) (u e : Nat) : State :=
  let t := s.time
  let l := ((u : Int) + t.offset).toNat
  let ok := t.edgeOk && t.label == some (l - 1)
  let good := if ok then t.good + 1 else 0
  let s := s.modTime fun t => { t with label := some l, labelled := true, good := good }
  if good < 16 then s
  else
    let first := t.state == .free && s.via.sessions.isEmpty
    let s := s.modTime fun t => { t with state := .locked, good := 0, missing := 0, limited := false }
    let s := if first then
        let d : Int := (l : Int) * 10 ^ 9 - e
        (s.moveTai d).modTime fun t => { t with lastEdge := some (l * 10 ^ 9) }
      else s
    s.event evLocked 0 0 0 (natLe 8 s.timeError)

/-- ZDA_SENTENCE: 100 to 900 ms after the edge it gives the edge's UTC second; the 16th consecutive good edge locks the counter
(15 R410, R411). -/
def execZdaSentence (sentence : List Byte) (afterMs : Nat) (s : State) : Outcome :=
  .next (match zdaUtc sentence, s.time.lastEdge with
    | some u, some e =>
      let t := s.time
      if !s.live ∨ afterMs < 100 ∨ 900 < afterMs ∨ t.labelled ∨ t.state = .locked then s
      else s.zdaTaken u e
    | _, _ => s)

/-- PPS_MISSING: an edge did not come; the third in a row puts a locked counter into HOLDOVER (15 R411). -/
def execPpsMissing (s : State) : Outcome :=
  .next (
    if !s.live then s
    else
      let t := s.time
      let s := s.modTime fun t => { t with missing := t.missing + 1, good := 0, edgeOk := false }
      if t.state = .locked ∧ 3 ≤ t.missing + 1 then
        let s := s.modTime fun t => { t with
          state := .holdover, holdStart := s.part.tai, missing := 0, label := none, labelled := false, limited := false }
        s.event evHoldover 0 0 0 (natLe 8 s.timeError)
      else if t.state = .locked then s
      else s.modTime fun t => { t with label := none })

/-- TIME_ERROR_LIMIT_EXCEEDED: the error estimate of a holdover has passed the limit (15 R412). -/
def execTimeErrorLimitExceeded (s : State) : Outcome :=
  .next (
    if s.live ∧ s.time.state = .holdover ∧ !s.time.limited ∧ s.time.limit * 10 ^ 6 < s.timeError then
      (s.modTime fun t => { t with limited := true }).event evTimeLimit 0 0 0 (natLe 8 s.timeError)
    else s)

/-- TAI_UTC_OFFSET_CHANGE: the announced change takes effect (15 R410). -/
def execTaiUtcOffsetChange (s : State) : Outcome :=
  .next (match s.time.change with
    | some (at_, o) => if s.live ∧ at_ ≤ s.part.tai then s.modTime fun t => { t with offset := o, change := none } else s
    | none => s)

end Sys2Proof.Machine
end

