-- ==== Sys2Proof/Machine/Viaduct.lean ====
section
/-! DEFINITION. The Viaduct up to its transport: ports, interfaces, MACsec and IP acceptance, segments, sessions' sending and receiving
sides (15 R378 to R395). -/

namespace Sys2Proof.Machine

open Sys2Proof

/-- A Viaduct port. -/
def State.vport (s : State) (p : Nat) : VPort := mgetD {} s.via.ports p
/-- Changes a Viaduct port. -/
def State.modVport (s : State) (p : Nat) (f : VPort → VPort) : State :=
  { s with via := { s.via with ports := mset s.via.ports p (f (s.vport p)) } }
/-- An interface of a port. -/
def State.itf (s : State) (p i : Nat) : Itf := at' {} (s.vport p).itfs i
/-- Changes an interface. -/
def State.modItf (s : State) (p i : Nat) (f : Itf → Itf) : State :=
  s.modVport p fun v => { v with itfs := setAt v.itfs i (f (at' {} v.itfs i)) }
/-- A session by its key, 256 × port + session (15 R385). -/
def State.sess (s : State) (k : Nat) : Session := mgetD {} s.via.sessions k
/-- Changes a session that is loaded. -/
def State.modSess (s : State) (k : Nat) (f : Session → Session) : State :=
  { s with via := { s.via with sessions := mmod s.via.sessions k f } }

/-- The interface is up: it exists in the port's mode, the port is configured and serves, and it has an address (15 R378, R379). -/
def State.itfUp (s : State) (p i : Nat) : Bool :=
  let v := s.vport p
  s.live && s.viaExists p && v.set && v.up && !v.testing && (i == 0 || (i == 1 && v.mode2)) && decide ((s.itf p i).mac ≠ 0)

/-- The interface carries data frames: it has a SAK in use (15 R381). -/
def State.itfCarries (s : State) (p i : Nat) : Bool := s.itfUp p i && (s.itf p i).txAn.isSome

/-! ### Frames (15 R379 to R384) -/

/-- The Ethernet addresses an interface accepts (15 R379). -/
def Itf.accepts (x : Itf) (mac : Nat) : Bool :=
  mac == x.mac || mac == 0x333300000001 ||
    [x.linkLocal, x.addr].any fun a => a != 0 && mac == 0x3333FF000000 + a % 2 ^ 24

/-- A frame that passed MACsec: its packet number is the highest accepted, the older association retires at the first frame of the
newer; a packet that is neither a segment for this interface nor ICMPv6 is counted as dropped (15 R381 to R384). -/
def State.frameTaken (s : State) (port itf : Nat) (x : Frame) : State :=
  let i := s.itf port itf
  let s := s.modItf port itf fun i => { i with
    lastPn := mset i.lastPn x.an (max x.pn (mgetD 0 i.lastPn x.an))
    retiring := match i.rxAns with | [old, new] => if x.an = new ∧ i.retiring.isNone then some old else i.retiring | _ => i.retiring }
  if (x.ipDst = i.linkLocal ∨ x.ipDst = i.addr) ∧ !x.fragment ∧ x.nextHeader = 17 ∧ x.udpDst = i.udp ∧ x.udpOk then s
  else if x.nextHeader = 58 ∧ !x.fragment then s
  else s.modItf port itf fun i => { i with ipDrops := satAdd 32 i.ipDrops 1 }

/-- ETHERNET_FRAME_RECEIVE: a frame is discarded and counted where a rule of Ethernet, MACsec, IPv6 or UDP says so; the segment of an accepted
one is a command of its own (15 R379, R380, R382, R384). -/
def execEthernetFrameReceive (port itf : Nat) (x : Frame) (s : State) : Outcome :=
  .next (
    let i := s.itf port itf
    let v := s.vport port
    if !s.itfUp port itf then s
    else if x.macControl then s.modItf port itf fun i => { i with macControl := satAdd 32 i.macControl 1 }
    else if 4246 < x.len then s.modItf port itf fun i => { i with oversize := satAdd 32 i.oversize 1 }
    else if !i.accepts x.dstMac ∨ (x.etherType = 0x888E ∧ !x.secured) then s
    else if !x.secured ∨ !i.rxAns.contains x.an ∨ !x.icvOk ∨ x.pn + v.window ≤ mgetD 0 i.lastPn x.an then
      s.modItf port itf fun i => { i with macsecDrops := satAdd 32 i.macsecDrops 1 }
    else s.frameTaken port itf x)

/-- Sends a frame of the interface's own, by kind: 0 MKA hello, 1 SAK, 129 echo reply, 136 neighbour advertisement. -/
def State.netSend (s : State) (p i kind : Nat) (body : List Byte) : State :=
  { s with out := { s.out with net := s.out.net ++ [(p, i, kind, body)] } }

/-- NEIGHBOR_SOLICITATION: a solicitation of an own address is answered (15 R384). -/
def execNeighborSolicitation (port itf target : Nat) (s : State) : Outcome :=
  .next (
    let i := s.itf port itf
    if s.itfCarries port itf ∧ target ≠ 0 ∧ (target = i.linkLocal ∨ target = i.addr) then s.netSend port itf 136 (natBe 16 target) else s)

/-- ECHO_REQUEST: answered at up to 100 in a second (15 R384). -/
def execEchoRequest (port itf dst : Nat) (s : State) : Outcome :=
  .next (
    let i := s.itf port itf
    let sec := s.part.tai / 10 ^ 9
    let n := if i.echoSec = sec then i.echoes else 0
    if s.itfCarries port itf ∧ dst ≠ 0 ∧ (dst = i.linkLocal ∨ dst = i.addr) ∧ n < 100 then
      (s.modItf port itf fun i => { i with echoSec := sec, echoes := n + 1 }).netSend port itf 129 (natBe 16 dst)
    else s)

/-- PACKET_TOO_BIG: counted, and reported with its MTU (15 R384; 17 R439). -/
def execPacketTooBig (port itf mtu : Nat) (s : State) : Outcome :=
  .next (
    if s.itfUp port itf then
      (s.modItf port itf fun i => { i with tooBig := satAdd 32 i.tooBig 1 }).event evPathMtu 0 (s.viaDie port) 0
        (pack [(1, port), (1, itf), (2, 0), (4, mtu)])
    else s)

/-- A new SAK: its receive SA is installed, then transmission moves to it (15 R382). -/
def Itf.install (x : Itf) : Itf :=
  let an := match x.txAn with | some a => (a + 1) % 4 | none => 0
  { x with rxAns := ((x.rxAns.filter (· != an)).drop ((x.rxAns.filter (· != an)).length - 1)) ++ [an], txAn := some an
           lastPn := mset x.lastPn an 0, retiring := none }

/-- MKA_HELLO: the interface says hello; the live peer list is what MKA finds, and a change of it brings a new SAK where the part is key
server, which its having installed one shows; without a peer no SAK stays in use (15 R381). -/
def execMkaHello (port itf : Nat) (peers : List Nat) (s : State) : Outcome :=
  .next (
    let i := s.itf port itf
    if !s.itfUp port itf ∨ !i.cakSet then s
    else
      let s := (s.modItf port itf fun i => { i with peers := peers }).netSend port itf 0 (peers.flatMap (natBe 8))
      if peers.isEmpty then s.modItf port itf fun i => { i with txAn := none, rxAns := [], retiring := none } else s)

/-- SAK_ROTATION: a new SAK, distributed by this part as key server or by its peer (15 R381, R382). -/
def execSakRotation (port itf : Nat) (keyServer : Bool) (s : State) : Outcome :=
  .next (
    let i := s.itf port itf
    if !s.itfUp port itf ∨ !i.cakSet ∨ i.peers.isEmpty then s
    else
      let s := s.modItf port itf Itf.install
      if keyServer then s.netSend port itf 1 (natBe 1 ((s.itf port itf).txAn.getD 0)) else s)

/-- RECEIVE_SA_RETIRE: 2 s after the first frame under the new association the previous one is retired (15 R382). -/
def execReceiveSaRetire (port itf an : Nat) (s : State) : Outcome :=
  .next (
    if s.itfUp port itf ∧ (s.itf port itf).retiring = some an then
      s.modItf port itf fun i => { i with rxAns := i.rxAns.filter (· != an), retiring := none }
    else s)

/-! ### Segments (15 R388, R389, R395) -/

/-- One bit of the reflected CRC-32C. -/
def crcBitC (c : Word) : Word := if c.getLsbD 0 then (c >>> 1) ^^^ 0x82F63B78#32 else c >>> 1

/-- CRC-32C. -/
def crc32c (bs : List Byte) : Nat :=
  let c := bs.foldl (fun (c : Word) b => (List.range 8).foldl (fun c _ => crcBitC c) (c ^^^ b.setWidth 32)) 0xFFFFFFFF#32
  (c ^^^ 0xFFFFFFFF#32).toNat

/-- A segment (15 R388). -/
def segBytes (type flags site session seq epoch tai echo msg off len : Nat) (body : List Byte) : List Byte :=
  let h := fun crc => packBe [(1, 1), (1, type), (1, flags), (1, site), (2, session), (2, body.length), (6, seq), (2, epoch), (8, tai),
    (8, echo), (4, msg), (4, off), (4, crc), (4, len)]
  h (crc32c (h 0 ++ body)) ++ body

namespace Session

/-- The session's standby role. -/
def standby (x : Session) : Bool := fld x.raw 2 1 == 1
/-- The interface. -/
def itf (x : Session) : Nat := b2n (bitOf (fld x.raw 3 1) 1)
/-- The local site. -/
def local_ (x : Session) : Nat := fld x.raw 6 1
/-- The peer site. -/
def peer (x : Session) : Nat := fld x.raw 7 1
/-- The peer's node. -/
def peerNode (x : Session) : Nat := fld x.raw 8 2
/-- The peer's session number. -/
def peerSession (x : Session) : Nat := fld x.raw 0xA 1
/-- The segment-table entries of the session. -/
def quota (x : Session) : Nat := fld x.raw 0x20 4
/-- The session to the peer's twin. -/
def pair (x : Session) : Option Nat := if fld x.raw 0x24 2 = 0x1FF then none else some (fld x.raw 0x24 2)
/-- The receive area. -/
def recvBase (x : Session) : Nat := fld x.raw 0x28 8
/-- Its length. -/
def recvBytes (x : Session) : Nat := fld x.raw 0x30 4

end Session

/-- The session's master is frozen (12 R328; 15 R395). -/
def State.sessFrozen (s : State) (k : Nat) : Bool := s.isFrozen (masterWord 6 (s.viaDie (k / 256)) k)

/-- Sends a segment of a session; a frozen session sends nothing, and an interface that carries no data loses it (15 R381, R395). -/
def State.segSend (s : State) (k type flags seq echo msg off len : Nat) (body : List Byte) : State :=
  let x := s.sess k
  if s.sessFrozen k ∨ !s.itfCarries (k / 256) x.itf then s
  else { s with out := { s.out with segs := s.out.segs ++
    [(k, segBytes type flags x.local_ x.peerSession seq x.epoch s.part.tai echo msg off len body)] } }

/-- Distance of a 48-bit sequence number beyond another (15 R390). -/
def ahead48 (a b : Nat) : Nat := (a + 2 ^ 48 - b) % 2 ^ 48

/-- `a` lies after `b` in serial-number arithmetic. -/
def after48 (a b : Nat) : Bool := decide (0 < ahead48 a b ∧ ahead48 a b < 2 ^ 47)

/-- Logs a fragment event of a session, the last 4096 (15 R405). -/
def Session.note (x : Session) (kind a frag src close : Nat) : Session :=
  { x with logged := x.logged + 1, log := (x.log ++ [({ kind := kind, a := a, fragment := frag, src := src, close := close } : LogEv)]).drop (x.log.length + 1 - 4096) }

/-! ### Sending (15 R390 to R392) -/

/-- A free slot of the port's retransmit buffer. -/
def State.freeSlot (s : State) (port : Nat) : Option Nat :=
  let used := (s.via.sessions.filter fun x => x.1 / 256 == port).flatMap fun x => x.2.table.map (·.slot)
  (List.range (min (s.vport port).entries (used.length + 1))).find? fun i => !used.contains i

/-- Sends the next DATA segment of a session that runs, has a message to send and an entry free (15 R390, R391). -/
def State.sendNext (s : State) (k : Nat) : State :=
  let x := s.sess k
  let port := k / 256
  match x.msgs.find? (fun m => decide (m.sent < m.bytes.length)), s.freeSlot port with
  | some m, some slot =>
    if x.state ≠ .running ∨ x.quota ≤ x.table.length ∨ s.sessFrozen k then s
    else
      let n := min 4096 (m.bytes.length - m.sent)
      let body := (m.bytes.drop m.sent).take n
      let s : State := { s with mem := wrBytes s.mem ((s.vport port).txBase + 4096 * slot) body }
      let fl := 2 * b2n (decide (m.sent = 0)) + 4 * b2n (decide (m.sent + n = m.bytes.length))
      let s := s.segSend k 1 fl x.nextSeq 0 m.id m.sent m.bytes.length body
      s.modSess k fun x => { x with
        nextSeq := (x.nextSeq + 1) % 2 ^ 48
        table := x.table ++ [{ seq := x.nextSeq, round := m.round, slot := slot, msgId := m.id, off := m.sent, len := n, total := m.bytes.length,
                               lastTx := s.part.tai }]
        msgs := x.msgs.map fun y => if y.id = m.id then { y with sent := m.sent + n } else y }
  | _, _ => s

/-- Sends all that can be sent. -/
def State.pumpSess (s : State) (k : Nat) : State :=
  let x := s.sess k
  let left := (x.msgs.map fun m => cdiv (m.bytes.length - m.sent) 4096).foldl (· + ·) 0
  (List.range (min left (x.quota - x.table.length))).foldl (fun (s : State) _ => s.sendNext k) s

/-- Messages with nothing unsent and no entry left are done. -/
def Session.settle (x : Session) : Session :=
  { x with msgs := x.msgs.filter fun m => decide (m.sent < m.bytes.length) || x.table.any (·.msgId == m.id) }

/-- Gives a message to the transport. -/
def State.queueMsg (s : State) (k : Nat) (round : Option Nat) (bytes : List Byte) : State :=
  (s.modSess k fun x => { x with
    msgs := x.msgs ++ [{ id := x.nextMsg, round := round, bytes := bytes }], nextMsg := (x.nextMsg + 1) % 2 ^ 32 }).pumpSess k

/-- The interval after which a segment is sent again. -/
def Session.again (x : Session) : Nat := max 1000000 (2 * x.srtt)

/-- Retransmits an entry: a new frame, flag 0 set, a new tx_tai, the same body (15 R392, R394). -/
def State.resendSeg (s : State) (k : Nat) (e : TxSeg) : State :=
  let body := rdBytes s.mem ((s.vport (k / 256)).txBase + 4096 * e.slot) e.len
  let s := s.segSend k 1 (1 + 2 * b2n (decide (e.off = 0)) + 4 * b2n (decide (e.off + e.len = e.total))) e.seq 0 e.msgId e.off e.total body
  let s := s.modItf (k / 256) (s.sess k).itf fun i => { i with retransmits := satAdd 32 i.retransmits 1 }
  s.modSess k fun x => { x with table := x.table.map fun y => if y.seq = e.seq then { y with sends := y.sends + 1, lastTx := s.part.tai } else y }

/-- RETRANSMIT_TIMER: max(1 ms, 2 × srtt) has passed since the segment's last transmission (15 R392). -/
def execRetransmitTimer (session seq : Nat) (s : State) : Outcome :=
  .next (
    let x := s.sess session
    match x.table.find? (·.seq == seq) with
    | some e =>
      if s.live ∧ x.state = .running ∧ !s.sessFrozen session ∧ e.lastTx + x.again ≤ s.part.tai then s.resendSeg session e else s
    | none => s)

/-! ### Receiving (15 R393) -/

/-- Sends an ACK: what has been received, and the TAI of the segment that triggered it (15 R389, R393). -/
def State.ackSend (s : State) (k : Nat) : State :=
  let x := s.sess k
  let base := (x.cum + 1 + x.ackPage) % 2 ^ 48
  let bits := (List.range 512).map fun j => BitVec.ofNat 8 ((List.range 8).foldl (fun a b =>
    2 * a + b2n (x.bits.contains ((base + 8 * j + b) % 2 ^ 48))) 0)
  let s := s.segSend k 2 0 0 x.echo 0 0 0 (packBe [(6, x.cum), (2, 0), (6, base), (2, 0)] ++ bits)
  let far := (x.bits.map fun q => ahead48 q ((x.cum + 1) % 2 ^ 48)).foldl max 0
  s.modSess k fun x => { x with due := false, since := 0, ackPage := if x.ackPage + 4096 ≤ far then x.ackPage + 4096 else 0 }

/-- Counts a segment or message the session discards as malformed. -/
def State.segBad (s : State) (k : Nat) : State :=
  s.modItf (k / 256) (s.sess k).itf fun i => { i with malformed := satAdd 32 i.malformed 1 }

/-- The session a segment received on a port is for, when the segment passes the checks of its header; otherwise it is discarded and
counted on the port's first interface, or its session's (15 R388, R395). -/
def State.segFor (s : State) (port type : Nat) (seg : List Byte) : Option Nat × State :=
  let k := 256 * port + fldBe seg 4 2
  let x := s.sess k
  if !s.live ∨ !s.viaExists port ∨ (fldBe seg 1 1 ≠ type ∧ 1 ≤ fldBe seg 1 1 ∧ fldBe seg 1 1 ≤ 6) then (none, s)
  else if fldBe seg 1 1 ≠ type ∨ seg.length < 48 ∨ seg.length ≠ 48 + fldBe seg 6 2 ∨ 4096 < fldBe seg 6 2 ∨ fldBe seg 0 1 ≠ 1 ∨ 255 < fldBe seg 4 2 ∨
      8 ≤ fldBe seg 2 1 ∨ fldBe seg 0x28 4 ≠ crc32c (splice seg 0x28 (zeros 4)) ∨ (mget s.via.sessions k).isNone then (none, s.segBad k)
  else if x.state = .closed ∨ s.sessFrozen k then (none, s)
  else if type < 4 ∧ fldBe seg 0xE 2 ≠ x.epoch then (none, s.segBad k)
  else (some k, s)

/-- A place of `n` bytes in the receive area, first fit. -/
def Session.room (x : Session) (n : Nat) : Option Nat :=
  ((0 :: x.rx.map fun m => m.place + m.len).mergeSort (· ≤ ·)).find? fun a =>
    decide (a + n ≤ x.recvBytes) && x.rx.all fun m => !overlaps a n m.place m.len

/-- cum_ack advances over every contiguous set bit. -/
def Session.advance (x : Session) : Session :=
  let go := fun (y : Session) (_ : Nat) =>
    let q := (y.cum + 1) % 2 ^ 48
    if y.bits.contains q then { y with cum := q, bits := y.bits.filter (· != q) } else y
  let y := (List.range x.bits.length).foldl go x
  if y.cum = x.cum then y else { y with ackPage := 0 }

/-- A DATA segment of message `id` is received: its bytes are placed, its number is marked, and it is acknowledged at once where a gap
shows or 32 have come (15 R393). -/
def State.dataTaken (s : State) (k : Nat) (seg : List Byte) (place : Nat) : State :=
  let x := s.sess k
  let q := fldBe seg 8 6
  let id := fldBe seg 0x20 4
  let off := fldBe seg 0x24 4
  let n := fldBe seg 6 2
  let len := fldBe seg 0x2C 4
  let old := x.rx.find? (·.id == id)
  let s : State := { s with mem := wrBytes s.mem (x.recvBase + place + off) (seg.drop 48) }
  let s := s.modSess k fun x =>
    let rx := if old.isSome then x.rx else x.rx ++ [{ id := id, place := place, len := len }]
    ({ x with
      rx := rx.map fun m => if m.id = id then { m with got := m.got ++ [(off, n)] } else m
      bits := x.bits ++ [q], echo := fldBe seg 0x10 8, due := true, since := x.since + 1 } : Session).advance
  if 0 < (s.sess k).bits.length ∨ 32 ≤ (s.sess k).since then s.ackSend k else s

/-- DATA: a duplicate is acknowledged again; a segment within the window whose message has room is written and its number marked (15 R393,
R395). -/
def execDataSeg (port : Nat) (seg : List Byte) (s : State) : Outcome :=
  .next (match s.segFor port 1 seg with
    | (none, s) => s
    | (some k, s) =>
      let x := s.sess k
      let q := fldBe seg 8 6
      let id := fldBe seg 0x20 4
      let off := fldBe seg 0x24 4
      let n := fldBe seg 6 2
      let len := fldBe seg 0x2C 4
      let old := x.rx.find? (·.id == id)
      if len < off + n ∨ (old.any fun m => m.len != len) then s.segBad k
      else if !after48 q x.cum ∨ x.bits.contains q then
        ((s.modItf port x.itf fun i => { i with duplicates := satAdd 32 i.duplicates 1 }).modSess k fun x =>
          { x with echo := fldBe seg 0x10 8 }).ackSend k
      else if x.quota < ahead48 q x.cum then s
      else match (old.map (·.place)).or (x.room len) with
        | none => s.segBad k
        | some place => s.dataTaken k seg place)

/-- ACK_TIMER: a DATA segment has waited 200 µs for its acknowledgement (15 R393). -/
def execAckTimer (session : Nat) (s : State) : Outcome :=
  .next (if s.live ∧ (s.sess session).due ∧ (s.sess session).state ≠ .closed then s.ackSend session else s)

/-- An ACK is taken: what it covers leaves the segment table, the round-trip time is smoothed, segments it shows lost are sent again,
and the session sends on (15 R392, R393). -/
def State.ackTaken (s : State) (k : Nat) (seg : List Byte) : State :=
  let cum := fldBe seg 48 6
  let base := fldBe seg 56 6
  let bit := fun q => decide (ahead48 q base < 4096) && bitOf (fldBe seg (64 + ahead48 q base / 8) 1) (7 - ahead48 q base % 8)
  let has := fun q => !after48 q cum || bit q
  let now := s.part.tai
  let s := s.modSess k fun x => ({ x with
    table := x.table.filter fun e => !has e.seq
    srtt := ((x.srtt : Int) + ((now : Int) - fldBe seg 0x18 8 - x.srtt) / 8).toNat } : Session).settle
  let x := s.sess k
  let seen := (List.range 4096).filter fun i => bit ((base + i) % 2 ^ 48)
  let top := if seen.isEmpty then cum else (base + seen.foldl max 0) % 2 ^ 48
  let lost := x.table.filter fun e => after48 e.seq cum && decide (ahead48 e.seq base < 4096) && after48 top e.seq &&
    decide (64 ≤ ahead48 top e.seq ∧ e.lastTx + x.again ≤ now)
  let s := if x.state = .running then lost.foldl (fun (s : State) e => s.resendSeg k e) s else s
  s.pumpSess k

/-- ACK: received segments leave the table, srtt follows, segments shown missing are sent again (15 R390, R392). -/
def execAckSeg (port : Nat) (seg : List Byte) (s : State) : Outcome :=
  .next (match s.segFor port 2 seg with
    | (none, s) => s
    | (some k, s) =>
      if seg.length ≠ 48 + 528 ∨ !zeroAt seg 54 2 ∨ !zeroAt seg 62 2 then s.segBad k
      else s.ackTaken k seg)

/-! ### Opening and closing (15 R385, R386) -/

/-- The body of OPEN and OPEN_ACK. -/
def openBody (job a b na nb sa sb : Nat) : List Byte := packBe [(2, job), (1, a), (1, b), (2, na), (2, nb), (1, sa), (1, sb), (2, 0)]

/-- Sends OPEN or OPEN_ACK of a session. -/
def State.openSend (s : State) (k type : Nat) : State :=
  let x := s.sess k
  s.segSend k type 0 0 0 0 0 0 (openBody x.job x.local_ x.peer (s.part.node.getD 0xFFF) x.peerNode (k % 256) x.peerSession)

/-- An OPEN or OPEN_ACK matches the session's descriptor. -/
def State.openMatches (s : State) (k : Nat) (seg : List Byte) : Bool :=
  let x := s.sess k
  seg.drop 48 == openBody x.job x.peer x.local_ x.peerNode (s.part.node.getD 0xFFF) x.peerSession (k % 256) && fldBe seg 3 1 == x.peer

/-- Ends an open: nothing is queued, numbers start again. -/
def Session.fresh (x : Session) : Session :=
  { x with nextSeq := 0, nextMsg := 0, msgs := [], table := [], cum := 2 ^ 48 - 1, bits := [], rx := [], ackPage := 0, since := 0, due := false,
           srtt := 100000000, beats := 0, peerActive := true, peerRejoin := none, catchup := none }

end Sys2Proof.Machine
end

