-- ==== Sys2Proof/Machine/Outer.lean ====
section
/-! DEFINITION. The outer loop: sessions' opening, heartbeats and separation, fragment deltas, rounds and their closing, the outer update,
late joiners, and the twin's mirror (15 R386, R387, R395 to R409; 11 R300). -/

namespace Sys2Proof.Machine

open Sys2Proof

/-! ### Messages (15 R396) -/

/-- A field that carries no round. -/
def noRound : Nat := 2 ^ 32 - 1

/-- A message of the outer loop over a session. -/
def State.outerMsg (s : State) (k type flags round tai frag blocks : Nat) (body : List Byte) : List Byte :=
  let x := s.sess k
  packBe [(1, type), (1, flags), (2, x.job), (4, round), (8, tai), (1, x.local_), (1, x.peer), (2, frag), (4, blocks), (4, body.length)] ++
  zeros 12 ++ body

/-- The session that now leads to a session's peer: its pair once that is active and this one does not run (15 R386). -/
def State.sessFor (s : State) (k : Nat) : Nat :=
  match (s.sess k).pair with
  | some p => if (s.sess k).state ≠ .running ∧ (s.sess p).state = .running ∧ (s.sess p).beats ≠ 0 ∧ (s.sess p).peerActive then p else k
  | none => k

/-- Queues a message on a session and logs a fragment as sent (15 R405). -/
def State.outerSend (s : State) (k type flags round tai frag blocks : Nat) (body : List Byte) : State :=
  let m := s.outerMsg k type flags round tai frag blocks body
  if type = 1 then (s.modSess k fun x => x.note 1 0 frag round noRound).queueMsg k (some round) m else s.queueMsg k none m

/-- A fragment table entry. -/
def State.frag (s : State) (f : Nat) : Frag := mgetD {} s.via.frags f
/-- Changes a fragment that is loaded. -/
def State.modFrag (s : State) (f : Nat) (g : Frag → Frag) : State := { s with via := { s.via with frags := mmod s.via.frags f g } }

/-- Fragments of a job, by index. -/
def State.jobFrags (s : State) (job : Nat) : List Nat := mkeys (s.via.frags.filter fun x => x.2.job == job)

/-- Asks a session's peer for anchors: of one fragment, or of every fragment shared (15 R409). -/
def State.anchorAsk (s : State) (k frag : Nat) : State :=
  s.outerSend k 3 0 (s.round (s.sess k).job) s.part.tai frag 0 []

/-- A part joins the side a session leads to: its fragments there wait for anchors (15 R409). -/
def State.join (s : State) (k : Nat) : State :=
  let s := s.modSess k fun x => { x with join := true }
  let fs := (s.jobFrags (s.sess k).job).filter fun f => (s.frag f).sessions.contains k
  let s := fs.foldl (fun (s : State) f => s.modFrag f fun g => { g with needs := true, donor := k }) s
  s.anchorAsk k 0xFFFF

/-- An opened session runs, or stands by; a session with the join flag that leads to the donor asks it for anchors (15 R386, R409). -/
def State.sessOpened (s : State) (k : Nat) : State :=
  let x := s.sess k
  if x.state ≠ .opening then s
  else if x.standby && !s.part.takenOver then s.modSess k fun x => { x with state := .standby, lastBeat := s.part.tai }
  else
    let s := s.modSess k fun x => { x with state := .running, lastBeat := s.part.tai, cleanSince := s.round x.job + 1 }
    if x.join ∧ (s.outer x.job).donor = x.peer then s.join k else s.pumpSess k

/-- Takes over the epoch of a peer's open that is newer than the session's own (15 R386). -/
def State.adoptEpoch (s : State) (k e : Nat) : State :=
  let x := s.sess k
  if 0 < (e + 65536 - x.epoch) % 65536 ∧ (e + 65536 - x.epoch) % 65536 < 32768 then s.modSess k fun x => { x.fresh with epoch := e } else s

/-- Sends CLOSE. -/
def State.closeSend (s : State) (k : Nat) : State := s.segSend k 6 0 0 0 0 0 0 []

/-- Handles OPEN and OPEN_ACK: a mismatch is answered with CLOSE and counted (15 R386). -/
def State.opened (s : State) (port type : Nat) (seg : List Byte) : State :=
  match s.segFor port type seg with
  | (none, s) => s
  | (some k, s) =>
    if !s.openMatches k seg then (s.modSess k fun x => { x with mismatches := satAdd 32 x.mismatches 1 }).closeSend k
    else
      let s := s.adoptEpoch k (fldBe seg 0xE 2)
      let s := if type = 4 then s.openSend k 5 else s
      s.sessOpened k

/-- OPEN: answered with OPEN_ACK (15 R386). -/
def execOpenSeg (port : Nat) (seg : List Byte) (s : State) : Outcome := .next (s.opened port 4 seg)

/-- OPEN_ACK (15 R386). -/
def execOpenAck (port : Nat) (seg : List Byte) (s : State) : Outcome := .next (s.opened port 5 seg)

/-- CLOSE: no state of 15 R386 is left for it. -/
def execCloseSeg (port : Nat) (seg : List Byte) (s : State) : Outcome := .next (s.segFor port 6 seg).2

/-- OPEN_RETRY: an OPENING session sends OPEN every second (15 R386). -/
def execOpenRetry (session : Nat) (s : State) : Outcome :=
  .next (if s.live ∧ (s.sess session).state = .opening then s.openSend session 4 else s)

/-! ### Heartbeats, suspension and resumption (15 R386, R387, R406, R407) -/

/-- The code of a session state. -/
def SessState.code : SessState → Nat
  | .closed => 0
  | .opening => 1
  | .running => 2
  | .standby => 3
  | .suspended => 4
  | .resuming => 5

/-- HEARTBEAT_TIMER: a session that is open sends its HEARTBEAT (15 R387, R397). -/
def execHeartbeatTimer (session : Nat) (s : State) : Outcome :=
  .next (
    let x := s.sess session
    if !s.live ∨ x.state = .closed ∨ x.state = .opening then s
    else
      let r := s.round x.job
      let body := packBe [(1, x.state.code), (1, b2n (!x.standby || s.part.takenOver)), (1, s.time.state.code), (1, 0), (4, r),
        (4, (s.outer x.job).rejoinRound.getD noRound), (4, 0), (8, s.timeError)]
      s.segSend session 3 0 0 0 0 0 0 (s.outerMsg session 5 0 r s.part.tai 0 0 body))

/-- The fragments a session has not got acknowledged are sent again as new messages on another (15 R386). -/
def State.moveUnacked (s : State) (k p : Nat) : State :=
  let ms := (s.sess k).msgs.filter (·.round.isSome)
  if ms.isEmpty then s
  else
    let s := s.modSess k fun x => { x with msgs := x.msgs.filter (·.round.isNone), table := x.table.filter (·.round.isNone) }
    ms.foldl (fun (s : State) m =>
      s.queueMsg p m.round (splice m.bytes 0x10 [BitVec.ofNat 8 (s.sess p).local_, BitVec.ofNat 8 (s.sess p).peer])) s

/-- A session is suspended in the current round; its unacknowledged messages move to the session that takes its traffic (15 R386, R406). -/
def State.suspend (s : State) (session : Nat) : State :=
  let x := s.sess session
  let r := s.round x.job
  let s := s.modSess session fun x => { x with state := .suspended, suspendedIn := r, beats := 0, catchup := none }
  let s := s.event evSessSuspended x.job (s.viaDie (session / 256)) 0 (pack [(2, session), (2, 0), (4, r)])
  let p := s.sessFor session
  if p = session then s else s.moveUnacked session p

/-- HEARTBEAT_LOSS: 500 ms without a HEARTBEAT suspend a running session (15 R386). -/
def execHeartbeatLoss (session : Nat) (s : State) : Outcome :=
  .next (
    let x := s.sess session
    if !s.live ∨ x.state ≠ .running ∨ s.part.tai < x.lastBeat + 500000000 then s
    else s.suspend session)

/-- Drops DATA of a session: every message, or those of rounds before one; fragments are logged with ST_DROPPED_STALE and counted as refused
at the Viaduct (15 R401, R407; 20 R481). -/
def State.dropData (s : State) (k : Nat) (below : Option Nat) : State :=
  let goes := fun (r : Option Nat) => match below with
    | none => true
    | some b => match r with | some r => decide (r < b) | none => false
  let s := s.countRefusal (s.viaDie (k / 256)) 3 2 (((s.sess k).msgs.filter fun m => goes m.round && m.round.isSome).length)
  s.modSess k fun x =>
    let gone := x.msgs.filter fun m => goes m.round
    let x := { x with msgs := x.msgs.filter fun m => !goes m.round, table := x.table.filter fun e => !goes e.round }
    gone.foldl (fun (x : Session) m => match m.round with
      | some r => x.note 3 0 (fldBe m.bytes 0x12 2) r noRound
      | none => x) x

/-- Drops what has become stale on the sessions of a job (15 R401). -/
def State.dropStale (s : State) (job : Nat) : State :=
  let r := s.round job
  let w := (s.outer job).window
  (mkeys (s.via.sessions.filter fun x => x.2.job == job)).foldl (fun (s : State) k => s.dropData k (some (r - w))) s

/-- The resume decision (15 R407): on within the window, else a catch-up of equal rejoin rounds, else one side joins the other. -/
def State.resume (s : State) (k : Nat) : State :=
  let x := s.sess k
  let r := s.round x.job
  let o := s.outer x.job
  let run := fun (s : State) => (s.modSess k fun x => { x with state := .running, cleanSince := r + 1 }).event evSessResumed x.job
    (s.viaDie (k / 256)) 0 (pack [(2, k), (2, 0), (4, r)])
  if r - x.suspendedIn ≤ o.window then ((run s).dropStale x.job).pumpSess k
  else
    let s := run (s.dropData k none)
    if o.rejoinRound.isSome ∧ x.peerRejoin = o.rejoinRound then s.modSess k fun x => { x with catchup := some r }
    else if x.peer < x.local_ then s.join k
    else s

/-- A heartbeat of the peer: its standing and rejoin round are noted; suspended sessions whose traffic goes over this one move their
unacknowledged messages; a suspended session resumes at the third in a row (15 R386, R397, R407). -/
def State.beatTaken (s : State) (k : Nat) (m : List Byte) : State :=
  let x := s.sess k
  let n := if s.part.tai ≤ x.lastBeat + 150000000 then x.beats + 1 else 1
  let rj := fldBe m 48 4
  let s := s.modSess k fun x => { x with
    beats := n, lastBeat := s.part.tai, peerActive := fldBe m 41 1 != 0, peerRejoin := if rj = noRound then none else some rj }
  let s := (mkeys (s.via.sessions.filter fun y => y.2.pair == some k)).foldl (fun (s : State) y =>
    if s.sessFor y = k ∧ (s.sess y).state = .suspended then s.moveUnacked y k else s) s
  if x.state = .suspended ∧ 3 ≤ n then (s.modSess k fun x => { x with state := .resuming }).resume k else s

/-- DATAGRAM: a HEARTBEAT of the session's peer is counted; the third in time resumes a suspended session; a pair session that turns active
takes over what its partner has not got acknowledged (15 R386, R387, R407). -/
def execDatagram (port : Nat) (seg : List Byte) (s : State) : Outcome :=
  .next (match s.segFor port 3 seg with
    | (none, s) => s
    | (some k, s) =>
      let m := seg.drop 48
      let x := s.sess k
      if m.length ≠ 64 ∨ fldBe m 0 1 ≠ 5 ∨ fldBe m 1 1 ≠ 0 ∨ fldBe m 2 2 ≠ x.job ∨ fldBe m 0x10 1 ≠ x.peer ∨ fldBe m 0x11 1 ≠ x.local_ ∨
          fldBe m 0x18 4 ≠ 24 ∨ !zeroAt m 0x1C 12 ∨ !zeroAt m 43 1 ∨ !zeroAt m 52 4 then s.segBad k
      else s.beatTaken k m)

/-! ### Complete messages (15 R393, R395) -/

/-- A message of a session is complete: the parts that came cover it. -/
def RxMsg.complete (m : RxMsg) : Bool := (m.got.foldl (fun rs g => cutRange g.1 g.2 rs) [(0, m.len)]).isEmpty

/-- Takes a complete message with these bytes out of the receive area (15 R393); none where the session holds no such message. -/
def State.takeMsg (s : State) (k : Nat) (msg : List Byte) : Option State :=
  let x := s.sess k
  if !s.live ∨ x.state = .closed ∨ s.sessFrozen k then none
  else (x.rx.find? fun m => m.complete && m.len == msg.length && rdBytes s.mem (x.recvBase + m.place) m.len == msg).map fun m =>
    s.modSess k fun x => { x with rx := x.rx.filter (·.id != m.id) }

/-- A malformed message: counted and logged with the session, as an event of kind 7 (log 21); the seventeenth in a round freezes the
session (15 R395). -/
def State.msgBad (s : State) (k : Nat) (msg : List Byte) : State :=
  let s := (s.segBad k).modSess k fun x => x.note 7 0 (fldBe msg 0x12 2) (fldBe msg 4 4) noRound
  let x := s.sess k
  let r := s.round x.job
  let n := if x.badRound = r then x.badCount + 1 else 1
  let s := s.modSess k fun x => { x with badRound := r, badCount := n }
  if 16 < n then s.freeze ⟨masterWord 6 (s.viaDie (k / 256)) k, x.job, stMalformed, 0, 0, 0, 0, msg.take 32⟩ else s

/-- The header of a message is well formed for its session and type (15 R395, R396). -/
def State.msgOk (s : State) (k type : Nat) (msg : List Byte) : Bool :=
  let x := s.sess k
  decide (40 ≤ msg.length) && fldBe msg 0 1 == type && decide (fldBe msg 1 1 < 4) && fldBe msg 2 2 == x.job && fldBe msg 0x10 1 == x.peer &&
  fldBe msg 0x11 1 == x.local_ && fldBe msg 0x18 4 == msg.length - 40 && zeroAt msg 0x1C 12

/-- Runs a complete message of a type through its checks; one of another listed type is not this event. -/
def State.onMsg (s : State) (k type : Nat) (msg : List Byte) (ok : State → Bool) (f : State → State) : State :=
  if fldBe msg 0 1 ≠ type ∧ 1 ≤ fldBe msg 0 1 ∧ fldBe msg 0 1 ≤ 4 then s
  else match s.takeMsg k msg with
  | none => s
  | some s => if s.msgOk k type msg && ok s then f s else s.msgBad k msg

/-- The fragment a message names agrees with the fragment table and is shared on the session (15 R395). -/
def State.fragOk (s : State) (k : Nat) (msg : List Byte) : Bool :=
  match mget s.via.frags (fldBe msg 0x12 2) with
  | some f => (f.sessions.contains k || f.sessions.any fun y => (s.sess y).pair == some k) && fldBe msg 0x14 4 == f.blocks
  | none => false

/-! ### Fragment bodies (15 R397, R400) -/

/-- A body as bytes of an address space of its own. -/
def bodyMem (body : List Byte) : Mem := body.zipIdx.filterMap fun x => if x.1 = 0 then none else some (x.2, x.1)

/-- The descriptor of a fragment tensor in a body. -/
def bodyDesc (body : List Byte) (blocks : Nat) : Desc :=
  { base := 208 + 4 * cdiv blocks 128, fmt := 7, rank := 2, compressed := true, pslot := fld body 7 1, shape := [32, blocks], stride := [1, 32] }

/-- Where the scale bytes of a body begin. -/
def scalesAt (body : List Byte) (blocks : Nat) : Nat := 208 + 4 * cdiv blocks 128 + alignUp (fld body 0xC 4) 8

/-- The codes of a block of a body. -/
def bodyCodes (body : List Byte) (blocks i : Nat) : Except PalErr (List Nat) :=
  palDecode (bodyMem body) (bodyDesc body blocks) (sub body 0x40 144) i

/-- The receiver's check of a fragment body (15 R397; 09 R236). -/
def bodyOk (body : List Byte) (blocks : Nat) : Bool :=
  decide (208 ≤ body.length) && palDirOk (bodyDesc body blocks) (body.take 208) && body.length == scalesAt body blocks + blocks &&
  (List.range blocks).all fun i => match bodyCodes body blocks i with | .ok _ => true | .error _ => false

/-- The scale byte and values of a block of a body. -/
def bodyBlock (body : List Byte) (blocks i : Nat) : Nat × List Val :=
  let sc := fld body (scalesAt body blocks + i) 1
  match bodyCodes body blocks i with
  | .ok cs => (sc, cs.map (mxVal 7 sc 0))
  | .error _ => (255, List.replicate 32 .nan)

/-- The record A of a fragment's block. -/
def State.fragRec (s : State) (f : Frag) (i : Nat) : Rec := ((((s.shard f.die f.shard).current s.mem (f.first + i))).map (·.2)).getD {}

/-- The rejoin array's anchor of a shard block (15 R406). -/
def State.rejoinAt (s : State) (f : Frag) (j : Nat) : Nat := (s.shard f.die f.shard).anchorAt j + (s.outer f.job).rejoinOff

/-- The differences of a block: from its anchor, or from the rejoin array in a catch-up (11 R300; 15 R408). -/
def State.deltaBlock (s : State) (f : Frag) (catchup : Bool) (i : Nat) : List Word :=
  let j := f.first + i
  let a := if catchup then (List.range 32).map fun n => BitVec.ofNat 32 (rdNat s.mem (s.rejoinAt f j + 4 * n) 4)
    else (s.shard f.die f.shard).anchor s.mem j
  (List.zip a (s.fragRec f i).pars).map fun x => deltaOf x.1 x.2

/-- The encoder: MXFP4 under 02 R42, a new table, directory, chunks and scales (15 R397, R400; 09 R227, R228). -/
def encodeBody (gen : Nat) (blocks : List (List Word)) : List Byte :=
  let qs := blocks.map fun ws =>
    let vs := ws.map fpVal
    let sc := mxScale 7 0 vs
    (sc, (mxEncode 7 sc 0 vs).1)
  let image := palImage 7 gen (palLengths 64 (palCounts 7 (qs.flatMap (·.2))))
  let (bytes, offs) := palEncode 7 0 image (qs.map (·.2))
  palDirectory 7 0 blocks.length bytes.length image offs ++ bytes ++ zeros (alignUp bytes.length 8 - bytes.length) ++
  qs.map fun q => BitVec.ofNat 8 q.1

/-- The part mirrors a fragment as the twin: all its sessions stand by (15 R386, R404). -/
def State.fragTwin (s : State) (f : Frag) : Bool :=
  !s.part.takenOver && !f.sessions.isEmpty && f.sessions.all fun k => (s.sess k).standby

/-! ### OUTER_INPUT (15 R404) -/

/-- Sends a mirrored input to the twin, a body in pieces. -/
def State.mirror (s : State) (f : Frag) (kind : Nat) (d : Delta) : State :=
  match s.part.twinNode with
  | none => s
  | some t =>
    if s.part.fencedNodes.contains t then s
    else
      let n := if kind = 2 then 1 else cdiv d.body.length 16384
      (List.range n).foldl (fun (s : State) i =>
        let piece := if kind = 2 then [] else (d.body.drop (16384 * i)).take 16384
        s.send 0x64 t f.die (pack [(2, f.job), (1, kind), (1, b2n d.catchup + 2 * b2n d.join), (4, d.round), (4, d.close), (2, d.frag), (1, d.site),
          (1, d.stale), (4, d.weight.toNat), (4, d.body.length), (4, 16384 * i), (4, piece.length)] ++ piece)) s

/-! ### The delta read (15 R400, R408) -/

/-- The sessions of a fragment in the catch-up of a round. -/
def State.catchSessions (s : State) (f : Frag) (r : Nat) : List Nat := f.sessions.filter fun k => (s.sess k).catchup == some r

/-- The consumption key of a fragment. -/
def fragKey (f : Nat) : Nat := 65536 + f

/-- A fragment is formed for round `r`: its delta, from the anchors, or from the rejoin point for sessions that catch up, is sent to
every active peer and kept as the own one; `again`: only the sessions that catch up are missing (15 R400, R408). -/
def State.formFragment (s : State) (frag r : Nat) (again : Bool) : State :=
  let f := s.frag frag
  let o := s.outer f.job
  let cs := s.catchSessions f r
  let s := s.dropStale f.job
  let join := o.firstRound == some r
  let site := (s.sess (f.sessions.headD 0)).local_
  let form := fun (s : State) (c : Bool) (ks : List Nat) =>
    let body := encodeBody (s.die f.die).paletteGen ((List.range f.blocks).map (s.deltaBlock f c))
    let s := s.modDie f.die fun d => { d with paletteGen := if d.paletteGen = 16383 then 1 else d.paletteGen + 1 }
    let s := ks.foldl (fun (s : State) k =>
      let k := s.sessFor k
      if (s.sess k).peerActive then s.outerSend k 1 (b2n join + 2 * b2n c) r s.part.tai frag f.blocks body else s) s
    (({ frag := frag, round := r, site := site, weight := if join then 0 else one32, join := join, catchup := c, close := r, body := body } : Delta), s)
  let others := if again then [] else f.sessions.filter fun k => !cs.contains k
  let (d, s) := if cs.isEmpty ∨ !others.isEmpty then form s false others else ({ frag := frag, round := r, site := site }, s)
  let (d, s) := if cs.isEmpty then (d, s) else form s true cs
  (s.modFrag frag fun f => { f with formed := some r, own := some d }).mirror f 0 d

/-- No inner update of a block of a fragment is in progress, and no pair of it is damaged (01 R31; 12 R316). -/
def State.fragQuiet (s : State) (f : Frag) : Bool :=
  (List.range f.blocks).all fun i => (s.innerBusy f.die f.shard (f.first + i)).isEmpty && !s.pairLost f.die f.shard (f.first + i)

/-- FRAGMENT_DELTA_READ: at the fragment's offset in a round, once the last round's outer update is done and no other operation is in
progress on its blocks, the difference is read, encoded and queued, and mirrored to the twin (15 R400, R408, R409; 11 R300; 01 R31). -/
def execFragmentDeltaRead (frag : Nat) (s : State) : Outcome :=
  .next (
    let f := s.frag frag
    let o := s.outer f.job
    let cur := s.round f.job
    let cs0 := s.catchSessions f cur
    let again := f.formed == some cur && !cs0.isEmpty && (f.own.any fun d => d.round == cur && !d.catchup)
    let r := match f.formed with | some p => if again then cur else p + 1 | none => cur
    if !s.varnishRuns f.die ∨ (mget s.via.frags frag).isNone ∨ o.period = 0 ∨ s.fragTwin f ∨ !s.fragQuiet f ∨
        s.part.tai < (r * o.period + f.off) * 10 ^ 6 ∨
        (s.jobFrags f.job).any (fun g => (s.frag g).needs) ∨ (s.consOf f.die (fragKey frag)).isSome ∨
        !(again || f.formed.isNone || f.closed == some (r - 1)) then s
    else s.formFragment frag r again)

/-! ### Receiving fragments (15 R401) -/

/-- The FP32 value of a weight code (15 R398; 17 VIA-OUTER). -/
def weightOf (c : Nat) : Word :=
  if bitOf c 7 then 0#32 else BitVec.ofNat 32 ((127 - bitsOf c 6 3) * 2 ^ 23 + bitsOf c 2 0 * 2 ^ 20)

/-- The weight of staleness a. -/
def Outer.weight (o : Outer) (a : Nat) : Word := weightOf (at' 0x80 o.weights a)

/-- A peer fragment too old is dropped, logged and counted as refused at the Viaduct (15 R401; 20 R481). -/
def State.dropFrag (s : State) (d : Delta) : State :=
  ((s.countRefusal (s.viaDie (d.session / 256)) 3 2).modSess d.session fun x => x.note 3 d.stale d.frag d.round noRound).modFrag d.frag fun f => { f with dropped := f.dropped + 1 }

/-- A contribution is accepted for the round that will close it, or dropped as too stale or too late to catch up (15 R401, R408). -/
def State.takeDelta (s : State) (session : Nat) (msg : List Byte) : State :=
  let f := fldBe msg 0x12 2
  let o := s.outer (s.sess session).job
  let c := s.round (s.sess session).job
  let j := fldBe msg 4 4
  let fl := fldBe msg 1 1
  let d : Delta := { frag := f, round := j, site := fldBe msg 0x10 1, stale := c - j, join := bitOf fl 0, catchup := bitOf fl 1, close := max c j,
                     weight := if bitOf fl 0 then 0 else if bitOf fl 1 then one32 else o.weight (c - j), session := session, body := msg.drop 40 }
  if o.window < d.stale ∨ (d.catchup ∧ j < c) then s.dropFrag d
  else s.modFrag f fun f => { f with waiting := f.waiting ++ [d] }

/-- OUTER_DELTA: a complete peer fragment waits for its round, is accepted for the next close, or is dropped (15 R401, R408). -/
def execOuterDelta (session : Nat) (msg : List Byte) (s : State) : Outcome :=
  .next (s.onMsg session 1 msg (fun s => s.fragOk session msg && bodyOk (msg.drop 40) (fldBe msg 0x14 4)) (·.takeDelta session msg))

/-- What the peer applied in a round is noted in the session log (15 R405). -/
def State.noteClose (s : State) (session : Nat) (msg : List Byte) : State :=
  (List.range (fldBe msg 40 4)).foldl (fun (s : State) i =>
    let e := sub msg (48 + 8 * i) 8
    s.modSess session fun x => x.note 6 (fldBe e 2 1) (fldBe e 0 2) (fldBe e 4 4) (fldBe msg 4 4)) s

/-- ROUND_CLOSE: what the peer applied is logged with the session (15 R405). -/
def execRoundClose (session : Nat) (msg : List Byte) (s : State) : Outcome :=
  .next (s.onMsg session 2 msg (fun s => s.fragOk session msg && decide (48 ≤ msg.length) && msg.length == 48 + 8 * fldBe msg 40 4) (·.noteClose session msg))

/-! ### Closing a round (15 R402, R403, R406) -/

/-- A block of a close: Σ and the own value (15 R403). -/
def closeBlock (set : List Delta) (blocks i : Nat) : Bx × List Val :=
  let bs := set.map fun d => (d, bodyBlock d.body blocks i)
  let sb := (bs.filter fun x => x.2.1 != 255).foldl (fun a x => max a x.2.1) 0
  let sum := bs.foldl (fun b x => if isZero x.1.weight then b else (bxAccum b (x.2.2.map fun v => (mulVal v (fpVal x.1.weight)).getD .nan)).1)
    (bxZero (min 254 (sb + 3)))
  (sum, (bs.head?.map (·.2.2)).getD [])

/-- The block cannot be applied: its sum or own value is non-numeric or saturated (15 R402). -/
def closeSpecial (x : Bx × List Val) : Bool := x.1.anchor == 255 || (bxMarker x.2).isSome

/-- The exact sum of the weights, in FP32. -/
def closeWeight (set : List Delta) : Word := (exactSum (set.map (·.weight))).1

/-- Σ / W rounded once, +0 where W is 0. -/
def deltaMean (w : Word) (v : Val) : Word :=
  match v, fpVal w with
  | .fin n m d e, .fin _ m2 d2 e2 => if m2 = 0 ∨ m = 0 then 0#32 else (fin32 false .ne n (m * d2) (d * m2) (e - e2)).1
  | _, _ => qNaN

/-- A format value that FP32 holds, as a word. -/
def wordOf (v : Val) : Word :=
  match v with
  | .fin n m d e => (fin32 false .ne n m d e).1
  | .inf n => inf32 n
  | _ => qNaN

/-- Every session of the job ran throughout a round and every peer fragment of it has come in time (15 R406). -/
def State.cleanRound (s : State) (job k : Nat) : Bool :=
  (s.via.sessions.all fun x => x.2.job != job || (x.2.state == .running && decide (x.2.cleanSince ≤ k))) &&
  (s.jobFrags job).all fun g =>
    let f := s.frag g
    f.sessions.all fun x => (f.set ++ f.waiting).any fun d => d.session == x && d.round == k && d.close == k && d.stale == 0 && !d.catchup

/-- Begins the outer update of a fixed set: blocks that are not numeric are counted in the session logs (15 R402 step 4). A block whose
inner update is in progress waits behind it (01 R31). -/
def State.beginOuter (s : State) (frag k flags : Nat) : State :=
  let f := s.frag frag
  let bad := (List.range f.blocks).filter fun i => closeSpecial (closeBlock f.set f.blocks i)
  let s := bad.foldl (fun (s : State) _ => f.sessions.foldl (fun (s : State) x => s.modSess x fun y => y.note 5 0 frag k k) s) s
  let todo := (List.range f.blocks).filter fun i => !bad.contains i
  let c : Consume :=
    { kind := 1, step := k, since := s.part.tai, decided := true, flags := flags, todo := todo
      behind := todo.flatMap fun i => (s.innerBusy f.die f.shard (f.first + i)).map fun n => (i, n) }
  s.modDie f.die fun d => { d with cons := mset d.cons (fragKey frag) c }

/-- Sends ROUND-CLOSE on every session of a fragment (15 R397, R402 step 5). -/
def State.roundCloseSend (s : State) (frag k : Nat) : State :=
  let f := s.frag frag
  let body := packBe [(4, f.listed.length), (4, f.dropped)] ++
    f.listed.flatMap fun d => packBe [(2, d.frag), (1, d.stale), (1, b2n d.catchup), (4, d.round)]
  let s := f.sessions.foldl (fun (s : State) x => s.outerSend (s.sessFor x) 2 0 k s.part.tai frag f.blocks body) s
  s.modFrag frag fun f => { f with listed := [], dropped := 0 }

/-- The end of a fragment's outer update: compressed working copies are encoded, the part's rejoin round follows once every fragment has
closed the round, the close is announced, digests go out (15 R402, R406; 11 R298, R300; 12 R317). -/
def State.endOuter (s : State) (frag : Nat) (c : Consume) : State :=
  let f := s.frag frag
  let ns := (c.written.filterMap fun i => s.wcSlotOf f.die f.shard (f.first + i)).dedup
  let s := ns.foldl (fun (s : State) n => match s.wcDesc f.die n with
    | some d => if d.compressed then s.wcEncode f.die n d else s
    | none => s) s
  let s := s.finishCons f.die (fragKey frag) f.shard c
  let left := (s.jobFrags f.job).any fun g => (s.frag g).closed != some c.step ||
    (g != frag && (match s.consOf (s.frag g).die (fragKey g) with | some x => !x.done | none => false))
  let s := if bitOf c.flags 8 && !left then
      s.modJob f.job fun j => { j with outer := j.outer.map fun o => { o with rejoinRound := some c.step } }
    else s
  if bitOf c.flags 6 then s else s.roundCloseSend frag c.step

/-- Round `k` of a fragment closes with the contributions due: those of its kind are applied with the own one, late ones are carried to
the next round or dropped, and the outer update begins (15 R401, R402, R408). -/
def State.closeFragment (s : State) (frag k : Nat) (own : Delta) : State :=
  let f := s.frag frag
  let o := s.outer f.job
  let s := s.dropStale f.job
  let due := f.waiting.filter fun d => decide (d.close ≤ k)
  let take := due.filter fun d => d.catchup == own.catchup
  let carry := if own.catchup then due.filter fun d => !d.catchup else []
  let lost := if own.catchup then carry.filter fun d => decide (o.window ≤ d.stale) else due.filter (·.catchup)
  let carry := (carry.filter fun d => decide (d.stale < o.window)).map fun d =>
    { d with stale := d.stale + 1, close := k + 1, weight := if d.join then 0 else o.weight (d.stale + 1) }
  let rejoin := 0 < o.rejoinOff ∧ !own.catchup ∧ s.cleanRound f.job k
  let s := lost.foldl State.dropFrag s
  let s := take.foldl (fun (s : State) d =>
    s.modSess d.session fun x => x.note (if d.catchup then 4 else 2) d.stale frag d.round k) s
  let s := s.modFrag frag fun f => { f with
    closed := some k, set := own :: take, listed := f.listed ++ take
    waiting := (f.waiting.filter fun d => decide (k < d.close)) ++ carry }
  let s := take.foldl (fun (s : State) d => s.mirror f 1 d) s
  let s := s.mirror f 2 { own with close := k, body := [] }
  let s := s.beginOuter frag k (256 * b2n (decide rejoin))
  match s.consOf f.die (fragKey frag) with
  | some c => if c.todo.isEmpty then s.endOuter frag c else s
  | none => s

/-- ROUND_CLOSING: after the round's end, once the own fragment is formed and no earlier update pends, the set of contributions is fixed,
mirrored to the twin, and the outer update begins (15 R402, R406, R408, R409). -/
def execRoundClosing (frag : Nat) (s : State) : Outcome :=
  .next (
    let f := s.frag frag
    let o := s.outer f.job
    let k := match f.closed with | some c => c + 1 | none => f.formed.getD 0
    if !s.varnishRuns f.die ∨ (mget s.via.frags frag).isNone ∨ o.period = 0 ∨ s.fragTwin f then s
    else if f.needs then s.anchorAsk f.donor frag
    else match f.own with
      | none => s
      | some own =>
        if own.round ≠ k ∨ s.part.tai < (k + 1) * o.period * 10 ^ 6 ∨ (s.consOf f.die (fragKey frag)).isSome then s
        else s.closeFragment frag k own)

/-- One block of an outer update: the weighted mean of the contributions, the rule for each parameter, the new record, anchors and
working copy; after the last block the update ends (15 R402, R403, R408). `c` is the consumption, `copy` and `a` the current record,
`wc` the slot whose working copy holds the block. -/
def State.outerBlock (s : State) (frag block : Nat) (c : Consume) (copy : Nat) (a : Rec) (wc : Option Nat) : State :=
  let f := s.frag frag
  let h := s.shard f.die f.shard
  let o := s.outer f.job
  let j := f.first + block
  let (sum, own) := closeBlock f.set f.blocks block
  let w := closeWeight f.set
  let catch_ := f.set.any (·.catchup)
  let anchor := if catch_ then (List.range 32).map fun n => BitVec.ofNat 32 (rdNat s.mem (s.rejoinAt f j + 4 * n) 4) else h.anchor s.mem j
  let rs := (List.range 32).map fun i =>
    let dbar := deltaMean w (at' .nan sum.vals i)
    let delta := wordOf (at' .nan own i)
    let p := at' ⟨0, 0, 0, 0⟩ a.pars i
    if catch_ then catchupParam p (at' 0 anchor i) dbar delta
    else outerParam o.beta o.eta o.nesterov p (at' 0 anchor i) dbar delta
  let b := { a with flags := flagsB a true, outerRound := (c.step + 1) % 2 ^ 32, pars := rs.map (·.1) }
  let x := wc.map fun n => (n, s.wcDerive f.die n (j - (s.slot f.die n).first) b)
  let b := { b with scale := match x with | some y => y.2.scale | none => b.scale }
  let s := s.wrCopy h j (1 - copy) b
  let s := s.wrAnchor h j (rs.map (·.2.1))
  let s : State := if bitOf c.flags 8 then { s with mem := wrBytes s.mem (s.rejoinAt f j) (rs.flatMap fun r => natLe 4 r.2.1.toNat) } else s
  let s := match x with | some y => s.wcWrite f.die y.1 (j - (s.slot f.die y.1).first) y.2 | none => s
  let bytes := match x with | some y => s.wcBytes f.die y.1 y.2 | none => []
  let exc := excSum (rs.map (·.2.2) ++ (x.map fun y => y.2.exc).toList)
  let s := s.modCons f.die (fragKey frag) fun c => { c with
    todo := c.todo.filter (· != block), written := c.written ++ [block], codes := mset c.codes block bytes
    recs := mset c.recs block b.bytes, exc := addExc c.exc exc }
  match s.consOf f.die (fragKey frag) with
  | some c => if c.todo.isEmpty then s.endOuter frag c else s
  | none => s

/-- An outer update of a block waits for the inner update it found in progress (01 R31). -/
def State.outerBehind (s : State) (f : Frag) (c : Consume) (block : Nat) : Bool :=
  c.behind.any fun x => x.1 == block && (s.innerBusy f.die f.shard (f.first + block)).contains x.2

/-- OUTER_UPDATE: the outer rule on a block: record B, the anchor, the rejoin array in a clean round, the working copy derived again
(11 R300; 15 R402 to R408; 01 R31). -/
def execOuterUpdate (frag block : Nat) (s : State) : Outcome :=
  .next (
    let f := s.frag frag
    let h := s.shard f.die f.shard
    let j := f.first + block
    match s.consOf f.die (fragKey frag), h.current s.mem j with
    | some c, some (copy, a) =>
      if !s.varnishRuns f.die ∨ h.stopped ∨ !c.todo.contains block ∨ s.outerBehind f c block ∨ s.pairLost f.die f.shard j then s
      else
        let wc := s.wcSlotOf f.die f.shard j
        let s := match wc with | some n => s.wcOpen f.die n | none => s
        if wc.any (fun n => !s.wcIsOpen f.die n) then s
        else s.outerBlock frag block c copy a wc
    | _, _ => s)

/-- A piece of the owner's outer inputs at the twin: an own fragment, an accepted contribution, or the close of a round (15 R404). -/
def State.outerPiece (s : State) (die : Nat) (m : SpanMsg) : State × Answer :=
  let b := m.body
  let kind := fld b 2 1
  let frag := fld b 0xC 2
  let f := s.frag frag
  if some m.src ≠ s.part.twinNode ∨ (mget s.via.frags frag).isNone ∨ f.job ≠ fld b 0 2 ∨ f.die ≠ die ∨ !s.fragTwin f then
    (s.discardMsg m, .nak stMalformed)
  else if kind = 2 ∧ (s.consOf die (fragKey frag)).isSome then (s, .notTaken)
  else if kind = 2 then
    let k := fld b 8 4
    let set := (match f.own with | some d => [d] | none => []) ++ f.waiting.filter fun d => d.close == k
    let s := s.modFrag frag fun f => { f with closed := some k, set := set, waiting := f.waiting.filter fun d => d.close != k }
    let s := s.beginOuter frag k 64
    match s.consOf die (fragKey frag) with
    | some c => (if c.todo.isEmpty then s.endOuter frag c else s, .ack stOk)
    | none => (s, .ack stOk)
  else
    let d : Delta := { frag := frag, round := fld b 4 4, site := fld b 0xE 1, stale := fld b 0xF 1, weight := BitVec.ofNat 32 (fld b 0x10 4),
                       join := bitOf (fld b 3 1) 1, catchup := bitOf (fld b 3 1) 0, close := fld b 8 4, session := kind }
    let same := fun (x : Delta) => { x with body := [] } == d
    let old := (s.via.pieces.find? same).getD d
    let body := old.body ++ b.drop 32
    let s : State := { s with via := { s.via with pieces := s.via.pieces.filter fun x => !same x } }
    if old.body.length ≠ fld b 0x18 4 then (s.discardMsg m, .nak stMalformed)
    else if body.length < fld b 0x14 4 then
      ({ s with via := { s.via with pieces := s.via.pieces ++ [{ d with body := body }] } }, .ack stOk)
    else if !bodyOk body f.blocks then (s.discardMsg m, .nak stMalformed)
    else if kind = 0 then (s.modFrag frag fun f => { f with formed := some d.round, own := some { d with body := body } }, .ack stOk)
    else (s.modFrag frag fun f => { f with waiting := f.waiting ++ [{ d with body := body }] }, .ack stOk)

/-- OUTER_INPUT: the twin holds the own and accepted fragments as they come, and on the close marker begins the same update (15 R404). -/
def execOuterInput (die : Nat) (m : SpanMsg) (s : State) : Outcome :=
  .next (
    let b := m.body
    let kind := fld b 2 1
    s.recv die 0x64 m (decide (32 ≤ b.length ∧ kind < 3 ∧ fld b 3 1 < 4 ∧ fld b 0x1C 4 ≤ 16384 ∧ fld b 0x18 4 + fld b 0x1C 4 ≤ fld b 0x14 4) &&
        b.length == 32 + fld b 0x1C 4) fun s => s.outerPiece die m)

/-! ### Late joiners (15 R409) -/

/-- The body of ANCHOR-DATA: anchors and outer momenta of each block (15 R397). -/
def State.anchorBody (s : State) (f : Frag) : List Byte :=
  (List.range f.blocks).flatMap fun i =>
    ((s.shard f.die f.shard).anchor s.mem (f.first + i)).flatMap (fun w => natLe 4 w.toNat) ++ (s.fragRec f i).pars.flatMap fun p => natLe 2 p.mu

/-- The anchors asked for are sent, fragment by fragment (15 R409); a fragment with a damaged pair waits to be asked again (12 R316). -/
def State.sendAnchors (s : State) (session : Nat) (msg : List Byte) : State :=
  let want := fldBe msg 0x12 2
  let job := (s.sess session).job
  let lost := fun (f : Frag) => (List.range f.blocks).any fun i => s.pairLost f.die f.shard (f.first + i)
  let fs := (s.jobFrags job).filter fun g => (s.frag g).sessions.contains session && (want == 0xFFFF || g == want) && !lost (s.frag g)
  fs.foldl (fun (s : State) g =>
    let f := s.frag g
    s.outerSend session 4 0 (f.closed.getD (s.round job - 1)) s.part.tai g f.blocks (s.anchorBody f)) s

/-- ANCHOR_REQ: the donor answers each fragment asked for with its anchors and current momenta (15 R409). -/
def execAnchorReq (session : Nat) (msg : List Byte) (s : State) : Outcome :=
  .next (s.onMsg session 3 msg (fun s => msg.length == 40 && (fldBe msg 0x12 2 == 0xFFFF || (s.frag (fldBe msg 0x12 2)).sessions.contains session)) (·.sendAnchors session msg))

/-- Installs a block from a donor's anchor and momenta (15 R409 step 3). -/
def State.installBlock (s : State) (f : Frag) (r hint i : Nat) (bs : List Byte) : State :=
  let h := s.shard f.die f.shard
  let j := f.first + i
  let ws := (List.range 32).map fun n => BitVec.ofNat 32 (fld bs (4 * n) 4)
  let ps := (List.range 32).map fun n => ({ theta := at' 0 ws n, m := 0, tau := 0, mu := fld bs (128 + 2 * n) 2 } : Par)
  let s := s.modDie f.die fun d => { d with pairWait := d.pairWait.filter (· != (f.shard, j)) }
  let s := s.wrCopy h j 0 { hint := hint, flags := 2 ^ 14 + 1, outerRound := (r + 1) % 2 ^ 32, pars := ps }
  let s := s.wrCopy h j 1 { flags := 2 ^ 13, pars := List.replicate 32 ⟨0, 0, 0, 0⟩ }
  s.wrAnchor h j ws

/-- Anchors received are installed; once no fragment of the job needs any, the job joins in the current round (15 R409). -/
def State.takeAnchors (s : State) (msg : List Byte) : State :=
  let g := fldBe msg 0x12 2
  let f := s.frag g
  let job := f.job
  if !f.needs then s
  else
    let s := (List.range f.blocks).foldl (fun (s : State) i =>
      s.installBlock f (fldBe msg 4 4) (s.outer job).hint i (sub msg (40 + 192 * i) 192)) s
    let s := s.modFrag g fun f => { f with needs := false, formed := none, closed := none, own := none, set := [], waiting := [] }
    if (s.jobFrags job).any fun g => (s.frag g).needs then s
    else
      let r := s.round job
      s.modJob job fun j => { j with outer := j.outer.map fun o => { o with firstRound := some r } }

/-- ANCHOR_DATA: the fragment's blocks are written as new records; the round in which the last fragment is installed is the joiner's first
(15 R409). -/
def execAnchorData (session : Nat) (msg : List Byte) (s : State) : Outcome :=
  .next (s.onMsg session 4 msg (fun s => s.fragOk session msg && msg.length == 40 + 192 * fldBe msg 0x14 4) (·.takeAnchors msg))

end Sys2Proof.Machine
end

