-- ==== Sys2Proof/Machine/Vobin.lean ====
section
/-! DEFINITION. Vobin commands: their order, authority and ends; responses and deferral; the DEV-, MEM- and JOB- groups but DEV-RESET
(17 R429 to R441). -/

namespace Sys2Proof.Machine

open Sys2Proof

/-! ### Running a command (17 R432 to R436) -/

/-- What a command that is not turned away gives: its effect, response body and status; or the work it leaves under way; or that its response
has been written. -/
structure CmdOut where
  s : State
  body : List Byte := []
  status : Nat := stOk
  waits : Bool := false
  answered : Bool := false

/-- A command's checks and effect: a failure is a status, detail and retry_after_us. -/
abbrev Exe := Except (Nat × Nat × Nat)

/-- A field that must hold, at an offset of the body (17 R429). -/
def okAt (c : Bool) (off : Nat) : Exe Unit := if c then .ok () else .error (stMalformed, off, 0)
/-- A condition whose failure is a status. -/
def okSt (c : Bool) (st : Nat) : Exe Unit := if c then .ok () else .error (st, 0, 0)
/-- A condition whose failure is ST_REFUSED with a hint (17 R434). -/
def okRef (c : Bool) (retry : Nat) : Exe Unit := if c then .ok () else .error (stRefused, 0, retry)

/-- The commands that wait: admitted, and posted ones of standing A. -/
def State.waitingCmds (s : State) : List Cmd := (s.dies.flatMap (·.2.admitted)) ++ s.hosts.flatMap (·.posted)

/-- No waiting command of the same job and executing die was posted before (17 R432). -/
def State.inTurn (s : State) (c : Cmd) : Bool :=
  s.waitingCmds.all fun d => !(d.job == c.job && d.die == c.die && decide (d.seq < c.seq))

/-- The Easel clusters that execute a command are awake: of the mailbox's die and of its own; the commands that a part that has
fail-stopped still answers are the Keystone's (19 R461, R465; 12 R324). -/
def State.easelOn (s : State) (c : Cmd) : Bool :=
  decide (s.part.state = 3) || (s.domOn (s.hostDie c.port) 1 && (s.domOn c.die 1 || decide (s.dieCount ≤ c.die)))

/-- The command is the next its queue may execute: A before B before C (17 R432, R434). -/
def State.mayRun (s : State) (c : Cmd) : Bool :=
  s.easelOn c && s.inTurn c && (s.die (s.hostDie c.port)).admitted.all fun d => !(decide (d.standing < c.standing) && s.inTurn d)

/-- The port may issue the command for its job (17 R433 steps 1 and 2, and its last paragraph). -/
def State.authority (s : State) (c : Cmd) (r : CmdRow) : Exe Unit := do
  okRef (!r.primary || s.ks.primary == c.port) 0
  if r.device then okAt (c.job == 0) 0
  else
    okAt (c.job != 0 || r.group == 11 || r.group == 12) 0
    if c.job = 0 ∨ (r.group = 3 ∧ r.code = 1) then pure ()
    else
      okSt (mget s.jobs c.job).isSome stNoObject
      okSt (bitOf (mgetD {} s.jobs c.job).mask c.port) stProtected

/-- A command's work goes on after it (17 R435). -/
def State.keepWork (s : State) (c : Cmd) : State := s.modDie c.die fun d => { d with deferred := d.deferred ++ [{ cmd := c }] }

/-- Executes a command that has left its queue: while fenced only four run; a body that could not be read is ST_HOST_IO; the checks; the
effect (17 R430, R433 to R436; 20 R481). -/
def State.execute (s : State) (c : Cmd) (r : CmdRow) (retry : Nat) (f : State → Cmd → Nat → Exe CmdOut) : State :=
  if s.hostFenced c.port ∧ !fencedOk r.group r.code then s.respond c stFenced
  else if c.hostErr then s.respond c stHostIo
  else
    let go : Exe CmdOut := do
      s.authority c r
      okRef (!r.defers || decide ((s.die c.die).deferred.length < 64)) 0
      f s c retry
    match go with
    | .ok o =>
      if o.answered then o.s
      else if o.waits then o.s.keepWork c
      else o.s.respond c o.status o.body
    | .error (st, detail, retry) =>
      if st = stRefused then s.refuse c retry
      else if st = stLimit then (s.countRefusal c.die 5 c.standing).respond c st
      else s.respond c st [] 0 detail

/-- A command leaves its queue. -/
def State.taken (s : State) (x : CmdRef) (c : Cmd) : State :=
  s.modDie (s.hostDie x.port) fun d => { d with admitted := d.admitted.erase c }

/-- The command of a group and number that this port and mailbox has waiting. -/
def State.waiting (s : State) (x : CmdRef) (g n : Nat) (t : Cmd → Bool) : Option Cmd :=
  (s.die (s.hostDie x.port)).admitted.find? fun c => c.port == x.port && c.mailbox == x.mailbox && c.group == g && c.code == n && t c

/-- A command of a group and number executes: the one of this port and mailbox, when its turn has come. `t` tells the rows of one command
apart. -/
def State.command (s : State) (x : CmdRef) (g n : Nat) (f : State → Cmd → Nat → Exe CmdOut) (t : Cmd → Bool := fun _ => true) : State :=
  if s.part.state ≠ 2 ∧ s.part.state ≠ 3 ∨ 2 ≤ x.port then s
  else match cmdRow g n, s.waiting x g n t with
    | some r, some c => if !s.mayRun c then s else (s.taken x c).execute c r x.retry f
    | _, _ => s

/-- Fields that must hold, each with its offset of the body: the first that does not decides. -/
def okAll : List (Bool × Nat) → Exe Unit
  | [] => .ok ()
  | (c, off) :: xs => if c then okAll xs else .error (stMalformed, off, 0)

/-- The body has a length. -/
def okLen (c : Cmd) (n : Nat) : Exe Unit := okAt (c.body.length == n) (min c.body.length n)

/-- The die a body names exists on the variant (00 R2). -/
def State.okDie (s : State) (c : Cmd) (off : Nat) : Exe Nat := do
  okAt (decide (off < c.body.length)) c.body.length
  okSt (decide (fld c.body off 1 < s.dieCount)) stRange
  pure (fld c.body off 1)

/-- An object that must exist for the job (17 R433 step 3). -/
def okSome {α : Type} (x : Option α) (ok : α → Bool) : Exe α :=
  match x with
  | some a => if ok a then .ok a else .error (stNoObject, 0, 0)
  | none => .error (stNoObject, 0, 0)

/-! ### DEV- -/

/-- The body of DEV-INFO. -/
def State.infoBody (s : State) : List Byte :=
  let r := s.ks.record
  let spares := (List.range s.dieCount).flatMap fun d => ((s.reserves d ++ [0xFF, 0xFF, 0xFF, 0xFF]).take 4).map (BitVec.ofNat 8)
  pack [(2, (r.map (·.order)).getD 0), (1, s.dieCount), (1, (r.map (·.speedBin)).getD 0), (8, (r.map (·.serial)).getD 0),
    (4, s.ks.fwVersion), (4, s.ks.recVersion)] ++ spares

/-- DEV-INFO: from the configuration record and the booted images (00 R3; 18 R447, R449). -/
def execDevInfo (c : CmdRef) (s : State) : Outcome :=
  .next (s.command c 1 1 fun s x _ => do
    okLen x 0
    pure { s := s, body := s.infoBody })

/-- The code of a bay's condition. -/
def BayCond.code : BayCond → Nat
  | .active => 0
  | .reserve => 1
  | .lent => 2
  | .substituted => 3
  | .retired => 4

/-- The body of DEV-BAYS: each physical bay's condition, and the physical bay of each logical one. -/
def State.bayBody (s : State) (die : Nat) : List Byte :=
  (List.range 132).map (fun b => BitVec.ofNat 8 (s.bay die b).cond.code) ++ (List.range 128).map fun l => BitVec.ofNat 8 (s.phys die l)

/-- DEV-BAYS. -/
def execDevBays (c : CmdRef) (s : State) : Outcome :=
  .next (s.command c 1 2 fun s x _ => do
    let die ← s.okDie x 0
    okLen x 4
    okAt (zeroAt x.body 1 3) 1
    pure { s := s, body := s.bayBody die })

/-- The body of DEV-PROBES. -/
def State.probesBody (s : State) : List Byte :=
  (List.range 16).flatMap fun k => match (s.port k).probe with
    | some p => pack [(2, p.node), (1, p.port), (1, 1), (8, p.serial), (8, p.tai)] ++ zeros 12
    | none => zeros 32

/-- DEV-PROBES: the last PROBE of each Span port (14 R360). -/
def execDevProbes (c : CmdRef) (s : State) : Outcome :=
  .next (s.command c 1 3 fun s x _ => do
    okLen x 0
    pure { s := s, body := s.probesBody })

/-- DEV-NODE (14 R360); refused while a job exists. -/
def execDevNode (c : CmdRef) (s : State) : Outcome :=
  .next (s.command c 1 4 fun s x _ => do
    okLen x 2
    okAt (decide (fld x.body 0 2 < 4096)) 0
    okRef s.jobs.isEmpty 0
    pure { s := { s with part := { s.part with node := some (fld x.body 0 2) } } })

/-! ### MEM- -/

/-- MEM-WINDOW: an entry of the issuing port (16 R422). -/
def execMemWindow (c : CmdRef) (s : State) : Outcome :=
  .next (s.command c 2 1 fun s x _ => do
    let dpa := fld x.body 4 8
    okLen x 12
    okAt (decide (fld x.body 0 2 < 512)) 0
    okAt (decide (fld x.body 2 1 < 4)) 2
    okAt (zeroAt x.body 3 1) 3
    okAt (decide (dpa % 2 ^ 30 = 0 ∧ dpa < 2 ^ 48)) 4
    okSt (s.dpaOk dpa) stRange
    let w : Win := { job := x.job, base := dpa / 2 ^ 30, writable := bitOf (fld x.body 2 1) 1, valid := bitOf (fld x.body 2 1) 0,
                     stamp := s.ks.retirements }
    pure { s := s.modHost x.port fun h => { h with wins := mset h.wins (fld x.body 0 2) w } })

/-- A granted range of a bay's SRAM that a MEM- command names: die, physical bay, first byte, length. -/
def State.memRange (s : State) (x : Cmd) : Exe (Nat × Nat × Nat × Nat) := do
  let die ← s.okDie x 0
  let l := fld x.body 1 1
  let a := fld x.body 4 4
  let n := fld x.body 8 4
  okSt (s.holds x.job 1 die l) stRange
  okLen x 12
  okAt (zeroAt x.body 2 2) 2
  okAt (a % 256 == 0) 4
  okAt (n % 256 == 0 && n != 0) 8
  okSt (decide (a + n ≤ sramSize)) stRange
  pure (die, s.phys die l, a, n)

/-- Entries of a bay's seal table that are not free, of at most 1024 (20 R475). -/
def Bay.sealCount (b : Bay) : Nat := (b.seals.filter (·.state != .free)).length

/-- MEM-DRY: a free range becomes dry (04 R97; 12 R312). -/
def execMemDry (c : CmdRef) (s : State) : Outcome :=
  .next (s.command c 2 2 fun s x retry => do
    let (die, b, a, n) ← s.memRange x
    okSt ((s.bay die b).freeAt a n) stProtected
    okRef (decide ((s.bay die b).sealCount < 1024)) retry
    let s := s.modBay die b fun y => y.register a n .dry .none
    let g := (((s.bay die b).seals.find? fun e => e.start == a && e.state == .dry).map (·.gen)).getD 0
    pure { s := s, body := natLe 4 g })

/-- A range named for release still has readers. -/
def Bay.releasing (b : Bay) (a n : Nat) : Bool := (b.entsAt a n).any fun e => e.state == .dry && e.release

/-- A bay's dry entries in a range become free, or are named for release while they have readers (04 R100). -/
def Bay.freeDry (b : Bay) (a n : Nat) : Bay :=
  b.modSeals (fun e => e.state == .dry && overlaps a n e.start e.bytes) fun e => if e.readers = 0 then e.freed else { e with release := true }

/-- A range of a bay is dry, and every entry that lies in it lies in it wholly. -/
def Bay.dryWhole (b : Bay) (a n : Nat) : Bool :=
  b.allAt .dry a n && (b.entsAt a n).all fun e => decide (a ≤ e.start ∧ e.start + e.bytes ≤ a + n)

/-- MEM-FREE: dry entries become free when nothing reads them (04 R97, R100). -/
def execMemFree (c : CmdRef) (s : State) : Outcome :=
  .next (s.command c 2 3 fun s x _ => do
    let (die, b, a, n) ← s.memRange x
    okSt ((s.bay die b).dryWhole a n) stProtected
    let s := s.modBay die b fun y => y.freeDry a n
    pure { s := s, waits := (s.bay die b).releasing a n })

/-! ### JOB- (17 R440) -/

/-- A grant entry of a body. -/
def parseGrant (bs : List Byte) : Grant := ⟨fld bs 0 1, fld bs 1 1, fld bs 2 2, fld bs 4 4, fld bs 8 8⟩

/-- The entry is of a memory kind: LPDDR5X or host memory. -/
def Grant.memory (g : Grant) : Bool := g.kind == 2 || g.kind == 3

/-- The field of an entry that breaks the table of 17 R440, as its offset. -/
def Grant.fault (g : Grant) : Option Nat :=
  if g.kind = 0 ∨ 8 < g.kind then some 0
  else if g.kind = 3 ∧ 2 ≤ g.die then some 1
  else if (if g.memory then g.base % 4096 ≠ 0 else g.base ≠ 0) then some 8
  else none

/-- What the entry names exists on the part. -/
def State.grantExists (s : State) (g : Grant) : Bool :=
  let top := match g.kind with | 1 => 128 | 4 => 4096 | 5 => 1024 | 6 => 64 | 7 => 4 | _ => 0
  if g.kind = 3 then true
  else if g.kind = 8 then decide (g.die < s.dieCount) && (List.range g.count).all fun i => decide (i < 2) && s.viaExists (g.first + i)
  else decide (g.die < s.dieCount) && (if g.kind = 2 then decide (g.base + g.count * 4096 ≤ s.lpddrOf g.die) else decide (g.first + g.count ≤ top))

/-- The entry as a range: items, or bytes. -/
def Grant.span (g : Grant) : Nat × Nat := if g.memory then (g.base, g.count * 4096) else (g.first, g.count)

/-- Two entries are of one kind and die or port. -/
def Grant.same (g h : Grant) : Bool := g.kind == h.kind && (g.kind == 8 || g.die == h.die)

/-- Two entries share an item or a byte. -/
def Grant.meets (g h : Grant) : Bool := g.same h && overlaps g.span.1 g.span.2 h.span.1 h.span.2

/-- What is left of an entry without what another names. -/
def Grant.cut (g r : Grant) : List Grant :=
  if !g.same r then [g]
  else (cutRange r.span.1 r.span.2 [g.span]).map fun x => if g.memory then { g with base := x.1, count := x.2 / 4096 } else { g with first := x.1, count := x.2 }

/-- The grant entries of a JOB- body, checked. -/
def State.grantList (s : State) (x : Cmd) : Exe (List Grant) := do
  let n := fld x.body 1 1
  okAt (decide (4 ≤ x.body.length)) x.body.length
  okAt (decide (1 ≤ n ∧ n ≤ 250)) 1
  okAt (x.body.length == 4 + 16 * n) (min x.body.length (4 + 16 * n))
  let gs := (List.range n).map fun i => parseGrant (sub x.body (4 + 16 * i) 16)
  gs.zipIdx.forM fun (g : Grant × Nat) => match g.1.fault with
    | some o => okAt false (4 + 16 * g.2 + o)
    | none => okAt true 0
  okSt (gs.all s.grantExists) stRange
  pure gs

/-- Some other job holds part of a grant. -/
def State.grantedElsewhere (s : State) (job : Nat) (gs : List Grant) : Bool :=
  s.jobs.any fun j => j.1 != job && j.2.grants.any fun h => gs.any fun g => g.meets h

/-- The job that a JOB-CREATE body makes. -/
def newJob (body : List Byte) (gs : List Grant) : Job :=
  { mask := fld body 0 1, period := if fld body 2 2 = 0 then 16 else fld body 2 2, grants := gs }

/-- Bays that a job holds from now on: their side memory is zero, and their counts of palette fills begin again (07 R179; 09 R235). -/
def State.bayGiven (s : State) (job : Nat) (gs : List Grant) : State :=
  (gs.filter (·.kind == 1)).foldl (fun (s : State) g => ((List.range g.count).map (g.first + ·)).foldl (fun (s : State) l =>
    if s.holds job 1 g.die l then s
    else
      let b := s.phys g.die l
      ({ s with mem := clrBytes s.mem (bayDpa 1 g.die b 0) (regionSize 1) } : State).modBay g.die b fun x =>
        { x.sound 1 0 (regionSize 1) with pal := x.pal.map fun p => { p with fills := 0 } }) s) s

/-- JOB-CREATE (17 R440; 20 R474). -/
def execJobCreate (c : CmdRef) (s : State) : Outcome :=
  .next (s.command c 3 1 fun s x _ => do
    okAt (decide (fld x.body 0 1 < 4)) 0
    let gs ← s.grantList x
    okRef ((mget s.jobs x.job).isNone && decide (s.jobs.length < 256) && !s.grantedElsewhere x.job gs) 0
    let s := s.bayGiven x.job gs
    pure { s := { s with jobs := mset s.jobs x.job (newJob x.body gs) } })

/-- The reserved bytes of JOB-GRANT and JOB-REVOKE. -/
def grantHead (x : Cmd) : Exe Unit := do
  okAt (zeroAt x.body 0 1) 0
  okAt (zeroAt x.body 2 2) 2

/-- JOB-GRANT (17 R440). -/
def execJobGrant (c : CmdRef) (s : State) : Outcome :=
  .next (s.command c 3 2 fun s x _ => do
    grantHead x
    let gs ← s.grantList x
    okRef (!s.grantedElsewhere x.job gs) 0
    pure { s := (s.bayGiven x.job gs).modJob x.job fun j => { j with grants := j.grants ++ gs } })

/-- Slots of a job on a die that are not free. -/
def State.heldSlots (s : State) (job die : Nat) : SMap Slot :=
  (s.die die).slots.filter fun x => x.2.job == job && (x.2.state != .free || x.2.opening.isSome)

/-- Instances of a job on a die: running, queued, or to be replayed, with their physical bay. -/
def State.jobInsts (s : State) (job die : Nat) : List (Nat × Inst) :=
  (s.bays.filter fun b => b.1 / 132 == die).flatMap fun b =>
    ((b.2.slots.map (·.inst) ++ b.2.queue ++ b.2.replays).filter (·.job == job)).map fun i => (b.1 % 132, i)

/-- The records of a slot's shard and their anchors lie in a range of a tier. -/
def State.slotRecords (s : State) (die : Nat) (host : Option Nat) (a n : Nat) (sl : Slot) : Bool :=
  let h := s.shard die sl.shard
  sl.role != .contributor && (match host with | none => !h.hostTier | some p => h.hostTier && h.port == p) &&
  (overlaps a n (fld h.raw 0x10 8 % 2 ^ 44) (832 * h.blocks) || overlaps a n (fld h.raw 0x18 8 % 2 ^ 44) (128 * h.blocks))

/-- A stroke, slot, stream, pool or session of the job uses part of a grant (17 JOB-REVOKE). -/
def State.grantUsed (s : State) (job : Nat) (g : Grant) : Bool :=
  let (a, n) := g.span
  let d := s.die g.die
  let inR := fun k => decide (a ≤ k ∧ k < a + n)
  match g.kind with
  | 1 => (s.jobInsts job g.die).any (fun i => (s.logical g.die i.1).any inR) || (s.heldSlots job g.die).any fun x => inR x.2.lbay
  | 2 =>
    (s.jobInsts job g.die).any (fun i => i.2.img.descs.any fun y => !y.isRem && y.spans.any fun z =>
      !dpaOnDie z.1 && dpaDie z.1 == g.die && overlaps a n (z.1 % 2 ^ 44) z.2) ||
    d.pools.any (fun p => p.2.job == job && (let fmt := s.poolFmt g.die p.1; overlaps a n (fld p.2.raw 8 8 % 2 ^ 44) (2 * (p.2.sizes fmt).foldl (· + ·) 0))) ||
    s.via.sessions.any (fun x => x.2.job == job && x.2.state != .closed && s.viaDie (x.1 / 256) == g.die && overlaps a n (x.2.recvBase % 2 ^ 44) x.2.recvBytes) ||
    (s.heldSlots job g.die).any fun x => s.slotRecords g.die none a n x.2
  | 3 => (List.range s.dieCount).any fun die =>
    ((s.die die).streams.any fun x => x.2.job == job && x.2.port == g.die &&
      (overlaps a n x.2.audioBase x.2.audioBytes || x.2.segs.any fun y => overlaps a n y.addr y.len)) ||
    (s.heldSlots job die).any fun x => s.slotRecords die (some g.die) a n x.2
  | 4 => (s.heldSlots job g.die).any fun x => inR x.1
  | 5 => (s.heldSlots job g.die).any fun x => x.2.role != .contributor && inR x.2.shard
  | 6 => d.streams.any fun x => x.2.job == job && inR x.1
  | 7 => d.pools.any fun x => x.2.job == job && inR x.1
  | _ => s.via.sessions.any fun x => x.2.job == job && x.2.state != .closed && inR (x.1 / 256)

/-- Takes entries off a job's grants. -/
def State.ungrant (s : State) (job : Nat) (gs : List Grant) : State :=
  s.modJob job fun j => { j with grants := gs.foldl (fun hs g => hs.flatMap fun h => h.cut g) j.grants }

/-- Every item of an entry lies in the job's grants. -/
def State.holdsGrant (s : State) (job : Nat) (g : Grant) : Bool :=
  (((mgetD {} s.jobs job).grants.filter g.same).foldl (fun rs h => cutRange h.span.1 h.span.2 rs) (if g.count = 0 then [] else [g.span])).isEmpty

/-- JOB-REVOKE: the grants go once nothing of the job uses them. -/
def execJobRevoke (c : CmdRef) (s : State) : Outcome :=
  .next (s.command c 3 3 fun s x _ => do
    grantHead x
    let gs ← s.grantList x
    okSt (gs.all (s.holdsGrant x.job)) stRange
    if gs.any (s.grantUsed x.job) then pure { s := s, waits := true } else pure { s := s.ungrant x.job gs })

/-! ### Runs, sessions, streams and slots that a command ends -/

/-- Stops a run: no further node; issued strokes seal (17 RUN-STOP). -/
def State.stopRun (s : State) (die r : Nat) : State :=
  if (s.run die r).active then s.modRun die r fun g => { g with state := .stopped, held := false, waitSlot := none, releases := [] } else s

/-- Closes a session: CLOSE leaves, and any state returns to CLOSED (15 R386). -/
def State.closeSession (s : State) (k : Nat) : State :=
  if (s.sess k).state = .closed then s else (s.closeSend k).modSess k fun x => { x.fresh with state := .closed }

/-- Frees a slot: its buffer, its touch-directory entries, its consumption and staged records (17 COL-FREE, JOB-DESTROY). -/
def State.freeSlotOf (s : State) (die n : Nat) : State :=
  let s := ((s.modSlot die n fun sl => { sl with
    state := .free, opening := none, heldMsgs := [], heldSince := [], sendQ := [], sent := [], credit := [], token := none, ranges := [], wantRelease := false }).freeBuffer die n).untouch die n
  s.modDie die fun d => { d with cons := mdel d.cons n, staged := d.staged.filter (·.1 != n) }

/-- Everything of a job goes, once its strokes have sealed; LPDDR5X contents stay (17 JOB-DESTROY). -/
def State.destroyJob (s : State) (job : Nat) : State :=
  let s := (List.range s.dieCount).foldl (fun (s : State) die =>
    let s := (mkeys (s.heldSlots job die)).foldl (fun (s : State) n => s.freeSlotOf die n) s
    let gone := mkeys ((s.die die).slots.filter fun x => x.2.job == job)
    s.modDie die fun d => { d with
      slots := d.slots.filter fun x => x.2.job != job
      bindings := d.bindings.filter fun x => !gone.contains x.1
      order := d.order.filter fun k => !gone.contains k
      pairWait := d.pairWait.filter fun w => (mgetD {} d.shards w.1).job != job
      shards := d.shards.filter fun x => x.2.job != job
      images := d.images.filter fun x => x.2.job != job
      graphs := d.graphs.filter fun x => x.2.job != job
      runs := d.runs.filter fun x => x.2.job != job
      streams := d.streams.filter fun x => x.2.job != job
      pools := d.pools.filter fun x => x.2.job != job
      totals := mdel d.totals job }) s
  let mine := (mgetD {} s.jobs job).grants
  { s with
    via := { s.via with sessions := s.via.sessions.filter fun x => x.2.job != job, frags := s.via.frags.filter fun x => x.2.job != job }
    span := { s.span with gather := s.span.gather.filter fun x => x.2.job != job }
    bays := s.bays.map fun b => match s.logical (b.1 / 132) (b.1 % 132) with
      | some l => if mine.any fun g => g.kind == 1 && g.die == b.1 / 132 && decide (g.first ≤ l ∧ l < g.first + g.count) then (b.1, { b.2 with replicaMisses := 0 }) else b
      | none => b
    jobs := mdel s.jobs job }

/-- Some stroke instance of a job has not sealed. -/
def State.jobBusy (s : State) (job : Nat) : Bool := (List.range s.dieCount).any fun die => !(s.jobInsts job die).isEmpty

/-- A job ends: its runs stop, its streams and pools go, its sessions close (17 JOB-DESTROY). -/
def State.endJob (s : State) (job : Nat) : State :=
  let s := s.modJob job fun j => { j with ending := true }
  let s := (List.range s.dieCount).foldl (fun (s : State) die =>
    let s := (s.jobRuns die job).foldl (fun (s : State) r => s.stopRun die r) s
    s.modDie die fun d => { d with
      streams := d.streams.filter fun y => y.2.job != job, pools := d.pools.filter fun y => y.2.job != job }) s
  (mkeys (s.via.sessions.filter fun y => y.2.job == job)).foldl (fun (s : State) k => s.closeSession k) s

/-- The body of JOB-STATUS. -/
def State.jobBody (s : State) (job : Nat) : List Byte :=
  let j := mgetD {} s.jobs job
  let runs := ((List.range s.dieCount).map fun die => (s.jobRuns die job).length).foldl (· + ·) 0
  pack [(1, if j.ending then 2 else 1), (1, runs), (2, j.grants.length), (4, j.indexZeroed), (4, j.sliceResets), (4, j.freezes)]

/-- JOB-DESTROY: runs stop, sessions, streams and pools close; once the issued strokes have sealed, the rest is freed. -/
def execJobDestroy (c : CmdRef) (s : State) : Outcome :=
  .next (s.command c 3 4 fun s x _ => do
    okLen x 0
    let s := s.endJob x.job
    if s.jobBusy x.job then pure { s := s, waits := true } else pure { s := s.destroyJob x.job })

/-- JOB-STATUS. -/
def execJobStatus (c : CmdRef) (s : State) : Outcome :=
  .next (s.command c 3 5 fun s x _ => do
    okLen x 0
    pure { s := s, body := s.jobBody x.job })

/-! ### Responses and deferral (17 R429, R430, R435) -/

/-- The end of a command's work, where its condition holds: the state it leaves and its result. A field test ends in FIELD_TEST_DONE. -/
def State.workEnd (s : State) (c : Cmd) : Option (State × List Byte) :=
  match c.group, c.code with
  | 2, 3 =>
    let b := s.phys c.die (fld c.body 1 1)
    if (s.bay c.die b).releasing (fld c.body 4 4) (fld c.body 8 4) then none else some (s, [])
  | 3, 3 =>
    let gs := (List.range (fld c.body 1 1)).map fun i => parseGrant (sub c.body (4 + 16 * i) 16)
    if gs.any (s.grantUsed c.job) then none else some (s.ungrant c.job gs, [])
  | 3, 4 => if s.jobBusy c.job then none else some (s.destroyJob c.job, [])
  | 5, 2 => if (s.openOf c.die (fld c.body 1 1)).isEmpty then some (s, natLe 2 (s.run c.die (fld c.body 1 1)).node) else none
  | _, _ => none

/-- Ends a command's work if it can end. -/
def State.settleWork (s : State) (c : Cmd) : State :=
  match s.workEnd c with
  | some (s, body) => s.finishWork c.die c stOk body
  | none => s

/-- Commands that continue: (die, entry). -/
def State.deferreds (s : State) : List (Nat × Deferred) := s.dies.flatMap fun d => d.2.deferred.map fun e => (d.1, e)

/-- The response of a port's mailbox that is ready. -/
def State.readyResp (s : State) (p m : Nat) : Option Resp := (s.host p).resps.find? (·.cmd.mailbox == m)

/-- MAILBOX_RESPONSE: the firmware writes the response; work that has ended since is completed first (16 R417; 17 R429, R430). -/
def execMailboxResponse (p m : Nat) (hostOk : Bool) (s : State) : Outcome :=
  .next (
    if 2 ≤ p then s
    else
      let s := match s.readyResp p m, s.deferreds.find? fun e => e.2.cmd.port == p && e.2.cmd.mailbox == m && e.2.token.isNone && !e.2.cmd.gone with
        | none, some e => s.settleWork e.2.cmd
        | _, _ => s
      match s.readyResp p m with
      | some r => (s.modHost p fun h => { h with resps := h.resps.erase r }).writeResponse p r hostOk
      | none => s)

/-- DEFERRAL_TIMEOUT: a command that has not completed after 1 ms is answered with ST_DEFERRED, a token no other has, and its die
(17 R435). -/
def execDeferralTimeout (p m token : Nat) (s : State) : Outcome :=
  .next (match s.deferreds.find? fun e => e.2.cmd.port == p && e.2.cmd.mailbox == m && e.2.token.isNone with
    | some e =>
      if (s.die e.1).deferred.any (·.token == some token) ∨ 2 ^ 32 ≤ token then s
      else
        let s := s.modDie e.1 fun d => { d with deferred := d.deferred.map fun y => if y = e.2 then { y with token := some token } else y }
        s.respond e.2.cmd stDeferred [] 0 (e.1 * 2 ^ 32 + token)
    | none => s)

/-- A deferred command's end is told to the port that issued it (17 R435, R439). -/
def State.cmdDone (s : State) (die token : Nat) (e : Deferred) : State :=
  let (st, body) := e.result.getD (stOk, [])
  (s.modDie die fun d => { d with deferred := d.deferred.erase e }).eventAt e.cmd.port evCmdDone e.cmd.job die st
    (pack [(1, e.cmd.group), (1, e.cmd.code), (2, fld e.cmd.hdr 2 2), (4, token), (2, st), (2, 0)] ++ sub body 0 40)

/-- DEFERRED_COMMAND_END: a deferred command that has ended raises EV_CMD_DONE to the port that issued it (17 R435, R439). -/
def execDeferredCommandEnd (die token : Nat) (s : State) : Outcome :=
  .next (match (s.die die).deferred.find? (·.token == some token) with
    | none => s
    | some e =>
      let s := if e.result.isNone then s.settleWork e.cmd else s
      match (s.die die).deferred.find? fun e => e.token == some token && e.result.isSome with
      | some e => s.cmdDone die token e
      | none => s)

end Sys2Proof.Machine
end

