-- ==== Sys2Proof/Machine/Programs.lean ====
section
/-! DEFINITION. The PRG-, RUN- and ATL- commands (17 R441; 05 R111, R135, R141 to R143, R504; 13 R331, R332, R341, R348, R349). -/

namespace Sys2Proof.Machine

open Sys2Proof

/-! ### PRG- -/

/-- A loader's check as a command's: offsets are within the image, which follows the first 4 bytes of the body. -/
def okLoad {α : Type} (x : Chk α) : Exe α :=
  match x with
  | .ok a => .ok a
  | .error (st, off) => .error (st, if st = stMalformed then off + 4 else 0, 0)

/-- The active runs of a die. -/
def State.activeRuns (s : State) (die : Nat) : SMap Run := (s.die die).runs.filter (·.2.active)

/-- The number an object takes: the one asked for where it is free, else the lowest free one (17 PRG-STROKE). -/
def pickFree {α : Type} (m : SMap α) (id top : Nat) : Nat := if id < top ∧ (mget m id).isNone then id else (mfree m top).getD 0

/-- PRG-STROKE: the loader's checks, then an image number: `id`, or the lowest free one (05 R111, R112, R135). -/
def execPrgStroke (c : CmdRef) (id : Nat) (s : State) : Outcome :=
  .next (s.command c 4 1 fun s x _ => do
    let die ← s.okDie x 0
    okAt (decide (4 ≤ x.body.length)) x.body.length
    okAt (zeroAt x.body 1 3) 1
    let img ← okLoad (loadStroke s.dieCount s.part.lpddr x.job (x.body.drop 4))
    let d := s.die die
    okRef (decide (d.images.length < 4096)) 0
    let n := pickFree d.images id 65536
    pure { s := s.modDie die fun d => { d with images := mset d.images n img }, body := pack [(2, n), (2, 0), (4, img.work)] })

/-- PRG-GRAPH: the loader's checks, then a graph number: `id`, or the lowest free one (05 R142). -/
def execPrgGraph (c : CmdRef) (id : Nat) (s : State) : Outcome :=
  .next (s.command c 4 2 fun s x _ => do
    let die ← s.okDie x 0
    okAt (decide (4 ≤ x.body.length)) x.body.length
    okAt (zeroAt x.body 1 3) 1
    let g ← okLoad (loadGraph s.dieCount (s.die die).images x.job (x.body.drop 4))
    let d := s.die die
    okRef (decide (d.graphs.length < 64)) 0
    let n := pickFree d.graphs id 64
    pure { s := s.modDie die fun d => { d with graphs := mset d.graphs n g }, body := natLe 2 n })

/-- PRG-UNLOAD: refused while a running graph names the image (05 R143). -/
def execPrgUnload (c : CmdRef) (s : State) : Outcome :=
  .next (s.command c 4 3 fun s x retry => do
    let die ← s.okDie x 0
    let d := s.die die
    let n := fld x.body 2 2
    okLen x 4
    okAt (decide (fld x.body 1 1 ≤ 1)) 1
    if fld x.body 1 1 = 0 then
      let _ ← okSome (mget d.images n) fun i => i.job == x.job
      okRef (!(s.activeRuns die).any fun r => (strokeRefs (mgetD {} d.graphs r.2.graph).nodes).contains n) retry
      pure { s := s.modDie die fun d => { d with images := mdel d.images n } }
    else
      let _ ← okSome (mget d.graphs n) fun g => g.job == x.job
      okRef (!(s.activeRuns die).any fun r => r.2.graph == n) retry
      pure { s := s.modDie die fun d => { d with graphs := mdel d.graphs n } })

/-! ### RUN- -/

/-- The logical bays a graph's STROKE nodes name. -/
def Graph.bays (g : Graph) : List Nat :=
  ((g.nodes.filter (·.kind == 1)).flatMap fun y => (List.range y.range.2.2).map fun k => y.range.2.1 + k).dedup

/-- The run number is free: never used, or its run has ended and its instances have sealed. -/
def State.runFree (s : State) (die n : Nat) : Bool :=
  match mget (s.die die).runs n with
  | none => true
  | some r => !r.active && r.openInsts.isEmpty

/-- Another job's running graph names one of a graph's bays (05 R143). -/
def State.baysTaken (s : State) (die job : Nat) (g : Graph) : Bool :=
  (s.activeRuns die).any fun r => r.2.job != job && (mgetD {} (s.die die).graphs r.2.graph).bays.any g.bays.contains

/-- Every image that a graph names is the job's. -/
def State.imagesOf (s : State) (die job : Nat) (g : Graph) : Bool :=
  (strokeRefs g.nodes).all fun i => match mget (s.die die).images i with | some m => m.job == job | none => false

/-- The run numbers that are free. -/
def State.freeRuns (s : State) (die : Nat) : List Nat := (List.range 16).filter (s.runFree die)

/-- RUN-START: the graph and every image it names exist, its bays are granted, FREE nodes agree with the images, and no other job's graph
names its bays (05 R141 to R143). -/
def execRunStart (c : CmdRef) (id : Nat) (s : State) : Outcome :=
  .next (s.command c 5 1 fun s x retry => do
    let die ← s.okDie x 0
    let d := s.die die
    let n := fld x.body 2 2
    okLen x 4
    let g ← okSome (mget d.graphs n) fun g => g.job == x.job
    okSt (s.imagesOf die x.job g) stNoObject
    okSt (g.bays.all fun l => s.holds x.job 1 die l) stRange
    okAt (zeroAt x.body 1 1) 1
    okAt (freeFault d.images g.nodes).isNone 2
    okRef (!s.baysTaken die x.job g) retry
    let free := s.freeRuns die
    okRef (!free.isEmpty) retry
    let k := if free.contains id then id else free.headD 0
    pure { s := s.modDie die fun d => { d with runs := mset d.runs k { graph := n, job := x.job } }, body := natLe 1 k })

/-- The run that a RUN- body names. -/
def State.okRun (s : State) (x : Cmd) : Exe (Nat × Nat) := do
  let die ← s.okDie x 0
  okLen x 2
  let _ ← okSome (mget (s.die die).runs (fld x.body 1 1)) fun r => r.job == x.job
  pure (die, fld x.body 1 1)

/-- RUN-STOP: no further node; issued strokes seal. -/
def execRunStop (c : CmdRef) (s : State) : Outcome :=
  .next (s.command c 5 2 fun s x _ => do
    let (die, r) ← s.okRun x
    let s := s.stopRun die r
    pure { s := s, body := natLe 2 (s.run die r).node, waits := !(s.openOf die r).isEmpty })

/-- The code of a run's state. -/
def RunState.code : RunState → Nat
  | .running => 0
  | .waiting => 1
  | .done => 2
  | .faulted => 3
  | .stopped => 4

/-- The body of RUN-STATUS. -/
def Run.statusBody (g : Run) : List Byte := pack [(1, g.state.code), (1, 0), (2, g.node), (4, g.step)] ++ g.counters.flatMap (natLe 4)

/-- RUN-STATUS. -/
def execRunStatus (c : CmdRef) (s : State) : Outcome :=
  .next (s.command c 5 3 fun s x _ => do
    let (die, r) ← s.okRun x
    pure { s := s, body := (s.run die r).statusBody })

/-- The completion record of a journal entry, or of the replay that ran it again. -/
def Bay.recOf (b : Bay) : Nat → Nat → Option Completion
  | 0, q => mget b.recs q
  | k + 1, q => match mget b.recs q, b.journal.find? fun e => e.inst.replayOf == some q with
    | some r, _ => some r
    | none, some e => b.recOf k e.seq
    | none, none => none

/-- The record that RUN-RECORD gives: of a journal entry of the job, or of its last one that has one. -/
def Bay.recordAt (b : Bay) (job q : Nat) : Option Completion :=
  let mine := b.journal.filter fun e => e.inst.job == job
  if q = 0xFFFFFFFF then (mine.filterMap fun e => mget b.recs e.seq).getLast? else (mine.find? (·.seq == q)).bind fun e => b.recOf 64 e.seq

/-- RUN-RECORD: the record of a journal entry, or of the last one that has one (05 R131; 12 R311). -/
def execRunRecord (c : CmdRef) (s : State) : Outcome :=
  .next (s.command c 5 4 fun s x _ => do
    let die ← s.okDie x 0
    let r ← okSome ((s.bay die (s.phys die (fld x.body 1 1))).recordAt x.job (fld x.body 4 4)) fun _ => true
    okSt (s.holds x.job 1 die (fld x.body 1 1)) stRange
    okLen x 8
    okAt (zeroAt x.body 2 2) 2
    pure { s := s, body := r.bytes })

/-- RUN-NOTIFY: delivered as a die NOTIFY; refused while a queue that must take it is full (05 R504; 13 R352). -/
def execRunNotify (c : CmdRef) (s : State) : Outcome :=
  .next (s.command c 5 5 fun s x retry => do
    let die ← s.okDie x 0
    let tag := fld x.body 2 2
    okLen x 20
    okAt (zeroAt x.body 1 1) 1
    okRef ((s.poolOfTag die x.job tag).isSome || s.notifyRoom die x.job) retry
    pure { s := s.notify die x.job tag ((List.range 4).map fun i => fld x.body (4 + 4 * i) 4) })

/-! ### ATL- streams (13 R331, R332, R337, R341, R342) -/

/-- The fields of a stream descriptor against the table of 13 R331, with their offsets in the body. -/
def streamFields (job : Nat) (x : Stream) : List (Bool × Nat) :=
  let r := x.raw
  let u16 := fun o => fld r o 2
  let pic := fun o => u16 o % 2 == 0
  [(decide (fld r 0 1 < 64), 0), (decide (x.container ≤ 2), 1), (decide (x.codec ≤ 3), 2), (decide (fld r 3 1 < 8), 3), (fld r 4 2 == job, 4),
   (decide (u16 6 < 8192) && (x.container != 2 || u16 6 == 0), 6)] ++
  ((List.range 4).map fun i => (decide (u16 (8 + 2 * i) < 8192), 8 + 2 * i)) ++
  [(fld r 0x18 4 % 16 == 0, 0x18), (decide (fld r 0x1C 1 ≤ 2), 0x1C), (x.fmt == 1 || x.fmt == 3 || x.fmt == 4, 0x1D),
   (decide (8 ≤ x.patch ∧ x.patch ≤ 32), 0x1E), (decide (1 ≤ x.tubelet ∧ x.tubelet ≤ 4), 0x1F),
   (decide (1 ≤ x.frames ∧ x.frames ≤ 64) && x.frames % x.tubelet == 0, 0x20), (decide (1 ≤ x.step), 0x21), (decide (fld r 0x22 1 ≤ 1), 0x22),
   (decide (x.pool < 4), 0x23), (x.w % x.patch == 0 && decide (x.w ≤ 4096), 0x24), (x.h % x.patch == 0 && decide (x.h ≤ 4096), 0x26)] ++
  [(pic 0x28 && (u16 0x2C != 0 || u16 0x28 == 0), 0x28), (pic 0x2A && (u16 0x2C != 0 || u16 0x2A == 0), 0x2A), (pic 0x2C, 0x2C),
   (pic 0x2E && (if u16 0x2C = 0 then u16 0x2E == 0 else decide (2 ≤ u16 0x2E)), 0x2E), (decide (1 ≤ fld r 0x38 4), 0x38),
   (x.container != 2 || decide (1 ≤ fld r 0x3C 4), 0x3C)] ++
  ((List.range 3).map fun i => (let w := BitVec.ofNat 32 (fld r (0x50 + 4 * i) 4); !isNaN w && !isInf w, 0x50 + 4 * i)) ++
  [(zeroAt r 0x5C 36, 0x5C)]

/-- Bytes of a pool's two banks for a format (13 R348, R349). -/
def Pool.bytes (p : Pool) (fmt : Nat) : Nat := 2 * (p.sizes fmt).foldl (· + ·) 0

/-- The format a new pool is sized for: that of its streams, else MXFP8 where S allows it. -/
def State.newPoolFmt (s : State) (die : Nat) (p : Pool) : Nat :=
  ((p.streams.find? fun n => (mget (s.die die).streams n).isSome).map fun n => (s.stream die n).fmt).getD (if p.elems % 32 = 0 then 3 else 1)

/-- The pools of a die fit its populated LPDDR5X and 64 GiB, one of them with a format (13 R348, R349). -/
def State.poolsFit (s : State) (die p fmt : Nat) (q : Pool) : Bool :=
  let others := ((s.die die).pools.filter (·.1 != p)).map fun y => y.2.bytes (s.newPoolFmt die y.2)
  decide (others.foldl (· + ·) 0 + q.bytes fmt ≤ 2 ^ 36 ∧ fld q.raw 8 8 % 2 ^ 44 + q.bytes fmt ≤ s.lpddrOf die)

/-- A new stream of a descriptor. -/
def newStream (job : Nat) (raw : List Byte) : Stream := { raw := raw, job := job, audioBase := fld raw 0x10 8, audioBytes := fld raw 0x18 4 }

/-- The work areas of a die's streams, with one more, fit its region (13 R341; log 15). -/
def State.areaFits (s : State) (die area : Nat) : Bool :=
  decide (((s.die die).streams.map fun z => (Config.workArea z.2.raw).toNat).foldl (· + ·) area ≤ (Config.atelierRegion die).toNat)

/-- ATL-STREAM: creates a stream on the engine with the fewest (13 R331, R341). -/
def execAtlStream (c : CmdRef) (s : State) : Outcome :=
  .next (s.command c 6 1 fun s x _ => do
    let die ← s.okDie x 0
    let d := s.die die
    let raw := sub x.body 4 128
    let y := newStream x.job raw
    let n := fld raw 0 1
    let p ← okSome (mget d.pools y.pool) fun p => p.job == x.job
    okSt (s.holds x.job 6 die n && (y.audioBase == 0 || s.holdsRange x.job 3 y.port y.audioBase y.audioBytes)) stRange
    okLen x 132
    okAt (zeroAt x.body 1 3) 1
    okAll ((streamFields x.job y).map fun f => (f.1, f.2 + 4))
    let mates := d.streams.filter fun z => z.2.pool == y.pool
    okAt (y.sample == p.elems && mates.all fun z => z.2.fmt == y.fmt) 0x27
    okRef (mget d.streams n).isNone 0
    okRef (s.poolsFit die y.pool y.fmt p) 0
    match s.engineFor die with
    | none => okRef false 0
    | some _ => pure ()
    let area := (Config.workArea raw).toNat
    okRef (s.areaFits die area) 0
    let y := { y with engine := (s.engineFor die).getD 0 }
    pure { s := s.modDie die fun d => { d with streams := mset d.streams n y }, body := natLe 8 area })

/-- The stream a body names. -/
def State.okStream (s : State) (x : Cmd) (off : Nat) : Exe (Nat × Nat × Stream) := do
  let die ← s.okDie x 0
  let y ← okSome (mget (s.die die).streams (fld x.body off 1)) fun y => y.job == x.job
  pure (die, fld x.body off 1, y)

/-- The entries of a segment list. -/
def segmentList (bs : List Byte) (k : Nat) : List Segment :=
  (List.range k).map fun i => { addr := fld (sub bs (16 * i) 16) 0 8, len := fld (sub bs (16 * i) 16) 8 4, flags := fld (sub bs (16 * i) 16) 0xC 2 }

/-- A segment list is well formed: lengths, flags, reserved bytes, END in the last entry only (13 R332). -/
def segmentsOk (bs : List Byte) (k : Nat) : Bool :=
  ((List.range k).all fun i =>
    let e := sub bs (16 * i) 16
    decide (1 ≤ fld e 8 4 ∧ fld e 8 4 ≤ 2 ^ 26 ∧ fld e 0xC 2 < 4) && zeroAt e 0xE 2) &&
  !(segmentList bs k).dropLast.any fun g => bitOf g.flags 0

/-- ATL-SUBMIT: the segment list, read from host memory, joins the stream's segments (13 R332). -/
def execAtlSubmit (c : CmdRef) (hostData : Option (List Byte)) (s : State) : Outcome :=
  .next (s.command c 6 2 fun s x retry => do
    let (die, n, y) ← s.okStream x 1
    let k := fld x.body 2 2
    okSt (s.holdsRange x.job 3 y.port (fld x.body 8 8) (16 * k)) stRange
    okLen x 16
    okAt (decide (1 ≤ k ∧ k ≤ 256)) 2
    okAt (zeroAt x.body 4 4) 4
    okRef (y.state == .running && !y.segs.any fun g => bitOf g.flags 0) 0
    okRef (decide (y.segs.length + k ≤ 1024)) retry
    match hostData with
    | none => .error (stHostIo, 0, 0)
    | some bs =>
      okSt (bs.length == 16 * k && (s.host y.port).usable s.ks.ideRequired) stHostIo
      okAt (segmentsOk bs k) 8
      pure { s := s.modStream die n fun y => { y with segs := y.segs ++ segmentList bs k }, body := natLe 4 (y.segs.length + k) })

/-- The fields of a pool descriptor against the table of 13 R348, with their offsets. -/
def poolFields (job die : Nat) (p : Pool) : List (Bool × Nat) :=
  let r := p.raw
  let k := fld r 0x1C 1
  [(decide (fld r 0 1 < 4), 0), (decide (fld r 1 1 ≤ 1), 1), (fld r 2 2 == job, 2), (decide (2 ≤ p.slots ∧ p.slots ≤ 2 ^ 24), 4),
   (fld r 8 8 % 256 == 0 && !dpaOnDie (fld r 8 8) && dpaDie (fld r 8 8) == die && decide (fld r 8 8 < 2 ^ 48), 8),
   (decide (1 ≤ k ∧ k ≤ 64), 0x1C), (zeroAt r 0x1D 3, 0x1D)] ++
  ((List.range 64).map fun i => (let b := fld r (0x20 + i) 1; if i < k then decide (b < 64) else b == 0xFF, 0x20 + i)) ++
  [(zeroAt r 0x60 32, 0x60)]

/-- ATL-POOL: creates a pool (13 R348, R349). -/
def execAtlPool (c : CmdRef) (s : State) : Outcome :=
  .next (s.command c 6 3 fun s x _ => do
    let die ← s.okDie x 0
    let p : Pool := { raw := sub x.body 4 128, job := x.job }
    let n := fld p.raw 0 1
    let fmt := s.newPoolFmt die p
    okSt (s.holds x.job 7 die n) stRange
    okLen x 132
    okAt (zeroAt x.body 1 3) 1
    okAll ((poolFields x.job die p).map fun f => (f.1, f.2 + 4))
    okRef ((mget (s.die die).pools n).isNone && s.poolsFit die n fmt p) 0
    okSt (s.holdsRange x.job 2 die (fld p.raw 8 8 % 2 ^ 44) (p.bytes fmt)) stRange
    pure { s := s.modDie die fun d => { d with pools := mset d.pools n p } })

/-- ATL-AUDIO: gives the audio buffer and restarts it (13 R337). -/
def execAtlAudio (c : CmdRef) (s : State) : Outcome :=
  .next (s.command c 6 4 fun s x _ => do
    let (die, n, y) ← s.okStream x 1
    let bytes := fld x.body 4 4
    let base := fld x.body 8 8
    okSt (base == 0 || s.holdsRange x.job 3 y.port base bytes) stRange
    okLen x 16
    okAt (zeroAt x.body 2 2) 2
    okAt (bytes % 16 == 0) 4
    pure { s := s.modStream die n fun y => { y with audioBase := base, audioBytes := bytes, audioPos := 0, audioFull := false } })

/-- ATL-CLOSE: a stream stops and goes; a pool goes once it has no stream. -/
def execAtlClose (c : CmdRef) (s : State) : Outcome :=
  .next (s.command c 6 5 fun s x _ => do
    let die ← s.okDie x 0
    let n := fld x.body 2 1
    okLen x 4
    okAt (decide (fld x.body 1 1 ≤ 1)) 1
    if fld x.body 1 1 = 0 then
      let (_, _, y) ← s.okStream x 2
      okAt (zeroAt x.body 3 1) 3
      pure { s := s.modDie die fun d => { d with streams := mdel d.streams n }, body := y.counterBytes }
    else
      let _ ← okSome (mget (s.die die).pools n) fun p => p.job == x.job
      okAt (zeroAt x.body 3 1) 3
      okRef (!(s.die die).streams.any fun y => y.2.pool == n) 0
      pure { s := s.modDie die fun d => { d with pools := mdel d.pools n } })

/-- ATL-STATUS. -/
def execAtlStatus (c : CmdRef) (s : State) : Outcome :=
  .next (s.command c 6 6 fun s x _ => do
    let (_, _, y) ← s.okStream x 1
    okLen x 2
    pure { s := s, body := y.counterBytes })

end Sys2Proof.Machine
end

