-- ==== Sys2Proof/Machine/Collective.lean ====
section
/-! DEFINITION. The COL- and VAR- commands (17 R441; 10 R243 to R246, R266, R271; 14 R361, R363, R372; 11 R273 to R275, R278, R285, R287,
R295, R296, R302; 12 R318). -/

namespace Sys2Proof.Machine

open Sys2Proof

/-! ### Slots -/

/-- The code of a slot's state (10 R245). -/
def SlotState.code : SlotState → Nat
  | .free => 0
  | .opened => 1
  | .released => 2
  | .held => 3
  | .gated => 4
  | .updating => 5
  | .resetting => 6
  | .lost => 7

/-- The code of a slot's role (10 R244). -/
def Role.code : Role → Nat
  | .contributor => 0
  | .owner => 1
  | .twin => 2

/-- The 64 bytes of a slot descriptor (10 R244). -/
def Slot.descBytes (sl : Slot) (n : Nat) : List Byte :=
  pack [(2, n), (1, sl.state.code), (1, sl.role.code), (2, sl.job), (2, b2n sl.carry + 2 * b2n sl.recycle), (4, sl.step), (2, sl.partner),
    (2, sl.expected), (1, sl.lbay), (3, 0), (4, sl.elemOff), (4, sl.anchorOff), (4, sl.blocks), (2, sl.ownerNode), (2, sl.twinNode),
    (2, sl.remoteSlot), (1, sl.ownerDie), (1, 0), (4, sl.deadline), (4, sl.shardF), (16, 0)]

/-- The 64 bytes of a slot status record (10 R271). -/
def Slot.statusBytes (sl : Slot) : List Byte :=
  pack [(4, sl.step), (2, sl.included), (2, sl.carriedN), (8, sl.tFirst), (8, sl.tFixed), (8, sl.tSealed), (8, sl.tAgreed),
    (4, min (2 ^ 32 - 1) sl.heldUs), (2, min 65535 sl.retractions), (1, sl.resets), (1, min 255 sl.lateCarried), (2, min 65535 sl.lateDropped),
    (2, min 65535 sl.withdrawnN), (12, 0)]

/-- The role of a code. -/
def roleOf (k : Nat) : Role := match k with | 1 => .owner | 2 => .twin | _ => .contributor

/-- The fields of a slot descriptor that COL-SLOT sets. -/
def Slot.described (sl : Slot) (r : List Byte) : Slot :=
  { sl with
    role := roleOf (fld r 3 1), job := fld r 4 2, carry := bitOf (fld r 6 2) 0, recycle := bitOf (fld r 6 2) 1, partner := fld r 0xC 2
    expected := fld r 0xE 2, lbay := fld r 0x10 1, elemOff := fld r 0x14 4, anchorOff := fld r 0x18 4, blocks := fld r 0x1C 4
    ownerNode := fld r 0x20 2, twinNode := fld r 0x22 2, remoteSlot := fld r 0x24 2, ownerDie := fld r 0x26 1, deadline := fld r 0x28 4
    shardF := fld r 0x2C 4 }

/-- The fields of a slot descriptor against 10 R244 and 11 R274, with their offsets. -/
def State.slotFields (s : State) (job die : Nat) (r : List Byte) : List (Bool × Nat) :=
  let con := fld r 3 1 == 0
  let ex := fld r 0xE 2
  let e := fld r 0x14 4
  let a := fld r 0x18 4
  let n := fld r 0x1C 4
  let f := fld r 0x2C 4
  let h := (s.die die).shards.find? fun x => x.1 == f >>> 22 && x.2.job == job
  [(decide (fld r 0 2 < 4096), 0), (decide (fld r 2 1 < 8), 2), (decide (fld r 3 1 ≤ 2), 3), (fld r 4 2 == job, 4), (decide (fld r 6 2 < 4), 6),
   (if con then fld r 0xC 2 == 0 else decide (fld r 0xC 2 < 4096), 0xC), (if con then decide (ex < 1024) else decide (1 ≤ ex ∧ ex ≤ 1024), 0xE),
   (decide (fld r 0x10 1 < 128), 0x10), (zeroAt r 0x11 3, 0x11), (e % 256 == 0 && decide (e + 256 * n ≤ sramSize), 0x14),
   (a % 256 == 0 && decide (a + n ≤ sramSize) && !overlaps e (256 * n) a n, 0x18), (decide (1 ≤ n ∧ n ≤ 48960), 0x1C)] ++
  [(decide (fld r 0x20 2 < 4096), 0x20), (decide (fld r 0x22 2 < 4096), 0x22), (if con then decide (fld r 0x24 2 < 4096) else fld r 0x24 2 == 0, 0x24),
   (if con then decide (fld r 0x26 1 < 8) else fld r 0x26 1 == die, 0x26), (zeroAt r 0x27 1, 0x27), (fld r 3 1 == 1 || fld r 0x28 4 == 0, 0x28),
   (if con then f == 0 else match h with | some x => decide (f % 2 ^ 22 + n ≤ x.2.blocks) | none => false, 0x2C), (zeroAt r 0x30 16, 0x30)]

/-- The scale hints of a COL-SLOT body, one byte a block, or none. -/
def slotHints (body : List Byte) : List Nat := (body.drop 68).map (·.toNat)

/-- COL-SLOT: writes a slot descriptor and begins to open the slot, with the anchors given or the record hints (10 R244, R246). -/
def execColSlot (c : CmdRef) (s : State) : Outcome :=
  .next (s.command c 7 1 fun s x retry => do
    let die ← s.okDie x 0
    let r := sub x.body 4 64
    let n := fld r 0 2
    let l := fld r 0x10 1
    let blocks := fld r 0x1C 4
    okSt (s.holds x.job 4 die n && s.holds x.job 1 die l) stRange
    okAt (decide (68 ≤ x.body.length)) x.body.length
    okAt (zeroAt x.body 1 3) 1
    okAll ((s.slotFields x.job die r).map fun f => (f.1, f.2 + 4))
    let as := slotHints x.body
    okAt (if as.isEmpty then fld r 3 1 != 0 else as.length == blocks) (min x.body.length (68 + blocks))
    match as.findIdx? fun a => a == 0 || a == 255 with
    | some i => okAt false (68 + i)
    | none => okAt true 0
    let sl := s.slot die n
    okRef (sl.state == .free && sl.opening.isNone) retry
    let b := s.bay die (s.phys die l)
    okSt (b.freeAt (fld r 0x14 4) (256 * blocks) && b.freeAt (fld r 0x18 4) blocks) stProtected
    pure { s := (s.modSlot die n fun sl => sl.described r).openSlot die n (fld r 8 4) as })

/-- The slot a body names at an offset. -/
def State.okSlot (s : State) (x : Cmd) (off : Nat) : Exe (Nat × Nat × Slot) := do
  let die ← s.okDie x 0
  let sl ← okSome (mget (s.die die).slots (fld x.body off 2)) fun sl => sl.job == x.job
  pure (die, fld x.body off 2, sl)

/-- COL-READ: the descriptor and the status record (10 R244, R271). -/
def execColRead (c : CmdRef) (s : State) : Outcome :=
  .next (s.command c 7 2 fun s x _ => do
    let (_, n, sl) ← s.okSlot x 2
    okLen x 4
    okAt (zeroAt x.body 1 1) 1
    pure { s := s, body := sl.descBytes n ++ sl.statusBytes })

/-- COL-FREE: refused in GATED, UPDATING or RESET. -/
def execColFree (c : CmdRef) (s : State) : Outcome :=
  .next (s.command c 7 3 fun s x retry => do
    let (die, n, sl) ← s.okSlot x 2
    okLen x 4
    okAt (zeroAt x.body 1 1) 1
    okRef (sl.state != .gated && sl.state != .updating && sl.state != .resetting) retry
    pure { s := s.freeSlotOf die n })

/-- The entries of a COL-ROUTE body. -/
def routeList (body : List Byte) (n : Nat) : List Nat := (List.range n).map fun i => fld body (4 + 4 * i) 4 &&& 0xF0FF

/-- Routes from a node number on take new entries. -/
def State.setRoutes (s : State) (a : Nat) (es : List Nat) : State :=
  { s with span := { s.span with route := es.zipIdx.foldl (fun t e => mset t (a + e.2) e.1) s.span.route } }

/-- COL-ROUTE: an entry that names an absent port leaves the table unchanged (14 R361). -/
def execColRoute (c : CmdRef) (s : State) : Outcome :=
  .next (s.command c 7 4 fun s x _ => do
    let a := fld x.body 0 2
    let n := fld x.body 2 2
    okAt (decide (4 ≤ x.body.length)) x.body.length
    okAt (decide (a + n ≤ 4096)) 2
    okLen x (4 + 4 * n)
    let es := routeList x.body n
    okSt (es.all fun e => !bitOf e 15 || (s.portExists (e % 16) && s.portExists (e / 16 % 16))) stRange
    pure { s := s.setRoutes a es })

/-- COL-MCAST (14 R363). -/
def execColMcast (c : CmdRef) (s : State) : Outcome :=
  .next (s.command c 7 5 fun s x _ => do
    let f := fld x.body 1 1
    let ports := fld x.body 2 2
    okLen x 4
    okAt (decide (f < 4)) 1
    okSt ((List.range 16).all fun k => !bitOf ports k || s.portExists k) stRange
    pure { s := { s with span := { s.span with mcast := mset s.span.mcast (fld x.body 0 1) { valid := bitOf f 0, toSelf := bitOf f 1, ports := ports } } } })

/-- A descriptor in a body, with the loader's checks. -/
def State.okDesc (s : State) (x : Cmd) (off : Nat) : Exe Desc :=
  match descCheck s.dieCount s.part.lpddr (sub x.body off 128) with
  | .ok d => .ok d
  | .error (st, o) => .error (st, if st = stMalformed then off + o else 0, 0)

/-- The descriptor is a working copy: a local MX destination in one named bay (11 R275; 14 R372). -/
def Desc.workingCopy (d : Desc) : Bool := d.isDst && isMX d.fmt && !d.isRem && dpaOnDie d.base && decide (dpaBay d.base < 128)

/-- The entry of the gather table that a COL-GATHER body gives. -/
def newGather (job : Nat) (b : List Byte) (even odd : Desc) : Gather :=
  { ownerNode := fld b 2 2, twinNode := fld b 4 2, ownerDie := fld b 6 1, group := fld b 7 1, slot := fld b 8 2, even := even, odd := odd, job := job }

/-- COL-GATHER (14 R372). -/
def execColGather (c : CmdRef) (s : State) : Outcome :=
  .next (s.command c 7 6 fun s x _ => do
    let n := fld x.body 0 2
    okLen x 272
    okAt (decide (n < 4096)) 0
    okAt (decide (fld x.body 2 2 < 4096)) 2
    okAt (decide (fld x.body 4 2 < 4096)) 4
    okAt (decide (fld x.body 6 1 < 8)) 6
    okAt (decide (fld x.body 8 2 < 4096)) 8
    okAt (zeroAt x.body 10 6) 10
    let even ← s.okDesc x 16
    let odd ← s.okDesc x 144
    okAt even.workingCopy 16
    okAt odd.workingCopy 144
    okSt ([even, odd].all fun d => s.holds x.job 1 (dpaDie d.base) (dpaBay d.base)) stRange
    okRef (match mget s.span.gather n with | some g => g.job == x.job | none => true) 0
    pure { s := { s with span := { s.span with gather := mset s.span.gather n (newGather x.job x.body even odd) } } })

/-- COL-LIMIT (10 R266). -/
def execColLimit (c : CmdRef) (s : State) : Outcome :=
  .next (s.command c 7 7 fun s x _ => do
    let die ← s.okDie x 0
    let n := fld x.body 2 2
    okLen x 4
    okAt (zeroAt x.body 1 1) 1
    okAt (decide (1 ≤ n ∧ n ≤ 4096)) 2
    pure { s := s.modDie die fun d => { d with pendingLimit := n } })

/-! ### Shards -/

/-- A finite value that is not negative; −0 is zero. -/
def plainPos (w : Word) : Bool := !isNaN w && !isInf w && (isZero w || !isNeg w)
/-- A value of [0, 1). -/
def belowOne (w : Word) : Bool := plainPos w && flt w one32

/-- The fields of a shard descriptor against 11 R273 and R301, with their offsets. -/
def shardFields (job : Nat) (h : Shard) : List (Bool × Nat) :=
  let r := h.raw
  let sch := fld r 6 1
  let wl := h.whole
  let m := fld r 0x60 4
  let k := fld r 0x64 4
  let pos := fun o => (plainPos (h.word o), o)
  [(decide (fld r 0 2 < 1024), 0), (fld r 2 2 == job, 2), (decide (h.rule < 32) && h.rule % 4 != 3 && (!wl || h.rule % 4 == 0), 4), (decide (fld r 5 1 < 8), 5), (decide (sch < 4), 6),
   (decide (fld r 7 1 < 2), 7), (decide (1 ≤ h.blocks ∧ h.blocks ≤ 4194304), 8), (decide (1 ≤ h.normAnchor ∧ h.normAnchor ≤ 254), 0xC),
   (zeroAt r 0xD 3, 0xD), (fld r 0x10 8 % 32 == 0, 0x10), (fld r 0x18 8 % 128 == 0, 0x18), (belowOne (h.word 0x20), 0x20), (belowOne (h.word 0x24), 0x24)] ++
  [pos 0x28, pos 0x2C, pos 0x30, ((sch != 1 && sch != 2) || decide (1 ≤ fld r 0x34 4), 0x34), (sch != 1 || decide (fld r 0x34 4 < fld r 0x38 4), 0x38),
   (decide (1 ≤ fld r 0x3C 4), 0x3C), (sch == 3 || zeroAt r 0x40 8, 0x40), pos 0x48, pos 0x4C, pos 0x50, (belowOne (h.word 0x54), 0x54),
   (zeroAt r 0x5E 2, 0x5E), (if wl then decide (1 ≤ m ∧ m ≤ 8192) else m == 0, 0x60),
   (if wl then k % 32 == 0 && decide (m ≤ k ∧ m * k ≤ 2 ^ 24) && m * (k / 32) == h.blocks else k == 0, 0x64), pos 0x68, pos 0x6C, pos 0x70,
   (decide (fld r 0x74 1 + fld r 0x75 1 < 128), 0x74), (decide (fld r 0x75 1 < 64), 0x75), (zeroAt r 0x76 10, 0x76)]

/-- A range of a die's LPDDR5X by DPA that the job holds. -/
def State.holdsLpddr (s : State) (job die a n : Nat) : Bool :=
  !dpaOnDie a && decide (a < 2 ^ 48) && dpaDie a == die && decide (a % 2 ^ 44 + n ≤ s.lpddrOf die) && s.holdsRange job 2 die (a % 2 ^ 44) n

/-- A slot of the shard is GATED or UPDATING. -/
def State.shardBusy (s : State) (die n : Nat) : Bool :=
  (s.die die).slots.any fun x => x.2.role != .contributor && x.2.shard == n && (x.2.state == .gated || x.2.state == .updating)

/-- The memory and the bays that a shard descriptor names are the job's (11 R273, R296, R301). -/
def State.shardHeld (s : State) (die : Nat) (h : Shard) : Bool :=
  let r := h.raw
  let tier := fun a k => if h.hostTier then s.holdsRange h.job 3 h.port a k else s.holdsLpddr h.job die a k
  tier (fld r 0x10 8) (832 * h.blocks) && tier (fld r 0x18 8) (128 * h.blocks) && (fld r 6 1 != 3 || s.holdsLpddr h.job die (fld r 0x40 8) 1024) &&
    (!h.whole || (List.range (fld r 0x75 1 + 1)).all fun i => s.holds h.job 1 die (fld r 0x74 1 + i))

/-- The user table of a shard's schedule (11 R283). -/
def State.userTable (s : State) (h : Shard) : List Word :=
  if fld h.raw 6 1 = 3 then (List.range 256).map fun i => BitVec.ofNat 32 (rdNat s.mem (fld h.raw 0x40 8 + 4 * i) 4) else []

/-- The job's other shards have the same norm anchor (11 R285). -/
def State.anchorsAgree (s : State) (die n : Nat) (h : Shard) : Bool :=
  s.dies.all fun d => d.2.shards.all fun y => (d.1 == die && y.1 == n) || y.2.job != h.job || y.2.normAnchor == h.normAnchor

/-- The shard after its descriptor is loaded: what the same job has counted in it stays. -/
def State.shardLoaded (s : State) (die n : Nat) (h : Shard) (table : List Word) : Shard :=
  match (mget (s.die die).shards n).filter fun y => y.job == h.job with
  | some y => { y with raw := h.raw, table := table, norm := 0, accepted := 0, stopped := false }
  | none => { h with table := table }

/-- VAR-SHARD: loads a shard descriptor and its schedule table (11 R273, R283, R285, R296, R301). -/
def execVarShard (c : CmdRef) (s : State) : Outcome :=
  .next (s.command c 8 1 fun s x retry => do
    let die ← s.okDie x 0
    let h : Shard := { raw := sub x.body 4 128, job := x.job }
    let n := fld h.raw 0 2
    okSt (s.holds x.job 5 die n) stRange
    okLen x 132
    okAt (zeroAt x.body 1 3) 1
    okAll ((shardFields x.job h).map fun f => (f.1, f.2 + 4))
    okSt (s.shardHeld die h) stRange
    okAt ((s.userTable h).all plainPos) 0x44
    okAt (s.anchorsAgree die n h) 0x10
    okRef (!s.shardBusy die n) retry
    pure { s := s.modDie die fun d => { d with shards := mset d.shards n (s.shardLoaded die n h (s.userTable h)) } })

/-- The shard a body names at an offset. -/
def State.okShard (s : State) (x : Cmd) (off : Nat) : Exe (Nat × Nat × Shard) := do
  let die ← s.okDie x 0
  let h ← okSome (mget (s.die die).shards (fld x.body off 2)) fun h => h.job == x.job
  pure (die, fld x.body off 2, h)

/-- Writes a record pair and its anchor as initialised with masters (11 R278; 17 VAR-INIT). -/
def State.initBlock (s : State) (h : Shard) (j hint : Nat) (ws : List Word) : State :=
  let s := s.wrCopy h j 0 { hint := hint, flags := 2 ^ 14 + 1, pars := ws.map fun w => ⟨w, 0, 0, 0⟩ }
  let s := s.wrCopy h j 1 { flags := 2 ^ 13, pars := List.replicate 32 ⟨0, 0, 0, 0⟩ }
  s.wrAnchor h j ws

/-- Blocks of a shard from one on are initialised with the masters in `bs` (11 R278). -/
def State.initBlocks (s : State) (h : Shard) (a n hint : Nat) (bs : List Byte) : State :=
  (List.range n).foldl (fun (s : State) i =>
    s.initBlock h (a + i) hint ((List.range 32).map fun k => BitVec.ofNat 32 (fld bs (128 * i + 4 * k) 4))) s

/-- VAR-INIT: record pairs and anchors from FP32 masters in LPDDR5X or host memory (11 R278). -/
def execVarInit (c : CmdRef) (hostData : Option (List Byte)) (s : State) : Outcome :=
  .next (s.command c 8 2 fun s x _ => do
    let (die, k, h) ← s.okShard x 2
    let src := fld x.body 1 1
    let a := fld x.body 4 4
    let n := fld x.body 8 4
    let hint := fld x.body 12 1
    let from_ := fld x.body 16 8
    okSt (if src = 1 then s.holdsRange x.job 3 x.port from_ (128 * n) else s.holdsLpddr x.job (dpaDie from_) from_ (128 * n)) stRange
    okLen x 24
    okAt (decide (src ≤ 1)) 1
    okSt (decide (a + n ≤ h.blocks)) stRange
    okAt (decide (1 ≤ hint ∧ hint ≤ 254)) 12
    okAt (zeroAt x.body 13 3) 13
    let bs := if src = 1 then hostData else some (rdBytes s.mem from_ (128 * n))
    match bs with
    | none => .error (stHostIo, 0, 0)
    | some bs =>
      okSt (bs.length == 128 * n && (src == 0 || (s.host x.port).usable s.ks.ideRequired)) stHostIo
      let s := s.modDie die fun d => { d with pairWait := d.pairWait.filter fun w => !(w.1 == k && decide (a ≤ w.2 ∧ w.2 < a + n)) }
      pure { s := s.initBlocks h a n hint bs })

/-- A slot and its partner are bound to a working copy, or to none (11 R275). -/
def State.bindSlot (s : State) (die n : Nat) (sl : Slot) (bound : Option Desc) : State :=
  s.modDie die fun d => { d with
    bindings := mset (mset d.bindings n bound) sl.partner bound
    shards := mmod d.shards sl.shard fun h => { h with updates := mdel h.updates (sl.pair n) } }

/-- The working copy that a VAR-BIND body names, checked; none where the descriptor is empty, on a twin. -/
def State.okBinding (s : State) (x : Cmd) (die : Nat) (sl : Slot) : Exe (Option Desc) :=
  if zeroAt x.body 4 128 then do
    okAt (sl.role == .twin) 4
    pure none
  else do
    let d ← s.okDesc x 4
    okSt (s.holds x.job 1 die (dpaBay d.base)) stRange
    okAt (d.workingCopy && d.blocks == sl.blocks && (!d.compressed || !(s.shard die sl.shard).sparse)) 4
    pure (some d)

/-- VAR-BIND: binds an owner or twin slot and its partner to a working copy; on the twin the binding may be empty (11 R275). -/
def execVarBind (c : CmdRef) (s : State) : Outcome :=
  .next (s.command c 8 3 fun s x _ => do
    let (die, n, sl) ← s.okSlot x 2
    okLen x 132
    okAt (zeroAt x.body 1 1) 1
    okAt (sl.role != .contributor) 2
    let bound ← s.okBinding x die sl
    pure { s := s.bindSlot die n sl bound })

/-- The slot numbers of a VAR-SCHEDULE body. -/
def slotList (body : List Byte) (n : Nat) : List Nat := (List.range n).map fun i => fld body (4 + 2 * i) 2

/-- The slot is the job's. -/
def State.slotOf (s : State) (die job k : Nat) : Bool := match mget (s.die die).slots k with | some sl => sl.job == job | none => false

/-- VAR-SCHEDULE: the job's slots on a die in expected release order (11 R295). -/
def execVarSchedule (c : CmdRef) (s : State) : Outcome :=
  .next (s.command c 8 4 fun s x _ => do
    let die ← s.okDie x 0
    let n := fld x.body 2 2
    let ns := slotList x.body n
    okSt (ns.all (s.slotOf die x.job)) stNoObject
    okLen x (4 + 2 * n)
    okAt (zeroAt x.body 1 1) 1
    pure { s := s.modDie die fun d => { d with order := (d.order.filter fun k => !s.slotOf die x.job k) ++ ns } })

/-- VAR-NORM: the job's sum of totals for a step (11 R285). -/
def execVarNorm (c : CmdRef) (s : State) : Outcome :=
  .next (s.command c 8 5 fun s x _ => do
    let t := fld x.body 0 4
    let v := sgn 64 (fld x.body 8 8)
    okLen x 16
    okAt (zeroAt x.body 4 4) 4
    okAt (decide (0 ≤ v)) 8
    pure { s := s.modJob x.job fun j => { j with gnorms := (j.gnorms.filter fun g => g.1 != t) ++ [(t, v)] } })

/-- The body of VAR-TOTALS. -/
def State.totalsBody (s : State) (die job : Nat) : List Byte :=
  sub ((mgetD [] (s.die die).totals job).flatMap fun t => pack [(4, t.1), (4, 0), (8, min (2 ^ 63 - 1) t.2.toNat)]) 0 64

/-- VAR-TOTALS: the die's totals of the job's last 4 steps (11 R285). -/
def execVarTotals (c : CmdRef) (s : State) : Outcome :=
  .next (s.command c 8 6 fun s x _ => do
    let die ← s.okDie x 0
    okLen x 1
    pure { s := s, body := s.totalsBody die x.job })

/-- The status that a report's outcome gives (11 R302). -/
def outcomeStatus (k : Nat) : Nat := if k = 2 ∨ k = 3 then stNonfinite else if k = 6 then stSingular else stOk

/-- The job's reports from a number on. -/
def State.reportsFrom (s : State) (die job first n : Nat) : List Report :=
  (((s.die die).reports.filter fun r => decide (first ≤ r.1) && (s.slot die r.2.slot).job == job).map (·.2)).take n

/-- VAR-REPORT: the job's slice reports from a number on (11 R302). -/
def execVarReport (c : CmdRef) (s : State) : Outcome :=
  .next (s.command c 8 7 fun s x _ => do
    let die ← s.okDie x 0
    let n := fld x.body 1 1
    okLen x 8
    okAt (decide (1 ≤ n ∧ n ≤ 5)) 1
    okAt (zeroAt x.body 2 2) 2
    let rs := s.reportsFrom die x.job (fld x.body 4 4) n
    pure { s := s, body := rs.flatMap (·.bytes), status := outcomeStatus ((rs.getLast?.map (·.outcome)).getD 0) })

/-- VAR-ROLLBACK (11 R287). -/
def execVarRollback (c : CmdRef) (s : State) : Outcome :=
  .next (s.command c 8 8 fun s x _ => do
    okLen x 4
    let (s, n) := s.rollback x.job (fld x.body 0 4)
    pure { s := s, body := natLe 4 n })

/-! ### Unresolved digests (12 R318 stage 4) -/

/-- The consumption of the job that has halted unresolved under a slot or fragment number. -/
def State.haltedCons (s : State) (job die n step : Nat) : Option (Nat × Consume) :=
  (s.die die).cons.find? fun k => k.1 % 65536 == n && k.2.stage == 4 && s.consId die k.1 k.2 == (job, n, step)

/-- The blocks of a slot's working copy go to the other side of a consumption in WC_BLOCKS. -/
def State.sendCopy (s : State) (die key : Nat) (c : Consume) (n : Nat) : State :=
  let ws := s.wcAll die n
  let per := 17384 / (rawBlock (s.wcFormat die n).1 + 1)
  (List.range (cdiv ws.length per)).foldl (fun (s : State) i =>
    let part := (ws.drop (per * i)).take per
    s.peerSend die key c 0x66 (pack [(2, n), (2, part.length), (4, per * i)] ++ part.flatMap (s.wcBytes die n))) s

/-- The chosen side sends its records and the working copies that the consumption wrote, and both agree. -/
def State.adoptOwn (s : State) (die key : Nat) (c : Consume) : State :=
  let (h, first) := s.consShard die key c
  let k := if c.kind = 1 then (mgetD {} s.via.frags (key - 65536)).shard else (s.slot die (keySlot key)).shard
  let s := c.written.foldl (fun (s : State) i =>
    let j := first + i
    s.peerSend die key c 0x65 (pack [(4, k), (4, j)] ++ rdBytes s.mem (h.copyAt j 0) 832 ++ rdBytes s.mem (h.anchorAt j) 128)) s
  let s := (s.consSlots die key c).foldl (fun (s : State) n => s.sendCopy die key c n) s
  (s.agreeSend die key c 0).agreeCons die key c

/-- VAR-RESOLVE: the host's choice for a halted slot; on the side not chosen the result comes from the other (12 R318). A roll-back goes
to the other side as a second AGREE of stage 4; that of an outer update is refused, since outer updates are never rolled back (11 R300;
log 28). -/
def execVarResolve (c : CmdRef) (s : State) : Outcome :=
  .next (s.command c 8 9 fun s x _ => do
    let die ← s.okDie x 0
    let pick := fld x.body 1 1
    let (key, k) ← okSome (s.haltedCons x.job die (fld x.body 2 2) (fld x.body 4 4)) fun _ => true
    okLen x 8
    okAt (decide (pick ≤ 2)) 1
    okRef (pick != 2 || k.kind != 1) 0
    let twin := s.consTwin die key k
    if pick = 2 then pure { s := (s.agreeSend die key k 4 (zeros 32)).rollHalted die key k }
    else if (pick == 1) == twin then pure { s := s.adoptOwn die key k }
    else pure { s := s })

/-- VAR-COUNTERS: the shard's cumulative fast counters (11 R302). -/
def execVarCounters (c : CmdRef) (s : State) : Outcome :=
  .next (s.command c 8 10 fun s x _ => do
    let (_, _, h) ← s.okShard x 2
    okLen x 4
    okAt (zeroAt x.body 1 1) 1
    pure { s := s, body := h.counters.flatMap (natLe 8) })

end Sys2Proof.Machine
end

