-- ==== Sys2Proof/Machine/Link.lean ====
section
/-! DEFINITION. The link layer of Span and Pier ports and what ports do with messages in transit: flits and replay, lanes, PROBE, FENCED,
forwarding, heartbeats (14 R354 to R364, R373 to R377; 12 R325). -/

namespace Sys2Proof.Machine

open Sys2Proof

/-! ### Flits and replay (14 R356, R357) -/

/-- How far a sequence number lies beyond another, modulo 4096. -/
def seqAhead (a b : Nat) : Nat := (a + 4096 - b) % 4096

/-- An acknowledgement: the flits up to it leave the replay buffer. -/
def Port.ackUpTo (p : Port) (a : Nat) : Port :=
  let n := seqAhead ((a + 1) % 4096) p.oldest
  if n = 0 ∨ p.replay.length < n then p
  else { p with replay := p.replay.drop n, oldest := (a + 1) % 4096, resends := 0 }

/-- Sends every flit of the replay buffer again; a part that has fail-stopped transmits only idle (12 R324). -/
def State.resendFlits (s : State) (k : Nat) : State :=
  let p := s.port k
  if p.replay.isEmpty ∨ s.part.state = 3 then s
  else
    let s := s.modPort k fun p => { p with resends := p.resends + 1, replayed := satAdd 32 p.replayed p.replay.length }
    { s with out := { s.out with flits := s.out.flits ++ p.replay.map fun x => (k, x.2) } }

/-- Sends an idle flit. -/
def State.sendIdle (s : State) (k : Nat) (nack : Bool) (credit : Nat) : State :=
  { s with out := { s.out with flits := s.out.flits ++ [(k, idleFlit nack (s.port k).lastRx credit)] } }

/-- Discards a flit (14 R357). -/
def Port.discard (p : Port) : Port := { p with discarded := satAdd 32 p.discarded 1 }

/-- The acknowledgement, credit and nack of an intact flit. -/
def State.flitHead (s : State) (k : Nat) (f : List Byte) : State :=
  let c := fld f 4 1 % 8
  let s := s.modPort k fun p =>
    { p.ackUpTo (fld f 1 3 >>> 12) with credits := setAt p.credits c (min 128 (at' 0 p.credits c + fld f 4 1 / 8)) }
  let s := if bitOf (fld f 0 1) 4 then s.resendFlits k else s
  s.pumpPort k

/-- The payload of the next flit in order joins its channel-class. -/
def State.flitTaken (s : State) (k ctl seq : Nat) (payload : List Byte) : State :=
  let c := ctl % 4 * 2 + ctl / 4 % 2
  let st := at' [] (s.port k).streams c ++ payload
  (s.modPort k fun p => { p with
    lastRx := seq, nackDue := false, streams := setAt p.streams c (streamRest st.length st) }).sendIdle k false (c + 8)

/-- FLIT_RECEIVE: an intact flit acknowledges, returns credit, and when it is the next in order its payload joins its channel-class; a
damaged one and all that follow it are discarded and nacked (14 R356 to R358). -/
def execFlitReceive (port : PortRef) (codewordOk : Bool) (flit : List Byte) (s : State) : Outcome :=
  .next (
    let k := port.key
    let p := s.port k
    if !s.portExists k ∨ !p.up ∨ p.training then s
    else if !codewordOk || !flitOk flit then
      ((s.modPort k fun p => { p.discard with nackDue := true }).sendIdle k true 0)
    else
      let s := s.flitHead k flit
      let ctl := fld flit 0 1
      let seq := fld flit 1 3 % 4096
      if bitOf ctl 3 then s
      else if seq ≠ ((s.port k).lastRx + 1) % 4096 then s.modPort k Port.discard
      else s.flitTaken k ctl seq (sub flit 8 256))

/-- LINK_ACK_TIMEOUT: 1 µs without an advance of ack; the sender resends from its oldest unacknowledged flit (14 R357). -/
def execLinkAckTimeout (port : PortRef) (s : State) : Outcome :=
  .next (
    let p := s.port port.key
    if !s.portExists port.key ∨ !p.up ∨ p.training then s else s.resendFlits port.key)

/-- REPLAY_EXHAUSTED: 8 resends of a flit or 20 µs without an advance; the port retrains, and the fault is row 6 of 12 R303
(14 R357). -/
def execReplayExhausted (port : PortRef) (s : State) : Outcome :=
  .next (
    let k := port.key
    let p := s.port k
    if !s.portExists k ∨ !p.up ∨ p.training ∨ p.replay.isEmpty then s
    else
      let s := s.modPort k fun p => { p with training := true, resends := 0 }
      if s.live then s.fault ⟨6, s.portDie k, k, 0, false, []⟩ else s)

/-- The widest width the working lanes allow (14 R355). -/
def laneWidth (ls : List Bool) : Nat :=
  match ls with
  | [a, b, c, d] => if a && b && c && d then 4 else if (a && b) || (c && d) then 2 else if a || b || c || d then 1 else 0
  | _ => 0

/-- LANE_REMOVE: the port re-forms at the next narrower width, or is down with no lane left (14 R355). -/
def execLaneRemove (port : PortRef) (lane : Nat) (s : State) : Outcome :=
  .next (
    let k := port.key
    let p := s.port k
    if !s.portExists k ∨ !p.up ∨ 4 ≤ lane ∨ !at' false p.lanes lane then s
    else
      let ls := setAt p.lanes lane false
      let w := min p.width (laneWidth ls)
      let s := s.modPort k fun p => { p with lanes := ls, width := w, training := decide (w ≠ 0) }
      if w = 0 then s.portDown k else s)

/-- The body of a PROBE: node ID, 0xFFFF before it is assigned; port; serial number (14 R360; log 13). -/
def State.probeBody (s : State) (k : Nat) : List Byte :=
  pack [(2, s.part.node.getD 0xFFFF), (1, k), (1, 0), (8, (s.ks.record.map (·.serial)).getD 0)]

/-- Sends a PROBE on a port; a part that has fail-stopped transmits only idle (12 R324). -/
def State.sendProbe (s : State) (k : Nat) : State :=
  if s.part.state = 3 then s else s.transmit ⟨k, 0, 0x40, 0, 0xFFF, s.part.node.getD 0xFFF, 0, 0, s.probeBody k⟩

/-- PORT_RETRAIN_DONE: the port runs, sends a PROBE and resends what was not acknowledged; a retrain that fails brings it down
(14 R355, R357, R360). -/
def execPortRetrainDone (port : PortRef) (retrained : Bool) (s : State) : Outcome :=
  .next (
    let k := port.key
    if !s.portExists k ∨ !(s.port k).training then s
    else if retrained then
      let s := s.modPort k fun p => { p with up := true, training := false, nackDue := false }
      let s := s.resendFlits k
      (s.sendProbe k).modPort k fun p => { p with resends := 0 }
    else s.portDown k)

/-! ### PROBE (14 R360) -/

/-- PROBE_TIMER: every 100 ms each port sends a PROBE. -/
def execProbeTimer (port : PortRef) (s : State) : Outcome :=
  .next (if s.live ∧ s.portExists port.key ∧ (s.port port.key).up ∧ !(s.port port.key).training then s.sendProbe port.key else s)

/-- PROBE: the last one of each port is kept. -/
def execProbe (port : PortRef) (m : SpanMsg) (s : State) : Outcome :=
  .next (
    if !s.live ∨ !s.portExists port.key ∨ m.kind ≠ 0x40 then s
    else if !m.ecrcOk ∨ 4 ≤ m.flags ∨ m.body.length ≠ 12 then s.discardOn port.key
    else s.modPort port.key fun p => { p with probe := some ⟨fld m.body 0 2, fld m.body 2 1, fld m.body 4 8, s.part.tai⟩ })

/-! ### Forwarding (14 R361 to R364, R374) -/

/-- Copies a multicast message to the ports of its group (14 R363); `cls` 0. -/
def State.multicast (s : State) (group kind flags src hops seq : Nat) (body : List Byte) : State :=
  let e := mgetD {} s.span.mcast group
  if !e.valid then s.discardOn 254
  else (((List.range 16).filter fun k => bitOf e.ports k && (s.port k).up) ++ (if e.toSelf then [254] else [])).foldl (fun (s : State) k =>
    s.transmit ⟨k, 0, kind, flags, group, src, hops, seq, body⟩) s

/-- MESSAGE_FORWARD: a message for another node leaves by its route; without one, or to a fenced node, it is discarded and its source
told; at its 32nd hop it is discarded (14 R361 to R364, R374). -/
def execMessageForward (port : PortRef) (cls : Nat) (m : SpanMsg) (s : State) : Outcome :=
  .next (
    if !s.live ∨ !s.portExists port.key ∨ 16 ≤ port.key ∨ s.part.node.isNone ∨ m.kind = 0x40 then s
    else if !m.ecrcOk ∨ 4 ≤ m.flags ∨ 32 ≤ m.hops + 1 then s.discardOn port.key
    else if bitOf m.flags 1 then
      (if m.kind ≠ 0x21 ∨ cls ≠ 0 ∨ !(mgetD {} s.span.mcast m.dst).valid then s.discardOn port.key
       else s.multicast m.dst m.kind m.flags m.src (m.hops + 1) m.seq m.body)
    else if s.part.node = some m.dst then s
    else if s.part.fencedNodes.contains m.dst then (s.discardOn port.key).answer m 0x16 stFenced
    else match s.routePort m.dst with
      | none => (s.discardOn port.key).answer m 0x16 stRange
      | some (k, c) => if k = 254 then s else s.transmit ⟨k, max cls c, m.kind, m.flags, m.dst, m.src, m.hops + 1, m.seq, m.body⟩)

/-! ### Fencing, heartbeats, takeover (14 R374, R377; 12 R325) -/

/-- FENCED: a node not yet recorded is recorded and the notice goes on; a part that is named fail-stops (14 R374). -/
def execFenced (port : PortRef) (m : SpanMsg) (s : State) : Outcome :=
  .next (
    if !s.live ∨ !s.portExists port.key ∨ s.part.node.isNone ∨ m.kind ≠ 0x41 then s
    else if !m.ecrcOk ∨ 4 ≤ m.flags ∨ m.body.length ≠ 10 then s.discardOn port.key
    else
      let node := fld m.body 0 2
      if s.part.node = some node then s.failStop Config.failStopDetector stFenced
      else if s.part.fencedNodes.contains node then s
      else (s.recordFenced node).floodFenced node (fld m.body 2 8) (some port.key))

/-- HEARTBEAT: the twin lives (14 R377). -/
def execHeartbeat (port : PortRef) (m : SpanMsg) (s : State) : Outcome :=
  .next (
    if !s.live ∨ !s.portExists port.key ∨ s.part.node.isNone ∨ m.kind ≠ 0x60 then s
    else if !m.ecrcOk ∨ 4 ≤ m.flags ∨ m.body.length ≠ 16 ∨ some m.src ≠ s.part.twinNode then s.discardOn port.key
    else { s with part := { s.part with beatSeen := true, beatsMissed := 0 }, ks := { s.ks with twinPresent := true } })

/-- HEARTBEAT_SEND: the leader tells the twin every 100 µs (14 R376, R377). -/
def execHeartbeatSend (s : State) : Outcome :=
  .next (match s.part.twinNode with
    | some t =>
      if !s.live then s
      else
        let s := s.send 0x60 t 0 (pack [(8, s.part.tai), (4, s.part.beatCount), (1, 0), (1, s.ks.leader), (2, 0)])
        { s with part := { s.part with beatCount := (s.part.beatCount + 1) % 2 ^ 32 } }
    | none => s)

/-- HEARTBEAT_MISS: an interval ends; the third in a row without a heartbeat makes the part take over, if a Span port is up, and fence its
twin (14 R377). An interval in which one arrived is no miss. -/
def execHeartbeatMiss (s : State) : Outcome :=
  .next (match s.part.twinNode with
    | some t =>
      if !s.live ∨ s.part.takenOver then s
      else if s.part.beatSeen then { s with part := { s.part with beatSeen := false } }
      else
        let s : State := { s with part := { s.part with beatsMissed := s.part.beatsMissed + 1 } }
        if s.part.beatsMissed < 3 ∨ (List.range 16).all (fun k => !(s.port k).up) then s
        else (s.takeOver stHeartbeatLost).floodFenced t s.part.tai none
    | none => s)

/-- TAKEOVER: the twin fail-stopped; this part takes over (12 R325). -/
def execTakeover (port : PortRef) (m : SpanMsg) (s : State) : Outcome :=
  .next (
    if !s.live ∨ !s.portExists port.key ∨ s.part.node.isNone ∨ m.kind ≠ 0x61 then s
    else if !m.ecrcOk ∨ 4 ≤ m.flags ∨ m.body.length ≠ 10 ∨ some m.src ≠ s.part.twinNode then s.discardOn port.key
    else s.takeOver (fld m.body 8 2))

end Sys2Proof.Machine
end

