-- ==== Sys2Proof/Machine/Manage.lean ====
section
/-! DEFINITION. Management commands of the Keystone, its flash and its fault log (18 R445 to R459; 12 R320, R324, R326; 15 R381, R410;
16 R423). -/

namespace Sys2Proof.Machine

open Sys2Proof

/-- Changes the boot flash. -/
def State.modFlash (s : State) (f : Flash → Flash) : State := { s with ks := { s.ks with flash := f s.ks.flash } }

/-- The signature checks of a structure, in the order of 18 R447, against the kind expected. -/
def hdrVerifies (h : SignedHdr) (kind : Nat) : Bool := h.rootHashOk && h.certOk && h.sigOk && h.digestOk && h.kind == kind

/-! ### Receiving a command (18 R457, R458) -/

/-- The nonce was given within the last 60 s and not used. -/
def State.nonceCurrent (s : State) (n : List Byte) : Bool :=
  s.ks.nonces.any fun x => x.2 == n && decide (s.part.tai ≤ x.1 + 60 * 10 ^ 9)

/-- Uses a nonce up. -/
def State.useNonce (s : State) (n : List Byte) : State :=
  { s with ks := { s.ks with nonces := s.ks.nonces.filter fun x => x.2 != n } }

/-- What a management command does: the state, the status of the reply and its body; none while its reply is to come. -/
abbrev MgmtOut := State × Option (Nat × List Byte)

/-- The message is for this part, which is out of reset (18 R457). -/
def State.mgmtFor (s : State) (m : MgmtMsg) : Bool := s.part.porN && m.serial == (s.ks.record.map (·.serial)).getD 0

/-- Runs an unsigned command and replies. -/
def State.mgmtOpen (s : State) (m : MgmtMsg) (code : Nat) (f : State → MgmtOut) : State :=
  if !s.mgmtFor m then s
  else match f s with
    | (s, some (st, body)) => s.mgmtReply code st m.nonce body
    | (s, none) => s

/-- Runs a signed command: the signature, then the nonce, which the command uses up; neither holding is ST_REFUSED. None is answered
before stage 0x3 completes. -/
def State.mgmtSigned (s : State) (m : MgmtMsg) (code : Nat) (sigOk : Bool) (f : State → MgmtOut) : State :=
  if !s.ks.identityOk then s
  else s.mgmtOpen m code fun s =>
    if !sigOk || !s.nonceCurrent m.nonce then (s, some (stRefused, [])) else f (s.useNonce m.nonce)

/-- The message carries the signature of the owner enrolled. -/
def State.ownerSigned (s : State) (m : MgmtMsg) : Bool := m.ownerSigOk && s.ks.flash.owner.isSome

/-- A reply that only has a status. -/
def mgmtDone (s : State) (st : Nat) : MgmtOut := (s, some (st, []))

/-- Field tests that management commands asked for are interrupted: answered with ST_FENCED (18 R458). -/
def State.mgmtInterrupt (s : State) : State :=
  let ts := s.ks.tests
  let s : State := { s with ks := { s.ks with tests := ts.map fun t => { t with mgmt := none } } }
  ts.foldl (fun (s : State) t => match t.mgmt with | some n => s.mgmtReply 0x13 stFenced n [] | none => s) s

/-! ### The commands (18 R458) -/

/-- NONCE. -/
def execNonce (m : MgmtMsg) (fresh : List Byte) (s : State) : Outcome :=
  .next (s.mgmtOpen m 0x01 fun s =>
    let n := sub fresh 0 32
    ({ s with ks := { s.ks with nonces := (s.ks.nonces.filter fun x => decide (s.part.tai ≤ x.1 + 60 * 10 ^ 9)) ++ [(s.part.tai, n)] } },
     some (stOk, n)))

/-- STATUS: the registers as the primary port shows them. -/
def execMgmtStatus (m : MgmtMsg) (s : State) : Outcome :=
  .next (s.mgmtOpen m 0x02 fun s =>
    (s, some (stOk, pack [(4, s.hifStatus s.ks.primary), (4, s.kstStatus), (4, s.kstThermal), (4, s.ks.faultsLogged), (8, s.part.tai)])))

/-- THAW_HOST (12 R326, R329). -/
def execThawHost (m : MgmtMsg) (s : State) : Outcome :=
  .next (s.mgmtSigned m 0x10 (s.ownerSigned m) fun s =>
    let p := fld m.body 0 1
    if m.body.length ≠ 1 then mgmtDone s stMalformed
    else if 2 ≤ p then mgmtDone s stRange
    else if !(s.host p).frozen then mgmtDone s stNoObject
    else
      let s : State := { s with ks := { s.ks with freezes := mdel s.ks.freezes (masterWord 7 0 p) } }
      mgmtDone (s.modHost p fun h => { h with
        frozen := false, downSince := if h.linkUp && !h.d3hot && !h.ideDown then none else h.downSince }) stOk)

/-- SET_PRIMARY (16 R423). -/
def execSetPrimary (m : MgmtMsg) (s : State) : Outcome :=
  .next (s.mgmtSigned m 0x11 (s.ownerSigned m) fun s =>
    let p := fld m.body 0 1
    if m.body.length ≠ 1 then mgmtDone s stMalformed
    else if 2 ≤ p then mgmtDone s stRange
    else if p = s.ks.primary then mgmtDone s stOk
    else
      let t : State := { s with ks := { s.ks with primary := p } }
      mgmtDone (t.event evPrimary 0 (t.hostDie p) 0 (natLe 1 p)) stOk)

/-- FAIL_STOP (12 R324). -/
def execFailStop (m : MgmtMsg) (s : State) : Outcome :=
  .next (s.mgmtSigned m 0x12 (s.ownerSigned m) fun s =>
    if m.body.length ≠ 2 then mgmtDone s stMalformed
    else mgmtDone (s.mgmtInterrupt.failStop Config.failStopDetector (fld m.body 0 2)) stOk)

/-- FIELD_TEST: as CHK-TEST; FIELD_TEST_DONE replies (12 R320). -/
def execFieldTest (m : MgmtMsg) (s : State) : Outcome :=
  .next (s.mgmtSigned m 0x13 (s.ownerSigned m) fun s =>
    let unit := fld m.body 0 1
    let die := fld m.body 1 1
    let i := fld m.body 2 2
    if m.body.length ≠ 8 ∨ unit = 0 ∨ 8 ≤ unit ∨ !zeroAt m.body 4 4 then mgmtDone s stMalformed
    else if !s.live then mgmtDone s (if s.part.state = 3 then stFenced else stRefused)
    else if !s.unitExists unit die i then mgmtDone s stRange
    else if s.testRefused unit die i then mgmtDone s stRefused
    else (s.startTest { unit := unit, die := die, index := i, mgmt := some m.nonce }, none))

/-- A new connectivity association of an interface: no key of the old one stays (15 R381). -/
def Itf.associated (i : Itf) (ckn : List Byte) : Itf :=
  { i with ckn := ckn, cakSet := true, txAn := none, rxAns := [], retiring := none, lastPn := [], peers := [] }

/-- SET_CAK (15 R381). -/
def execSetCak (m : MgmtMsg) (cakOk : Bool) (s : State) : Outcome :=
  .next (s.mgmtSigned m 0x14 (s.ownerSigned m) fun s =>
    let p := fld m.body 0 1
    let i := fld m.body 1 1
    let n := fld m.body 2 2
    if m.body.length ≠ 420 ∨ n = 0 ∨ 33 ≤ n ∨ !cakOk then mgmtDone s stMalformed
    else if !s.viaExists p ∨ 2 ≤ i then mgmtDone s stRange
    else if s.via.sessions.any fun x => x.1 / 256 == p && x.2.itf == i && x.2.state != .closed then mgmtDone s stRefused
    else mgmtDone (s.modItf p i fun x => x.associated (sub m.body 4 n)) stOk)

/-- SET_TAI: the offsets of VIA-TIME (15 R410). -/
def execSetTai (m : MgmtMsg) (s : State) : Outcome :=
  .next (s.mgmtSigned m 0x15 (s.ownerSigned m) fun s =>
    let at_ := fld m.body 4 8
    if m.body.length ≠ 16 then mgmtDone s stMalformed
    else mgmtDone { s with time := { s.time with
      offset := sgn 32 (fld m.body 0 4), change := if at_ = 0 then none else some (at_, sgn 32 (fld m.body 12 4)) } } stOk)

/-- SET_NETWORK: stored in the owner record (18 R456 to R458). -/
def execSetNetwork (m : MgmtMsg) (s : State) : Outcome :=
  .next (s.mgmtSigned m 0x16 (s.ownerSigned m) fun s =>
    if 1024 < m.body.length then mgmtDone s stMalformed else mgmtDone (s.modFlash fun f => { f with network := m.body }) stOk)

/-- CLEAR_RETIREMENT: the entry goes; the bay returns at the next reset (18 R452). -/
def execClearRetirement (m : MgmtMsg) (s : State) : Outcome :=
  .next (s.mgmtSigned m 0x17 (s.ownerSigned m) fun s =>
    let k := bayKey (fld m.body 0 1) (fld m.body 1 1)
    if m.body.length ≠ 2 then mgmtDone s stMalformed
    else if s.dieCount ≤ fld m.body 0 1 ∨ 132 ≤ fld m.body 1 1 then mgmtDone s stRange
    else if !s.ks.flash.retired.contains k then mgmtDone s stNoObject
    else mgmtDone (s.modFlash fun f => { f with retired := f.retired.filter (· != k) }) stOk)

/-- The owner record with a new modulus. -/
def State.enrolled (s : State) (m : MgmtMsg) : MgmtOut :=
  if m.body.length ≠ 384 then mgmtDone s stMalformed
  else mgmtDone (s.modFlash fun f => { f with owner := some m.body, network := [] }) stOk

/-- ENROLL_OWNER: over MCTP while the record is empty, else under the owner's signature (18 R456). -/
def execEnrollOwner (m : MgmtMsg) (s : State) : Outcome :=
  .next (
    if s.ks.flash.owner.isNone then s.mgmtOpen m 0x18 fun s => if m.mctp then s.enrolled m else mgmtDone s stRefused
    else s.mgmtSigned m 0x18 m.ownerSigOk fun s => s.enrolled m)

/-- RESET_OWNER: signed by Luotte (18 R456). -/
def execResetOwner (m : MgmtMsg) (s : State) : Outcome :=
  .next (s.mgmtSigned m 0x19 m.luotteSigOk fun s =>
    if m.body.length ≠ 0 then mgmtDone s stMalformed
    else mgmtDone (s.modFlash fun f => { f with owner := none, network := [] }) stOk)

/-- Bytes of an image slot: 12 MiB (18 R445). -/
def slotBytes : Nat := 0xC00000

/-- Writes a chunk into an image slot and marks it being written. -/
def Flash.writeChunk (f : Flash) (slot off : Nat) (data : List Byte) : Flash :=
  { f with slots := f.slots.modify slot fun x => { x with
      state := some 2, data := data.zipIdx.foldl (fun (m : SMap Byte) b => mset m (off + b.2) b.1) x.data } }

/-- UPDATE_CHUNK: into a slot not booted. -/
def execUpdateChunk (m : MgmtMsg) (s : State) : Outcome :=
  .next (s.mgmtOpen m 0x1A fun s =>
    let slot := fld m.body 0 1
    let off := fld m.body 4 4
    let data := m.body.drop 8
    if m.body.length < 8 ∨ 1024 < m.body.length ∨ !zeroAt m.body 1 3 then mgmtDone s stMalformed
    else if 2 ≤ slot ∨ slotBytes < off + data.length then mgmtDone s stRange
    else if s.ks.bootSlot = some slot then mgmtDone s stRefused
    else mgmtDone (s.modFlash fun f => f.writeChunk slot off data) stOk)

/-- What verifying both images of a slot gives (18 R447, R448). -/
def Flash.imagesStatus (f : Flash) (ks es : SignedHdr) : Nat :=
  if !hdrVerifies ks 1 || !hdrVerifies es 2 then stBootImage
  else if ks.version < f.fwFloor ∨ es.version < f.fwFloor then stBootRollback
  else stOk

/-- UPDATE_COMMIT: the slot is written if both images verify, else empty. -/
def execUpdateCommit (m : MgmtMsg) (ks es : SignedHdr) (s : State) : Outcome :=
  .next (s.mgmtSigned m 0x1B (s.ownerSigned m) fun s =>
    let slot := fld m.body 0 1
    let st := s.ks.flash.imagesStatus ks es
    if m.body.length ≠ 1 then mgmtDone s stMalformed
    else if 2 ≤ slot then mgmtDone s stRange
    else mgmtDone (s.modFlash fun f => { f with slots := f.slots.modify slot fun x => { x with state := some (if st = stOk then 1 else 0) } }) st)

/-- ADVANCE_FLOOR: upward, and to no more than the running version (18 R448). -/
def execAdvanceFloor (m : MgmtMsg) (s : State) : Outcome :=
  .next (s.mgmtSigned m 0x1C (s.ownerSigned m) fun s =>
    let c := fld m.body 0 1
    let v := fld m.body 4 4
    if m.body.length ≠ 8 ∨ !zeroAt m.body 1 3 then mgmtDone s stMalformed
    else if 2 ≤ c then mgmtDone s stRange
    else
      let (floor, running) := if c = 0 then (s.ks.flash.fwFloor, s.ks.fwVersion) else (s.ks.flash.recFloor, s.ks.recVersion)
      if v < floor ∨ running < v then mgmtDone s stRefused
      else mgmtDone (s.modFlash fun f => if c = 0 then { f with fwFloor := v } else { f with recFloor := v }) stOk)

/-- FAULT_LOG_FLUSH: the records that wait are appended to the flash, a ring of 131,072 (18 R459). -/
def execFaultLogFlush (s : State) : Outcome :=
  .next (
    if !s.part.porN then s
    else
      let u := s.ks.unflushed
      let f := s.ks.flash
      { s with ks := { s.ks with
          unflushed := []
          flash := { f with log := (f.log ++ u).drop (f.log.length + u.length - 131072), logCount := f.logCount + u.length } } })

end Sys2Proof.Machine
end

