-- ==== Sys2Proof/Machine/Message.lean ====
section
/-! DEFINITION. Span messages end to end: resending, PUT and GET, wet-source seals, the all-gather, replica digests, and what twins send
each other (14 R366 to R372, R376; 12 R316 to R319). -/

namespace Sys2Proof.Machine

open Sys2Proof

/-! ### Resending (14 R366) -/

/-- Sends unanswered messages of a destination and channel again, from one on, in order. -/
def State.resendFrom (s : State) (dst chan : Nat) (t : Unacked → Bool) : State :=
  (((mgetD [] s.span.unacked (chanKey dst chan)).take 256).dropWhile (!t ·)).foldl (fun (s : State) u => s.emit u.kind 1 dst u.seq u.body) s

/-- MSG_RESEND_TIMEOUT: no answer for 100 µs; every message from the oldest unanswered one leaves again. -/
def execMsgResendTimeout (dst chan : Nat) (s : State) : Outcome :=
  .next (if s.live then s.resendFrom dst chan fun _ => true else s)

/-- DEFERRED_RESEND: 10 µs after a NAK with ST_DEFERRED the message leaves again, and every later one. -/
def execDeferredResend (dst chan seq : Nat) (s : State) : Outcome :=
  .next (
    let k := chanKey dst chan
    let u := mgetD [] s.span.unacked k
    if s.live ∧ u.any (fun x => x.seq == seq && x.again) then
      let s : State := { s with span := { s.span with
        unacked := mset s.span.unacked k (u.map fun x => if x.seq = seq then { x with again := false } else x) } }
      s.resendFrom dst chan (·.seq == seq)
    else s)

/-! ### Answers (14 R366, R367) -/

/-- acked_seq. -/
def ackSeq (m : SpanMsg) : Nat := fld m.body 0x10 2
/-- acked_type. -/
def ackKind (m : SpanMsg) : Nat := fld m.body 0x12 1
/-- status. -/
def ackStatus (m : SpanMsg) : Nat := fld m.body 2 2
/-- A response header alone. -/
def respOk (m : SpanMsg) : Bool := m.body.length == 32 && zeroAt m.body 0x13 13

/-- The message an answer is about. -/
def State.ackedMsg (s : State) (m : SpanMsg) : Option Unacked :=
  (mgetD [] s.span.unacked (chanKey m.src (vcOf (ackKind m)))).find? fun u => u.seq == ackSeq m && u.kind == ackKind m

/-- The message is answered. -/
def State.answered (s : State) (m : SpanMsg) : State := s.acked m.src (vcOf (ackKind m)) (ackSeq m)

/-- The stroke of a Span request's context, if it still runs. -/
def State.strokeOfCtx (s : State) (c : List Nat) : Option (BayRef × Running) :=
  let b : BayRef := ⟨at' 0 c 1, at' 0 c 2⟩
  ((s.bay b.die b.bay).slots.find? (·.seq == at' 0 c 3)).map fun r => (b, r)

/-- PUT_ACK: a part of an SP.PUT has arrived; a seal or retraction that waited for it leaves (14 R367, R370). -/
def execPutAck (die : Nat) (m : SpanMsg) (s : State) : Outcome :=
  .next (s.recv die 0x11 m (respOk m) fun s =>
    match s.ackedMsg m with
    | some _ => ((s.answered m).srcSettle, .silent)
    | none => (s, .silent))

/-- Bytes of positions on the wire. -/
def Desc.wireLen (d : Desc) (p n : Nat) : Nat :=
  cdiv (n * d.bits) 8 + (if d.side then (((List.range n).map fun i => d.blockOf (p + i)).dedup).length else 0)

/-- Writes elements and side bytes that arrived (14 R367). -/
def Desc.store (d : Desc) (m : Mem) (p n : Nat) (data : List Byte) : Mem :=
  let cs := unpackCodes d.bits n (leNat (data.take (cdiv (n * d.bits) 8)))
  let side := data.drop (cdiv (n * d.bits) 8)
  if d.side then
    (((List.range n).map fun i => d.blockOf (p + i)).dedup.zipIdx).foldl (fun m x =>
      let q := d.blockPos x.1
      d.wrSide (d.wrBlock m x.1 ((List.range q.2).map fun i => at' 0 cs (q.1 + i - p))) x.1 (at' 0 side x.2).toNat) m
  else cs.zipIdx.foldl (fun m x => d.wr m (p + x.2) x.1) m

/-- GET_DATA: the data of a part of an SP.GET is written (14 R367, R369; 05 R125). -/
def execGetData (die : Nat) (m : SpanMsg) (s : State) : Outcome :=
  .next (s.recv die 0x13 m (decide (32 ≤ m.body.length) && zeroAt m.body 0x13 13) fun s =>
    match s.ackedMsg m with
    | none => (s, .silent)
    | some u => match s.strokeOfCtx u.ctx with
      | none => (s.answered m, .silent)
      | some (_, r) =>
        let d := r.desc (at' 0 u.ctx 4)
        let p := at' 0 u.ctx 5
        let n := at' 0 u.ctx 6
        if m.body.length ≠ 32 + d.wireLen p n then (s.discardMsg m, .silent)
        else (({ s with mem := d.store s.mem p n (m.body.drop 32) } : State).answered m, .silent))

/-- A contributor slot goes on after an acknowledgement. -/
def State.slotGoesOn (s : State) (die n : Nat) : State := ((s.pump die n).trySeal die n).tryRetract die n

/-- What a refusal frees or freezes: a contributor slot goes on; a Span request's bay context freezes, unless its session is (14 R366). -/
def State.refused (s : State) (u : Unacked) (st : Nat) : State :=
  let c := u.ctx
  match c.head? with
  | some 1 => s.slotGoesOn (at' 0 c 1) (at' 0 c 2)
  | some 3 | some 4 =>
    let s := s.srcSettle
    match s.strokeOfCtx c with
    | some (b, r) =>
      if st = stFenced then s
      else
        let d := parseDesc (sub u.body 32 128)
        s.freezeBayAt b r (at' 0 c 7) st d.base (some d)
    | none => s
  | _ => s

/-- A NAK from a part on the way, or from this part itself, is about the message whose number, type and request fields it carries: it is
taken as from that message's destination (14 R362, R374). DEDUCED: the header names no other destination (log 13). -/
def State.nakAbout (s : State) (m : SpanMsg) : SpanMsg :=
  if (s.ackedMsg m).isSome then m
  else match s.span.unacked.find? fun k => k.1 % 4 == vcOf (ackKind m) && k.2.any fun u => u.seq == ackSeq m && u.kind == ackKind m &&
      bodyFields u.kind u.body == (fld m.body 0 2, fld m.body 4 4, fld m.body 8 4, fld m.body 12 4) with
    | some k => { m with src := k.1 / 4 }
    | none => m

/-- NAK: a message not accepted is marked to be sent again; a refused Span request freezes the bay context that issued it
(14 R366, R368; 05 R132). -/
def execNak (die : Nat) (m : SpanMsg) (s : State) : Outcome :=
  .next (s.recv die 0x16 m (respOk m) fun s =>
    let m := s.nakAbout m
    match s.ackedMsg m with
    | none => (s, .silent)
    | some u =>
      let st := ackStatus m
      let k := chanKey m.src (vcOf u.kind)
      if st = stDeferred then
        ({ s with span := { s.span with unacked := mset s.span.unacked k ((mgetD [] s.span.unacked k).map fun x =>
          if x.seq = u.seq then { x with again := true } else x) } }, .silent)
      else
        ((s.answered m).refused u st, .silent))

/-- What an accepted message brings its sender: a contributor's credit, the next of a slot's contributions (14 R371). -/
def State.accepted (s : State) (m : SpanMsg) (c : List Nat) : State :=
  let d := at' 0 c 1
  let n := at' 0 c 2
  match c.head? with
  | some 1 => s.slotGoesOn d n
  | some 2 =>
    let s := if m.src = (s.slot d n).twinNode ∧ m.src ≠ (s.slot d n).ownerNode then s.modSlot d n fun sl =>
        { sl with credit := if sl.credit.contains m.src then sl.credit else sl.credit ++ [m.src] }
      else s
    s.slotGoesOn d n
  | _ => s

/-- MSG_ACK: the message was accepted; a contributor's credit returns, or comes with a twin's answer to its request; ST_DEFERRED says the
data follows later (14 R366, R369, R371, R372). -/
def execMsgAck (die : Nat) (m : SpanMsg) (s : State) : Outcome :=
  .next (s.recv die 0x30 m (respOk m) fun s =>
    match s.ackedMsg m with
    | none => (s, .silent)
    | some u =>
      if ackStatus m = stDeferred ∨ u.ctx.head? = some 5 then (s, .silent) else ((s.answered m).accepted m u.ctx, .silent))

/-! ### PUT and GET at the receiver (14 R368 to R370) -/

/-- The first bytes of a message, for a freeze record (12 R328). -/
def msgHead (m : SpanMsg) : List Byte := ((⟨0, 0, m.kind, m.flags, m.dst, m.src, m.hops, m.seq, m.body⟩ : Wire).bytes).take 32

/-- The request header is well formed (14 R367). -/
def reqOk (m : SpanMsg) : Bool := decide (fld m.body 2 2 < 4) && zeroAt m.body 0x18 8

/-- The remote descriptor as the receiver checks it, or the refusal (14 R368; 08 R194 to R199). -/
def State.remCheck (s : State) (die : Nat) (m : SpanMsg) (put : Bool) : Except Nat Desc :=
  match descCheck s.dieCount s.part.lpddr (sub m.body 32 128) with
  | .error e => .error e.1
  | .ok d =>
    let p := fld m.body 4 4
    let n := fld m.body 8 4
    let rs := d.reach
    if !d.isRem ∨ (if put then !d.isDst else !d.isIn) ∨ some d.node ≠ s.part.node then .error stMalformed
    else if !rs.all fun r => decide (0 ≤ r.1 ∧ r.1 / 2 ^ 44 = (d.base / 2 ^ 44 : Nat) ∧ (r.2 - 1) / 2 ^ 44 = (d.base / 2 ^ 44 : Nat)) then
      .error stMalformed
    else if dpaOnDie d.base ∧ (dpaRegion d.base ≠ 0 ∨
        !rs.all fun r => decide (r.1 / 2 ^ 24 = (d.base / 2 ^ 24 : Nat) ∧ (r.2 - 1) / 2 ^ 24 = (d.base / 2 ^ 24 : Nat))) then .error stMalformed
    else if dpaDie d.base ≠ die ∨ d.count < p + n ∨ !d.spans.all (fun x => s.rangeOk x.1 x.2) then .error stRange
    else if !d.wholeBlocks p n then .error stMalformed
    else if !d.spans.all fun x => s.holdsDpa (fld m.body 0 2) x.1 x.2 then .error stRange
    else .ok d

/-- A refusal; out of range and protected freeze the session master of the source node (14 R368). -/
def State.spanRefuse (s : State) (m : SpanMsg) (st : Nat) : State × Answer :=
  if st = stMalformed then (s, .nak st)
  else (s.freeze ⟨masterWord 5 0 m.src, fld m.body 0 2, st, 0, fld m.body 32 8 % 2 ^ 48, 0, 0, msgHead m⟩, .nak st)

/-- Receives a request of a source node whose session is not frozen (12 R328). -/
def State.reqRecv (s : State) (die kind : Nat) (m : SpanMsg) (ok : Bool) (f : State → State × Answer) (dup : State → State := id) : State :=
  if s.isFrozen (masterWord 5 0 m.src) then s else s.recv die kind m (reqOk m && ok) f dup

/-- A 1024th entry is in the seal table of a bay (20 R475). -/
def Bay.sealsFull (b : Bay) (n : Nat) : Bool := decide (1024 < (b.seals.filter (·.state != .free)).length + n)

/-- The entries of a PUT's target are its own. -/
def putMine (m : SpanMsg) (e : SealEnt) : Bool := e.state == .wet && e.owner == .span m.src (fld m.body 12 4)

/-- A PUT's range is wet already, for its own source and target. -/
def State.putBegun (s : State) (die : Nat) (m : SpanMsg) (rs : List (Nat × Nat × Nat × Nat)) : Bool :=
  !rs.isEmpty && rs.all fun x => ((s.bay die x.2.1).entsAt x.2.2.1 x.2.2.2).all (putMine m) && (s.bay die x.2.1).allAt .wet x.2.2.1 x.2.2.2

/-- Every entry in the way of a PUT is a bounce buffer, whose end it waits for (08 R210). -/
def State.putBounce (s : State) (die : Nat) (rs : List (Nat × Nat × Nat × Nat)) : Bool :=
  let es := rs.flatMap fun x => (s.bay die x.2.1).entsAt x.2.2.1 x.2.2.2
  !es.isEmpty && es.all (·.owner.isBounce)

/-- A table that a PUT's first message needs is full (20 R475, R503). -/
def State.putFull (s : State) (die : Nat) (m : SpanMsg) (rs : List (Nat × Nat × Nat × Nat)) : Bool :=
  (bitOf (fld m.body 2 2) 0 && decide (1024 ≤ (s.die die).wetTargets.length)) ||
    rs.any fun x => (s.bay die x.2.1).sealsFull (rs.filter (·.2.1 == x.2.1)).length

/-- A PUT's range becomes wet with its first message. -/
def State.putBegin (s : State) (die : Nat) (m : SpanMsg) (rs : List (Nat × Nat × Nat × Nat)) : State :=
  (rs.foldl (fun (s : State) x => s.modBay die x.2.1 fun b => b.register x.2.2.1 x.2.2.2 .wet (.span m.src (fld m.body 12 4))) s).modDie die fun y =>
    if bitOf (fld m.body 2 2) 0 then { y with wetTargets := y.wetTargets ++ [(m.src, fld m.body 0x10 8, fld m.body 12 4)] } else y

/-- The data of a PUT is in its place; after the last message of one without a token the range is dry. -/
def State.putStore (s : State) (die : Nat) (m : SpanMsg) (d : Desc) : State :=
  let s : State := { s with mem := d.store s.mem (fld m.body 4 4) (fld m.body 8 4) (m.body.drop 160) }
  if bitOf (fld m.body 2 2) 1 && !bitOf (fld m.body 2 2) 0 then s.modSealsDie die (putMine m) SealEnt.dried else s

/-- PUT: the data is written into a range that was free and becomes wet with the first message; it is dry after the last, or with the
source stroke's seal (14 R368, R370). While its memory wakes, or a bounce buffer lies there, it is not accepted (19 R463; 08 R210). -/
def execPut (die : Nat) (m : SpanMsg) (s : State) : Outcome :=
  .next (
    let d0 := parseDesc (sub m.body 32 128)
    let p := fld m.body 4 4
    let n := fld m.body 8 4
    s.reqRecv die 0x10 m (decide (160 ≤ m.body.length ∧ 1 ≤ n ∧ cdiv (n * d0.bits) 8 ≤ 16384) && m.body.length == 160 + d0.wireLen p n) fun s =>
      match s.remCheck die m true with
      | .error st => s.spanRefuse m st
      | .ok d =>
        let begun := s.putBegun die m d.regs
        if !s.memOn d.base || (!begun && s.putBounce die d.regs) then (s, .notTaken)
        else if !begun && d.regs.any fun x => !(s.bay die x.2.1).freeAt x.2.2.1 x.2.2.2 then s.spanRefuse m stProtected
        else if !begun && s.putFull die m d.regs then (s, .notTaken)
        else ((if begun then s else s.putBegin die m d.regs).putStore die m d, .ackAs 0x11 stOk))

/-- The wet-source targets of a token end, dry or free (14 R370). -/
def State.endTargets (s : State) (die : Nat) (m : SpanMsg) (f : SealEnt → SealEnt) : State :=
  let tok := fld m.body 0x10 8
  let ts := (s.die die).wetTargets.filter fun x => x.1 == m.src && x.2.1 == tok
  let s := ts.foldl (fun (s : State) x => s.modSealsDie die (fun e => e.state == .wet && e.owner == .span x.1 x.2.2) f) s
  s.modDie die fun y => { y with wetTargets := y.wetTargets.filter fun x => !(x.1 == m.src && x.2.1 == tok) }

/-- SRC_SEAL: every target registered under the token becomes dry (14 R370). -/
def execSrcSeal (die : Nat) (m : SpanMsg) (s : State) : Outcome :=
  .next (s.reqRecv die 0x14 m (m.body.length == 32) fun s => (s.endTargets die m SealEnt.dried, .ack stOk))

/-- SRC_RETRACT: every target registered under the token becomes free (14 R370). -/
def execSrcRetract (die : Nat) (m : SpanMsg) (s : State) : Outcome :=
  .next (s.reqRecv die 0x15 m (m.body.length == 32) fun s => (s.endTargets die m SealEnt.freed, .ack stOk))

/-- A GET's range can be read: its memory is awake (19 R463), no word of it fails parity (12 R307), no part is wet, none waits for its
release (04 R98, R100). -/
def State.getReady (s : State) (die : Nat) (d : Desc) : Bool :=
  s.memOn d.base && (d.spans.all fun x => !s.meetsBad x.1 x.2 false) && d.regs.all fun x => ((s.bay die x.2.1).entsAt x.2.2.1 x.2.2.2).all fun e => e.state == .dry && !e.release && decide (e.readers < 65535)

/-- Sends GET_DATA. -/
def State.serveGet (s : State) (m : SpanMsg) : State :=
  let d := parseDesc (sub m.body 32 128)
  let (j, t, p, n) := reqFields m
  s.emit 0x13 0 m.src 0 (respHeader j stOk t p n m.seq m.kind ++ d.wire s.mem p n)

/-- GET: data goes out at once, or when the range is dry; a full table of held requests does not accept it (14 R368, R369). -/
def execGet (die : Nat) (m : SpanMsg) (s : State) : Outcome :=
  .next (
    let d0 := parseDesc (sub m.body 32 128)
    let n := fld m.body 8 4
    s.reqRecv die 0x12 m (m.body.length == 160 && decide (1 ≤ n ∧ cdiv (n * d0.bits) 8 ≤ 16384)) (fun s =>
      match s.remCheck die m false with
      | .error st => s.spanRefuse m st
      | .ok d =>
        if s.getReady die d then (s.serveGet m, .served)
        else if 256 ≤ (s.die die).heldGets.length then (s, .notTaken)
        else (s.modDie die fun y => { y with heldGets := mset y.heldGets y.nextHeld m, nextHeld := (y.nextHeld + 1) % 65536 }, .ackAs 0x30 stDeferred))
      fun s => s.serveGet m)

/-! ### All-gather (14 R372) -/

/-- The working copy of a slot's step is dry. -/
def State.wcReady (s : State) (die n step : Nat) : Bool :=
  (s.slot die n).wcStep == some step && (s.wcDesc die n).isSome && (s.wcRegs die n).all fun x => (s.bay die x.1).allAt .dry x.2.1 x.2.2

/-- Every byte address of a compressed copy, in the order it is sent: chunks, directory, scales (log 13). -/
def Desc.bytesInOrder (d : Desc) : List Nat := d.spans.flatMap fun x => (List.range x.2).map (x.1 + ·)

/-- What a copy is counted in on the wire: elements, or the bytes of a compressed copy. -/
def Desc.wireTotal (d : Desc) : Nat := if d.compressed then (d.spans.map (·.2)).foldl (· + ·) 0 else d.count

/-- Sends a working copy as GATHER_DATA, the inclusion record in the first message; to one node, or to the group. -/
def State.gatherServe (s : State) (die idx : Nat) (to_ : Option Nat) (seq : Nat) : State :=
  let g := mgetD {} s.span.gather idx
  let sl := s.slot die g.slot
  match s.wcDesc die g.slot with
  | none => s
  | some d =>
    let per := if d.compressed then 16384 else perMessage d.fmt
    (List.range (cdiv d.wireTotal per)).foldl (fun (s : State) k =>
      let p := per * k
      let n := min per (d.wireTotal - p)
      let data := if d.compressed then ((d.bytesInOrder.drop p).take n).map (rdByte s.mem) else d.wire s.mem p n
      let body := respHeader sl.job stOk idx p n seq 0x20 ++ (if k = 0 then sl.inclRec else []) ++ data
      match to_ with
      | some node => s.emit 0x21 0 node 0 body
      | none => s.multicast g.group 0x21 2 (s.part.node.getD 0) 0 0 body) s

/-- GATHER_REQ: answered at once where the working copy is dry, else held (14 R372). -/
def execGatherReq (die : Nat) (m : SpanMsg) (s : State) : Outcome :=
  .next (
    let idx := fld m.body 0 2
    s.recv die 0x20 m (m.body.length == 8 && zeroAt m.body 2 2 && decide (idx < 4096)) (fun s =>
      match mget s.span.gather idx with
      | none => (s, .nak stRange)
      | some g =>
        if s.part.node ≠ some g.ownerNode ∧ s.part.node ≠ some g.twinNode then (s, .nak stMalformed)
        else if g.ownerDie ≠ die then (s, .nak stRange)
        else if s.wcReady die g.slot (fld m.body 4 4) then ((s.answer m 0x30 stOk).gatherServe die idx (some m.src) m.seq, .served)
        else (s.modDie die fun y => { y with heldGathers := y.heldGathers ++ [m] }, .ackAs 0x30 stDeferred))
      fun s => s.gatherServe die idx (some m.src) m.seq)

/-- Records that a held request has been answered with data. -/
def State.heldServed (s : State) (m : SpanMsg) : State :=
  let k := chanKey m.src (vcOf m.kind)
  { s with span := { s.span with answers := mset s.span.answers k (mset (mgetD [] s.span.answers k) m.seq (0x13 * 65536)) } }

/-- HELD_GET_RESUME: a held GET sends its data; 65536 + an entry of the gather table: the requests held for it are answered by one
multicast (14 R369, R372; 20 R503). -/
def execHeldGetResume (die held : Nat) (s : State) : Outcome :=
  .next (
    if !s.live then s
    else if held < 65536 then
      match mget (s.die die).heldGets held with
      | none => s
      | some m =>
        if s.getReady die (parseDesc (sub m.body 32 128)) then
          ((s.modDie die fun y => { y with heldGets := mdel y.heldGets held }).serveGet m).heldServed m
        else s
    else
      let idx := held - 65536
      let g := mgetD {} s.span.gather idx
      let ready := fun (m : SpanMsg) => fld m.body 0 2 == idx && s.wcReady die g.slot (fld m.body 4 4)
      let ms := (s.die die).heldGathers.filter ready
      if ms.isEmpty then s
      else
        let s := s.modDie die fun y => { y with heldGathers := y.heldGathers.filter (!ready ·) }
        ms.foldl (fun (s : State) m => s.heldServed m) (s.gatherServe die idx none 0))

/-- A message of a copy is written; after the last the copy is dry and the request is answered. -/
def State.gatherTaken (s : State) (e step : Nat) (g : Gather) (d : Desc) (p n : Nat) (incl data : List Byte) : State :=
  let mem := if d.compressed then (List.zip ((d.bytesInOrder.drop p).take n) data).foldl (fun m x => wrByte m x.1 x.2) s.mem
    else d.store s.mem p n data
  let g := { g with got := p + n, incl := incl }
  let s : State := { s with mem := mem }
  if p + n < d.wireTotal then { s with span := { s.span with gather := mset s.span.gather e g } }
  else
    let s : State := { s with span := { s.span with gather := mset s.span.gather e { g with asked := none, last := some step } } }
    let s := s.modSealsDie g.die (fun x => x.state == .wet && x.owner == .gather e step) SealEnt.dried
    s.span.unacked.foldl (fun (s : State) k => (k.2.filter (·.ctx == [5, e, step])).foldl
      (fun (s : State) u => s.acked (k.1 / 4) (k.1 % 4) u.seq) s) s

/-- GATHER_DATA: a replica that has asked writes the data in order; the copy is dry after the last (14 R372). -/
def execGatherData (die : Nat) (m : SpanMsg) (s : State) : Outcome :=
  .next (s.recv die 0x21 m (decide (32 ≤ m.body.length) && zeroAt m.body 0x13 13) fun s =>
    let e := fld m.body 4 4
    match mget s.span.gather e with
    | none => (s, .silent)
    | some g => match g.asked with
      | none => (s, .silent)
      | some step =>
        let d := s.resolveDesc g.die 0xFF (g.desc step)
        let p := fld m.body 8 4
        let n := fld m.body 12 4
        let incl := if p = 0 then sub m.body 32 272 else g.incl
        let data := m.body.drop (if p = 0 then 304 else 32)
        if p ≠ g.got ∨ d.wireTotal < p + n ∨ fld incl 0 4 ≠ step ∨ data.length ≠ (if d.compressed then n else d.wireLen p n) then (s, .silent)
        else (s.gatherTaken e step g d p n incl data, .silent))

/-! ### Replica digests (12 R319) -/

/-- REPLICA_DIGEST: a digest that differs from the owner's makes the replica fetch its copy again. -/
def execReplicaDigest (die : Nat) (m : SpanMsg) (s : State) : Outcome :=
  .next (s.recv die 0x42 m (m.body.length == 40) fun s =>
    let n := fld m.body 0 2
    let step := fld m.body 4 4
    match s.span.digests.find? fun x => x.1 == die && x.2.1 == n && x.2.2.1 == step with
    | some x =>
      if x.2.2.2 = m.body.drop 8 then (s, .silent)
      else
        let data := pack [(2, n), (2, m.src), (4, step)]
        ((s.event evReplicaRefetch (s.slot die n).job die 0 data).send 0x43 m.src 0 (pack [(2, n + 4096 * die), (2, m.src), (4, step)]), .silent)
    | none => (s, .silent))

/-- A copy that disagreed is fetched again; a bay whose copies disagreed twice is tested. -/
def State.refetchCopy (s : State) (e step : Nat) (g : Gather) : State :=
  let bs := ((s.gatherRegs g step).map (·.1)).dedup
  let s := bs.foldl (fun (s : State) b => s.modBay g.die b fun x => { x with replicaMisses := x.replicaMisses + 1 }) s
  let s := s.refetch e step
  bs.foldl (fun (s : State) b => if 2 ≤ (s.bay g.die b).replicaMisses then s.testBay g.die b else s) s

/-- REFETCH: the copy is freed once nothing reads it and asked for again; the second disagreement in a bay tests the bay. -/
def execRefetch (die : Nat) (m : SpanMsg) (s : State) : Outcome :=
  .next (s.recv die 0x43 m (m.body.length == 8) fun s =>
    let n := fld m.body 0 2
    let step := fld m.body 4 4
    match s.span.gather.find? fun e => (e.2.ownerNode == m.src || e.2.twinNode == m.src) && e.2.slot == n % 4096 &&
        e.2.ownerDie == n / 4096 && e.2.last == some step with
    | none => (s, .silent)
    | some (e, g) => (s.refetchCopy e step g, .silent))

/-! ### Twins (12 R316 to R318; 14 R376) -/

/-- The consumption key that the kind and number of DIGESTS or AGREE name. -/
def consKey (kind n : Nat) : Nat := if kind = 1 then 65536 + n else if kind = 2 then 131072 + n else n

/-- DIGESTS: the twin's digests wait for the comparison (12 R317). -/
def execDigests (die : Nat) (m : SpanMsg) (s : State) : Outcome :=
  .next (s.recv die 0x62 m (m.body.length == 76) fun s =>
    let key := consKey (fld m.body 3 1) (fld m.body 4 2)
    if fld m.body 2 1 ≠ die ∨ some m.src ≠ s.part.twinNode then (s.discardMsg m, .nak stMalformed)
    else (s.modDie die fun y => { y with
      peers := (y.peers.filter (·.1 != key)) ++ [(key, fld m.body 8 4, sub m.body 12 32, sub m.body 44 32)] }, .ackAs 0x30 stOk))

/-- What the owner decided about a consumption (12 R317, R318). -/
def State.agreeTaken (s : State) (die key what : Nat) (c : Consume) (ownerA : List Byte) : State :=
  let (job, n, step) := s.consId die key c
  match what with
  | 0 => s.agreeCons die key c
  | 2 =>
    let s := (s.logStage die c.updDigest).takeRecomputed die key c
    let c := (s.consOf die key).getD c
    s.peerSend die key c 0x62 (digestsBody job die c.kind n step c.gradDigest c.updDigest)
  | 3 => s.testVarnish die key c
  | 4 => if c.stage = 4 then s.rollHalted die key c else s.unresolved die key c ownerA
  | _ => s

/-- AGREE: 0 ends the twin's consumption; 2 asks for its digest again, 3 tests its unit, 4 halts it; 4 for one that has halted is the
other host's choice to roll back (12 R317, R318; log 28). -/
def execAgree (die : Nat) (m : SpanMsg) (s : State) : Outcome :=
  .next (s.recv die 0x63 m (m.body.length == if fld m.body 3 1 = 4 then 44 else 12) fun s =>
    let key := consKey (fld m.body 6 2) (fld m.body 4 2)
    if fld m.body 2 1 ≠ die ∨ some m.src ≠ s.part.twinNode then (s.discardMsg m, .nak stMalformed)
    else match s.consOf die key with
      | none => (s, .ackAs 0x30 stOk)
      | some c =>
        if (s.consId die key c).2.2 ≠ fld m.body 8 4 ∨ !c.done then (s, .ackAs 0x30 stOk)
        else (s.agreeTaken die key (fld m.body 3 1) c (sub m.body 12 32), .ackAs 0x30 stOk))

/-- Both copies of a block's record and its anchor are written. -/
def State.pairStore (s : State) (h : Shard) (j : Nat) (b : List Byte) : State :=
  ((s.wrCopy h j 0 (parseRec (sub b 8 416))).wrCopy h j 1 (parseRec (sub b 424 416))).wrAnchor h j
    ((List.range 32).map fun i => BitVec.ofNat 32 (fld b (840 + 4 * i) 4))

/-- RECORD_PAIR: the mirror pair of a block and its anchor replace this part's (12 R316, R318). -/
def execRecordPair (die : Nat) (m : SpanMsg) (s : State) : Outcome :=
  .next (s.recv die 0x65 m (m.body.length == 968) fun s =>
    let k := fld m.body 0 4
    let j := fld m.body 4 4
    match mget (s.die die).shards k with
    | none => (s, .nak stRange)
    | some h =>
      if some m.src ≠ s.part.twinNode then (s.discardMsg m, .nak stMalformed)
      else if h.blocks ≤ j then (s, .nak stRange)
      else ((s.pairStore h j m.body).modDie die fun d => { d with pairWait := d.pairWait.filter (· != (k, j)) }, .ack stOk))

/-- Blocks of a working copy are written; a compressed copy is encoded anew. -/
def State.wcStore (s : State) (die n : Nat) (d : Desc) (body : List Byte) : State :=
  let per := rawBlock (s.wcFormat die n).1 + 1
  if d.compressed then s.wcEncode die n d
  else (List.range (fld body 2 2)).foldl (fun (s : State) k =>
    let b := sub body (8 + per * k) per
    s.wcWrite die n (fld body 4 4 + k) ⟨(at' 0 b (per - 1)).toNat, unpackCodes (elemBits d.fmt) 32 (leNat (b.take (per - 1))), [], {}⟩) s

/-- WC_BLOCKS: working-copy blocks and scales of an adopted result (12 R318). -/
def execWcBlocks (die : Nat) (m : SpanMsg) (s : State) : Outcome :=
  .next (
    let n := fld m.body 0 2
    let per := rawBlock (s.wcFormat die n).1 + 1
    s.recv die 0x66 m (decide (8 ≤ m.body.length) && m.body.length == 8 + fld m.body 2 2 * per) fun s =>
      if some m.src ≠ s.part.twinNode then (s.discardMsg m, .nak stMalformed)
      else if (s.slot die n).blocks < fld m.body 4 4 + fld m.body 2 2 then (s, .nak stRange)
      else match s.wcDesc die n with
        | none => (s, .ack stOk)
        | some d => (s.wcStore die n d m.body, .ack stOk))

end Sys2Proof.Machine
end

