-- ==== Sys2Proof/Machine/Network.lean ====
section
/-! DEFINITION. The VIA- commands (17 R441; 15 R378, R379, R385, R386, R398, R399, R405, R410 to R412). -/

namespace Sys2Proof.Machine

open Sys2Proof

/-! ### Ports (15 R378 to R384, R390) -/

/-- An interface of a VIA-PORT body; what it has counted and agreed stays. -/
def Itf.described (i : Itf) (r : List Byte) : Itf :=
  { i with mac := fldBe r 0 6, vlan := fld r 8 2, udp := fld r 0xA 2, linkLocal := fldBe r 0xC 16, addr := fldBe r 0x1C 16, gateway := fldBe r 0x2C 16
           ckn := sub r 0x3E (fld r 0x3C 2)
           cakSet := i.cakSet && i.ckn == sub r 0x3E (fld r 0x3C 2) }

/-- The fields of an interface of a VIA-PORT body, with their offsets. -/
def itfFields (r : List Byte) : List (Bool × Nat) :=
  [(zeroAt r 6 2, 6), (decide (fld r 8 2 < 4096), 8), (decide (fld r 0x3C 2 ≤ 32), 0x3C), (zeroAt r 0x5E 2, 0x5E)]

/-- A session of the port is open. -/
def State.portInUse (s : State) (p : Nat) : Bool := s.via.sessions.any fun x => x.1 / 256 == p && x.2.state != .closed

/-- The interfaces of a VIA-PORT body. -/
def portItfs (b : List Byte) : List (List Byte) := (List.range (fld b 1 1 + 1)).map fun i => sub b (32 + 96 * i) 96

/-- The fields of a VIA-PORT body, with their offsets. -/
def portFields (b : List Byte) : List (Bool × Nat) :=
  [(zeroAt b 3 1, 3), (decide (fld b 0x10 4 ≤ 2097152), 0x10), (zeroAt b 0x16 2, 0x16), (decide (60 ≤ fld b 0x18 4 ∧ fld b 0x18 4 ≤ 86400), 0x18),
   (zeroAt b 0x1C 4, 0x1C)] ++ (portItfs b).zipIdx.flatMap fun r => (itfFields r.1).map fun f => (f.1, 32 + 96 * r.2 + f.2)

/-- The send area of a VIA-PORT body is LPDDR5X of the port's die. -/
def State.portArea (s : State) (b : List Byte) : Bool :=
  let die := s.viaDie (fld b 0 1)
  fld b 0x10 4 == 0 || (!dpaOnDie (fld b 8 8) && decide (fld b 8 8 < 2 ^ 48) && dpaDie (fld b 8 8) == die &&
    decide (fld b 8 8 % 2 ^ 44 + 4096 * fld b 0x10 4 ≤ s.lpddrOf die))

/-- A port takes the settings of a VIA-PORT body. -/
def VPort.described (v : VPort) (b : List Byte) : VPort :=
  { v with
    mode2 := fld b 1 1 == 1, hopLimit := fld b 2 1, window := fld b 4 4, txBase := fld b 8 8, entries := fld b 0x10 4, priority := fld b 0x14 2
    rotation := fld b 0x18 4, set := true, up := true
    itfs := v.itfs.zipIdx.map fun i => match (portItfs b)[i.2]? with | some r => i.1.described r | none => i.1 }

/-- VIA-PORT: the mode and settings of a port and its interfaces (15 R378, R379, R381, R390). -/
def execViaPort (c : CmdRef) (s : State) : Outcome :=
  .next (s.command c 9 1 fun s x _ => do
    let b := x.body
    let p := fld b 0 1
    okSt (s.viaExists p) stRange
    okAt (decide (fld b 1 1 ≤ 1)) 1
    okLen x (32 + 96 * (fld b 1 1 + 1))
    okAll (portFields b)
    okSt (s.portArea b) stRange
    okRef (!s.portInUse p) 0
    pure { s := s.modVport p fun v => v.described b })

/-! ### Sessions (15 R385, R386, R412) -/

/-- The op of a VIA-SESSION body. -/
def Cmd.op (c : Cmd) : Nat := fld c.body 0 1

/-- The fields of a session descriptor against 15 R385, with their offsets. -/
def sessionFields (job : Nat) (r : List Byte) : List (Bool × Nat) :=
  [(decide (fld r 0 2 < 512), 0), (decide (fld r 2 1 ≤ 1), 2), (decide (fld r 3 1 < 4), 3), (fld r 4 2 == job, 4), (fld r 7 1 != fld r 6 1, 7),
   (decide (fld r 8 2 < 4096), 8), (decide (fld r 0xB 1 < 64), 0xB), (decide (1 ≤ fld r 0xC 4 ∧ fld r 0xC 4 ≤ 800000), 0xC),
   (decide (1 ≤ fld r 0x20 4 ∧ fld r 0x20 4 ≤ 2097152), 0x20), (decide (fld r 0x24 2 < 512), 0x24), (zeroAt r 0x26 2, 0x26),
   (fld r 0x28 8 % 4096 == 0, 0x28), (fld r 0x30 4 % 4096 == 0, 0x30), (decide (fld r 0x34 4 < 2 ^ 20), 0x34), (zeroAt r 0x38 8, 0x38)]

/-- The port and the receive memory that a session descriptor names are the job's (15 R385). -/
def State.sessHeld (s : State) (job : Nat) (r : List Byte) : Bool :=
  let p := fld r 0 2 / 256
  let base := fld r 0x28 8
  s.holds job 8 (s.viaDie p) p && !dpaOnDie base && decide (base < 2 ^ 48) && dpaDie base == s.viaDie p &&
    s.holdsRange job 2 (s.viaDie p) (base % 2 ^ 44) (fld r 0x30 4)

/-- The quotas of a port's sessions, with one descriptor's, fit the port's entries (15 R385). -/
def State.quotaFits (s : State) (r : List Byte) : Bool :=
  let k := fld r 0 2
  decide (((s.via.sessions.filter fun y => y.1 / 256 == k / 256 && y.1 != k).map fun y => y.2.quota).foldl (· + ·) (fld r 0x20 4) ≤ (s.vport (k / 256)).entries)

/-- The session of a descriptor; its epoch goes on. -/
def State.newSess (s : State) (job : Nat) (r : List Byte) : Session :=
  { raw := r, job := job, join := bitOf (fld r 3 1) 0, epoch := ((mget s.via.sessions (fld r 0 2)).map (·.epoch)).getD 0 }

/-- VIA-SESSION, load: the descriptor of a session that is closed (15 R385). -/
def execViaSessionLoad (c : CmdRef) (s : State) : Outcome :=
  .next (s.command c 9 2 (t := fun x => x.op != 1 && x.op != 2) fun s x _ => do
    let r := sub x.body 4 64
    let k := fld r 0 2
    okSt (s.sessHeld x.job r) stRange
    okAt (x.op == 0) 0
    okLen x 68
    okAt (zeroAt x.body 1 3) 1
    okAll ((sessionFields x.job r).map fun f => (f.1, f.2 + 4))
    okAt (s.quotaFits r) 0x24
    okRef (match mget s.via.sessions k with | some y => y.state == .closed | none => true) 0
    pure { s := { s with via := { s.via with sessions := mset s.via.sessions k (s.newSess x.job r) } } })

/-- The session an open or close names. -/
def State.okSess (s : State) (x : Cmd) : Exe (Nat × Session) := do
  let y ← okSome (mget s.via.sessions (fld x.body 4 2)) fun y => y.job == x.job
  okSt (s.holds x.job 8 (s.viaDie (fld x.body 4 2 / 256)) (fld x.body 4 2 / 256)) stRange
  okLen x 68
  okAt (zeroAt x.body 1 3) 1
  pure (fld x.body 4 2, y)

/-- VIA-SESSION, open: refused in FREE; a new epoch, and OPEN goes out (15 R386, R412). -/
def execViaSessionOpen (c : CmdRef) (s : State) : Outcome :=
  .next (s.command c 9 2 (t := fun x => x.op == 1) fun s x retry => do
    let (k, y) ← s.okSess x
    okRef (s.time.state != .free) retry
    okRef (y.state == .closed) 0
    pure { s := (s.modSess k fun y => { y.fresh with state := .opening, epoch := (y.epoch + 1) % 65536 }).openSend k 4 })

/-- VIA-SESSION, close (15 R386). -/
def execViaSessionClose (c : CmdRef) (s : State) : Outcome :=
  .next (s.command c 9 2 (t := fun x => x.op == 2) fun s x _ => do
    let (k, _) ← s.okSess x
    pure { s := s.closeSession k })

/-! ### The outer loop (15 R398, R399, R403, R405, R406, R409) -/

/-- A weight is 0, or 2^e × (1 + m/8) with −8 ≤ e ≤ 0 and at most 1 (15 R398). -/
def weightOk (w : Nat) : Bool := bitOf w 7 || (decide (w / 8 ≤ 8) && (w / 8 != 0 || w % 8 == 0))

/-- The fields of a VIA-OUTER body, with their offsets. -/
def outerFields (b : List Byte) : List (Bool × Nat) :=
  [(decide (10000 ≤ fld b 0 4 ∧ fld b 0 4 ≤ 86400000), 0), (decide (fld b 4 1 ≤ 8), 4), (decide (fld b 5 1 ≤ 1), 5),
   (decide (fld b 6 1 + fld b 7 1 ≤ 128), 6), (decide (1 ≤ fld b 9 1 ∧ fld b 9 1 ≤ 254), 9), (zeroAt b 10 2, 10)] ++
  (List.range 9).map (fun i => (weightOk (fld b (20 + i) 1), 20 + i)) ++ [(zeroAt b 29 7, 29)]

/-- The outer configuration of a VIA-OUTER body. -/
def outerOf (b : List Byte) : Outer :=
  { period := fld b 0 4, window := fld b 4 1, nesterov := fld b 5 1 == 1, combineFirst := fld b 6 1, combineCount := fld b 7 1
    donor := fld b 8 1, hint := fld b 9 1, beta := BitVec.ofNat 32 (fld b 12 4), eta := BitVec.ofNat 32 (fld b 16 4)
    weights := (List.range 9).map fun i => fld b (20 + i) 1, rejoinOff := fld b 36 8 }

/-- VIA-OUTER: the job's outer configuration (15 R398, R403, R406, R409). -/
def execViaOuter (c : CmdRef) (s : State) : Outcome :=
  .next (s.command c 9 3 fun s x _ => do
    okLen x 44
    okAll (outerFields x.body)
    pure { s := s.modJob x.job fun j => { j with outer := some (outerOf x.body) } })

/-- A fragment entry of a body, its fields with their offsets, and the entry. -/
def fragOf (job : Nat) (r : List Byte) : Frag :=
  { die := fld r 0 1, shard := fld r 2 2, first := fld r 4 4, blocks := fld r 8 4, off := fld r 12 4, job := job
    sessions := ((List.range 24).map fun i => fld r (16 + 2 * i) 2).filter (· != 0xFFFF) }

/-- The entries of a VIA-FRAGMENTS body. -/
def fragList (job n : Nat) (body : List Byte) : List Frag := (List.range n).map fun i => fragOf job (sub body (4 + 64 * i) 64)

/-- The shard and the sessions of a fragment entry are the job's. -/
def State.fragHeld (s : State) (job : Nat) (f : Frag) : Bool :=
  (match mget (s.die f.die).shards f.shard with | some h => h.job == job | none => false) &&
  f.sessions.all fun k => match mget s.via.sessions k with | some y => y.job == job | none => false

/-- The fields of the entries of a VIA-FRAGMENTS body, with their offsets (15 R399). -/
def State.fragFields (s : State) (job n : Nat) (body : List Byte) : List (Bool × Nat) :=
  (List.range n).flatMap fun i =>
    let r := sub body (4 + 64 * i) 64
    let f := fragOf job r
    let o := 4 + 64 * i
    [(zeroAt r 1 1, o + 1), (decide (f.first + f.blocks ≤ (s.shard f.die f.shard).blocks), o + 4), (decide (1 ≤ f.blocks ∧ f.blocks ≤ 32768), o + 8),
     (decide (f.off < (s.outer job).period), o + 12)]

/-- Entries of the fragment table from one on. -/
def State.setFrags (s : State) (a : Nat) (fs : List Frag) : State :=
  { s with via := { s.via with frags := fs.zipIdx.foldl (fun t f => mset t (a + f.2) f.1) s.via.frags } }

/-- VIA-FRAGMENTS: entries of the fragment table (15 R399). -/
def execViaFragments (c : CmdRef) (s : State) : Outcome :=
  .next (s.command c 9 4 fun s x _ => do
    let a := fld x.body 0 2
    let n := fld x.body 2 2
    let fs := fragList x.job n x.body
    okAt (decide (4 ≤ x.body.length)) x.body.length
    okSt (fs.all fun f => decide (f.die < s.dieCount)) stRange
    okSt (fs.all (s.fragHeld x.job)) stNoObject
    okAt (decide (a + n ≤ 65536)) 2
    okLen x (4 + 64 * n)
    okAll (s.fragFields x.job n x.body)
    okRef (s.via.frags.all fun f => f.2.job == x.job || f.1 < a || a + n ≤ f.1) 0
    pure { s := s.setFrags a fs })

/-- Fragment events of a session from a number on, at most `n` (15 R405). -/
def Session.logFrom (y : Session) (first n : Nat) : List Byte :=
  ((y.log.drop (first - (y.logged - y.log.length))).take n).flatMap fun e =>
    pack [(1, e.kind), (1, e.a), (2, e.fragment), (4, e.src), (4, e.close), (4, 0)]

/-- VIA-LOG: held fragment events of a session from a number on (15 R405). -/
def execViaLog (c : CmdRef) (s : State) : Outcome :=
  .next (s.command c 9 5 fun s x _ => do
    let n := fld x.body 2 2
    let y ← okSome (mget s.via.sessions (fld x.body 0 2)) fun y => y.job == x.job
    okLen x 8
    okAt (decide (1 ≤ n ∧ n ≤ 200)) 2
    pure { s := s, body := y.logFrom (fld x.body 4 4) n })

/-! ### Time (15 R410 to R412) -/

/-- The time settings of a VIA-TIME body. -/
def Time.described (t : Time) (b : List Byte) : Time :=
  { t with
    baud := fld b 0 1, offset := sgn 32 (fld b 4 4), sigma := fld b 8 4, limit := fld b 12 4
    change := if fld b 16 8 = 0 then none else some (fld b 16 8, sgn 32 (fld b 24 4)) }

/-- VIA-TIME. -/
def execViaTime (c : CmdRef) (s : State) : Outcome :=
  .next (s.command c 9 6 fun s x _ => do
    okLen x 28
    okAt (decide (fld x.body 0 1 ≤ 1)) 0
    okAt (zeroAt x.body 1 3) 1
    pure { s := s.modTime fun t => t.described x.body })

/-- The body of VIA-STATUS. -/
def State.viaBody (s : State) (p : Nat) : List Byte :=
  pack [(1, s.time.state.code), (7, 0), (8, s.timeError)] ++ (List.range 256).map fun i => BitVec.ofNat 8 (s.sess (256 * p + i)).state.code

/-- VIA-STATUS: the time state, the error estimate, and the states of the port's sessions. -/
def execViaStatus (c : CmdRef) (s : State) : Outcome :=
  .next (s.command c 9 7 fun s x _ => do
    let p := fld x.body 0 1
    okSt (s.holds x.job 8 (s.viaDie p) p) stRange
    okLen x 1
    pure { s := s, body := s.viaBody p })

end Sys2Proof.Machine
end

