-- ==== Sys2Proof/Machine/Power.lean ====
section
/-! DEFINITION. Reset and Gesso, power domains, clocks, voltage and temperature (18 R444 to R454, R499; 19 R461 to R472; 21 R487 to
R490; 17 DEV-RESET). -/

namespace Sys2Proof.Machine

open Sys2Proof

/-! ### Reset (18 R450; 21 R488) -/

/-- The part after a reset: the flash, the outside and the waiting commands are kept; the debug state is the one asked for before
(18 R454); THERMTRIP_N is released by POR_N only (21 R490). -/
def State.afterReset (s : State) (porN railsOk : Bool) : State :=
  { part := { variant := s.part.variant, stepping := s.part.stepping, porN := porN, railsOk := railsOk
              thermtripN := !porN || s.part.thermtripN, stage := b2n porN }
    ks := { flash := s.ks.flash, debugOpen := s.ks.debugNext }
    out := s.out
    pending := s.pending }

/-- POR_N_RISE: Gesso begins. -/
def execPorNRise (s : State) : Outcome :=
  .next (if s.part.porN then s else { s with part := { s.part with porN := true, railsOk := true, state := 1, stage := 1 } })

/-- POR_N_FALL: every domain is reset; THERMTRIP_N is released (21 R490). -/
def execPorNFall (s : State) : Outcome := .next (if s.part.porN then s.afterReset false s.part.railsOk else s)

/-- DEV-RESET: the response is written before the reset; Gesso follows. -/
def execDevReset (c : CmdRef) (s : State) : Outcome :=
  .next (s.command c 1 5 fun s x _ => do
    okLen x 4
    okAt (zeroAt x.body 0 4) 0
    okRef s.jobs.isEmpty 0
    let t := if x.gone then s else s.writeResponse x.port { cmd := x, status := stOk } true
    pure { s := t.afterReset true s.part.railsOk, answered := true })

/-! ### Gesso (18 R450, R499) -/

/-- A record of the boot (18 R459): detector 0x21. -/
def State.logBoot (s : State) (level action die status unit : Nat) : State :=
  s.logFault ⟨0, 0x21, level, action, die, 0, status, 0, unit, 0, 0, 0, []⟩

/-- A stage fails: boot failed, with its status. -/
def State.bootFail (s : State) (status : Nat) : State := { s with part := { s.part with state := 4, bootError := status } }

/-- The next stage starts. -/
def State.nextStage (s : State) : State := { s with part := { s.part with stage := s.part.stage + 1 } }

/-- Sets a domain. -/
def State.setDom (s : State) (die idx : Nat) (x : DomState) : State :=
  { s with power := { s.power with doms := mset s.power.doms (domKey die idx) x } }

/-- The domains a PLL of a die feeds: 0 array, 1 fabric, 2 control, 3 memory PHY, 4 serdes, 5 Keystone (19 R469). -/
def pllDoms (k : Nat) : List Nat := match k with
  | 0 => [2, 3, 4, 5, 6, 7, 8, 9]
  | 1 => [12]
  | 2 => [1]
  | 3 => [11]
  | 4 => [12]
  | _ => [0]

/-- The PLLs that run: those a powered domain uses. Keyed die × 6 + PLL. -/
def State.settlePlls (s : State) : State :=
  let runs := fun (k : Nat) => (pllDoms (k % 6)).any fun i => mgetD .off s.power.doms (domKey (k / 6) i) != .off
  { s with power := { s.power with plls := (List.range (6 * s.dieCount)).filter runs } }

/-- Powers some domains of every die. -/
def State.powerOn (s : State) (is : List Nat) : State :=
  ((List.range s.dieCount).foldl (fun (s : State) d => is.foldl (fun (s : State) i => s.setDom d i .on) s) s).settlePlls

/-- A candidate slot of stage 0x1: its number and Keystone header. -/
abbrev Candidate := Nat × SignedHdr

/-- The slots the directory marks written, the highest version first, slot 0 first among equals (18 R451). -/
def bootOrder (state0 state1 : Nat) (h0 h1 : SignedHdr) : List Candidate :=
  let a := if state0 = 1 then [(0, h0)] else []
  let b := if state1 = 1 then [(1, h1)] else []
  if h0.version < h1.version then b ++ a else a ++ b

/-- Tries the slots in order: the first whose Keystone image verifies and lies at or above the floor boots; a record of each passed over,
action 7 (18 R447, R448, R451). `low`: one verified below the floor. -/
def State.tryBoot (s : State) (low : Bool) : List Candidate → State
  | [] => s.bootFail (if low then stBootRollback else stBootImage)
  | (n, h) :: rest =>
    if !hdrVerifies h 1 then (s.logBoot 4 7 s.ks.leader stBootImage n).tryBoot low rest
    else if h.version < s.ks.flash.fwFloor then (s.logBoot 4 7 s.ks.leader stBootRollback n).tryBoot true rest
    else
      let s : State := { s with ks := { s.ks with
        bootSlot := some n, fwVersion := h.version, keyDigest := sub h.digest 0 32
        bootFloors := (s.ks.flash.fwFloor, s.ks.flash.recFloor) } }
      s.nextStage

/-- Marks the directory as provisioned where no command has written it (log 5). -/
def FlashSlot.provisioned (x : FlashSlot) (state : Nat) : FlashSlot := { x with state := some (x.state.getD state) }

/-- Stage 0x1: the election, AVSBus, the Keystone image (18 R444, R451; 21 R487; 19 R472). -/
def State.stageRom (s : State) (selfTest avsOk : List Bool) (cool : Bool) (state0 state1 : Nat) (h0 h1 : SignedHdr) : State :=
  if !cool then s
  else
    let s := s.powerOn [0]
    let s : State := { s with power := { s.power with avs := (List.range s.dieCount).map fun d => (d, 8500) } }
    let s : State := { s with ks := { s.ks with passed := (List.range s.dieCount).map fun d => at' false selfTest d } }
    match s.ks.passed.findIdx? id with
    | none => s.bootFail stBootImage
    | some l =>
      let s : State := { s with ks := { s.ks with leader := l } }
      match (List.range s.dieCount).find? fun d => !at' false avsOk d with
      | some d => (s.logBoot 3 5 d stBootImage 0).bootFail stBootImage
      | none =>
        let f := s.ks.flash
        let s := s.modFlash fun f => { f with slots := [(at' {} f.slots 0).provisioned state0, (at' {} f.slots 1).provisioned state1] }
        s.tryBoot false (bootOrder ((at' {} f.slots 0).state.getD state0) ((at' {} f.slots 1).state.getD state1) h0 h1)

/-- The spares of a record: four existing bays per die, as shipped in four bay groups; 0xFF for an absent die (01 R21; 18 R449). -/
def sparesOk (dies : Nat) (sp : List Nat) : Bool :=
  sp.length == 32 && (List.range 8).all fun d =>
    let xs := (sp.drop (4 * d)).take 4
    if d < dies then xs.all (fun b => decide (b < 132)) && decide ((xs.map groupOf).dedup.length = 4) else xs.all (· == 0xFF)

/-- The record's fields are within their ranges and it is of this part (00 R1; 18 R449; 19 R470). -/
def State.recordOk (s : State) (r : ConfigRecord) : Bool :=
  r.order == s.part.variant.order && r.dies == s.dieCount && decide (1 ≤ r.speedBin ∧ r.speedBin ≤ 4 ∧ r.flags < 16) &&
  sparesOk r.dies r.spares

/-- The bytes of the record that the model holds, as its measurement digests them (18 R449). -/
def recordBytes (r : ConfigRecord) : List Byte :=
  pack [(2, r.order), (1, r.dies), (1, r.speedBin), (4, r.flags), (8, r.serial)] ++ r.spares.map (BitVec.ofNat 8) ++
  sub r.identityHash 0 32 ++ natLe 4 r.mctpIana ++ zeros 12

/-- Stage 0x2: the configuration record, then the Easel image of the slot, on every die (18 R447 to R450). -/
def State.stageConfig (s : State) (h : SignedHdr) (r : ConfigRecord) (easel : SignedHdr) (clusterOk : List Bool) : State :=
  if !hdrVerifies h 3 || h.serial != r.serial then s.bootFail stBootConfig
  else if h.version < s.ks.flash.recFloor then s.bootFail stBootRollback
  else if !s.recordOk r then s.bootFail stBootConfig
  else
    let s : State := { s with ks := { s.ks with
      record := some r, ideRequired := bitOf r.flags 0, recVersion := h.version, recDigest := sha256 (recordBytes r) } }
    if !hdrVerifies easel 2 then s.bootFail stBootImage
    else if easel.version < s.ks.flash.fwFloor then s.bootFail stBootRollback
    else if (List.range s.dieCount).any fun d => !at' false clusterOk d then s.bootFail stBootImage
    else ({ s with ks := { s.ks with easelDigest := sub easel.digest 0 32, easelVersion := easel.version } } : State).nextStage

/-- Stage 0x3: the identity key, which a part under debug cannot unwrap; held messages leave (18 R453, R454, R458, R460). -/
def State.stagePuf (s : State) (unwrapped hashOk debugOpens : Bool) : State :=
  let never := match s.ks.record with | some r => bitOf r.flags 3 | none => true
  let s : State := { s with ks := { s.ks with debugNext := debugOpens && !never } }
  if s.ks.debugOpen || !unwrapped || !hashOk then s.bootFail stBootPuf
  else (({ s with ks := { s.ks with identityOk := true } } : State).mgmtRelease).nextStage

/-- Stage 0x4: every die-to-die link of the variant trains, and slices answer (01 R18; 18 R444, R450). -/
def State.stageLinks (s : State) (linkOk sliceOk : List Bool) : State :=
  if linkOk.length = s.part.variant.links.length ∧ linkOk.all id ∧ (List.range s.dieCount).all fun d => at' false sliceOk d && at' false s.ks.passed d then (s.powerOn [12]).nextStage
  else s.bootFail stBootLink

/-- Stage 0x5: four devices per die, of one capacity in decimal GB, every byte zero (00 R1, R7; 18 R450, R499). -/
def State.stageMemory (s : State) (gb : List Nat) : State :=
  let g := gb.headD 0
  if gb.length = 4 * s.dieCount ∧ gb.all (· == g) ∧ [16, 32, 64, 128].contains g then
    ((({ s with part := { s.part with lpddr := List.replicate s.dieCount (4 * g * 10 ^ 9) }, mem := [] } : State).powerOn [11])).nextStage
  else s.bootFail stBootMemory

/-- The bays of a die at boot: the logical map by ascending number with spares and retired bays set (01 R21). -/
def State.bootDie (s : State) (die : Nat) : State :=
  let sp := match s.ks.record with | some r => (r.spares.drop (4 * die)).take 4 | none => []
  let act := (List.range 132).filter fun b => !sp.contains b
  let s := sp.foldl (fun (s : State) b => s.setBay die b { cond := .reserve }) s
  s.modDie die fun d => { d with lmap := act, lgroup := act.map groupOf }

/-- A bay retired before programs run; its number passes to the nearest reserve spare, and with none left the boot fails with a record
naming the bay (18 R450, R452; 04 R109). -/
def State.bootRetire (s : State) (k : Nat) : State :=
  let die := k / 132
  let b := k % 132
  let l := s.logical die b
  let s := s.modBay die b fun x => { x with cond := .retired }
  match l with
  | none => s
  | some l =>
    match nearest b (s.reserves die) with
    | none => (s.logBoot 3 4 die stBootImage b).bootFail stBootImage
    | some sp => (s.modBay die sp fun x => { x with cond := .substituted }).modDie die fun d => { d with lmap := setAt d.lmap l sp }

/-- Stage 0x6: the stores are cleared, the retirement list applied, bays that fail their test retired; a list whose HMAC fails is empty
(18 R450, R452, R499). `bad`: die × 256 + bay. -/
def State.stageStores (s : State) (bad : List Nat) : State :=
  let s : State := { s with mem := [] }
  let s := if s.ks.flash.retiredOk then s
    else (s.modFlash fun f => { f with retired := [], retiredOk := true }).logBoot 4 7 s.ks.leader (Config.faultStatus 0x21) 0
  let s := (List.range s.dieCount).foldl State.bootDie s
  let listed := s.ks.flash.retired
  let fresh := ((bad.filter fun x => decide (x / 256 < s.dieCount ∧ x % 256 < 132)).map fun x => bayKey (x / 256) (x % 256)).dedup.filter fun k => !listed.contains k
  let s := s.modFlash fun f => { f with retired := f.retired ++ fresh }
  let s := (listed ++ fresh).foldl State.bootRetire s
  if s.part.state = 4 then s else (s.powerOn [1, 2, 3, 4, 5, 6, 7, 8, 9]).nextStage

/-- Stage 0x7: ports that train run; one that does not stays down and is reported (18 R450; 14 R355). -/
def State.stagePorts (s : State) (span pier : List Nat) : State :=
  let s := ((List.range 16).filter s.portExists).foldl (fun (s : State) k =>
    if span.contains k then s.modPort k fun p => { p with up := true } else s.event evSpanDown 0 (s.portDie k) 0 (pack [(1, k)])) s
  let s := (List.range 2).foldl (fun (s : State) k =>
    if pier.contains k then s.modPort (16 + k) fun p => { p with up := true } else s.event evPierDown 0 (s.portDie (16 + k)) 0 (pack [(1, k)])) s
  s.nextStage


/-- Gates a domain; memory first enters self-refresh (19 R463), and a PLL no powered domain uses stops. -/
def State.gate (s : State) (die dom : Nat) : State :=
  let s : State := if dom = 11 ∧ !s.power.selfRefresh.contains die then
      { s with power := { s.power with selfRefresh := s.power.selfRefresh ++ [die] } } else s
  let s : State := { s with power := { s.power with gatedClk := s.power.gatedClk.filter (· != domKey die dom) } }
  (s.setDom die dom .off).settlePlls

/-- Gates every domain of every die but AON and SER (01 R35; 19 R472). -/
def State.gateAll (s : State) : State :=
  (List.range s.dieCount).foldl (fun (s : State) d => ((List.range 12).drop 1).foldl (fun (s : State) i => s.gate d i) s) s

/-- Stage 0x8: running and ready, with only AON and SER powered (01 R35); the primary is H0 if its link is up, else H1 (16 R423). -/
def State.stageReady (s : State) : State :=
  ({ s with part := { s.part with state := 2 }, ks := { s.ks with state := 1, primary := if (s.host 0).linkUp then 0 else 1 } } : State).gateAll

/-- GESSO_STAGE_END: the current stage finds what `g` says, where `g` is that stage's. -/
def execGessoStageEnd (g : GessoObs) (s : State) : Outcome :=
  .next (
    if !s.part.porN ∨ s.part.state ≠ 1 then s
    else match s.part.stage, g with
      | 1, .rom st av cool a b h0 h1 => s.stageRom st av cool a b h0 h1
      | 2, .config h r e cl => s.stageConfig h r e cl
      | 3, .puf u h d => s.stagePuf u h d
      | 4, .links l sl => s.stageLinks l sl
      | 5, .memory gb => s.stageMemory gb
      | 6, .stores bad => s.stageStores bad
      | 7, .ports sp pl => s.stagePorts sp pl
      | 8, .ready => s.stageReady
      | _, _ => s)

/-! ### Rails and the reference (19 R468; 21 R489) -/

/-- RAILS_OK_LOW: a package-level fault; the part fail-stops with ST_FENCED. -/
def execRailsOkLow (s : State) : Outcome :=
  .next (
    if !s.part.porN then s
    else
      let s : State := { s with part := { s.part with railsOk := false } }
      s.mgmtInterrupt.failStop Config.failStopDetector stFenced)

/-- REFERENCE_LOSS: a die-level fault of AON, and the part fail-stops. -/
def execReferenceLoss (die : Nat) (s : State) : Outcome :=
  .next (if s.part.porN ∧ die < s.dieCount then s.mgmtInterrupt.failStop 11 (Config.faultStatus 11) else s)

/-! ### Domains and clocks (19 R461 to R469) -/

/-- A bay of a group holds a stroke, one that waits, or a mover request is queued for the group. -/
def State.groupBusy (s : State) (die g : Nat) : Bool :=
  ((List.range 132).filter fun b => groupOf b == g).any (fun b =>
    let x := s.bay die b
    !x.slots.isEmpty || !x.queue.isEmpty || !x.replays.isEmpty || x.waking) ||
  [2 * g, 2 * g + 1].any fun m => !(s.mover die m).queue.isEmpty

/-- A graph runs, a command is admitted or deferred, or a journal replays. -/
def State.ctlBusy (s : State) (die : Nat) : Bool :=
  let d := s.die die
  d.runs.any (fun r => r.2.state == .running || r.2.state == .waiting) || !d.admitted.isEmpty || !d.deferred.isEmpty ||
  (List.range 132).any fun b => !(s.bay die b).replays.isEmpty

/-- A shard, slot, stream, pool, retransmit buffer or valid window names the die's LPDDR5X. -/
def State.memNamed (s : State) (die : Nat) : Bool :=
  let d := s.die die
  !d.shards.isEmpty || d.slots.any (fun x => x.2.state != .free) || !d.streams.isEmpty || !d.pools.isEmpty ||
  [0, 1].any (fun p => s.viaExists p && s.viaDie p == die && s.via.sessions.any fun x => x.1 / 256 == p) ||
  s.hosts.any fun h => h.wins.any fun w => w.2.valid && !bitOf w.2.base 14 && decide (w.2.base / 2 ^ 15 = die)

/-- A request to a die's LPDDR5X waits: a mover's, or a GET held for it (19 R463, R465). -/
def State.memAsked (s : State) (die : Nat) : Bool :=
  let here := fun (d : Desc) => !dpaOnDie d.base && dpaDie d.base == die
  (s.movers.any fun m => m.2.queue.any fun q => here q.dst || here q.src || q.idx.any here) ||
  (s.die die).heldGets.any fun g => here (parseDesc (sub g.2.body 32 128))

/-- Queued work names a domain that is gated (01 R35; 19 R465): a command posted on the die's host port or forwarded to the die, or
Keystone fault handling, wakes CTL. -/
def State.domWanted (s : State) (die dom : Nat) : Bool :=
  if dom = 1 then
    s.ctlBusy die || ([0, 1].any fun p => s.hostDie p == die && !(s.host p).posted.isEmpty) ||
    (s.dies.any fun d => d.2.admitted.any (·.die == die)) || !s.ks.handling.isEmpty || !s.ks.queue.isEmpty
  else if dom = 10 then !(s.die die).streams.isEmpty
  else if dom = 11 then s.memNamed die || s.memAsked die
  else if 2 ≤ dom ∧ dom < 10 then s.groupBusy die (dom - 2)
  else true

/-- The domain may not be gated. -/
def State.domBusy (s : State) (die dom : Nat) : Bool :=
  if dom = 0 ∨ 12 ≤ dom then true
  else if dom = 1 then s.ctlBusy die
  else if dom = 10 then !(s.die die).streams.isEmpty
  else if dom = 11 then s.memNamed die || s.memAsked die
  else s.groupBusy die (dom - 2)

/-- DOMAIN_IDLE_GATE: a powered domain with nothing in use, idle for its hold time, is gated. -/
def execDomainIdleGate (die dom : Nat) (s : State) : Outcome :=
  .next (if s.live ∧ die < s.dieCount ∧ s.domOn die dom ∧ !s.domBusy die dom then s.gate die dom else s)

/-- DOMAIN_WAKE: a gated domain that queued work names powers up; an idle unit's clock runs again (01 R35; 19 R465, R466). -/
def execDomainWake (die dom : Nat) (s : State) : Outcome :=
  .next (
    if !s.live ∨ s.dieCount ≤ die ∨ 13 ≤ dom then s
    else match mgetD .off s.power.doms (domKey die dom) with
      | .off => if s.domWanted die dom then (s.setDom die dom .waking).settlePlls else s
      | .waking => s
      | .on => { s with power := { s.power with gatedClk := s.power.gatedClk.filter (· != domKey die dom) } })

/-- DOMAIN_WAKE_DONE: the domain is on; memory leaves self-refresh (19 R463). -/
def execDomainWakeDone (die dom : Nat) (s : State) : Outcome :=
  .next (
    if !s.live ∨ s.dieCount ≤ die ∨ mgetD .off s.power.doms (domKey die dom) ≠ .waking then s
    else
      let s := s.setDom die dom .on
      if dom = 11 then { s with power := { s.power with selfRefresh := s.power.selfRefresh.filter (· != die) } } else s)

/-- CLOCK_GATE: the clock of an idle unit of a powered domain stops. -/
def execClockGate (die dom : Nat) (s : State) : Outcome :=
  .next (
    if s.live ∧ die < s.dieCount ∧ dom < 13 ∧ s.domOn die dom ∧ !s.power.gatedClk.contains (domKey die dom) then
      { s with power := { s.power with gatedClk := s.power.gatedClk ++ [domKey die dom] } }
    else s)

/-! ### Temperature and voltage (19 R470 to R473) -/

/-- The maximum package power in mW (00 R1). -/
def Variant.maxPower : Variant → Nat
  | .xf202 => 1550000
  | .xf204 => 3000000
  | .xf208 => 5900000

/-- The throttle level after an evaluation; temperatures in 1/16 °C (19 R471). -/
def throttleNext (k tj power maxP : Nat) : Nat :=
  if 1600 ≤ tj ∨ maxP < power then max 6 (k - 1)
  else if tj < 1568 ∧ 100 * power ≤ 95 * maxP then min 16 (k + 1)
  else k

/-- A thermal trip: the event, the fail-stop, the gating of every domain but AON and SER, THERMTRIP_N (19 R472; 18 R458; 21 R490). -/
def State.thermalTrip (s : State) : State :=
  let s : State := { s with ks := { s.ks with trip := true } }
  let s := s.event evTrip 0 s.ks.hottest 0 (natLe 2 s.ks.tj)
  let s := s.mgmtInterrupt.failStop Config.failStopDetector stThermalTrip
  let s := s.gateAll
  { s with part := { s.part with thermtripN := false } }

/-- THERMAL_EVAL: the leader reads 12 sensors of each die and the power, sets the throttle, or trips at 115 °C. -/
def execThermalEval (sensors : List Nat) (powerMw : Nat) (dieMw : List Nat) (s : State) : Outcome :=
  .next (
    if !s.part.porN ∨ sensors.length ≠ 12 * s.dieCount then s
    else
      let tj := sensors.foldl max 0
      let k := s.ks.throttle
      let k' := throttleNext k tj powerMw s.part.variant.maxPower
      let s : State := { s with ks := { s.ks with
        sensors := sensors, tj := tj, hottest := (sensors.findIdx (· == tj)) / 12, powerMw := powerMw, dieMw := dieMw
        throttledUs := if k < 16 then s.ks.throttledUs + 100 else s.ks.throttledUs } }
      if s.ks.trip then s
      else if 1840 ≤ tj then s.thermalTrip
      else
        let t : State := { s with ks := { s.ks with throttle := k' } }
        if k = 16 ∧ k' < 16 then t.event evThrottle 0 t.ks.hottest 0 (natLe 2 tj) else t)

/-- The bin voltage, in 0.1 mV (19 R470). -/
def binVoltage (bin : Nat) : Nat := match bin with | 2 => 8200 | 3 => 7900 | 4 => 7600 | _ => 8500

/-- AVS_EVAL: the margin in 0.1 mV lowers the set-point below the bin voltage, by at most 40 mV in steps of 2.5 mV, within 0.70 V to
0.85 V; a negative one raises it, and is a die-level fault where the bin voltage does not suffice. -/
def execAvsEval (die : Nat) (margin : Int) (s : State) : Outcome :=
  .next (match s.ks.record with
    | none => s
    | some r =>
      if !s.part.porN ∨ s.dieCount ≤ die then s
      else
        let bin := binVoltage r.speedBin
        let cur := mgetD 8500 s.power.avs die
        let set := fun (v : Nat) => ({ s with power := { s.power with
          avs := mset s.power.avs die (max 7000 (min 8500 v)), margin := mset s.power.margin die margin } } : State)
        if 0 ≤ margin then set (bin - min 400 (margin.toNat / 25 * 25))
        else
          let want := cur + (-margin).toNat
          let t := set (min bin want)
          if bin < want ∧ s.live then t.fault ⟨11, die, 0, 0, false, []⟩ else t)

end Sys2Proof.Machine
end

