-- ==== Sys2Proof/Machine/Service.lean ====
section
/-! DEFINITION. The CHK-, TEL- and EVT- commands (17 R438, R441; 12 R320, R326 to R330; 18 R459). -/

namespace Sys2Proof.Machine

open Sys2Proof

/-! ### CHK- -/

/-- A logical bay of the job. -/
def State.holdsBay (s : State) (job die b : Nat) : Bool := (s.logical die b).any fun l => s.holds job 1 die l

/-- The unit that CHK-TEST names is the job's, where units are granted. -/
def State.testHeld (s : State) (job unit die i : Nat) : Bool :=
  match unit with | 1 => s.holdsBay job die i | 7 => s.holds job 8 die i | _ => true

/-- CHK-TEST: the test begins; FIELD_TEST_DONE ends it (12 R320). -/
def execChkTest (c : CmdRef) (s : State) : Outcome :=
  .next (s.command c 10 1 fun s x retry => do
    let unit := fld x.body 0 1
    let die ← s.okDie x 1
    let i := fld x.body 2 2
    okLen x 8
    okAt (decide (1 ≤ unit ∧ unit ≤ 7)) 0
    okSt (s.unitExists unit die i) stRange
    okSt (s.testHeld x.job unit die i) stRange
    okAt (zeroAt x.body 4 4) 4
    okRef (!s.testRefused unit die i) retry
    pure { s := s.startTest { unit := unit, die := die, index := i, cmd := some x }, waits := true })

/-- The bay's frozen work is abandoned: the frozen instance, or the one that could not be issued (12 R330). -/
def State.thawBay (s : State) (b : BayRef) : State :=
  let y := s.bay b.die b.bay
  match y.slots.find? (·.frozen) with
  | some r => s.discardStroke b r
  | none => match y.replays, y.queue with
    | i :: rest, _ => (s.modBay b.die b.bay fun y => { y with replays := rest }).closeInst b.die i
    | [], i :: rest => (s.modBay b.die b.bay fun y => { y with queue := rest }).closeInst b.die i
    | [], [] => s

/-- Thaws a master: its frozen work is abandoned, and it accepts new work (12 R330). -/
def State.thaw (s : State) (w : Nat) : State :=
  let die := bitsOf w 27 24
  let i := w % 2 ^ 24
  let s := match w >>> 28 with
    | 1 => s.thawBay ⟨die, i⟩
    | 2 => match (s.mover die i).queue with | q :: _ => s.dropMv die i q | [] => s
    | _ => s
  { s with ks := { s.ks with freezes := mdel s.ks.freezes w } }

/-- The master that CHK-THAW names is the job's, where masters are granted. -/
def State.thawHeld (s : State) (job w : Nat) : Bool :=
  let die := bitsOf w 27 24
  let i := w % 2 ^ 24
  match w >>> 28 with | 1 => s.holdsBay job die i | 4 => s.holds job 6 die i | 6 => s.holds job 8 die (i / 256) | _ => true

/-- The die that a master word names exists on the variant (00 R2). -/
def State.masterOnDie (s : State) (w : Nat) : Bool := decide (bitsOf w 27 24 < s.dieCount)

/-- CHK-THAW: not for a host function (12 R326, R330). -/
def execChkThaw (c : CmdRef) (s : State) : Outcome :=
  .next (s.command c 10 2 fun s x _ => do
    let w := fld x.body 0 4
    okLen x 8
    okRef (decide (w >>> 28 ≠ 7)) 0
    okSt (s.masterOnDie w) stRange
    let _ ← okSome (mget s.ks.freezes w) fun _ => true
    okSt (s.thawHeld x.job w) stRange
    okAt (zeroAt x.body 4 4) 4
    pure { s := s.thaw w })

/-- The code of a seal state. -/
def SealState.code : SealState → Nat
  | .free => 0
  | .wet => 1
  | .dry => 2

/-- Entries of a bay's seal table from one on, at most 200. -/
def Bay.sealBody (b : Bay) (first : Nat) : List Byte :=
  let es := (b.seals.drop first).take 200
  pack [(2, es.length), (2, 0)] ++ es.flatMap fun e => pack [(4, e.start), (4, e.bytes), (1, e.state.code), (1, 0), (2, e.readers), (4, e.gen)]

/-- CHK-SEAL: at most 200 entries of a bay's seal table from one on (04 R96; 12 R312). -/
def execChkSeal (c : CmdRef) (s : State) : Outcome :=
  .next (s.command c 10 3 fun s x _ => do
    let die ← s.okDie x 0
    let l := fld x.body 1 1
    okSt (s.holds x.job 1 die l) stRange
    okLen x 4
    pure { s := s, body := (s.bay die (s.phys die l)).sealBody (fld x.body 2 2) })

/-- CHK-FREEZE: the freeze record of a master (12 R328). -/
def execChkFreeze (c : CmdRef) (s : State) : Outcome :=
  .next (s.command c 10 4 fun s x _ => do
    okLen x 4
    okSt (s.masterOnDie (fld x.body 0 4)) stRange
    let f ← okSome (mget s.ks.freezes (fld x.body 0 4)) fun _ => true
    pure { s := s, body := f.bytes })

/-- CHK-FAULTS: held fault records from an index on (18 R459). -/
def execChkFaults (c : CmdRef) (s : State) : Outcome :=
  .next (s.command c 10 5 fun s x _ => do
    okLen x 8
    okAt (zeroAt x.body 6 2) 6
    pure { s := s, body := ((s.ks.faultLog.filter fun r => decide (fld x.body 0 4 ≤ r.index)).take (fld x.body 4 2)).flatMap (·.bytes) })

/-! ### TEL- -/

/-- The 96 bytes of an event record (17 R438). -/
def Event.bytes (e : Event) : List Byte :=
  pack [(2, e.code), (2, e.job), (1, e.die), (1, b2n e.urgent), (2, e.status), (8, e.tai), (4, e.seq), (2, e.lost), (10, 0)] ++ sub e.data 0 64

/-- The highest junction sensor of a die. -/
def State.dieTj (s : State) (die : Nat) : Nat := ((s.ks.sensors.drop (12 * die)).take 12).foldl max 0

/-- The counters of a fabric port that TEL-READ shows. -/
def Port.telemetry (p : Port) : List Nat := [p.corrected, p.replayed, p.discarded] ++ p.stalls

/-- The words of a TEL-READ group; none for a reserved group. -/
def State.telGroup (s : State) (port die g : Nat) : Option (List Nat) :=
  let d := s.die die
  match g with
  | 1 => some ([0, 1].flatMap fun p => (s.host p).counters)
  | 2 => some (((List.range 16).filter s.portExists).flatMap fun k => (s.port k).telemetry)
  | 3 => some ([16, 17].flatMap fun k => (s.port k).telemetry)
  | 4 => some (((List.range 4).filter fun i => s.viaExists (i / 2)).flatMap fun i =>
      let x := s.itf (i / 2) (i % 2)
      [x.macsecDrops, x.ipDrops, x.retransmits, x.duplicates, x.malformed])
  | 5 => some d.corrected
  | 6 => some (d.stalls ++ d.refusals)
  | 7 => some [at' 0 s.ks.dieMw die, s.dieTj die, s.ks.throttledUs]
  | 8 => some ((List.range (((mkeys s.jobs).foldl max 0) + 1)).map fun j => (mgetD {} s.jobs j).indexZeroed)
  | 0x0E => some ((s.host port).events.flatMap fun e => (List.range 12).map fun i => fld e.bytes (8 * i) 8)
  | _ => none

/-- The number of words of a group, where words past those held read 0. -/
def telSize (g held : Nat) : Nat := if g = 8 then 65536 else if g = 0x0E then 12288 else held

/-- TEL-READ. -/
def execTelRead (c : CmdRef) (s : State) : Outcome :=
  .next (s.command c 11 1 fun s x _ => do
    let die ← s.okDie x 0
    let g := fld x.body 1 1
    let first := fld x.body 2 2
    let n := fld x.body 4 2
    okLen x 8
    okAt (s.telGroup x.port die g).isSome 1
    let ws := (s.telGroup x.port die g).getD []
    okSt (decide (first + n ≤ telSize g ws.length)) stRange
    okAt (decide (n ≤ 508)) 4
    okAt (zeroAt x.body 6 2) 6
    pure { s := s, body := (List.range n).flatMap fun i => natLe 8 (at' 0 ws (first + i)) })

/-- The oldest records leave a port's event queue; vector 32 goes out where some are left. -/
def State.eventsTaken (s : State) (p n : Nat) : State :=
  let es := (s.host p).events
  let t := s.modHost p fun h => { h with events := es.drop n }
  if (es.drop n).isEmpty then t else t.vector p 32

/-- EVT-READ: removes the records read, oldest first; vector 32 where records are left (17 R438). -/
def execEvtRead (c : CmdRef) (s : State) : Outcome :=
  .next (s.command c 12 1 fun s x _ => do
    let n := fld x.body 0 1
    okLen x 1
    okAt (decide (1 ≤ n ∧ n ≤ 42)) 0
    let es := (s.host x.port).events
    pure { s := s.eventsTaken x.port n, body := pack [(2, min n es.length), (2, 0)] ++ (es.take n).flatMap (·.bytes) })

end Sys2Proof.Machine
end

