-- ==== Sys2Proof/Machine/Vector.lean ====
section
/-! DEFINITION. The vector engine's arithmetic: FP32, integer and scalar instructions, reductions, permutes, predicates and random
numbers (06 R147 to R159). -/

namespace Sys2Proof.Machine

open Sys2Proof

/-! ### Shapes -/

/-- An FP32 instruction of one to three vector sources; `imm` says where its modifier stands. -/
def Running.fop (r : Running) (f : Fields) (imm : Bool) (g : Bool → Rnd → Word → Word → Word → FRes) : Running :=
  let m := modOf imm f
  r.flanes f m fun l => g (modStrict m) (modRnd m) (r.lane f.src1 l) (r.lane f.src2 l) (r.lane f.src3 l)

/-- An integer instruction of two vector sources. -/
def Running.iop (r : Running) (f : Fields) (g : Word → Word → Word) : Running :=
  r.lanes f (modOf false f) fun l => g (r.lane f.src1 l) (r.lane f.src2 l)

/-- A scalar integer instruction. -/
def Running.sop (r : Running) (f : Fields) (g : Word → Word → Word) : Running :=
  r.setS f.dst (g (r.sreg f.src1) (r.sreg f.src2))

/-- A scalar FP32 instruction. -/
def Running.sfop (r : Running) (f : Fields) (imm : Bool) (g : Bool → Rnd → Word → Word → Word → FRes) : Running :=
  let m := modOf imm f
  let y := g (modStrict m) (modRnd m) (r.sreg f.src1) (r.sreg f.src2) (r.sreg f.src3)
  (r.setS f.dst y.1).raise (modStrict m) y.2

/-- The lanes of a source that the predicate includes (06 R148). -/
def Running.included (r : Running) (f : Fields) : List Word :=
  ((List.range 64).filter fun l => r.on (modOf false f) l).map fun l => r.lane f.src1 l

/-- A lane reduction (06 R156). -/
def Running.rop (r : Running) (f : Fields) (g : Bool → Rnd → List Word → FRes) : Running :=
  let m := modOf false f
  let y := g (modStrict m) (modRnd m) (r.included f)
  (r.setS f.dst y.1).raise (modStrict m) y.2

/-- A chain of operations from the first word upward. -/
def foldF (g : Word → Word → FRes) (empty : Word) : List Word → FRes
  | [] => (empty, {})
  | w :: ws => ws.foldl (fun (a : FRes) x => let y := g a.1 x; (y.1, a.2.add y.2)) (w, {})

/-- VFNMA: c − a × b, one rounding; a NaN operand propagates as it stands (06 R149, 02 R59). -/
def ffnma (strict : Bool) (r : Rnd) (a b c : Word) : FRes :=
  (nanOut strict [a, b, c]).getD (ffma strict r (fneg a) b c)

/-- VRCP (06 R152). -/
def vrcp (strict : Bool) (r : Rnd) (a : Word) : FRes := if strict then fdiv true r one32 a else vrcpFast a

/-- VRSQRT (06 R152). -/
def vrsqrt (strict : Bool) (r : Rnd) (a : Word) : FRes := if strict then frsqrt true r a else vrsqrtFast a

/-- VRSUM (06 R156, R157). DESIGN CHOICE: a NaN lane gives the canonical NaN under STRICT too, as 06 R157 names it for this instruction
where 02 R59 would quiet the first NaN operand; a signalling lane raises invalid (log 26). -/
def vrsum (strict : Bool) (r : Rnd) (ws : List Word) : FRes :=
  if !strict then exactSum ws
  else if ws.any isNaN then (qNaN, { inv := b2n (ws.any isSNaN) })
  else foldF (fadd true r) 0#32 ws

/-- VRMAX, VRMIN and VRAMAX over included lanes; every lane NaN gives the canonical NaN (06 R157). DESIGN CHOICE: so it does under STRICT,
for these and for VMIN and VMAX (06 R151), where 02 R59 would quiet the first NaN operand (log 26). -/
def vrpick (g : Word → Word → FRes) (empty : Word) (ws : List Word) : FRes :=
  let y := foldF g empty ws
  if ws ≠ [] ∧ ws.all isNaN then (qNaN, y.2) else y

/-! ### Random numbers (06 R159) -/

/-- The high and low 32 bits of a product. -/
def mulhilo (a b : Word) : Word × Word :=
  let p := a.toNat * b.toNat
  (BitVec.ofNat 32 (p / 2 ^ 32), BitVec.ofNat 32 p)

/-- Philox-4x32-10 from round `n` left. -/
def philox : Nat → Word × Word × Word × Word → Word → Word → Word × Word × Word × Word
  | 0, c, _, _ => c
  | n + 1, (c0, c1, c2, c3), k0, k1 =>
    let (hi0, lo0) := mulhilo 0xD2511F53#32 c0
    let (hi1, lo1) := mulhilo 0xCD9E8D57#32 c2
    philox n (hi1 ^^^ c1 ^^^ k0, lo1, hi0 ^^^ c3 ^^^ k1, lo0) (k0 + 0x9E3779B9#32) (k1 + 0xBB67AE85#32)

/-- The random word of a lane: word `lane mod 4` of counter group `lane / 4`. -/
def rngLane (k0 k1 base : Word) (lane : Nat) : Word :=
  let (a, b, c, d) := philox 10 (base + BitVec.ofNat 32 (lane / 4), 0#32, 0#32, 0#32) k0 k1
  match lane % 4 with | 0 => a | 1 => b | 2 => c | _ => d

/-- (word >> 8) × 2^−24. -/
def rngUnit (w : Word) : Word := (fin32 false .ne false (w.toNat >>> 8) 1 (-24)).1

/-! ### Meanings -/

/-- VADD (06 R150). -/
def execVadd (b : BayRef) (f : Fields) (s : State) : Outcome :=
  .next (s.strokeStep b 0x20 f fun s r => .done s (r.fop f false fun st rd a b _ => fadd st rd a b))

/-- VSUB (06 R150). -/
def execVsub (b : BayRef) (f : Fields) (s : State) : Outcome :=
  .next (s.strokeStep b 0x21 f fun s r => .done s (r.fop f false fun st rd a b _ => fsub st rd a b))

/-- VMUL (06 R150). -/
def execVmul (b : BayRef) (f : Fields) (s : State) : Outcome :=
  .next (s.strokeStep b 0x22 f fun s r => .done s (r.fop f false fun st rd a b _ => fmul st rd a b))

/-- VFMA (06 R150). -/
def execVfma (b : BayRef) (f : Fields) (s : State) : Outcome :=
  .next (s.strokeStep b 0x23 f fun s r => .done s (r.fop f true ffma))

/-- VFNMA (06 R150). -/
def execVfnma (b : BayRef) (f : Fields) (s : State) : Outcome :=
  .next (s.strokeStep b 0x24 f fun s r => .done s (r.fop f true ffnma))

/-- VMIN (06 R151). -/
def execVmin (b : BayRef) (f : Fields) (s : State) : Outcome :=
  .next (s.strokeStep b 0x25 f fun s r => .done s (r.fop f false fun st _ a b _ => fminN st a b))

/-- VMAX (06 R151). -/
def execVmax (b : BayRef) (f : Fields) (s : State) : Outcome :=
  .next (s.strokeStep b 0x26 f fun s r => .done s (r.fop f false fun st _ a b _ => fmaxN st a b))

/-- VABS (06 R150). -/
def execVabs (b : BayRef) (f : Fields) (s : State) : Outcome :=
  .next (s.strokeStep b 0x27 f fun s r => .done s (r.fop f false fun _ _ a _ _ => (fabs a, {})))

/-- VNEG (06 R150). -/
def execVneg (b : BayRef) (f : Fields) (s : State) : Outcome :=
  .next (s.strokeStep b 0x28 f fun s r => .done s (r.fop f false fun _ _ a _ _ => (fneg a, {})))

/-- VRCP (06 R152). -/
def execVrcp (b : BayRef) (f : Fields) (s : State) : Outcome :=
  .next (s.strokeStep b 0x29 f fun s r => .done s (r.fop f false fun st rd a _ _ => vrcp st rd a))

/-- VRSQRT (06 R152). -/
def execVrsqrt (b : BayRef) (f : Fields) (s : State) : Outcome :=
  .next (s.strokeStep b 0x2A f fun s r => .done s (r.fop f false fun st rd a _ _ => vrsqrt st rd a))

/-- VCMP (06 R153). -/
def execVcmp (b : BayRef) (f : Fields) (s : State) : Outcome :=
  .next (s.strokeStep b 0x2B f fun s r =>
    let m := modOf false f
    let c := fun l => fcmp (modStrict m) (f.imm.toNat % 8) (r.lane f.src1 l) (r.lane f.src2 l)
    .done s ((r.plane f m fun l => (c l).1).raise (modStrict m)
      (excSum ((List.range 64).map fun l => if r.on m l then (c l).2 else {}))))

/-- VSEL (06 R149): lane ← a where the bit of the p register is 1, else b. -/
def execVsel (b : BayRef) (f : Fields) (s : State) : Outcome :=
  .next (s.strokeStep b 0x2C f fun s r => .done s (r.lanes f (modOf true f) fun l =>
    if (r.preg f.src3.toNat).getLsbD l then r.lane f.src1 l else r.lane f.src2 l))

/-- VIADD (06 R154). -/
def execViadd (b : BayRef) (f : Fields) (s : State) : Outcome :=
  .next (s.strokeStep b 0x30 f fun s r => .done s (r.iop f fun a b => a + b))

/-- VISUB (06 R154). -/
def execVisub (b : BayRef) (f : Fields) (s : State) : Outcome :=
  .next (s.strokeStep b 0x31 f fun s r => .done s (r.iop f fun a b => a - b))

/-- VIMUL (06 R154). -/
def execVimul (b : BayRef) (f : Fields) (s : State) : Outcome :=
  .next (s.strokeStep b 0x32 f fun s r => .done s (r.iop f fun a b => a * b))

/-- VIADDS (06 R154). -/
def execViadds (b : BayRef) (f : Fields) (s : State) : Outcome :=
  .next (s.strokeStep b 0x33 f fun s r => .done s (r.iop f fun a b => isat (a.toInt + b.toInt)))

/-- VISUBS (06 R154). -/
def execVisubs (b : BayRef) (f : Fields) (s : State) : Outcome :=
  .next (s.strokeStep b 0x34 f fun s r => .done s (r.iop f fun a b => isat (a.toInt - b.toInt)))

/-- VIMIN (06 R154). -/
def execVimin (b : BayRef) (f : Fields) (s : State) : Outcome :=
  .next (s.strokeStep b 0x35 f fun s r => .done s (r.iop f fun a b => if a.sle b then a else b))

/-- VIMAX (06 R154). -/
def execVimax (b : BayRef) (f : Fields) (s : State) : Outcome :=
  .next (s.strokeStep b 0x36 f fun s r => .done s (r.iop f fun a b => if b.sle a then a else b))

/-- VAND (06 R154). -/
def execVand (b : BayRef) (f : Fields) (s : State) : Outcome :=
  .next (s.strokeStep b 0x37 f fun s r => .done s (r.iop f fun a b => a &&& b))

/-- VOR (06 R154). -/
def execVor (b : BayRef) (f : Fields) (s : State) : Outcome :=
  .next (s.strokeStep b 0x38 f fun s r => .done s (r.iop f fun a b => a ||| b))

/-- VXOR (06 R154). -/
def execVxor (b : BayRef) (f : Fields) (s : State) : Outcome :=
  .next (s.strokeStep b 0x39 f fun s r => .done s (r.iop f fun a b => a ^^^ b))

/-- VSHL (06 R154). -/
def execVshl (b : BayRef) (f : Fields) (s : State) : Outcome :=
  .next (s.strokeStep b 0x3A f fun s r => .done s (r.iop f fun a b => a <<< (b.toNat % 32)))

/-- VSHR (06 R154). -/
def execVshr (b : BayRef) (f : Fields) (s : State) : Outcome :=
  .next (s.strokeStep b 0x3B f fun s r => .done s (r.iop f fun a b => a >>> (b.toNat % 32)))

/-- VSRA (06 R154). -/
def execVsra (b : BayRef) (f : Fields) (s : State) : Outcome :=
  .next (s.strokeStep b 0x3C f fun s r => .done s (r.iop f fun a b => a.sshiftRight (b.toNat % 32)))

/-- VICMP (06 R153). -/
def execVicmp (b : BayRef) (f : Fields) (s : State) : Outcome :=
  .next (s.strokeStep b 0x3D f fun s r => .done s (r.plane f (modOf false f) fun l => icmp (f.imm.toNat % 8) (r.lane f.src1 l) (r.lane f.src2 l)))

/-- VBCI (06 R154). -/
def execVbci (b : BayRef) (f : Fields) (s : State) : Outcome :=
  .next (s.strokeStep b 0x3E f fun s r => .done s (r.lanes f (modOf false f) fun _ => f.imm))

/-- VBCS (06 R154). -/
def execVbcs (b : BayRef) (f : Fields) (s : State) : Outcome :=
  .next (s.strokeStep b 0x3F f fun s r => .done s (r.lanes f (modOf false f) fun _ => r.sreg f.src1))

/-- SMOVI (06 R155). -/
def execSmovi (b : BayRef) (f : Fields) (s : State) : Outcome :=
  .next (s.strokeStep b 0x40 f fun s r => .done s (r.setS f.dst f.imm))

/-- SADDI (06 R155). -/
def execSaddi (b : BayRef) (f : Fields) (s : State) : Outcome :=
  .next (s.strokeStep b 0x41 f fun s r => .done s (r.setS f.dst (r.sreg f.src1 + f.imm)))

/-- SADD (06 R155). -/
def execSadd (b : BayRef) (f : Fields) (s : State) : Outcome :=
  .next (s.strokeStep b 0x42 f fun s r => .done s (r.sop f fun a b => a + b))

/-- SSUB (06 R155). -/
def execSsub (b : BayRef) (f : Fields) (s : State) : Outcome :=
  .next (s.strokeStep b 0x43 f fun s r => .done s (r.sop f fun a b => a - b))

/-- SMUL (06 R155). -/
def execSmul (b : BayRef) (f : Fields) (s : State) : Outcome :=
  .next (s.strokeStep b 0x44 f fun s r => .done s (r.sop f fun a b => a * b))

/-- SAND (06 R155). -/
def execSand (b : BayRef) (f : Fields) (s : State) : Outcome :=
  .next (s.strokeStep b 0x45 f fun s r => .done s (r.sop f fun a b => a &&& b))

/-- SOR (06 R155). -/
def execSor (b : BayRef) (f : Fields) (s : State) : Outcome :=
  .next (s.strokeStep b 0x46 f fun s r => .done s (r.sop f fun a b => a ||| b))

/-- SXOR (06 R155). -/
def execSxor (b : BayRef) (f : Fields) (s : State) : Outcome :=
  .next (s.strokeStep b 0x47 f fun s r => .done s (r.sop f fun a b => a ^^^ b))

/-- SSHL (06 R155). -/
def execSshl (b : BayRef) (f : Fields) (s : State) : Outcome :=
  .next (s.strokeStep b 0x48 f fun s r => .done s (r.setS f.dst (r.sreg f.src1 <<< (f.imm.toNat % 32))))

/-- SSHR (06 R155). -/
def execSshr (b : BayRef) (f : Fields) (s : State) : Outcome :=
  .next (s.strokeStep b 0x49 f fun s r => .done s (r.setS f.dst (r.sreg f.src1 >>> (f.imm.toNat % 32))))

/-- SFADD (06 R155). -/
def execSfadd (b : BayRef) (f : Fields) (s : State) : Outcome :=
  .next (s.strokeStep b 0x4A f fun s r => .done s (r.sfop f false fun st rd a b _ => fadd st rd a b))

/-- SFMUL (06 R155). -/
def execSfmul (b : BayRef) (f : Fields) (s : State) : Outcome :=
  .next (s.strokeStep b 0x4B f fun s r => .done s (r.sfop f false fun st rd a b _ => fmul st rd a b))

/-- SFFMA (06 R155). -/
def execSffma (b : BayRef) (f : Fields) (s : State) : Outcome :=
  .next (s.strokeStep b 0x4C f fun s r => .done s (r.sfop f true ffma))

/-- SFMIN (06 R155). -/
def execSfmin (b : BayRef) (f : Fields) (s : State) : Outcome :=
  .next (s.strokeStep b 0x4D f fun s r => .done s (r.sfop f false fun st _ a b _ => fminN st a b))

/-- SFMAX (06 R155). -/
def execSfmax (b : BayRef) (f : Fields) (s : State) : Outcome :=
  .next (s.strokeStep b 0x4E f fun s r => .done s (r.sfop f false fun st _ a b _ => fmaxN st a b))

/-- VEXT (06 R155). -/
def execVext (b : BayRef) (f : Fields) (s : State) : Outcome :=
  .next (s.strokeStep b 0x4F f fun s r => .done s (r.setS f.dst (r.lane f.src1 (f.imm.toNat % 64))))

/-- VRSUM (06 R156, R157). -/
def execVrsum (b : BayRef) (f : Fields) (s : State) : Outcome :=
  .next (s.strokeStep b 0x50 f fun s r => .done s (r.rop f vrsum))

/-- VRMAX (06 R157). -/
def execVrmax (b : BayRef) (f : Fields) (s : State) : Outcome :=
  .next (s.strokeStep b 0x51 f fun s r => .done s (r.rop f fun st _ ws => vrpick (fmaxN st) 0xFF800000#32 ws))

/-- VRMIN (06 R157). -/
def execVrmin (b : BayRef) (f : Fields) (s : State) : Outcome :=
  .next (s.strokeStep b 0x52 f fun s r => .done s (r.rop f fun st _ ws => vrpick (fminN st) 0x7F800000#32 ws))

/-- VRAMAX (06 R157). -/
def execVramax (b : BayRef) (f : Fields) (s : State) : Outcome :=
  .next (s.strokeStep b 0x53 f fun s r => .done s (r.rop f fun st _ ws => vrpick (fmaxN st) 0#32 (ws.map fabs)))

/-- VRISUM (06 R156). -/
def execVrisum (b : BayRef) (f : Fields) (s : State) : Outcome :=
  .next (s.strokeStep b 0x54 f fun s r => .done s (r.setS f.dst ((r.included f).foldl (· + ·) 0#32)))

/-- VPERM (06 R158). -/
def execVperm (b : BayRef) (f : Fields) (s : State) : Outcome :=
  .next (s.strokeStep b 0x55 f fun s r => .done s (r.lanes f (modOf false f) fun l => r.lane f.src1 ((r.lane f.src2 l).toNat % 64)))

/-- VROT (06 R158). -/
def execVrot (b : BayRef) (f : Fields) (s : State) : Outcome :=
  .next (s.strokeStep b 0x56 f fun s r => .done s (r.lanes f (modOf false f) fun l => r.lane f.src1 ((l + f.imm.toNat) % 64)))

/-- The function of PLOGIC (06 R156). -/
def plogicOf (k : Nat) (x y : DWord) : DWord := match k with | 0 => x &&& y | 1 => x ||| y | 2 => x ^^^ y | _ => x &&& ~~~y

/-- PLOGIC (06 R156). -/
def execPlogic (b : BayRef) (f : Fields) (s : State) : Outcome :=
  .next (s.strokeStep b 0x57 f fun s r => .done s (r.plane f (modOf false f) fun l =>
    (plogicOf (f.imm.toNat % 4) (r.preg f.src1.toNat) (r.preg f.src2.toNat)).getLsbD l))

/-- PRANGE (06 R156). -/
def execPrange (b : BayRef) (f : Fields) (s : State) : Outcome :=
  .next (s.strokeStep b 0x58 f fun s r => .done s (r.plane f 0 fun l => decide (l < (r.sreg f.src1).toNat)))

/-- PCOUNT (06 R156). -/
def execPcount (b : BayRef) (f : Fields) (s : State) : Outcome :=
  .next (s.strokeStep b 0x59 f fun s r => .done s (r.setS f.dst (BitVec.ofNat 32 ((List.range 64).countP fun l => (r.preg f.src1.toNat).getLsbD l))))

/-- RNG (06 R159). -/
def execRng (b : BayRef) (f : Fields) (s : State) : Outcome :=
  .next (s.strokeStep b 0x5C f fun s r => .done s (r.lanes f (modOf true f) fun l => rngLane (r.sreg f.src1) (r.sreg f.src2) (r.sreg f.src3) l))

/-- RNG.U (06 R159). -/
def execRngU (b : BayRef) (f : Fields) (s : State) : Outcome :=
  .next (s.strokeStep b 0x5D f fun s r => .done s (r.lanes f (modOf true f) fun l => rngUnit (rngLane (r.sreg f.src1) (r.sreg f.src2) (r.sreg f.src3) l)))

end Sys2Proof.Machine
end

