-- ==== Sys2Proof/Machine/Dispatch.lean ====
section
/-! DEFINITION. The meaning of every command: one arm per constructor of `Instr`. -/

namespace Sys2Proof.Machine

open Sys2Proof

/-- The effect of a command on everything but the queue. -/
def exec (i : Instr) (s : State) : Host.Outcome State Fault Refusal :=
  match i with
  | .nop b f => Sys2Proof.Machine.execNop b f s
  | .seal b f => Sys2Proof.Machine.execSeal b f s
  | .mxtNn b f => Sys2Proof.Machine.execMxtNn b f s
  | .mxtNt b f => Sys2Proof.Machine.execMxtNt b f s
  | .mxtTn b f => Sys2Proof.Machine.execMxtTn b f s
  | .mxtTt b f => Sys2Proof.Machine.execMxtTt b f s
  | .mxtNnAcc b f => Sys2Proof.Machine.execMxtNnAcc b f s
  | .mxtNtAcc b f => Sys2Proof.Machine.execMxtNtAcc b f s
  | .mxtTnAcc b f => Sys2Proof.Machine.execMxtTnAcc b f s
  | .mxtTtAcc b f => Sys2Proof.Machine.execMxtTtAcc b f s
  | .tileProductPassStart b => Sys2Proof.Machine.execTileProductPassStart b s
  | .tileProductPassEnd b agree => Sys2Proof.Machine.execTileProductPassEnd b agree s
  | .tileRetire b => Sys2Proof.Machine.execTileRetire b s
  | .ld b f => Sys2Proof.Machine.execLd b f s
  | .ldS b f => Sys2Proof.Machine.execLdS b f s
  | .ldArg b f => Sys2Proof.Machine.execLdArg b f s
  | .st b f => Sys2Proof.Machine.execSt b f s
  | .stS b f => Sys2Proof.Machine.execStS b f s
  | .mvCopy b f mv => Sys2Proof.Machine.execMvCopy b f mv s
  | .mvGather b f mv => Sys2Proof.Machine.execMvGather b f mv s
  | .mvScatter b f mv => Sys2Proof.Machine.execMvScatter b f mv s
  | .mvScadd b f mv => Sys2Proof.Machine.execMvScadd b f mv s
  | .mvSegsum b f mv => Sys2Proof.Machine.execMvSegsum b f mv s
  | .mvSegmax b f mv => Sys2Proof.Machine.execMvSegmax b f mv s
  | .mvSketch b f mv => Sys2Proof.Machine.execMvSketch b f mv s
  | .bounceBufferTake die mover => Sys2Proof.Machine.execBounceBufferTake die mover s
  | .scaddRound die mover => Sys2Proof.Machine.execScaddRound die mover s
  | .moverRequestDone die mover => Sys2Proof.Machine.execMoverRequestDone die mover s
  | .spPut b f transfer => Sys2Proof.Machine.execSpPut b f transfer s
  | .spGet b f transfer => Sys2Proof.Machine.execSpGet b f transfer s
  | .spAcc b f => Sys2Proof.Machine.execSpAcc b f s
  | .bxaV b f => Sys2Proof.Machine.execBxaV b f s
  | .bxaT b f => Sys2Proof.Machine.execBxaT b f s
  | .sum b f => Sys2Proof.Machine.execSum b f s
  | .sumH b f => Sys2Proof.Machine.execSumH b f s
  | .sumX b f => Sys2Proof.Machine.execSumX b f s
  | .vadd b f => Sys2Proof.Machine.execVadd b f s
  | .vsub b f => Sys2Proof.Machine.execVsub b f s
  | .vmul b f => Sys2Proof.Machine.execVmul b f s
  | .vfma b f => Sys2Proof.Machine.execVfma b f s
  | .vfnma b f => Sys2Proof.Machine.execVfnma b f s
  | .vmin b f => Sys2Proof.Machine.execVmin b f s
  | .vmax b f => Sys2Proof.Machine.execVmax b f s
  | .vabs b f => Sys2Proof.Machine.execVabs b f s
  | .vneg b f => Sys2Proof.Machine.execVneg b f s
  | .vrcp b f => Sys2Proof.Machine.execVrcp b f s
  | .vrsqrt b f => Sys2Proof.Machine.execVrsqrt b f s
  | .vcmp b f => Sys2Proof.Machine.execVcmp b f s
  | .vsel b f => Sys2Proof.Machine.execVsel b f s
  | .viadd b f => Sys2Proof.Machine.execViadd b f s
  | .visub b f => Sys2Proof.Machine.execVisub b f s
  | .vimul b f => Sys2Proof.Machine.execVimul b f s
  | .viadds b f => Sys2Proof.Machine.execViadds b f s
  | .visubs b f => Sys2Proof.Machine.execVisubs b f s
  | .vimin b f => Sys2Proof.Machine.execVimin b f s
  | .vimax b f => Sys2Proof.Machine.execVimax b f s
  | .vand b f => Sys2Proof.Machine.execVand b f s
  | .vor b f => Sys2Proof.Machine.execVor b f s
  | .vxor b f => Sys2Proof.Machine.execVxor b f s
  | .vshl b f => Sys2Proof.Machine.execVshl b f s
  | .vshr b f => Sys2Proof.Machine.execVshr b f s
  | .vsra b f => Sys2Proof.Machine.execVsra b f s
  | .vicmp b f => Sys2Proof.Machine.execVicmp b f s
  | .vbci b f => Sys2Proof.Machine.execVbci b f s
  | .vbcs b f => Sys2Proof.Machine.execVbcs b f s
  | .smovi b f => Sys2Proof.Machine.execSmovi b f s
  | .saddi b f => Sys2Proof.Machine.execSaddi b f s
  | .sadd b f => Sys2Proof.Machine.execSadd b f s
  | .ssub b f => Sys2Proof.Machine.execSsub b f s
  | .smul b f => Sys2Proof.Machine.execSmul b f s
  | .sand b f => Sys2Proof.Machine.execSand b f s
  | .sor b f => Sys2Proof.Machine.execSor b f s
  | .sxor b f => Sys2Proof.Machine.execSxor b f s
  | .sshl b f => Sys2Proof.Machine.execSshl b f s
  | .sshr b f => Sys2Proof.Machine.execSshr b f s
  | .sfadd b f => Sys2Proof.Machine.execSfadd b f s
  | .sfmul b f => Sys2Proof.Machine.execSfmul b f s
  | .sffma b f => Sys2Proof.Machine.execSffma b f s
  | .sfmin b f => Sys2Proof.Machine.execSfmin b f s
  | .sfmax b f => Sys2Proof.Machine.execSfmax b f s
  | .vext b f => Sys2Proof.Machine.execVext b f s
  | .vrsum b f => Sys2Proof.Machine.execVrsum b f s
  | .vrmax b f => Sys2Proof.Machine.execVrmax b f s
  | .vrmin b f => Sys2Proof.Machine.execVrmin b f s
  | .vramax b f => Sys2Proof.Machine.execVramax b f s
  | .vrisum b f => Sys2Proof.Machine.execVrisum b f s
  | .vperm b f => Sys2Proof.Machine.execVperm b f s
  | .vrot b f => Sys2Proof.Machine.execVrot b f s
  | .plogic b f => Sys2Proof.Machine.execPlogic b f s
  | .prange b f => Sys2Proof.Machine.execPrange b f s
  | .pcount b f => Sys2Proof.Machine.execPcount b f s
  | .rng b f => Sys2Proof.Machine.execRng b f s
  | .rngU b f => Sys2Proof.Machine.execRngU b f s
  | .cvt b f => Sys2Proof.Machine.execCvt b f s
  | .xcvt b f => Sys2Proof.Machine.execXcvt b f s
  | .xside b f => Sys2Proof.Machine.execXside b f s
  | .tscSet b f => Sys2Proof.Machine.execTscSet b f s
  | .tscale b f => Sys2Proof.Machine.execTscale b f s
  | .tscaleH b f => Sys2Proof.Machine.execTscaleH b f s
  | .vsketch b f => Sys2Proof.Machine.execVsketch b f s
  | .lutExp2 b f => Sys2Proof.Machine.execLutExp2 b f s
  | .lutLog2 b f => Sys2Proof.Machine.execLutLog2 b f s
  | .lutRcp b f => Sys2Proof.Machine.execLutRcp b f s
  | .lutSig b f => Sys2Proof.Machine.execLutSig b f s
  | .lutTanh b f => Sys2Proof.Machine.execLutTanh b f s
  | .lutLd b f => Sys2Proof.Machine.execLutLd b f s
  | .lutUsr b f => Sys2Proof.Machine.execLutUsr b f s
  | .reBind b f => Sys2Proof.Machine.execReBind b f s
  | .reParm b f => Sys2Proof.Machine.execReParm b f s
  | .reLnF b f => Sys2Proof.Machine.execReLnF b f s
  | .reLnB b f => Sys2Proof.Machine.execReLnB b f s
  | .reRmsF b f => Sys2Proof.Machine.execReRmsF b f s
  | .reRmsB b f => Sys2Proof.Machine.execReRmsB b f s
  | .reSmxF b f => Sys2Proof.Machine.execReSmxF b f s
  | .reSmxB b f => Sys2Proof.Machine.execReSmxB b f s
  | .reXent b f => Sys2Proof.Machine.execReXent b f s
  | .reActF b f => Sys2Proof.Machine.execReActF b f s
  | .reActB b f => Sys2Proof.Machine.execReActB b f s
  | .rePoolF b f => Sys2Proof.Machine.execRePoolF b f s
  | .rePoolB b f => Sys2Proof.Machine.execRePoolB b f s
  | .rePst b f => Sys2Proof.Machine.execRePst b f s
  | .rePld b f => Sys2Proof.Machine.execRePld b f s
  | .reLsum b f => Sys2Proof.Machine.execReLsum b f s
  | .strokeIssue b => Sys2Proof.Machine.execStrokeIssue b s
  | .strokeSeal b cycles => Sys2Proof.Machine.execStrokeSeal b cycles s
  | .paletteFillStart b slot => Sys2Proof.Machine.execPaletteFillStart b slot s
  | .paletteFillDone b slot => Sys2Proof.Machine.execPaletteFillDone b slot s
  | .sealEntryRelease b start => Sys2Proof.Machine.execSealEntryRelease b start s
  | .wcReopen die slot => Sys2Proof.Machine.execWcReopen die slot s
  | .graphStroke die run => Sys2Proof.Machine.execGraphStroke die run s
  | .graphLoop die run => Sys2Proof.Machine.execGraphLoop die run s
  | .graphEndLoop die run => Sys2Proof.Machine.execGraphEndLoop die run s
  | .graphBranch die run => Sys2Proof.Machine.execGraphBranch die run s
  | .graphSet die run => Sys2Proof.Machine.execGraphSet die run s
  | .graphWait die run => Sys2Proof.Machine.execGraphWait die run s
  | .waitEventMet die run => Sys2Proof.Machine.execWaitEventMet die run s
  | .graphNotify die run => Sys2Proof.Machine.execGraphNotify die run s
  | .graphStep die run => Sys2Proof.Machine.execGraphStep die run s
  | .graphRelease die run => Sys2Proof.Machine.execGraphRelease die run s
  | .slotReleaseEffect die slot => Sys2Proof.Machine.execSlotReleaseEffect die slot s
  | .graphFree die run => Sys2Proof.Machine.execGraphFree die run s
  | .graphEnd die run => Sys2Proof.Machine.execGraphEnd die run s
  | .openReq die m => Sys2Proof.Machine.execOpenReq die m s
  | .grant die m => Sys2Proof.Machine.execGrant die m s
  | .lateDrop die m => Sys2Proof.Machine.execLateDrop die m s
  | .contrib die m => Sys2Proof.Machine.execContrib die m s
  | .reductionSeal die m => Sys2Proof.Machine.execReductionSeal die m s
  | .retract die m => Sys2Proof.Machine.execRetract die m s
  | .withdraw die m => Sys2Proof.Machine.execWithdraw die m s
  | .replayReq die m => Sys2Proof.Machine.execReplayReq die m s
  | .sliceDone die m => Sys2Proof.Machine.execSliceDone die m s
  | .grantNote die m => Sys2Proof.Machine.execGrantNote die m s
  | .setFixed die m => Sys2Proof.Machine.execSetFixed die m s
  | .resetNote die m => Sys2Proof.Machine.execResetNote die m s
  | .deadlineExpiry die slot => Sys2Proof.Machine.execDeadlineExpiry die slot s
  | .heldRequestRelease die slot => Sys2Proof.Machine.execHeldRequestRelease die slot s
  | .varnishNormPassDone die slot => Sys2Proof.Machine.execVarnishNormPassDone die slot s
  | .updatingWaitEnd die slot => Sys2Proof.Machine.execUpdatingWaitEnd die slot s
  | .recordPrefetch die slot block => Sys2Proof.Machine.execRecordPrefetch die slot block s
  | .varnishBlockUpdate die slot block => Sys2Proof.Machine.execVarnishBlockUpdate die slot block s
  | .wcEncode die slot => Sys2Proof.Machine.execWcEncode die slot s
  | .varnishSliceDone die slot => Sys2Proof.Machine.execVarnishSliceDone die slot s
  | .wholeLayerOrtho die slot => Sys2Proof.Machine.execWholeLayerOrtho die slot s
  | .digestCompare die slot obs => Sys2Proof.Machine.execDigestCompare die slot obs s
  | .fragmentDeltaRead frag => Sys2Proof.Machine.execFragmentDeltaRead frag s
  | .roundClosing frag => Sys2Proof.Machine.execRoundClosing frag s
  | .outerUpdate frag block => Sys2Proof.Machine.execOuterUpdate frag block s
  | .faultDetect x => Sys2Proof.Machine.execFaultDetect x s
  | .replayIssue b => Sys2Proof.Machine.execReplayIssue b s
  | .spareWakeDone b => Sys2Proof.Machine.execSpareWakeDone b s
  | .arbitrationDone b arbEqHeld arbEqSums arbOwnOk => Sys2Proof.Machine.execArbitrationDone b arbEqHeld arbEqSums arbOwnOk s
  | .damagedDataRecovery x => Sys2Proof.Machine.execDamagedDataRecovery x s
  | .queuedFaultServe => Sys2Proof.Machine.execQueuedFaultServe s
  | .watchdogCheck die heartbeat sliceOk => Sys2Proof.Machine.execWatchdogCheck die heartbeat sliceOk s
  | .leaderContactLoss die => Sys2Proof.Machine.execLeaderContactLoss die s
  | .partFailStop reason => Sys2Proof.Machine.execPartFailStop reason s
  | .fieldTestDone unit die index pass pattern => Sys2Proof.Machine.execFieldTestDone unit die index pass pattern s
  | .replicaDigestCompute entry => Sys2Proof.Machine.execReplicaDigestCompute entry s
  | .flitReceive port codewordOk flit => Sys2Proof.Machine.execFlitReceive port codewordOk flit s
  | .linkAckTimeout port => Sys2Proof.Machine.execLinkAckTimeout port s
  | .replayExhausted port => Sys2Proof.Machine.execReplayExhausted port s
  | .laneRemove port lane => Sys2Proof.Machine.execLaneRemove port lane s
  | .portRetrainDone port retrained => Sys2Proof.Machine.execPortRetrainDone port retrained s
  | .probeTimer port => Sys2Proof.Machine.execProbeTimer port s
  | .messageForward port cls m => Sys2Proof.Machine.execMessageForward port cls m s
  | .msgResendTimeout dst chan => Sys2Proof.Machine.execMsgResendTimeout dst chan s
  | .deferredResend dst chan seq => Sys2Proof.Machine.execDeferredResend dst chan seq s
  | .put die m => Sys2Proof.Machine.execPut die m s
  | .putAck die m => Sys2Proof.Machine.execPutAck die m s
  | .get die m => Sys2Proof.Machine.execGet die m s
  | .getData die m => Sys2Proof.Machine.execGetData die m s
  | .heldGetResume die held => Sys2Proof.Machine.execHeldGetResume die held s
  | .srcSeal die m => Sys2Proof.Machine.execSrcSeal die m s
  | .srcRetract die m => Sys2Proof.Machine.execSrcRetract die m s
  | .nak die m => Sys2Proof.Machine.execNak die m s
  | .gatherReq die m => Sys2Proof.Machine.execGatherReq die m s
  | .gatherData die m => Sys2Proof.Machine.execGatherData die m s
  | .msgAck die m => Sys2Proof.Machine.execMsgAck die m s
  | .probe port m => Sys2Proof.Machine.execProbe port m s
  | .fenced port m => Sys2Proof.Machine.execFenced port m s
  | .replicaDigest die m => Sys2Proof.Machine.execReplicaDigest die m s
  | .refetch die m => Sys2Proof.Machine.execRefetch die m s
  | .heartbeat port m => Sys2Proof.Machine.execHeartbeat port m s
  | .heartbeatSend => Sys2Proof.Machine.execHeartbeatSend s
  | .heartbeatMiss => Sys2Proof.Machine.execHeartbeatMiss s
  | .takeover port m => Sys2Proof.Machine.execTakeover port m s
  | .digests die m => Sys2Proof.Machine.execDigests die m s
  | .agree die m => Sys2Proof.Machine.execAgree die m s
  | .outerInput die m => Sys2Proof.Machine.execOuterInput die m s
  | .recordPair die m => Sys2Proof.Machine.execRecordPair die m s
  | .wcBlocks die m => Sys2Proof.Machine.execWcBlocks die m s
  | .ethernetFrameReceive port itf x => Sys2Proof.Machine.execEthernetFrameReceive port itf x s
  | .neighborSolicitation port itf target => Sys2Proof.Machine.execNeighborSolicitation port itf target s
  | .echoRequest port itf dst => Sys2Proof.Machine.execEchoRequest port itf dst s
  | .packetTooBig port itf mtu => Sys2Proof.Machine.execPacketTooBig port itf mtu s
  | .mkaHello port itf peers => Sys2Proof.Machine.execMkaHello port itf peers s
  | .sakRotation port itf keyServer => Sys2Proof.Machine.execSakRotation port itf keyServer s
  | .receiveSaRetire port itf an => Sys2Proof.Machine.execReceiveSaRetire port itf an s
  | .dataSeg port seg => Sys2Proof.Machine.execDataSeg port seg s
  | .ackSeg port seg => Sys2Proof.Machine.execAckSeg port seg s
  | .datagram port seg => Sys2Proof.Machine.execDatagram port seg s
  | .openSeg port seg => Sys2Proof.Machine.execOpenSeg port seg s
  | .openAck port seg => Sys2Proof.Machine.execOpenAck port seg s
  | .closeSeg port seg => Sys2Proof.Machine.execCloseSeg port seg s
  | .openRetry session => Sys2Proof.Machine.execOpenRetry session s
  | .heartbeatTimer session => Sys2Proof.Machine.execHeartbeatTimer session s
  | .heartbeatLoss session => Sys2Proof.Machine.execHeartbeatLoss session s
  | .retransmitTimer session seq => Sys2Proof.Machine.execRetransmitTimer session seq s
  | .ackTimer session => Sys2Proof.Machine.execAckTimer session s
  | .outerDelta session msg => Sys2Proof.Machine.execOuterDelta session msg s
  | .roundClose session msg => Sys2Proof.Machine.execRoundClose session msg s
  | .anchorReq session msg => Sys2Proof.Machine.execAnchorReq session msg s
  | .anchorData session msg => Sys2Proof.Machine.execAnchorData session msg s
  | .ppsEdge edge => Sys2Proof.Machine.execPpsEdge edge s
  | .zdaSentence sentence afterMs => Sys2Proof.Machine.execZdaSentence sentence afterMs s
  | .ppsMissing => Sys2Proof.Machine.execPpsMissing s
  | .tsPacket die stream => Sys2Proof.Machine.execTsPacket die stream s
  | .segmentRead die stream data => Sys2Proof.Machine.execSegmentRead die stream data s
  | .pictureDecode die stream pic => Sys2Proof.Machine.execPictureDecode die stream pic s
  | .clipComplete die pool stream => Sys2Proof.Machine.execClipComplete die pool stream s
  | .bankReady die pool => Sys2Proof.Machine.execBankReady die pool s
  | .bankRelease die pool pass => Sys2Proof.Machine.execBankRelease die pool pass s
  | .streamEnd die stream => Sys2Proof.Machine.execStreamEnd die stream s
  | .engineFault die engine => Sys2Proof.Machine.execEngineFault die engine s
  | .mbxPost p value hostBody => Sys2Proof.Machine.execMbxPost p value hostBody s
  | .mailboxRequestWrite p off data => Sys2Proof.Machine.execMailboxRequestWrite p off data s
  | .mailboxResponse p m hostOk => Sys2Proof.Machine.execMailboxResponse p m hostOk s
  | .mbxDone p value => Sys2Proof.Machine.execMbxDone p value s
  | .hifCtrl p value => Sys2Proof.Machine.execHifCtrl p value s
  | .registerWrite p off size value => Sys2Proof.Machine.execRegisterWrite p off size value s
  | .bar0BadSize p off size isWrite => Sys2Proof.Machine.execBar0BadSize p off size isWrite s
  | .bar4Read p off size => Sys2Proof.Machine.execBar4Read p off size s
  | .bar4Write p off data => Sys2Proof.Machine.execBar4Write p off data s
  | .functionLevelReset p => Sys2Proof.Machine.execFunctionLevelReset p s
  | .linkDown p why => Sys2Proof.Machine.execLinkDown p why s
  | .completionTimeout p req => Sys2Proof.Machine.execCompletionTimeout p req s
  | .primaryFailover => Sys2Proof.Machine.execPrimaryFailover s
  | .doeObject p x => Sys2Proof.Machine.execDoeObject p x s
  | .ideIntegrityFail p stream => Sys2Proof.Machine.execIdeIntegrityFail p stream s
  | .commandAdmit p m => Sys2Proof.Machine.execCommandAdmit p m s
  | .deferralTimeout p m token => Sys2Proof.Machine.execDeferralTimeout p m token s
  | .deferredCommandEnd die token => Sys2Proof.Machine.execDeferredCommandEnd die token s
  | .devInfo c => Sys2Proof.Machine.execDevInfo c s
  | .devBays c => Sys2Proof.Machine.execDevBays c s
  | .devProbes c => Sys2Proof.Machine.execDevProbes c s
  | .devNode c => Sys2Proof.Machine.execDevNode c s
  | .devReset c => Sys2Proof.Machine.execDevReset c s
  | .memWindow c => Sys2Proof.Machine.execMemWindow c s
  | .memDry c => Sys2Proof.Machine.execMemDry c s
  | .memFree c => Sys2Proof.Machine.execMemFree c s
  | .jobCreate c => Sys2Proof.Machine.execJobCreate c s
  | .jobGrant c => Sys2Proof.Machine.execJobGrant c s
  | .jobRevoke c => Sys2Proof.Machine.execJobRevoke c s
  | .jobDestroy c => Sys2Proof.Machine.execJobDestroy c s
  | .jobStatus c => Sys2Proof.Machine.execJobStatus c s
  | .prgStroke c id => Sys2Proof.Machine.execPrgStroke c id s
  | .prgGraph c id => Sys2Proof.Machine.execPrgGraph c id s
  | .prgUnload c => Sys2Proof.Machine.execPrgUnload c s
  | .runStart c id => Sys2Proof.Machine.execRunStart c id s
  | .runStop c => Sys2Proof.Machine.execRunStop c s
  | .runStatus c => Sys2Proof.Machine.execRunStatus c s
  | .runRecord c => Sys2Proof.Machine.execRunRecord c s
  | .runNotify c => Sys2Proof.Machine.execRunNotify c s
  | .atlStream c => Sys2Proof.Machine.execAtlStream c s
  | .atlSubmit c hostData => Sys2Proof.Machine.execAtlSubmit c hostData s
  | .atlPool c => Sys2Proof.Machine.execAtlPool c s
  | .atlAudio c => Sys2Proof.Machine.execAtlAudio c s
  | .atlClose c => Sys2Proof.Machine.execAtlClose c s
  | .atlStatus c => Sys2Proof.Machine.execAtlStatus c s
  | .colSlot c => Sys2Proof.Machine.execColSlot c s
  | .colRead c => Sys2Proof.Machine.execColRead c s
  | .colFree c => Sys2Proof.Machine.execColFree c s
  | .colRoute c => Sys2Proof.Machine.execColRoute c s
  | .colMcast c => Sys2Proof.Machine.execColMcast c s
  | .colGather c => Sys2Proof.Machine.execColGather c s
  | .colLimit c => Sys2Proof.Machine.execColLimit c s
  | .varShard c => Sys2Proof.Machine.execVarShard c s
  | .varInit c hostData => Sys2Proof.Machine.execVarInit c hostData s
  | .varBind c => Sys2Proof.Machine.execVarBind c s
  | .varSchedule c => Sys2Proof.Machine.execVarSchedule c s
  | .varNorm c => Sys2Proof.Machine.execVarNorm c s
  | .varTotals c => Sys2Proof.Machine.execVarTotals c s
  | .varReport c => Sys2Proof.Machine.execVarReport c s
  | .varRollback c => Sys2Proof.Machine.execVarRollback c s
  | .varResolve c => Sys2Proof.Machine.execVarResolve c s
  | .varCounters c => Sys2Proof.Machine.execVarCounters c s
  | .viaPort c => Sys2Proof.Machine.execViaPort c s
  | .viaSessionLoad c => Sys2Proof.Machine.execViaSessionLoad c s
  | .viaSessionOpen c => Sys2Proof.Machine.execViaSessionOpen c s
  | .viaSessionClose c => Sys2Proof.Machine.execViaSessionClose c s
  | .viaOuter c => Sys2Proof.Machine.execViaOuter c s
  | .viaFragments c => Sys2Proof.Machine.execViaFragments c s
  | .viaLog c => Sys2Proof.Machine.execViaLog c s
  | .viaTime c => Sys2Proof.Machine.execViaTime c s
  | .viaStatus c => Sys2Proof.Machine.execViaStatus c s
  | .chkTest c => Sys2Proof.Machine.execChkTest c s
  | .chkThaw c => Sys2Proof.Machine.execChkThaw c s
  | .chkSeal c => Sys2Proof.Machine.execChkSeal c s
  | .chkFreeze c => Sys2Proof.Machine.execChkFreeze c s
  | .chkFaults c => Sys2Proof.Machine.execChkFaults c s
  | .telRead c => Sys2Proof.Machine.execTelRead c s
  | .evtRead c => Sys2Proof.Machine.execEvtRead c s
  | .nonce m fresh => Sys2Proof.Machine.execNonce m fresh s
  | .mgmtStatus m => Sys2Proof.Machine.execMgmtStatus m s
  | .thawHost m => Sys2Proof.Machine.execThawHost m s
  | .setPrimary m => Sys2Proof.Machine.execSetPrimary m s
  | .failStop m => Sys2Proof.Machine.execFailStop m s
  | .fieldTest m => Sys2Proof.Machine.execFieldTest m s
  | .setCak m cakOk => Sys2Proof.Machine.execSetCak m cakOk s
  | .setTai m => Sys2Proof.Machine.execSetTai m s
  | .setNetwork m => Sys2Proof.Machine.execSetNetwork m s
  | .clearRetirement m => Sys2Proof.Machine.execClearRetirement m s
  | .enrollOwner m => Sys2Proof.Machine.execEnrollOwner m s
  | .resetOwner m => Sys2Proof.Machine.execResetOwner m s
  | .updateChunk m => Sys2Proof.Machine.execUpdateChunk m s
  | .updateCommit m ks es => Sys2Proof.Machine.execUpdateCommit m ks es s
  | .advanceFloor m => Sys2Proof.Machine.execAdvanceFloor m s
  | .faultLogFlush => Sys2Proof.Machine.execFaultLogFlush s
  | .porNRise => Sys2Proof.Machine.execPorNRise s
  | .gessoStageEnd g => Sys2Proof.Machine.execGessoStageEnd g s
  | .porNFall => Sys2Proof.Machine.execPorNFall s
  | .railsOkLow => Sys2Proof.Machine.execRailsOkLow s
  | .referenceLoss die => Sys2Proof.Machine.execReferenceLoss die s
  | .domainIdleGate die dom => Sys2Proof.Machine.execDomainIdleGate die dom s
  | .domainWake die dom => Sys2Proof.Machine.execDomainWake die dom s
  | .domainWakeDone die dom => Sys2Proof.Machine.execDomainWakeDone die dom s
  | .clockGate die dom => Sys2Proof.Machine.execClockGate die dom s
  | .thermalEval sensors powerMw dieMw => Sys2Proof.Machine.execThermalEval sensors powerMw dieMw s
  | .avsEval die margin => Sys2Proof.Machine.execAvsEval die margin s
  | .hostLinkUp p rate width flit msix bar4 => Sys2Proof.Machine.execHostLinkUp p rate width flit msix bar4 s
  | .msixVectorUnmask p vector => Sys2Proof.Machine.execMsixVectorUnmask p vector s
  | .bar0LowHalfRead p off => Sys2Proof.Machine.execBar0LowHalfRead p off s
  | .timeErrorLimitExceeded => Sys2Proof.Machine.execTimeErrorLimitExceeded s
  | .taiUtcOffsetChange => Sys2Proof.Machine.execTaiUtcOffsetChange s
  | .mctpControlMessage x => Sys2Proof.Machine.execMctpControlMessage x s
  | .mctpSpdmMessage x => Sys2Proof.Machine.execMctpSpdmMessage x s
  | .slotOpenDone die slot => Sys2Proof.Machine.execSlotOpenDone die slot s

end Sys2Proof.Machine
end

