-- ==== Sys2Proof/Safety.lean ====
section
/-! DEFINITION. What claims call a safe run: no step stops, and the stores and tables keep their canonical form. -/

namespace Sys2Proof.Machine

open Sys2Proof

/-- The state after a stroke's next instruction has completed with registers `r'` and without any other effect: the instruction that
follows is next (04 R104). -/
def State.went (s : State) (b : BayRef) (r' : Running) : State := s.putRunning b { r' with pc := r'.pc + 1 }

/-- A row instruction may run: its roles are bound, its rows lie in the data tensor `x`, its statistics have a place and come from a
legal producer, and the scoreboard has no conflict (07 R170 to R178; 05 R104, R132). -/
def RowReady (s : State) (b : BayRef) (f : Fields) (r : Running) (need rd wr : List Nat) (stats : Nat) (producers : List Nat) (x : Desc) : Prop :=
  r.role (if r.bound 0 then 0 else 3) = some x ∧ (∀ k ∈ need, r.bound k = true) ∧ (r.sreg f.src2).toNat ≠ 0 ∧
  (r.sreg f.src1).toNat + (r.sreg f.src2).toNat ≤ x.rows ∧
  (stats ≠ 0 → r.statOk (r.sreg f.dst).toNat (r.sreg f.src2).toNat = true) ∧
  (stats = 2 → ∀ i, i < (r.sreg f.src2).toNat →
    producers.contains (bitsOf (r.stat s b ((r.sreg f.dst).toNat + i)).2.2 29 27) = true) ∧
  s.free b r (r.rowAccess rd wr x.rows (r.sreg f.src1).toNat (r.sreg f.src2).toNat) = true

/-- The rows of a row instruction one after another: statistics rows from dst, data rows from src1, src2 of them (07 R170). -/
def rowsRun (s : State) (r : Running) (f : Fields) (go : State → Running → Nat → Nat → State × Running) : State × Running :=
  (List.range (r.sreg f.src2).toNat).foldl (fun (a : State × Running) i => go a.1 a.2 ((r.sreg f.dst).toNat + i) ((r.sreg f.src1).toNat + i)) (s, r)

/-- A tile may be issued (04 R93; 05 R118 to R120; 09 R238). -/
def TileReady (s : State) (b : BayRef) (r : Running) (t : Tile) : Prop :=
  s.tileFault b.die r t = none ∧ s.free b r (r.tileAccess t) = true ∧
  ((s.bay b.die b.bay).tiles.filter (·.phase == .waiting)).length < 4 ∧
  (s.bay b.die b.bay).fillingFor s.mem (r.desc t.a) = false ∧ (s.bay b.die b.bay).fillingFor s.mem (r.desc t.b) = false

/-- A mover takes a request `q`, its indices resolved: the mover is the group's and its power domain is on, the request is legal, in
the group and in the job's grants, the bounce it needs fits, its sources may be read, and there is no conflict, the index tensor's
included (05 R124; 04 R98, R100, R104, R109; 08 R206 to R213). -/
def MvReady (s : State) (b : BayRef) (r : Running) (mv : Nat) (q : MvReq) : Prop :=
  s.mvTakes b mv = true ∧ s.domOn b.die (bgDom (s.lgroupOf b.die b.bay)) = true ∧
  s.free b r (accessOf false (q.ready s.mem).idxReads) = true ∧ q.fault s.mem = none ∧
  ((q.ready s.mem).access.any fun x => dpaOnDie x.1 && s.lgroupOf b.die (dpaBay x.1) != s.lgroupOf b.die b.bay) = false ∧
  s.mvGranted r.inst.job (q.ready s.mem).access = true ∧ s.free b r (q.ready s.mem).access = true ∧
  s.mvAccFault b.die r.inst.step (q.ready s.mem) = none ∧ (q.ready s.mem).needBounce ≤ 64 * 2 ^ 20 ∧
  s.mvReadable b r.seq (q.op != 0xA1) ((q.ready s.mem).src.accessAt (q.ready s.mem).srcPos) = true ∧
  s.mvReadable b r.seq true (q.ready s.mem).idxReads = true

/-- A graph's node may execute: the part runs, the run is active and not held, its node is of the kind, and CTL is on (05 R136). -/
def NodeReady (s : State) (die run kind : Nat) : Prop :=
  s.live = true ∧ (mget (s.die die).runs run).isSome = true ∧ (s.run die run).active = true ∧ (s.run die run).held = false ∧
  (s.node die run).kind = kind ∧ s.domOn die 1 = true

/-- A message of a type reaches this part as the next of its channel, undamaged and with a body of legal form (14 R364 to R366). -/
def MsgReady (s : State) (die kind : Nat) (m : SpanMsg) (bodyOk : Bool) : Prop :=
  s.live = true ∧ m.kind = kind ∧ die < s.dieCount ∧ s.part.node.isSome = true ∧ m.ecrcOk = true ∧
  (vcOf kind = 0 ∨ vcOf kind = 2 → m.seq = mgetD 0 s.span.expect (chanKey m.src (vcOf kind))) ∧ bodyOk = true ∧ m.flags < 4

/-- A command of a group and number is admitted and next in its order, and neither a fence, its body, its authority nor a full table of
deferred commands stands against it; `t` is the state when it has left its queue (17 R430 to R436). -/
def CmdReady (s : State) (x : CmdRef) (g n : Nat) (c : Cmd) (t : State) (p : Cmd → Bool := fun _ => true) : Prop :=
  (s.part.state = 2 ∨ s.part.state = 3) ∧ x.port < 2 ∧ s.waiting x g n p = some c ∧ s.mayRun c = true ∧ t = s.taken x c ∧
  (t.hostFenced c.port = true → fencedOk g n = true) ∧ c.hostErr = false ∧
  ∃ r, cmdRow g n = some r ∧ t.authority c r = .ok () ∧ (r.defers = true → (t.die c.die).deferred.length < 64)

/-- Every field of a list holds. -/
def AllHold (l : List (Bool × Nat)) : Prop := ∀ f ∈ l, f.1 = true

end Sys2Proof.Machine

namespace Sys2Proof

open Sys2Proof.Machine

/-- One step answers a next state. -/
def StepsTo (s t : State) : Prop := step s = .next t

/-- A number of steps, each of which answers a next state. -/
def RunsTo : Nat → State → State → Prop
  | 0, s, t => s = t
  | n + 1, s, t => ∃ u, StepsTo s u ∧ RunsTo n u t

/-- A run is safe where every one of its steps answers a next state and the stores stay canonical. -/
def SafeFor (n : Nat) (s : State) : Prop := ∀ m, m ≤ n → ∃ t, RunsTo m s t ∧ t.mem.wf = true

end Sys2Proof
end

