-- ==== Sys2Proof/Certificates/Slice0/Obligations.lean ====
section
/-! DEFINITION. The statements about the model, for the provers: what each command does, what it leaves, and what every step keeps. -/

open Sys2Proof Sys2Proof.Machine

/-- FP32 lane instructions: every selected lane takes its result (R149, R150, R151, R152, R116). The canonical NaN of a strict VMIN or VMAX whose
operands are NaN only is the model's choice (log 26). -/
def Obligations.FloatLaneInstructionsComplete : Prop :=
  ∀ (b : BayRef) (f : Fields) (s : State) (r : Running), 
    (s.atStroke b 0x20 f = some r → exec (.vadd b f) s = .next (s.went b (r.flanes f (modOf false f) fun l => fadd (modStrict (modOf false f)) (modRnd (modOf false f)) (r.lane f.src1 l) (r.lane f.src2 l)))) ∧
    (s.atStroke b 0x21 f = some r → exec (.vsub b f) s = .next (s.went b (r.flanes f (modOf false f) fun l => fsub (modStrict (modOf false f)) (modRnd (modOf false f)) (r.lane f.src1 l) (r.lane f.src2 l)))) ∧
    (s.atStroke b 0x22 f = some r → exec (.vmul b f) s = .next (s.went b (r.flanes f (modOf false f) fun l => fmul (modStrict (modOf false f)) (modRnd (modOf false f)) (r.lane f.src1 l) (r.lane f.src2 l)))) ∧
    (s.atStroke b 0x23 f = some r → exec (.vfma b f) s = .next (s.went b (r.flanes f (modOf true f) fun l => ffma (modStrict (modOf true f)) (modRnd (modOf true f)) (r.lane f.src1 l) (r.lane f.src2 l) (r.lane f.src3 l)))) ∧
    (s.atStroke b 0x24 f = some r → exec (.vfnma b f) s = .next (s.went b (r.flanes f (modOf true f) fun l => ffnma (modStrict (modOf true f)) (modRnd (modOf true f)) (r.lane f.src1 l) (r.lane f.src2 l) (r.lane f.src3 l)))) ∧
    (s.atStroke b 0x25 f = some r → exec (.vmin b f) s = .next (s.went b (r.flanes f (modOf false f) fun l => fminN (modStrict (modOf false f)) (r.lane f.src1 l) (r.lane f.src2 l)))) ∧
    (s.atStroke b 0x26 f = some r → exec (.vmax b f) s = .next (s.went b (r.flanes f (modOf false f) fun l => fmaxN (modStrict (modOf false f)) (r.lane f.src1 l) (r.lane f.src2 l)))) ∧
    (s.atStroke b 0x27 f = some r → exec (.vabs b f) s = .next (s.went b (r.flanes f (modOf false f) fun l => (fabs (r.lane f.src1 l), {})))) ∧
    (s.atStroke b 0x28 f = some r → exec (.vneg b f) s = .next (s.went b (r.flanes f (modOf false f) fun l => (fneg (r.lane f.src1 l), {})))) ∧
    (s.atStroke b 0x29 f = some r → exec (.vrcp b f) s = .next (s.went b (r.flanes f (modOf false f) fun l => vrcp (modStrict (modOf false f)) (modRnd (modOf false f)) (r.lane f.src1 l)))) ∧
    (s.atStroke b 0x2A f = some r → exec (.vrsqrt b f) s = .next (s.went b (r.flanes f (modOf false f) fun l => vrsqrt (modStrict (modOf false f)) (modRnd (modOf false f)) (r.lane f.src1 l))))

/-- Integer lane instructions: wrap, saturate, compare, shift and broadcast (R154, R116). -/
def Obligations.IntegerLaneInstructionsComplete : Prop :=
  ∀ (b : BayRef) (f : Fields) (s : State) (r : Running), 
    (s.atStroke b 0x30 f = some r → exec (.viadd b f) s = .next (s.went b (r.lanes f (modOf false f) fun l => (r.lane f.src1 l) + (r.lane f.src2 l)))) ∧
    (s.atStroke b 0x31 f = some r → exec (.visub b f) s = .next (s.went b (r.lanes f (modOf false f) fun l => (r.lane f.src1 l) - (r.lane f.src2 l)))) ∧
    (s.atStroke b 0x32 f = some r → exec (.vimul b f) s = .next (s.went b (r.lanes f (modOf false f) fun l => (r.lane f.src1 l) * (r.lane f.src2 l)))) ∧
    (s.atStroke b 0x33 f = some r → exec (.viadds b f) s = .next (s.went b (r.lanes f (modOf false f) fun l => isat ((r.lane f.src1 l).toInt + (r.lane f.src2 l).toInt)))) ∧
    (s.atStroke b 0x34 f = some r → exec (.visubs b f) s = .next (s.went b (r.lanes f (modOf false f) fun l => isat ((r.lane f.src1 l).toInt - (r.lane f.src2 l).toInt)))) ∧
    (s.atStroke b 0x35 f = some r → exec (.vimin b f) s = .next (s.went b (r.lanes f (modOf false f) fun l => if (r.lane f.src1 l).sle (r.lane f.src2 l) then (r.lane f.src1 l) else (r.lane f.src2 l)))) ∧
    (s.atStroke b 0x36 f = some r → exec (.vimax b f) s = .next (s.went b (r.lanes f (modOf false f) fun l => if (r.lane f.src2 l).sle (r.lane f.src1 l) then (r.lane f.src1 l) else (r.lane f.src2 l)))) ∧
    (s.atStroke b 0x37 f = some r → exec (.vand b f) s = .next (s.went b (r.lanes f (modOf false f) fun l => (r.lane f.src1 l) &&& (r.lane f.src2 l)))) ∧
    (s.atStroke b 0x38 f = some r → exec (.vor b f) s = .next (s.went b (r.lanes f (modOf false f) fun l => (r.lane f.src1 l) ||| (r.lane f.src2 l)))) ∧
    (s.atStroke b 0x39 f = some r → exec (.vxor b f) s = .next (s.went b (r.lanes f (modOf false f) fun l => (r.lane f.src1 l) ^^^ (r.lane f.src2 l)))) ∧
    (s.atStroke b 0x3A f = some r → exec (.vshl b f) s = .next (s.went b (r.lanes f (modOf false f) fun l => (r.lane f.src1 l) <<< ((r.lane f.src2 l).toNat % 32)))) ∧
    (s.atStroke b 0x3B f = some r → exec (.vshr b f) s = .next (s.went b (r.lanes f (modOf false f) fun l => (r.lane f.src1 l) >>> ((r.lane f.src2 l).toNat % 32)))) ∧
    (s.atStroke b 0x3C f = some r → exec (.vsra b f) s = .next (s.went b (r.lanes f (modOf false f) fun l => (r.lane f.src1 l).sshiftRight ((r.lane f.src2 l).toNat % 32)))) ∧
    (s.atStroke b 0x3E f = some r → exec (.vbci b f) s = .next (s.went b (r.lanes f (modOf false f) fun _ => f.imm))) ∧
    (s.atStroke b 0x3F f = some r → exec (.vbcs b f) s = .next (s.went b (r.lanes f (modOf false f) fun _ => r.sreg f.src1)))

/-- Compares, selections and predicate instructions complete (R148, R149, R153, R156). -/
def Obligations.PredicateInstructionsComplete : Prop :=
  ∀ (b : BayRef) (f : Fields) (s : State) (r : Running), 
    (s.atStroke b 0x2B f = some r → exec (.vcmp b f) s = .next (s.went b (((r.plane f (modOf false f) fun l => (fcmp (modStrict (modOf false f)) (f.imm.toNat % 8) (r.lane f.src1 l) (r.lane f.src2 l)).1).raise
      (modStrict (modOf false f)) (excSum ((List.range 64).map fun l =>
        if r.on (modOf false f) l then (fcmp (modStrict (modOf false f)) (f.imm.toNat % 8) (r.lane f.src1 l) (r.lane f.src2 l)).2 else {})))))) ∧
    (s.atStroke b 0x2C f = some r → exec (.vsel b f) s = .next (s.went b (r.lanes f (modOf true f) fun l => if (r.preg f.src3.toNat).getLsbD l then r.lane f.src1 l else r.lane f.src2 l))) ∧
    (s.atStroke b 0x3D f = some r → exec (.vicmp b f) s = .next (s.went b (r.plane f (modOf false f) fun l => icmp (f.imm.toNat % 8) (r.lane f.src1 l) (r.lane f.src2 l)))) ∧
    (s.atStroke b 0x58 f = some r → exec (.prange b f) s = .next (s.went b (r.plane f 0 fun l => decide (l < (r.sreg f.src1).toNat)))) ∧
    (s.atStroke b 0x59 f = some r → exec (.pcount b f) s = .next (s.went b (r.setS f.dst (BitVec.ofNat 32 ((List.range 64).countP fun l => (r.preg f.src1.toNat).getLsbD l))))) ∧
    (s.atStroke b 0x57 f = some r → exec (.plogic b f) s = .next (s.went b (r.plane f (modOf false f) fun l =>
      (plogicOf (f.imm.toNat % 4) (r.preg f.src1.toNat) (r.preg f.src2.toNat)).getLsbD l)))

/-- Scalar instructions write one s register (R155). -/
def Obligations.ScalarInstructionsComplete : Prop :=
  ∀ (b : BayRef) (f : Fields) (s : State) (r : Running), 
    (s.atStroke b 0x40 f = some r → exec (.smovi b f) s = .next (s.went b (r.setS f.dst (f.imm)))) ∧
    (s.atStroke b 0x41 f = some r → exec (.saddi b f) s = .next (s.went b (r.setS f.dst (r.sreg f.src1 + f.imm)))) ∧
    (s.atStroke b 0x42 f = some r → exec (.sadd b f) s = .next (s.went b (r.setS f.dst ((r.sreg f.src1) + (r.sreg f.src2))))) ∧
    (s.atStroke b 0x43 f = some r → exec (.ssub b f) s = .next (s.went b (r.setS f.dst ((r.sreg f.src1) - (r.sreg f.src2))))) ∧
    (s.atStroke b 0x44 f = some r → exec (.smul b f) s = .next (s.went b (r.setS f.dst ((r.sreg f.src1) * (r.sreg f.src2))))) ∧
    (s.atStroke b 0x45 f = some r → exec (.sand b f) s = .next (s.went b (r.setS f.dst ((r.sreg f.src1) &&& (r.sreg f.src2))))) ∧
    (s.atStroke b 0x46 f = some r → exec (.sor b f) s = .next (s.went b (r.setS f.dst ((r.sreg f.src1) ||| (r.sreg f.src2))))) ∧
    (s.atStroke b 0x47 f = some r → exec (.sxor b f) s = .next (s.went b (r.setS f.dst ((r.sreg f.src1) ^^^ (r.sreg f.src2))))) ∧
    (s.atStroke b 0x48 f = some r → exec (.sshl b f) s = .next (s.went b (r.setS f.dst ((r.sreg f.src1) <<< (f.imm.toNat % 32))))) ∧
    (s.atStroke b 0x49 f = some r → exec (.sshr b f) s = .next (s.went b (r.setS f.dst ((r.sreg f.src1) >>> (f.imm.toNat % 32))))) ∧
    (s.atStroke b 0x4A f = some r → exec (.sfadd b f) s = .next (s.went b ((r.setS f.dst (fadd (modStrict (modOf false f)) (modRnd (modOf false f)) (r.sreg f.src1) (r.sreg f.src2)).1).raise (modStrict (modOf false f)) (fadd (modStrict (modOf false f)) (modRnd (modOf false f)) (r.sreg f.src1) (r.sreg f.src2)).2))) ∧
    (s.atStroke b 0x4B f = some r → exec (.sfmul b f) s = .next (s.went b ((r.setS f.dst (fmul (modStrict (modOf false f)) (modRnd (modOf false f)) (r.sreg f.src1) (r.sreg f.src2)).1).raise (modStrict (modOf false f)) (fmul (modStrict (modOf false f)) (modRnd (modOf false f)) (r.sreg f.src1) (r.sreg f.src2)).2))) ∧
    (s.atStroke b 0x4C f = some r → exec (.sffma b f) s = .next (s.went b ((r.setS f.dst (ffma (modStrict (modOf true f)) (modRnd (modOf true f)) (r.sreg f.src1) (r.sreg f.src2) (r.sreg f.src3)).1).raise (modStrict (modOf true f)) (ffma (modStrict (modOf true f)) (modRnd (modOf true f)) (r.sreg f.src1) (r.sreg f.src2) (r.sreg f.src3)).2))) ∧
    (s.atStroke b 0x4D f = some r → exec (.sfmin b f) s = .next (s.went b ((r.setS f.dst (fminN (modStrict (modOf false f)) (r.sreg f.src1) (r.sreg f.src2)).1).raise (modStrict (modOf false f)) (fminN (modStrict (modOf false f)) (r.sreg f.src1) (r.sreg f.src2)).2))) ∧
    (s.atStroke b 0x4E f = some r → exec (.sfmax b f) s = .next (s.went b ((r.setS f.dst (fmaxN (modStrict (modOf false f)) (r.sreg f.src1) (r.sreg f.src2)).1).raise (modStrict (modOf false f)) (fmaxN (modStrict (modOf false f)) (r.sreg f.src1) (r.sreg f.src2)).2))) ∧
    (s.atStroke b 0x4F f = some r → exec (.vext b f) s = .next (s.went b (r.setS f.dst (r.lane f.src1 (f.imm.toNat % 64)))))

/-- Lane reductions, permutes and random numbers complete (R156, R157, R158, R159). The canonical NaN of a strict reduction over NaN lanes is the
model's choice (log 26). -/
def Obligations.ReductionsPermutesAndRandomComplete : Prop :=
  ∀ (b : BayRef) (f : Fields) (s : State) (r : Running), 
    (s.atStroke b 0x50 f = some r → exec (.vrsum b f) s = .next (s.went b ((r.setS f.dst (vrsum (modStrict (modOf false f)) (modRnd (modOf false f)) (r.included f)).1).raise (modStrict (modOf false f)) (vrsum (modStrict (modOf false f)) (modRnd (modOf false f)) (r.included f)).2))) ∧
    (s.atStroke b 0x51 f = some r → exec (.vrmax b f) s = .next (s.went b ((r.setS f.dst (vrpick (fmaxN (modStrict (modOf false f))) 0xFF800000#32 (r.included f)).1).raise (modStrict (modOf false f)) (vrpick (fmaxN (modStrict (modOf false f))) 0xFF800000#32 (r.included f)).2))) ∧
    (s.atStroke b 0x52 f = some r → exec (.vrmin b f) s = .next (s.went b ((r.setS f.dst (vrpick (fminN (modStrict (modOf false f))) 0x7F800000#32 (r.included f)).1).raise (modStrict (modOf false f)) (vrpick (fminN (modStrict (modOf false f))) 0x7F800000#32 (r.included f)).2))) ∧
    (s.atStroke b 0x53 f = some r → exec (.vramax b f) s = .next (s.went b ((r.setS f.dst (vrpick (fmaxN (modStrict (modOf false f))) 0#32 ((r.included f).map fabs)).1).raise (modStrict (modOf false f)) (vrpick (fmaxN (modStrict (modOf false f))) 0#32 ((r.included f).map fabs)).2))) ∧
    (s.atStroke b 0x54 f = some r → exec (.vrisum b f) s = .next (s.went b (r.setS f.dst ((r.included f).foldl (· + ·) 0#32)))) ∧
    (s.atStroke b 0x55 f = some r → exec (.vperm b f) s = .next (s.went b (r.lanes f (modOf false f) fun l => r.lane f.src1 ((r.lane f.src2 l).toNat % 64)))) ∧
    (s.atStroke b 0x56 f = some r → exec (.vrot b f) s = .next (s.went b (r.lanes f (modOf false f) fun l => r.lane f.src1 ((l + f.imm.toNat) % 64)))) ∧
    (s.atStroke b 0x5C f = some r → exec (.rng b f) s = .next (s.went b (r.lanes f (modOf true f) fun l => rngLane (r.sreg f.src1) (r.sreg f.src2) (r.sreg f.src3) l))) ∧
    (s.atStroke b 0x5D f = some r → exec (.rngU b f) s = .next (s.went b (r.lanes f (modOf true f) fun l => rngUnit (rngLane (r.sreg f.src1) (r.sreg f.src2) (r.sreg f.src3) l))))

/-- NOP, SEAL, LD.ARG and the summaries complete (R129, R130, R134). -/
def Obligations.SequencerInstructionsComplete : Prop :=
  ∀ (b : BayRef) (f : Fields) (s : State) (r : Running), 
    (s.atStroke b 0x00 f = some r → exec (.nop b f) s = .next (s.went b (r))) ∧
    (s.atStroke b 0x0F f = some r → exec (.seal b f) s = .next (s.went b ({ r with issued := true, tag := f.imm.toNat % 65536 }))) ∧
    (s.atStroke b 0x95 f = some r → exec (.ldArg b f) s = .next (s.went b (r.setS f.dst (BitVec.ofNat 32 (at' 0 r.inst.args (f.imm.toNat % 8)))))) ∧
    (s.atStroke b 0xC8 f = some r → exec (.sum b f) s = .next (s.went b (r.summary f (r.sreg f.src1).toNat))) ∧
    (s.atStroke b 0xC9 f = some r ∧ s.settled b r (r.desc (f.imm.toNat >>> 8 % 256)) = true → exec (.sumH b f) s = .next (s.went b
      (r.summary f (at' 0 (mgetD Hist.empty r.hists (f.imm.toNat >>> 8 % 256)).words (f.imm.toNat >>> 16 % 4096))))) ∧
    (s.atStroke b 0xCA f = some r ∧ s.drained b r = true → exec (.sumX b f) s = .next (s.went b
      (r.summary f (if f.imm.toNat >>> 8 % 8 = 4 then r.strictFlags else at' 0 r.exc (f.imm.toNat >>> 8 % 8)))))

/-- LD and LD.S load elements, side bytes and words (R122, R123, R116). -/
def Obligations.LoadsComplete : Prop :=
  ∀ (b : BayRef) (f : Fields) (s : State) (r : Running), 
    (s.atStroke b 0x90 f = some r ∧
      f.imm.toNat.testBit 8 = false ∧
      (r.desc (f.imm.toNat % 256)).moveFault (r.sreg f.src1).toNat = none ∧
      s.free b r (accessOf false ((r.desc (f.imm.toNat % 256)).access ((r.sreg f.src1).toNat + (elemsOf (r.desc (f.imm.toNat % 256)).fmt (r.moved (modOf false f) (r.desc (f.imm.toNat % 256)).fmt)).1) ((elemsOf (r.desc (f.imm.toNat % 256)).fmt (r.moved (modOf false f) (r.desc (f.imm.toNat % 256)).fmt)).2 - (elemsOf (r.desc (f.imm.toNat % 256)).fmt (r.moved (modOf false f) (r.desc (f.imm.toNat % 256)).fmt)).1))) = true →
      exec (.ld b f) s = .next (s.went b (r.lanes f (modOf false f) fun l => (r.desc (f.imm.toNat % 256)).loadWord s.mem (r.sreg f.src1).toNat l))) ∧
    (s.atStroke b 0x90 f = some r ∧
      f.imm.toNat.testBit 8 = true ∧
      (∀ l ∈ r.sideLanes (modOf false f), (r.sreg f.src1).toNat / 32 + l < (r.desc (f.imm.toNat % 256)).blocks) ∧
      s.free b r (accessOf false (hull ((r.sideLanes (modOf false f)).map fun l => ((r.desc (f.imm.toNat % 256)).sideAddr ((r.sreg f.src1).toNat / 32 + l), 1)))) = true →
      exec (.ld b f) s = .next (s.went b (r.lanes f (modOf false f) fun l => BitVec.ofNat 32 ((r.desc (f.imm.toNat % 256)).rdSide s.mem ((r.sreg f.src1).toNat / 32 + l))))) ∧
    (s.atStroke b 0x91 f = some r ∧
      (r.desc (f.imm.toNat % 256)).wordFault (r.sreg f.src1).toNat = none ∧
      s.free b r (accessOf false ((r.desc (f.imm.toNat % 256)).access (r.sreg f.src1).toNat 1)) = true →
      exec (.ldS b f) s = .next (s.went b (r.setS f.dst (BitVec.ofNat 32 ((r.desc (f.imm.toNat % 256)).rd s.mem (r.sreg f.src1).toNat)))))

/-- ST and ST.S store elements, side bytes and words, counted into the record (R122, R123, R81). -/
def Obligations.StoresComplete : Prop :=
  ∀ (b : BayRef) (f : Fields) (s : State) (r : Running), 
    (s.atStroke b 0x98 f = some r ∧
      f.imm.toNat.testBit 8 = false ∧
      (r.desc (f.imm.toNat % 256)).moveFault (r.sreg f.src2).toNat = none ∧
      s.free b r (accessOf true ((r.desc (f.imm.toNat % 256)).access ((r.sreg f.src2).toNat + (elemsOf (r.desc (f.imm.toNat % 256)).fmt (r.moved (modOf false f) (r.desc (f.imm.toNat % 256)).fmt)).1) ((elemsOf (r.desc (f.imm.toNat % 256)).fmt (r.moved (modOf false f) (r.desc (f.imm.toNat % 256)).fmt)).2 - (elemsOf (r.desc (f.imm.toNat % 256)).fmt (r.moved (modOf false f) (r.desc (f.imm.toNat % 256)).fmt)).1))) = true →
      exec (.st b f) s = .next (({ s with mem := (r.storeBytes f.src1 (r.desc (f.imm.toNat % 256)) s.mem (r.sreg f.src2).toNat (r.moved (modOf false f) (r.desc (f.imm.toNat % 256)).fmt)) } : State).went b (r.countElems (f.imm.toNat % 256) (r.storeBytes f.src1 (r.desc (f.imm.toNat % 256)) s.mem (r.sreg f.src2).toNat (r.moved (modOf false f) (r.desc (f.imm.toNat % 256)).fmt)) ((((List.range ((elemsOf (r.desc (f.imm.toNat % 256)).fmt (r.moved (modOf false f) (r.desc (f.imm.toNat % 256)).fmt)).2 - (elemsOf (r.desc (f.imm.toNat % 256)).fmt (r.moved (modOf false f) (r.desc (f.imm.toNat % 256)).fmt)).1)).map (· + (elemsOf (r.desc (f.imm.toNat % 256)).fmt (r.moved (modOf false f) (r.desc (f.imm.toNat % 256)).fmt)).1)).filter fun x => (r.moved (modOf false f) (r.desc (f.imm.toNat % 256)).fmt).contains (x * elemBits (r.desc (f.imm.toNat % 256)).fmt / 8)).map ((r.sreg f.src2).toNat + ·))))) ∧
    (s.atStroke b 0x98 f = some r ∧
      f.imm.toNat.testBit 8 = true ∧
      (∀ l ∈ r.sideLanes (modOf false f), (r.sreg f.src2).toNat / 32 + l < (r.desc (f.imm.toNat % 256)).blocks) ∧
      s.free b r (accessOf true (hull ((r.sideLanes (modOf false f)).map fun l => ((r.desc (f.imm.toNat % 256)).sideAddr ((r.sreg f.src2).toNat / 32 + l), 1)))) = true →
      exec (.st b f) s = .next (({ s with mem := (r.sideLanes (modOf false f)).foldl (fun m l => (r.desc (f.imm.toNat % 256)).wrSide m ((r.sreg f.src2).toNat / 32 + l) ((r.lane f.src1 l).toNat % 256)) s.mem } : State).went b (r))) ∧
    (s.atStroke b 0x99 f = some r ∧
      (r.desc (f.imm.toNat % 256)).wordFault (r.sreg f.src2).toNat = none ∧
      s.free b r (accessOf true ((r.desc (f.imm.toNat % 256)).access (r.sreg f.src2).toNat 1)) = true →
      exec (.stS b f) s = .next (({ s with mem := ((r.desc (f.imm.toNat % 256)).wr s.mem (r.sreg f.src2).toNat (r.sreg f.src1).toNat) } : State).went b (r.countElems (f.imm.toNat % 256) ((r.desc (f.imm.toNat % 256)).wr s.mem (r.sreg f.src2).toNat (r.sreg f.src1).toNat) [(r.sreg f.src2).toNat])))

/-- BXA.V and BXA.T accumulate values into BX64 blocks once (R128, R49, R248). -/
def Obligations.BlockAccumulateStoresComplete : Prop :=
  ∀ (b : BayRef) (f : Fields) (s : State) (r : Running), 
    (s.atStroke b 0xC0 f = some r ∧
      s.accFault b.die r.inst.step (r.desc (f.imm.toNat % 256)) (r.sreg f.src2).toNat 64 = none ∧
      s.free b r (accessOf true ((r.desc (f.imm.toNat % 256)).access (r.sreg f.src2).toNat 64)) = true ∧
      r.already = false →
      exec (.bxaV b f) s = .next (State.went (s.accRange b.die (r.desc (f.imm.toNat % 256)) (r.sreg f.src2).toNat 64
        (fun _ x => fpVal (if r.on (modOf false f) (x - (r.sreg f.src2).toNat) then r.lane f.src1 (x - (r.sreg f.src2).toNat) else 0#32)) fun _ _ vs => bxAnchor vs != 0) b (r.accMark r.pc))) ∧
    (s.atStroke b 0xC0 f = some r ∧
      r.already = true →
      exec (.bxaV b f) s = .next (s.went b (r))) ∧
    (s.atStroke b 0xC1 f = some r ∧
      (r.sreg f.src1).toNat + (r.sreg f.src2).toNat ≤ (r.desc (f.imm.toNat >>> 8 % 256)).count ∧
      s.accFault b.die r.inst.step (r.desc (f.imm.toNat % 256)) (r.sreg f.src1).toNat (r.sreg f.src2).toNat = none ∧
      s.free b r (accessOf true ((r.desc (f.imm.toNat % 256)).access (r.sreg f.src1).toNat (r.sreg f.src2).toNat) ++ accessOf false ((r.desc (f.imm.toNat >>> 8 % 256)).access (r.sreg f.src1).toNat (r.sreg f.src2).toNat)) = true ∧
      r.already = false →
      exec (.bxaT b f) s = .next (State.went (s.accRange b.die (r.desc (f.imm.toNat % 256)) (r.sreg f.src1).toNat (r.sreg f.src2).toNat (r.desc (f.imm.toNat >>> 8 % 256)).valAt fun m ps vs =>
          if (r.desc (f.imm.toNat >>> 8 % 256)).fmt = 10 then ps.any fun x => (r.desc (f.imm.toNat >>> 8 % 256)).rdSide m ((r.desc (f.imm.toNat >>> 8 % 256)).blockOf x) != 0 else bxAnchor vs != 0) b
        ((r.accMark r.pc).raise false { inv := (r.desc (f.imm.toNat >>> 8 % 256)).reservedAt s.mem ((List.range (r.sreg f.src2).toNat).map ((r.sreg f.src1).toNat + ·)) }))) ∧
    (s.atStroke b 0xC1 f = some r ∧
      r.already = true →
      exec (.bxaT b f) s = .next (s.went b (r)))

/-- The table look-ups: built-in functions, loading a bank, using it (R165, R166, R167, R168, R169). -/
def Obligations.LookUpInstructionsComplete : Prop :=
  ∀ (b : BayRef) (f : Fields) (s : State) (r : Running), 
    (s.atStroke b 0x60 f = some r →
      exec (.lutExp2 b f) s = .next (s.went b (r.flanes f (modOf false f) fun l => (lutExp2 (f.imm.toNat.testBit 0) (r.lane f.src1 l),
        lutExc false true (r.lane f.src1 l) (lutExp2 (f.imm.toNat.testBit 0) (r.lane f.src1 l)))))) ∧
    (s.atStroke b 0x61 f = some r →
      exec (.lutLog2 b f) s = .next (s.went b (r.flanes f (modOf false f) fun l => (lutLog2 (f.imm.toNat.testBit 0) (r.lane f.src1 l),
        lutExc true false (r.lane f.src1 l) (lutLog2 (f.imm.toNat.testBit 0) (r.lane f.src1 l)))))) ∧
    (s.atStroke b 0x62 f = some r →
      exec (.lutRcp b f) s = .next (s.went b (r.flanes f (modOf false f) fun l => (lutRcp (f.imm.toNat.testBit 0) (r.lane f.src1 l),
        lutExc true true (r.lane f.src1 l) (lutRcp (f.imm.toNat.testBit 0) (r.lane f.src1 l)))))) ∧
    (s.atStroke b 0x63 f = some r →
      exec (.lutSig b f) s = .next (s.went b (r.flanes f (modOf false f) fun l => (lutSig (f.imm.toNat.testBit 0) (r.lane f.src1 l),
        lutExc false true (r.lane f.src1 l) (lutSig (f.imm.toNat.testBit 0) (r.lane f.src1 l)))))) ∧
    (s.atStroke b 0x64 f = some r →
      exec (.lutTanh b f) s = .next (s.went b (r.flanes f (modOf false f) fun l => (lutTanh (f.imm.toNat.testBit 0) (r.lane f.src1 l),
        lutExc false false (r.lane f.src1 l) (lutTanh (f.imm.toNat.testBit 0) (r.lane f.src1 l)))))) ∧
    (s.atStroke b 0x68 f = some r ∧
      s.free b r (accessOf false ((r.desc (f.imm.toNat >>> 16 % 256)).access 0 (f.imm.toNat >>> 4 % 512 + (if f.imm.toNat.testBit 2 then 2 else 1)))) = true →
      exec (.lutLd b f) s = .next (s.went b ({ r with luts := setAt r.luts (f.imm.toNat % 4) (some ⟨f.imm.toNat >>> 4 % 512, f.imm.toNat.testBit 3, f.imm.toNat.testBit 2,
        r.sreg f.src1, r.sreg f.src2, (List.range (f.imm.toNat >>> 4 % 512 + (if f.imm.toNat.testBit 2 then 2 else 1))).map fun p => BitVec.ofNat 32 ((r.desc (f.imm.toNat >>> 16 % 256)).rd s.mem p)⟩) }))) ∧
    (∀ t, s.atStroke b 0x69 f = some r ∧ at' none r.luts (f.imm.toNat % 4) = some t →
      exec (.lutUsr b f) s = .next (s.went b (r.flanes f (modOf false f) fun l =>
        (lutUser t (r.lane f.src1 l), lutExc false false (r.lane f.src1 l) (lutUser t (r.lane f.src1 l))))))

/-- Conversions, tensor scales and the sketch instruction complete (R160, R161, R162, R163, R79). What XSIDE counts for a reserved sub-code, and what
a numeric block gives against the scale byte 0xFF, are the model's choices (log 26). -/
def Obligations.ConversionsComplete : Prop :=
  ∀ (b : BayRef) (f : Fields) (s : State) (r : Running), 
    (s.atStroke b 0x70 f = some r →
      exec (.cvt b f) s = .next (s.went b (r.cvt f))) ∧
    (s.atStroke b 0x71 f = some r ∧
      (∀ y ∈ ((r.xsource f).zipIdx.map fun (v, k) => xblockOf (f.imm.toNat % 16) ((r.lane f.src3 (f.imm.toNat >>> 26 + k)).toNat % 256) r.tdst v), y.2.2 = false) →
      exec (.xcvt b f) s = .next (s.went b ((r.setV f.dst (codesReg (f.imm.toNat % 16) (execXcvt.splice' (regCodes (f.imm.toNat % 16) (r.vreg f.dst))
        (f.imm.toNat >>> 16 % 16 * groupSize (f.imm.toNat >>> 4 % 16) (f.imm.toNat % 16)) (((r.xsource f).zipIdx.map fun (v, k) => xblockOf (f.imm.toNat % 16) ((r.lane f.src3 (f.imm.toNat >>> 26 + k)).toNat % 256) r.tdst v).flatMap (·.1))))).raise false
        (excSum (((r.xsource f).zipIdx.map fun (v, k) => xblockOf (f.imm.toNat % 16) ((r.lane f.src3 (f.imm.toNat >>> 26 + k)).toNat % 256) r.tdst v).map (·.2.1)))))) ∧
    (s.atStroke b 0x72 f = some r →
      exec (.xside b f) s = .next (s.went b ((r.setV f.dst (((r.xsource f).map fun v => if f.imm.toNat % 16 = 10 then bxAnchor v.1 else mxScale (f.imm.toNat % 16) r.tdst v.1).zipIdx.foldl
        (fun x (sd, k) => setAt x (f.imm.toNat >>> 26 + k) (BitVec.ofNat 32 sd)) (r.vreg f.dst))).raise false (excSum ((r.xsource f).map fun v => if v.2 then { inv := v.1.length } else {}))))) ∧
    (s.atStroke b 0x73 f = some r ∧
      (r.sreg f.src1 = 0#32 ∨ tsOk (r.sreg f.src1) = true) →
      exec (.tscSet b f) s = .next (s.went b (if f.imm.toNat.testBit 0 then { r with tdst := r.sreg f.src1 } else { r with tsrc := r.sreg f.src1 }))) ∧
    (s.atStroke b 0x74 f = some r ∧
      isNaN (fabs (r.sreg f.src1)) = false ∧
      isInf (fabs (r.sreg f.src1)) = false →
      exec (.tscale b f) s = .next (s.went b (r.setS f.dst (tscaleOf (fabs (r.sreg f.src1)))))) ∧
    (s.atStroke b 0x75 f = some r ∧
      s.settled b r (r.desc (f.imm.toNat % 256)) = true →
      exec (.tscaleH b f) s = .next (s.went b (r.setS f.dst (tscaleOf (BitVec.ofNat 32 (mgetD Hist.empty r.hists (f.imm.toNat % 256)).amax))))) ∧
    (s.atStroke b 0x76 f = some r ∧
      s.free b r (accessOf false (r.desc (f.imm.toNat >>> 8 % 256)).spans ++ accessOf true (r.desc (f.imm.toNat % 256)).spans) = true →
      exec (.vsketch b f) s = .next (({ s with mem := (r.desc (f.imm.toNat % 256)).putHist s.mem ((r.desc (f.imm.toNat >>> 8 % 256)).sketch s.mem).1 } : State).went b (r.raise false { inv := ((r.desc (f.imm.toNat >>> 8 % 256)).sketch s.mem).2 })))

/-- SP.PUT, SP.GET and SP.ACC issue their requests (R125, R126, R127, R502, R367, R252). -/
def Obligations.SpanRequestInstructionsComplete : Prop :=
  ∀ (b : BayRef) (f : Fields) (n : Nat) (s : State) (r : Running),
    (s.atStroke b 0xB0 f = some r ∧ spFault (r.desc (f.imm.toNat >>> 24)) (r.desc (f.imm.toNat >>> 16 % 256)) (r.sreg f.src1).toNat (r.sreg f.src2).toNat (r.sreg f.src3).toNat = none ∧
      s.free b r (accessOf false ((r.desc (f.imm.toNat >>> 24)).access (r.sreg f.src1).toNat (r.sreg f.src3).toNat)) = true →
      exec (.spPut b f n) s = .next (State.went ((spParts (r.desc (f.imm.toNat >>> 24)).fmt (r.sreg f.src3).toNat).foldl (fun (t : State) (x : Nat × Nat × Bool) =>
        t.send 0x10 (r.desc (f.imm.toNat >>> 16 % 256)).node (dpaDie (r.desc (f.imm.toNat >>> 16 % 256)).base) (spHeader r.inst.job (!(r.desc (f.imm.toNat >>> 24)).isIn) x.2.2 ((r.sreg f.src2).toNat + x.1) x.2.1 n (strokeToken b.die b.bay r.seq) (r.desc (f.imm.toNat >>> 16 % 256)) ++
          (r.desc (f.imm.toNat >>> 24)).wire t.mem ((r.sreg f.src1).toNat + x.1) x.2.1) [3, b.die, b.bay, r.seq, f.imm.toNat >>> 24, (r.sreg f.src1).toNat + x.1, x.2.1, r.pc]) s) b
        (if (r.desc (f.imm.toNat >>> 24)).isIn then r else { r with spTokens := if r.spTokens.contains ((r.desc (f.imm.toNat >>> 16 % 256)).node * 8 + dpaDie (r.desc (f.imm.toNat >>> 16 % 256)).base) then r.spTokens
          else r.spTokens ++ [(r.desc (f.imm.toNat >>> 16 % 256)).node * 8 + dpaDie (r.desc (f.imm.toNat >>> 16 % 256)).base] }))) ∧
    (s.atStroke b 0xB1 f = some r ∧ spFault (r.desc (f.imm.toNat >>> 24)) (r.desc (f.imm.toNat >>> 16 % 256)) (r.sreg f.src1).toNat (r.sreg f.src2).toNat (r.sreg f.src3).toNat = none ∧
      s.free b r (accessOf true ((r.desc (f.imm.toNat >>> 24)).access (r.sreg f.src1).toNat (r.sreg f.src3).toNat)) = true →
      exec (.spGet b f n) s = .next (State.went ((spParts (r.desc (f.imm.toNat >>> 24)).fmt (r.sreg f.src3).toNat).foldl (fun (t : State) (x : Nat × Nat × Bool) =>
        t.send 0x12 (r.desc (f.imm.toNat >>> 16 % 256)).node (dpaDie (r.desc (f.imm.toNat >>> 16 % 256)).base) (spHeader r.inst.job false x.2.2 ((r.sreg f.src2).toNat + x.1) x.2.1 n 0 (r.desc (f.imm.toNat >>> 16 % 256)))
          [4, b.die, b.bay, r.seq, f.imm.toNat >>> 24, (r.sreg f.src1).toNat + x.1, x.2.1, r.pc]) s) b r)) ∧
    (∀ t, s.atStroke b 0xB2 f = some r ∧ s.accReqFault b r (r.desc (f.imm.toNat >>> 24)) (r.desc (f.imm.toNat >>> 16 % 256)) (f.imm.toNat % 4096) (r.sreg f.src1).toNat (r.sreg f.src2).toNat (r.sreg f.src3).toNat = none ∧
      s.free b r (accessOf false ((r.desc (f.imm.toNat >>> 24)).access (r.sreg f.src1).toNat (r.sreg f.src3).toNat)) = true ∧
      t = (s.modSlot b.die (r.desc (f.imm.toNat >>> 24)).slot fun sl =>
        { sl with token := some (strokeToken b.die b.bay r.seq), state := .released, ranges := sl.ranges ++ [((r.sreg f.src1).toNat / 32, (r.sreg f.src2).toNat / 32, (r.sreg f.src3).toNat / 32)] }).modBay
          b.die b.bay (·.modJournal r.seq fun e => { e with contribs := e.contribs ++
            [((r.desc (f.imm.toNat >>> 24)).slot, strokeToken b.die b.bay r.seq, [((r.sreg f.src1).toNat / 32, (r.sreg f.src2).toNat / 32, (r.sreg f.src3).toNat / 32)])] }) →
      exec (.spAcc b f) s = .next (if (s.slot b.die (r.desc (f.imm.toNat >>> 24)).slot).state = .held then s.went b r else
        State.went (if (s.slot b.die (r.desc (f.imm.toNat >>> 24)).slot).state = .opened then t.openReqSend b.die (r.desc (f.imm.toNat >>> 24)).slot
          else if (s.slot b.die (r.desc (f.imm.toNat >>> 24)).slot).grantedC then
            (t.queueRange b.die (r.desc (f.imm.toNat >>> 24)).slot 0x04 (if (s.slot b.die (r.desc (f.imm.toNat >>> 24)).slot).replay then 2 else 0) (strokeToken b.die b.bay r.seq)
              ((r.sreg f.src1).toNat / 32) ((r.sreg f.src2).toNat / 32) ((r.sreg f.src3).toNat / 32)).pump b.die (r.desc (f.imm.toNat >>> 24)).slot
          else t) b r))

/-- Row-engine instructions run row by row (R170, R173, R176, R177, R178, R182, R184, R185, R187, R188, R191, R192). The corners of RE.XENT and of
planes that log 27 lists are the model's choices. -/
def Obligations.RowInstructionsComplete : Prop :=
  ∀ (b : BayRef) (f : Fields) (s : State) (r : Running) (x : Desc),
    (s.atStroke b 0x82 f = some r ∧ RowReady s b f r [0, 1] [0, 2, 6, 7] [1, 8] 1 [] x →
      exec (.reLnF b f) s = .next ((rowsRun s r f fun t r srow row => r.normF t b false f.imm.toNat srow row).1.went b (rowsRun s r f fun t r srow row => r.normF t b false f.imm.toNat srow row).2)) ∧
    (s.atStroke b 0x84 f = some r ∧ RowReady s b f r [0, 1] [0, 2, 6, 7] [1, 8] 1 [] x →
      exec (.reRmsF b f) s = .next ((rowsRun s r f fun t r srow row => r.normF t b true f.imm.toNat srow row).1.went b (rowsRun s r f fun t r srow row => r.normF t b true f.imm.toNat srow row).2)) ∧
    (s.atStroke b 0x83 f = some r ∧ RowReady s b f r [0, 3, 4] [0, 2, 3, 6, 8] [4, 9, 10] 2 [1] x ∧
      r.accBad s b.die = none →
      exec (.reLnB b f) s = .next ((rowsRun s r f fun t r srow row => r.normB t b false f.imm.toNat srow row).1.went b ((rowsRun s r f fun t r srow row => r.normB t b false f.imm.toNat srow row).2.accMark (rowsRun s r f fun t r srow row => r.normB t b false f.imm.toNat srow row).2.pc))) ∧
    (s.atStroke b 0x85 f = some r ∧ RowReady s b f r [0, 3, 4] [0, 2, 3, 6, 8] [4, 9, 10] 2 [2] x ∧
      r.accBad s b.die = none →
      exec (.reRmsB b f) s = .next ((rowsRun s r f fun t r srow row => r.normB t b true f.imm.toNat srow row).1.went b ((rowsRun s r f fun t r srow row => r.normB t b true f.imm.toNat srow row).2.accMark (rowsRun s r f fun t r srow row => r.normB t b true f.imm.toNat srow row).2.pc))) ∧
    (s.atStroke b 0x86 f = some r ∧ RowReady s b f r [0, 1] [0, 2] [1, 8] 1 [] x →
      exec (.reSmxF b f) s = .next ((rowsRun s r f fun t r srow row => r.smxF t b f.imm.toNat srow row).1.went b (rowsRun s r f fun t r srow row => r.smxF t b f.imm.toNat srow row).2)) ∧
    (s.atStroke b 0x87 f = some r ∧ RowReady s b f r [0, 3, 4] [0, 2, 3, 8] [4] 2 [3, 4] x →
      exec (.reSmxB b f) s = .next ((rowsRun s r f fun t r srow row => r.smxB t b f.imm.toNat srow row).1.went b (rowsRun s r f fun t r srow row => r.smxB t b f.imm.toNat srow row).2)) ∧
    (s.atStroke b 0x88 f = some r ∧ RowReady s b f r [0, 1, 4, 11] [0, 2, 11] [1, 4, 8] 1 [] x ∧
      r.labelFault s (r.sreg f.src1).toNat (r.sreg f.src2).toNat = none →
      exec (.reXent b f) s = .next ((rowsRun s r f fun t r srow row => r.xent t b f.imm.toNat srow row).1.went b (rowsRun s r f fun t r srow row => r.xent t b f.imm.toNat srow row).2)) ∧
    (s.atStroke b 0x89 f = some r ∧ RowReady s b f r [0, 1, 5] (if f.imm.toNat % 8 = 3 then [0, 5] else [0]) (if f.imm.toNat % 8 = 3 then [1] else [1, 5]) 0 [] x ∧
      f.imm.toNat % 8 ≤ 3 →
      exec (.reActF b f) s = .next ((rowsRun s r f fun t r _ row => r.actRowF t (f.imm.toNat % 8) row).1.went b (rowsRun s r f fun t r _ row => r.actRowF t (f.imm.toNat % 8) row).2)) ∧
    (s.atStroke b 0x8A f = some r ∧ RowReady s b f r [3, 4, 5] [3, 5] [4] 0 [] x ∧
      f.imm.toNat % 8 ≤ 3 →
      exec (.reActB b f) s = .next ((rowsRun s r f fun t r _ row => r.actRowB t (f.imm.toNat % 8) row).1.went b (rowsRun s r f fun t r _ row => r.actRowB t (f.imm.toNat % 8) row).2)) ∧
    (s.atStroke b 0x8B f = some r ∧ RowReady s b f r [0, 1, 5] [0] [1, 5] 0 [] x →
      exec (.rePoolF b f) s = .next ((rowsRun s r f fun t r _ row => r.poolRowF t (f.imm.toNat % 32) row).1.went b (rowsRun s r f fun t r _ row => r.poolRowF t (f.imm.toNat % 32) row).2)) ∧
    (s.atStroke b 0x8C f = some r ∧ RowReady s b f r [3, 4, 5] [3, 5] [4] 0 [] x →
      exec (.rePoolB b f) s = .next ((rowsRun s r f fun t r _ row => r.poolRowB t (f.imm.toNat % 32) row).1.went b (rowsRun s r f fun t r _ row => r.poolRowB t (f.imm.toNat % 32) row).2))

/-- Role bindings, parameters, plane words and the loss sum (R173, R174, R189, R193). -/
def Obligations.RowEngineStateInstructionsComplete : Prop :=
  ∀ (b : BayRef) (f : Fields) (s : State) (r : Running), 
    (s.atStroke b 0x80 f = some r →
      exec (.reBind b f) s = .next (s.went b ({ r with
        roles := setAt (setAt (setAt r.roles (3 * (f.imm.toNat % 4) + 0) (if f.imm.toNat.testBit 7 then some (f.imm.toNat >>> 24 % 256) else none))
          (3 * (f.imm.toNat % 4) + 1) (if f.imm.toNat.testBit 6 then some (f.imm.toNat >>> 16 % 256) else none))
          (3 * (f.imm.toNat % 4) + 2) (if f.imm.toNat.testBit 5 then some (f.imm.toNat >>> 8 % 256) else none) }))) ∧
    (s.atStroke b 0x81 f = some r ∧
      parmOk (f.imm.toNat % 8) (r.sreg f.src1) = true →
      exec (.reParm b f) s = .next (s.went b ({ r with parms := setAt r.parms (f.imm.toNat % 8) (r.sreg f.src1) }))) ∧
    (s.atStroke b 0x8D f = some r ∧
      (r.desc (f.imm.toNat % 256)).pairFault (r.sreg f.src2).toNat = none ∧
      s.free b r (accessOf true ((r.desc (f.imm.toNat % 256)).access (r.sreg f.src2).toNat 2)) = true →
      exec (.rePst b f) s = .next (({ s with mem := ((r.desc (f.imm.toNat % 256)).wr ((r.desc (f.imm.toNat % 256)).wr s.mem (r.sreg f.src2).toNat ((r.preg f.src1.toNat).toNat % 2 ^ 32)) ((r.sreg f.src2).toNat + 1) ((r.preg f.src1.toNat).toNat / 2 ^ 32)) } : State).went b (r.countElems (f.imm.toNat % 256) ((r.desc (f.imm.toNat % 256)).wr ((r.desc (f.imm.toNat % 256)).wr s.mem (r.sreg f.src2).toNat ((r.preg f.src1.toNat).toNat % 2 ^ 32)) ((r.sreg f.src2).toNat + 1) ((r.preg f.src1.toNat).toNat / 2 ^ 32)) [(r.sreg f.src2).toNat, (r.sreg f.src2).toNat + 1]))) ∧
    (s.atStroke b 0x8E f = some r ∧
      (r.desc (f.imm.toNat % 256)).pairFault (r.sreg f.src1).toNat = none ∧
      s.free b r (accessOf false ((r.desc (f.imm.toNat % 256)).access (r.sreg f.src1).toNat 2)) = true →
      exec (.rePld b f) s = .next (s.went b (r.setP f.dst (BitVec.ofNat 64 ((r.desc (f.imm.toNat % 256)).rd s.mem (r.sreg f.src1).toNat + (r.desc (f.imm.toNat % 256)).rd s.mem ((r.sreg f.src1).toNat + 1) * 2 ^ 32))))) ∧
    (s.atStroke b 0x8F f = some r ∧
      f.imm.toNat.testBit 1 = false →
      exec (.reLsum b f) s = .next (s.went b ((r.setS f.dst (if f.imm.toNat.testBit 0 then (BitVec.ofNat 32 r.lossCount, {}) else r.lossSum).1).raise false (if f.imm.toNat.testBit 0 then (BitVec.ofNat 32 r.lossCount, {}) else r.lossSum).2))) ∧
    (s.atStroke b 0x8F f = some r ∧
      f.imm.toNat.testBit 1 = true →
      exec (.reLsum b f) s = .next (s.went b ({ ((r.setS f.dst (if f.imm.toNat.testBit 0 then (BitVec.ofNat 32 r.lossCount, {}) else r.lossSum).1).raise false (if f.imm.toNat.testBit 0 then (BitVec.ofNat 32 r.lossCount, {}) else r.lossSum).2) with
        loss := 0, lossMarks := {}, lossCount := 0 })))

/-- Each MXT form issues one tile (R118, R119, R121, R93, R237). -/
def Obligations.TileInstructionsIssueTiles : Prop :=
  ∀ (b : BayRef) (f : Fields) (s : State) (r : Running), 
    (s.atStroke b 0x10 f = some r ∧ TileReady s b r (r.tileOf f false false false) →
      exec (.mxtNn b f) s = .next (State.went (s.modBay b.die b.bay fun x => { x.palRef (r.tileChunks (r.tileOf f false false false)) true with tiles := x.tiles ++ [(r.tileOf f false false false)] }) b r)) ∧
    (s.atStroke b 0x11 f = some r ∧ TileReady s b r (r.tileOf f false true false) →
      exec (.mxtNt b f) s = .next (State.went (s.modBay b.die b.bay fun x => { x.palRef (r.tileChunks (r.tileOf f false true false)) true with tiles := x.tiles ++ [(r.tileOf f false true false)] }) b r)) ∧
    (s.atStroke b 0x12 f = some r ∧ TileReady s b r (r.tileOf f true false false) →
      exec (.mxtTn b f) s = .next (State.went (s.modBay b.die b.bay fun x => { x.palRef (r.tileChunks (r.tileOf f true false false)) true with tiles := x.tiles ++ [(r.tileOf f true false false)] }) b r)) ∧
    (s.atStroke b 0x13 f = some r ∧ TileReady s b r (r.tileOf f true true false) →
      exec (.mxtTt b f) s = .next (State.went (s.modBay b.die b.bay fun x => { x.palRef (r.tileChunks (r.tileOf f true true false)) true with tiles := x.tiles ++ [(r.tileOf f true true false)] }) b r)) ∧
    (s.atStroke b 0x14 f = some r ∧ TileReady s b r (r.tileOf f false false true) →
      exec (.mxtNnAcc b f) s = .next (State.went (s.modBay b.die b.bay fun x => { x.palRef (r.tileChunks (r.tileOf f false false true)) true with tiles := x.tiles ++ [(r.tileOf f false false true)] }) b r)) ∧
    (s.atStroke b 0x15 f = some r ∧ TileReady s b r (r.tileOf f false true true) →
      exec (.mxtNtAcc b f) s = .next (State.went (s.modBay b.die b.bay fun x => { x.palRef (r.tileChunks (r.tileOf f false true true)) true with tiles := x.tiles ++ [(r.tileOf f false true true)] }) b r)) ∧
    (s.atStroke b 0x16 f = some r ∧ TileReady s b r (r.tileOf f true false true) →
      exec (.mxtTnAcc b f) s = .next (State.went (s.modBay b.die b.bay fun x => { x.palRef (r.tileChunks (r.tileOf f true false true)) true with tiles := x.tiles ++ [(r.tileOf f true false true)] }) b r)) ∧
    (s.atStroke b 0x17 f = some r ∧ TileReady s b r (r.tileOf f true true true) →
      exec (.mxtTtAcc b f) s = .next (State.went (s.modBay b.die b.bay fun x => { x.palRef (r.tileChunks (r.tileOf f true true true)) true with tiles := x.tiles ++ [(r.tileOf f true true true)] }) b r))

/-- A tile goes from waiting through its pass and drain to its retirement (R93, R94, R61, R71, R80). -/
def Obligations.TileCourseCompletes : Prop :=
  ∀ (b : BayRef) (s : State) (r : Running) (t : Tile),
    ((s.bay b.die b.bay).tiles.find? (·.phase == .waiting) = some t ∧ s.bayLive b = true ∧
      (s.bay b.die b.bay).tiles.all (·.phase != .pass) = true ∧ ((s.bay b.die b.bay).tiles.filter (·.phase != .waiting)).length < 2 ∧
      (s.bay b.die b.bay).strokeOf t = some r ∧ s.expanderCheck b r t = none →
      exec (.tileProductPassStart b) s = .next (s.modBay b.die b.bay (·.modTile t fun y => { y with phase := .pass }))) ∧
    (∀ agree accs unchecked invalid, (s.bay b.die b.bay).tiles.find? (·.phase == .pass) = some t ∧ (s.bay b.die b.bay).strokeOf t = some r ∧
      s.tileCompute b r t = .ok (accs, unchecked, invalid) →
      exec (.tileProductPassEnd b agree) s = .next (s.modBay b.die b.bay fun x => (x.palRef (r.tileChunks t) false).modTile t fun y =>
        { y with phase := if unchecked || agree then .drain else .held, accs := accs, unchecked := unchecked, invalid := invalid })) ∧
    ((s.bay b.die b.bay).tiles.head? = some t ∧ t.phase = .drain ∧ (s.bay b.die b.bay).strokeOf t = some r →
      exec (.tileRetire b) s = .next ((s.retire b r t).modBay b.die b.bay fun x =>
        { x with tiles := x.tiles.filter fun y => !(y.seq == t.seq && y.pc == t.pc) }))

/-- Each mover instruction queues its request (R124, R207, R210, R212, R213, R214, R215, R216, R217, R79, R100). -/
def Obligations.MoverInstructionsQueueRequests : Prop :=
  ∀ (b : BayRef) (f : Fields) (mv : Nat) (s : State) (r : Running),
    (s.atStroke b 0xA0 f = some r ∧ MvReady s b r mv (r.mvReq b 0xA0 f) ∧ ((r.mvReq b 0xA0 f).ready s.mem).identity = false →
      exec (.mvCopy b f mv) s = .next (State.went (s.mvStart b.die mv ((r.mvReq b 0xA0 f).ready s.mem)) b r)) ∧
    (s.atStroke b 0xA1 f = some r ∧ MvReady s b r mv (r.mvReq b 0xA1 f) →
      exec (.mvGather b f mv) s = .next (State.went (s.mvStart b.die mv ((r.mvReq b 0xA1 f).ready s.mem)) b r)) ∧
    (s.atStroke b 0xA2 f = some r ∧ MvReady s b r mv (r.mvReq b 0xA2 f) →
      exec (.mvScatter b f mv) s = .next (State.went (s.mvStart b.die mv ((r.mvReq b 0xA2 f).ready s.mem)) b r)) ∧
    (s.atStroke b 0xA3 f = some r ∧ MvReady s b r mv (r.mvReq b 0xA3 f) →
      exec (.mvScadd b f mv) s = .next (State.went (s.mvStart b.die mv ((r.mvReq b 0xA3 f).ready s.mem)) b r)) ∧
    (s.atStroke b 0xA4 f = some r ∧ MvReady s b r mv (r.mvReq b 0xA4 f) →
      exec (.mvSegsum b f mv) s = .next (State.went (s.mvStart b.die mv ((r.mvReq b 0xA4 f).ready s.mem)) b r)) ∧
    (s.atStroke b 0xA5 f = some r ∧ MvReady s b r mv (r.mvReq b 0xA5 f) →
      exec (.mvSegmax b f mv) s = .next (State.went (s.mvStart b.die mv ((r.mvReq b 0xA5 f).ready s.mem)) b r)) ∧
    (s.atStroke b 0xA6 f = some r ∧ MvReady s b r mv (r.mvReq b 0xA6 f) →
      exec (.mvSketch b f mv) s = .next (State.went (s.mvStart b.die mv ((r.mvReq b 0xA6 f).ready s.mem)) b r)) ∧
    (s.atStroke b 0xA0 f = some r ∧ MvReady s b r mv (r.mvReq b 0xA0 f) ∧ ((r.mvReq b 0xA0 f).ready s.mem).identity = true →
      exec (.mvCopy b f mv) s = .next (s.went b r)) ∧
    (∀ q, s.mvStart b.die mv q = State.modMover (State.addReaders (s.modJob q.job fun j =>
        { j with indexZeroed := satAdd 32 j.indexZeroed (q.resolved.countP (·.isNone)) }) b.die (s.mvEnts b.die q)) b.die mv fun m =>
          { m with queue := m.queue ++ [{ q with readers := s.mvEnts b.die q }] })

/-- A mover's bounce buffer, scatter-add rounds and the end of its request (R210, R216, R124, R35). -/
def Obligations.MoverStepsComplete : Prop :=
  ∀ (die mv : Nat) (s : State) (q : MvReq), (s.mover die mv).queue.head? = some q ∧ s.live = true ∧ s.isFrozen (masterWord 2 die mv) = false →
    (∀ p a, q.needBounce ≠ 0 ∧ q.bounce = none ∧ s.bouncePlace die q = some (p, a) → exec (.bounceBufferTake die mv) s = .next
      (State.modMover (State.modBay { s with mem := q.bounced s.mem (sramDpa die p a) } die p fun x =>
        x.register a (alignUp q.needBounce 256) .wet (.bounce mv)) die mv fun y =>
          { y with queue := y.queue.modifyHead fun h => { h with bounce := some (die, p, a) } })) ∧
    (q.op = 0xA3 ∧ q.dst.fmt = 0 ∧ q.rounds < q.ranges.length → exec (.scaddRound die mv) s = .next
      (State.modMover { s with mem := (q.formBlocks s.mem true (q.touched.filter fun j => j / 512 == at' 0 q.ranges q.rounds)).1 }
        die mv fun y => { y with queue := y.queue.modifyHead fun h => { h with
          rounds := h.rounds + 1, exc := h.exc.add (q.formBlocks s.mem true (q.touched.filter fun j => j / 512 == at' 0 q.ranges q.rounds)).2 } })) ∧
    (s.domOn die (bgDom (mv / 2)) = true ∧ s.mvMemOn q = true ∧ (q.needBounce = 0 ∨ q.bounce.isSome = true) ∧
      (q.op = 0xA3 ∧ q.dst.fmt = 0 → q.ranges.length ≤ q.rounds) →
      exec (.moverRequestDone die mv) s = .next (((s.mvApply die q).mvKeep die q).dropMv die mv q))

/-- Strokes issue and seal, palette slots fill, released entries become free (R133, R104, R105, R131, R235, R238, R97, R100). That a replay whose
recorded input was freed is held is the model's choice (log 25). -/
def Obligations.StrokeEventsComplete : Prop :=
  ∀ (b : BayRef) (s : State),
    (∀ i rest fills, s.bayLive b = true ∧ (s.bay b.die b.bay).queue = i :: rest ∧ s.slotFree b = true ∧
      (s.bay b.die b.bay).replays = [] ∧ (s.logical b.die b.bay).isSome = true ∧ s.issueCheck b.die b.bay i = .go fills →
      exec (.strokeIssue b) s = .next ((s.modBay b.die b.bay fun x => { x with queue := rest }).issueTo b.die b.bay i fills)) ∧
    (∀ r cycles, s.bayLive b = true ∧ (s.bay b.die b.bay).slots.find? (s.sealable b) = some r →
      exec (.strokeSeal b cycles) s = .next (s.sealStroke b r cycles)) ∧
    (∀ n w, s.bayLive b = true ∧ n < 4 ∧ (at' {} (s.bay b.die b.bay).pal n).wants.head? = some w ∧
      (at' {} (s.bay b.die b.bay).pal n).filling = false ∧ (at' {} (s.bay b.die b.bay).pal n).refcount = 0 ∧
      (((s.bay b.die b.bay).slots.takeWhile (·.seq != w.1)).any fun r => r.names n && !r.issued) = false →
      exec (.paletteFillStart b n) s = .next (s.modBay b.die b.bay (·.modPal n fun p => { p with filling := true }))) ∧
    (∀ n w, s.bayLive b = true ∧ (at' {} (s.bay b.die b.bay).pal n).wants.head? = some w ∧
      (at' {} (s.bay b.die b.bay).pal n).filling = true →
      exec (.paletteFillDone b n) s = .next (State.wrote (s.modBay b.die b.bay (·.modPal n fun p =>
        { p with image := w.2, valid := true, filling := false, fills := (p.fills + 1) % 2 ^ 32, wants := p.wants.drop 1 }))
          (bayDpa 2 b.die b.bay (0x100 * n)) 0x100)) ∧
    (∀ a, s.live = true → exec (.sealEntryRelease b a) s = .next (State.gatherRetry (s.modBay b.die b.bay fun x =>
      x.modSeals (fun e => e.start == a && e.state == .dry && e.release && e.readers == 0) SealEnt.freed)))

/-- Graph nodes: strokes, loops, branches, sets, steps (R136, R137, R138, R139, R141, R505). That FREE does nothing for a queued instance, and that
arg_max binds declared arguments only, are the model's choices (log 28). -/
def Obligations.GraphNodesComplete : Prop :=
  ∀ (die run : Nat) (s : State),
    (∀ img argss, NodeReady s die run 1 ∧ mget (s.die die).images (s.node die run).range.1 = some img ∧ s.strokeArgs die run (s.node die run).ops (s.node die run).range.2.2 = .ok argss ∧ (∀ a ∈ argss, img.argsOk a = true) ∧
      (∀ k, k < (s.node die run).range.2.2 → (s.bay die (s.phys die ((s.node die run).range.2.1 + k))).queue.length < 16) →
      exec (.graphStroke die run) s = .next (if (s.node die run).flags = 1 then (s.issueNode die run img argss).waitRun die run true
        else (s.issueNode die run img argss).nextNode die run)) ∧
    (∀ c, NodeReady s die run 2 ∧ s.op die run 0 = .ok c →
      exec (.graphLoop die run) s = .next (if c = 0 then s.goto die run ((s.node die run).p1 + 1)
        else (s.modRun die run fun g => { g with loops := g.loops ++ [⟨g.node, c, 0⟩] }).nextNode die run)) ∧
    (∀ l, NodeReady s die run 3 ∧ (s.run die run).loops.find? (·.node == (s.node die run).p0) = some l →
      exec (.graphEndLoop die run) s = .next (if l.index + 1 < l.count then
        (s.modRun die run fun g => { g with loops := g.loops.map fun x =>
          if x.node = (s.node die run).p0 then { x with index := x.index + 1 } else x }).goto die run ((s.node die run).p0 + 1)
        else (s.modRun die run fun g => { g with loops := g.loops.filter (·.node != (s.node die run).p0) }).nextNode die run)) ∧
    (∀ a b, NodeReady s die run 4 ∧ (s.node die run).p0 % 8 < 6 ∧ s.op die run 0 = .ok a ∧ s.op die run 1 = .ok b →
      exec (.graphBranch die run) s = .next (if branchHolds ((s.node die run).p0 % 8) ((s.node die run).p0 >>> 4 % 4) (BitVec.ofNat 32 a) (BitVec.ofNat 32 b)
        then s.branchTo die run (s.node die run).p1 else s.nextNode die run)) ∧
    (NodeReady s die run 4 ∧ (s.node die run).p0 % 8 = 6 →
      exec (.graphBranch die run) s = .next (s.branchTo die run (s.node die run).p1)) ∧
    (∀ a, NodeReady s die run 4 ∧ (s.node die run).p0 % 8 = 7 ∧ s.op die run 0 = .ok a →
      exec (.graphBranch die run) s = .next (if branchHolds 7 ((s.node die run).p0 >>> 4 % 4) (BitVec.ofNat 32 a) 0
        then s.branchTo die run (s.node die run).p1 else s.nextNode die run)) ∧
    (NodeReady s die run 3 ∧ (s.run die run).loops.find? (·.node == (s.node die run).p0) = none →
      exec (.graphEndLoop die run) s = .next (s.nextNode die run)) ∧
    (∀ a b, NodeReady s die run 5 ∧ s.op die run 0 = .ok a ∧ s.op die run 1 = .ok b →
      exec (.graphSet die run) s = .next ((s.modRun die run fun g =>
        { g with counters := setAt g.counters ((s.node die run).p0 % 16) (setVal ((s.node die run).p0 >>> 4 % 8) a b) }).nextNode die run)) ∧
    (NodeReady s die run 8 →
      exec (.graphStep die run) s = .next ((s.modRun die run fun g => { g with step := (g.step + 1) % 2 ^ 32 }).nextNode die run)) ∧
    (NodeReady s die run 10 →
      exec (.graphFree die run) s = .next ((s.freeNamed die run (s.node die run).p0 (s.node die run).p1).nextNode die run)) ∧
    (NodeReady s die run 2 ∧ s.op die run 0 = .error none →
      exec (.graphLoop die run) s = .next (s.waitRun die run false))

/-- Graph waits, notifications, releases and the end of a graph (R138, R504, R505, R251). -/
def Obligations.GraphWaitsAndReleasesComplete : Prop :=
  ∀ (die run : Nat) (s : State),
    (∀ t, NodeReady s die run 6 ∧ ((s.node die run).p0 ≠ 1 ∨ (mget (s.run die run).issues (at' 0 (s.node die run).ops 0)).isSome = true) ∧ t = s.modRun die run (fun g =>
        { g with waitSlot := if (s.node die run).p0 = 2 then some ((s.node die run).p1, (s.slot die (s.node die run).p1).step) else none }) →
      exec (.graphWait die run) s = .next (if t.waitMet die run then t.endWait die run else t.waitRun die run true)) ∧
    (s.live = true ∧ (s.run die run).active = true ∧ (s.run die run).held = true ∧ s.waitMet die run = true →
      exec (.waitEventMet die run) s = .next (s.endWait die run)) ∧
    (∀ vals, NodeReady s die run 7 ∧ ((s.node die run).ops.take 4).mapM (fun w => s.operand die run w 0) = .ok vals ∧ (s.node die run).p0 = 0 →
      exec (.graphNotify die run) s = .next ((s.event evGraphNotify (s.run die run).job die 0 (pack [(1, run), (1, 0), (2, (s.node die run).p1)] ++
        pack (vals.map fun v => (4, v)))).nextNode die run)) ∧
    (∀ vals, NodeReady s die run 7 ∧ ((s.node die run).ops.take 4).mapM (fun w => s.operand die run w 0) = .ok vals ∧ (s.node die run).p0 ≠ 0 ∧
      ((s.poolOfTag (s.node die run).p2 (s.run die run).job (s.node die run).p1).isNone = true →
        s.notifyRoom (s.node die run).p2 (s.run die run).job = true) →
      exec (.graphNotify die run) s = .next ((s.notify (s.node die run).p2 (s.run die run).job (s.node die run).p1 vals).nextNode die run)) ∧
    (∀ n, NodeReady s die run 9 ∧ n = (s.node die run).p0 ∧ ((s.openOf die run).filter (·.namesSlot n)) = [] ∧ (s.slot die n).opening = none →
      exec (.graphRelease die run) s = .next ((s.releaseSlot die n (s.run die run).job).nextNode die run)) ∧
    (∀ n, NodeReady s die run 9 ∧ n = (s.node die run).p0 ∧ ((s.openOf die run).filter (·.namesSlot n)) ≠ [] →
      exec (.graphRelease die run) s = .next ((s.modRun die run fun g => { g with releases := g.releases ++ [(n, ((s.openOf die run).filter (·.namesSlot n)).map (·.iid))] }).nextNode die run)) ∧
    (∀ n x, s.live = true ∧ ((s.die die).runs.find? fun x => x.2.releases.contains (n, [])) = some x ∧ (s.slot die n).opening = none →
      exec (.slotReleaseEffect die n) s = .next ((s.modRun die x.1 fun g => { g with releases := g.releases.erase (n, []) }).releaseSlot die n x.2.job)) ∧
    (∀ t, NodeReady s die run 15 ∧ (s.run die run).openInsts = [] ∧ t = s.modRun die run (fun g => { g with state := .done }) →
      exec (.graphEnd die run) s = .next (t.event evGraphDone (t.run die run).job die 0 (t.runData die run)))

/-- What owner and twin slots do with reduction messages (R255, R256, R257, R259, R261, R262, R266, R267, R268, R371, R48). That a message's credit is
withheld with its acknowledgement is the model's choice (log 28). -/
def Obligations.ReductionMessagesAtReceiversComplete : Prop :=
  ∀ (die : Nat) (m : SpanMsg) (s : State),
    (∀ d, MsgReady s die 0x01 m (redOk m) ∧ ((s.slot die m.redSlot).expected ≠ 0 → (s.slot die m.redSlot).role ≠ .contributor ∧ (s.slot die m.redSlot).job = m.redJob ∧ m.redWho < (s.slot die m.redSlot).expected) ∧ s.asked die m.redSlot m = none ∧ ((s.slot die m.redSlot).role = .twin → s.part.takenOver = true) ∧ s.verdict die m.redSlot m.redStep = d ∧ d ≠ .hold →
      exec (.openReq die m) s = .next (State.answerWith (s.settleReq die m.redSlot m d) m 0x01 (.ack stOk))) ∧
    (MsgReady s die 0x01 m (redOk m) ∧ ((s.slot die m.redSlot).expected ≠ 0 → (s.slot die m.redSlot).role ≠ .contributor ∧ (s.slot die m.redSlot).job = m.redJob ∧ m.redWho < (s.slot die m.redSlot).expected) ∧ s.asked die m.redSlot m = none ∧
      ((s.slot die m.redSlot).role = .twin ∧ s.part.takenOver = false ∨ s.verdict die m.redSlot m.redStep = .hold) →
      exec (.openReq die m) s = .next (State.answerWith (s.holdReq die m.redSlot m) m 0x01 (.silent))) ∧
    (∀ k, MsgReady s die 0x01 m (redOk m) ∧ ((s.slot die m.redSlot).expected ≠ 0 → (s.slot die m.redSlot).role ≠ .contributor ∧ (s.slot die m.redSlot).job = m.redJob ∧ m.redWho < (s.slot die m.redSlot).expected) ∧ s.asked die m.redSlot m = some k ∧ (s.slot die m.redSlot).role = .twin ∧ k.2.node = 0xFFF →
      exec (.openReq die m) s = .next (State.answerWith (if s.part.takenOver then (s.noteSender die k m.src).memberSend die k.1 0x02 0 { k.2 with node := m.src } [] else s.noteSender die k m.src) m 0x01 (.ack stOk))) ∧
    (∀ k, MsgReady s die 0x01 m (redOk m) ∧ ((s.slot die m.redSlot).expected ≠ 0 → (s.slot die m.redSlot).role ≠ .contributor ∧ (s.slot die m.redSlot).job = m.redJob ∧ m.redWho < (s.slot die m.redSlot).expected) ∧ s.asked die m.redSlot m = some k ∧ ((s.slot die m.redSlot).role = .twin → k.2.node ≠ 0xFFF) ∧ s.actsOwner die m.redSlot = true →
      exec (.openReq die m) s = .next (State.answerWith (s.discardMsg m) m 0x01 (.nak stMalformed))) ∧
    (∀ k, MsgReady s die 0x01 m (redOk m) ∧ ((s.slot die m.redSlot).expected ≠ 0 → (s.slot die m.redSlot).role ≠ .contributor ∧ (s.slot die m.redSlot).job = m.redJob ∧ m.redWho < (s.slot die m.redSlot).expected) ∧ s.asked die m.redSlot m = some k ∧ ((s.slot die m.redSlot).role = .twin → k.2.node ≠ 0xFFF) ∧ s.actsOwner die m.redSlot = false →
      exec (.openReq die m) s = .next (State.answerWith (s) m 0x01 (.ack stOk))) ∧
    (MsgReady s die 0x0A m (redOk m) ∧ (s.slot die m.redSlot).role = .twin ∧ (s.slot die m.redSlot).job = m.redJob →
      exec (.grantNote die m) s = .next (State.answerWith (s.noteGrant die m.redSlot m) m 0x0A (.ack stOk))) ∧
    (MsgReady s die 0x0B m (redOk m) ∧ (s.slot die m.redSlot).role = .twin ∧ (s.slot die m.redSlot).job = m.redJob ∧
      (s.slot die m.redSlot).step = fld (m.body.drop 32) 0 4 →
      exec (.setFixed die m) s = .next (State.answerWith (s.takeSet die m.redSlot (m.body.drop 32)) m 0x0B (.ack stOk))) ∧
    (∀ x, MsgReady s die 0x04 m (redOk m) ∧ (s.slot die m.redSlot).sender m = some x ∧ (s.slot die m.redSlot).role ≠ .contributor ∧ (s.slot die m.redSlot).job = m.redJob ∧
      m.redFirst + m.redCount ≤ (s.slot die m.redSlot).blocks ∧ (s.slot die m.redSlot).takes m = true ∧ s.unanchored die m.redSlot m.redFirst m.redCount = false →
      exec (.contrib die m) s = .next (State.answerWith ((s.modSlot die m.redSlot (·.modMember m.redWho m.redCarried m.redStep fun x =>
          { x with delivered := x.delivered + 1, token := some m.redToken, resent := x.resent || m.redReplay })).applyContrib die m.redSlot m) m 0x04 (.ack stOk))) ∧
    (∀ x, MsgReady s die 0x04 m (redOk m) ∧ (s.slot die m.redSlot).sender m = some x ∧ (s.slot die m.redSlot).role ≠ .contributor ∧ (s.slot die m.redSlot).job = m.redJob ∧
      m.redFirst + m.redCount ≤ (s.slot die m.redSlot).blocks ∧ (s.slot die m.redSlot).takes m = false ∧ (s.slot die m.redSlot).state ≠ .resetting →
      exec (.contrib die m) s = .next (State.answerWith (s) m 0x04 (.ack stOk))) ∧
    (∀ x, MsgReady s die 0x04 m (redOk m) ∧ (s.slot die m.redSlot).sender m = some x ∧ (s.slot die m.redSlot).role ≠ .contributor ∧ (s.slot die m.redSlot).job = m.redJob ∧
      m.redFirst + m.redCount ≤ (s.slot die m.redSlot).blocks ∧ (s.slot die m.redSlot).takes m = false ∧ (s.slot die m.redSlot).state = .resetting →
      exec (.contrib die m) s = .next (State.answerWith (s.modSlot die m.redSlot fun sl => { sl with withheld := sl.withheld ++ [m] }) m 0x04 (.silent))) ∧
    (MsgReady s die 0x04 m (redOk m) ∧ (s.slot die m.redSlot).sender m = none →
      exec (.contrib die m) s = .next (State.answerWith (s.discardMsg m) m 0x04 (.nak stMalformed))) ∧
    (∀ x, MsgReady s die 0x05 m (redOk m) ∧ (s.slot die m.redSlot).sender m = some x ∧ (s.slot die m.redSlot).role ≠ .contributor ∧ (s.slot die m.redSlot).job = m.redJob ∧ (s.slot die m.redSlot).takes m = true →
      exec (.reductionSeal die m) s = .next (State.answerWith (((s.modSlot die m.redSlot fun sl => { (sl.modMember m.redWho m.redCarried m.redStep fun x =>
          { x with isSealed := true, token := some m.redToken }) with tSealed := s.part.tai }).gateCheck die m.redSlot).resetCheck die m.redSlot) m 0x05 (.ack stOk))) ∧
    (∀ x, MsgReady s die 0x06 m (redOk m) ∧ (s.slot die m.redSlot).sender m = some x ∧ (s.slot die m.redSlot).role ≠ .contributor ∧ (s.slot die m.redSlot).job = m.redJob ∧
      m.redFirst + m.redCount ≤ (s.slot die m.redSlot).blocks ∧ (s.slot die m.redSlot).takes m = true →
      exec (.retract die m) s = .next (State.answerWith (s.retractBlocks die m.redSlot m) m 0x06 (.ack stOk))) ∧
    (MsgReady s die 0x07 m (redOk m) ∧ (s.slot die m.redSlot).role ≠ .contributor ∧ (s.slot die m.redSlot).job = m.redJob ∧ m.redWho < (s.slot die m.redSlot).expected ∧
      ((((s.slot die m.redSlot).member m.redWho m.redCarried m.redStep).map (·.isSealed)).getD false) = false ∧ m.withdrawFor = (s.slot die m.redSlot).step ∧ (s.slot die m.redSlot).opening = none ∧ (s.slot die m.redSlot).state ≠ .free →
      exec (.withdraw die m) s = .next (State.answerWith (s.withdrawn die m.redSlot m) m 0x07 (.ack stOk))) ∧
    (MsgReady s die 0x07 m (redOk m) ∧ (s.slot die m.redSlot).role ≠ .contributor ∧ (s.slot die m.redSlot).job = m.redJob ∧ m.redWho < (s.slot die m.redSlot).expected ∧
      ((((s.slot die m.redSlot).member m.redWho m.redCarried m.redStep).map (·.isSealed)).getD false) = false ∧ (s.slot die m.redSlot).step < m.withdrawFor →
      exec (.withdraw die m) s = .next (State.answerWith (s.holdReq die m.redSlot m) m 0x07 (.silent))) ∧
    (MsgReady s die 0x0C m (redOk m) ∧ (s.slot die m.redSlot).role = .twin ∧ (s.slot die m.redSlot).job = m.redJob ∧ (s.slot die m.redSlot).step = m.redStep →
      exec (.resetNote die m) s = .next (State.answerWith (s.clearSlot die m.redSlot) m 0x0C (.ack stOk))) ∧
    (MsgReady s die 0x0C m (redOk m) ∧ (s.slot die m.redSlot).role = .owner ∧ (s.slot die m.redSlot).job = m.redJob ∧ (s.slot die m.redSlot).step = m.redStep ∧ m.src = (s.slot die m.redSlot).twinNode →
      exec (.resetNote die m) s = .next (State.answerWith (s.resetSlice die m.redSlot) m 0x0C (.ack stOk)))

/-- What a contributor slot does with the owner's messages, and the slot events (R246, R256, R261, R263, R266, R268, R270, R503). -/
def Obligations.ReductionMessagesAtContributorsComplete : Prop :=
  ∀ (die : Nat) (m : SpanMsg) (s : State) (n : Nat),
    (∀ t, MsgReady s die 0x02 m (redOk m) ∧ s.contribOf die m = some n ∧ (s.slot die n).state = .released ∧ t = s.modSlot die n (fun sl => { sl with
        grantedC := true, carriedC := m.redCarried, sendSlot := m.redSlot, credit := if sl.credit.contains m.src then sl.credit else sl.credit ++ [m.src] }) →
      exec (.grant die m) s = .next (State.answerWith ((if (s.slot die n).grantedC then t.pump die n else t.sendRanges die n 0).trySeal die n) m 0x02 (.ack stOk))) ∧
    (MsgReady s die 0x03 m (redOk m) ∧ s.contribOf die m = some n ∧ (s.slot die n).state = .released →
      exec (.lateDrop die m) s = .next (State.answerWith ((s.modSlot die n fun sl => { sl with state := .held, ranges := [], sendQ := [] }).gatherAsk die n) m 0x03 (.ack stOk))) ∧
    (∀ k, k = (s.slot die n).token ∧ MsgReady s die 0x08 m (redOk m) ∧ s.contribOf die m = some n ∧ (s.slot die n).state = .lost →
      exec (.replayReq die m) s = .next (State.answerWith ((s.redTargets die n).foldl (fun s node => s.redSend die n node 0x07 2 0 0 (k.getD 0) []) s) m 0x08 (.ack stOk))) ∧
    (MsgReady s die 0x08 m (redOk m) ∧ s.contribOf die m = some n ∧ (s.slot die n).state ≠ .lost ∧ (s.slot die n).grantedC = true →
      exec (.replayReq die m) s = .next (State.answerWith ((((s.modSlot die n fun sl => { sl with replay := true, sealSent := false, sendQ := [], sent := [], retractDue := false }).forgetFlying die n).sendRanges die n 2).trySeal die n) m 0x08 (.ack stOk))) ∧
    (∀ t, MsgReady s die 0x09 m (redOk m) ∧ s.contribOf die m = some n ∧ ((s.slot die n).state = .held ∨ (s.slot die n).state = .lost) ∧ t = (s.modSlot die n (fun sl =>
        { sl with state := .free, token := none, ranges := [] })).freeBuffer die n →
      exec (.sliceDone die m) s = .next (State.answerWith (if (s.slot die n).recycle = true ∧ (s.slot die n).blocks ≤ ((m.body.drop 304).map (·.toNat)).length
          then t.openSlot die n ((s.slot die n).step + 2) (((m.body.drop 304).map (·.toNat)).take (s.slot die n).blocks) else t) m 0x09 (.ack stOk))) ∧
    (s.live = true ∧ s.actsOwner die n = true ∧ (s.slot die n).state = .opened ∧ (s.slot die n).deadline ≠ 0 ∧
      ((s.slot die n).members.any fun x => x.granted && !x.carried) = true ∧ (s.slot die n).tFirst + (s.slot die n).deadline * 1000 ≤ s.part.tai →
      exec (.deadlineExpiry die n) s = .next (s.fixSet die n)) ∧
    (∀ q, s.live = true ∧ (s.slot die n).role ≠ .contributor ∧ (s.slot die n).heldMsgs.find? (s.heldReady die n) = some q →
      exec (.heldRequestRelease die n) s = .next (State.lateAnswer (if q.kind = 7 then ((s.unhold die n q).takeWithdraw die n q).1
        else (s.unhold die n q).settleReq die n q (s.verdict die n q.redStep)) q stOk)) ∧
    (∀ as, s.live = true ∧ ((s.slot die n).opening = some as ∧ as ≠ [] ∨ (s.slot die n).opening = some [] ∧ s.slotHints die n = some as) →
      exec (.slotOpenDone die n) s = .next ((s.anchorSlot die n as).modSlot die n fun sl => { sl with state := .opened, opening := none }))

/-- A slice's consumption: wait, norm pass, staging, blocks, working copy, end (R280, R281, R284, R286, R288, R291, R295, R296, R298, R301, R302).
Where M lies in the bays, and what the part finds in a host-tier pair beside RECORD_PREFETCH, are the model's choices (logs 28, 29). -/
def Obligations.VarnishConsumptionCompletes : Prop :=
  ∀ (die slot : Nat) (s : State),
    (s.varnishRuns die = true → exec (.updatingWaitEnd die slot) s = .next (s.beginConsume die slot)) ∧
    (s.shardRuns die slot = true ∧ s.sliceWhole die (s.shard die (s.slot die slot).shard) (s.sliceSlots die slot) = true ∧
      (∀ n ∈ s.sliceSlots die slot, ∃ c, s.consOf die n = some c ∧ c.kind = 0 ∧ c.decided = false) ∧ s.sliceSlots die slot ≠ [] →
      exec (.varnishNormPassDone die slot) s = .next (s.normPass die slot)) ∧
    (∀ (x : RecordRead) block h t, x.block = block ∧ h = s.shard die (s.slot die slot).shard ∧ s.shardRuns die slot = true ∧
      (s.slot die slot).role ≠ .contributor ∧ t = s.hostPair h ((s.slot die slot).first + block) x.data ∧ block < (s.slot die slot).blocks ∧ (s.slot die slot).first + block < h.blocks ∧ s.toStage die slot block = true ∧
      s.inFlight die (((s.slot die slot).first + block) % 4) < 30247 ∧
      ((s.die die).order.contains slot = true ∧ s.inOrder die slot ((s.slot die slot).first + block) = true ∨
        (s.die die).order.contains slot = false ∧ ((s.slot die slot).state = .gated ∨ (s.slot die slot).state = .resetting) ∨
        (s.slot die slot).state = .updating) ∧ (h.hostTier = true → (s.host h.port).usable s.ks.ideRequired = true ∧ x.data.length = 832) ∧
      (h.current t.mem ((s.slot die slot).first + block)).isSome = true →
      exec (.recordPrefetch die slot x) s = .next (
        let u := if h.whole ∧ (s.consOf die slot).any fun c => c.decided && c.writes && c.ortho.isEmpty then t.passOne die slot block
          else t.modDie die fun d => { d with staged := d.staged ++ [(slot, block)] }
        if (s.slot die slot).state = .updating then u.modCons die slot fun c => { c with stallUs := (u.part.tai - c.since) / 1000 } else u)) ∧
    (∀ block c h copy a, h = s.shard die (s.slot die slot).shard ∧ slot < 65536 ∧ s.consOf die slot = some c ∧ c.kind = 0 ∧
      h.current s.mem ((s.slot die slot).first + block) = some (copy, a) ∧ s.shardRuns die slot = true ∧ c.writes = true ∧
      c.todo.contains block = true ∧ s.outerPending die (s.slot die slot).shard slot ((s.slot die slot).first + block) = false ∧
      s.pairLost die (s.slot die slot).shard ((s.slot die slot).first + block) = false ∧ (s.die die).staged.contains (slot, block) = true ∧
      (h.whole = true → (mget c.ortho ((s.slot die slot).first + block)).isSome = true) →
      ((s.gradBlock die slot block).kind = .saturated → exec (.varnishBlockUpdate die slot block) s = .next (State.unstage
        (State.modCons (s.raiseHint die slot block h ((s.slot die slot).first + block) copy a) die slot fun c =>
          { c with todo := c.todo.filter (· != block) }) die slot block)) ∧
      ((s.gradBlock die slot block).kind ≠ .saturated ∧ s.wcPacked die slot = true → exec (.varnishBlockUpdate die slot block) s =
        .next ((s.updateBlock die slot block c copy a (s.gradBlock die slot block)).unstage die slot block)) ∧
      ((s.gradBlock die slot block).kind ≠ .saturated ∧ s.wcPacked die slot = false ∧ (s.wcOpen die slot).wcPacked die slot = false ∧
        (s.wcOpen die slot).wcIsOpen die slot = true → exec (.varnishBlockUpdate die slot block) s =
        .next (((s.wcOpen die slot).updateBlock die slot block c copy a ((s.wcOpen die slot).gradBlock die slot block)).unstage die slot block))) ∧
    (∀ c, s.consOf die slot = some c ∧ s.shardRuns die slot = true ∧ (s.shard die (s.slot die slot).shard).whole = true ∧ c.kind = 0 ∧
      c.writes = true ∧ c.ortho = [] ∧
      (∀ n ∈ s.sliceSlots die slot, ∃ d, s.consOf die n = some d ∧
        ∀ i, i < (s.slot die n).blocks → (mget d.moments ((s.slot die n).first + i)).isSome = true) ∧
      (∀ b ∈ (s.shard die (s.slot die slot).shard).bays, s.holds (s.shard die (s.slot die slot).shard).job 1 die b = true) →
      exec (.wholeLayerOrtho die slot) s = .next (s.orthoPass die slot)) ∧
    (∀ c d, slot < 65536 ∧ s.consOf die slot = some c ∧ s.wcDesc die slot = some d ∧ s.varnishRuns die = true ∧ c.kind ≠ 1 ∧ c.writes = true ∧
      c.todo = [] ∧ c.wcDone = false ∧ d.compressed = true ∧ (s.wcOpen die slot).wcIsOpen die slot = true →
      exec (.wcEncode die slot) s = .next (((s.wcOpen die slot).wcEncode die slot d).modCons die slot fun c => { c with wcDone := true })) ∧
    (∀ c, slot < 65536 ∧ s.consOf die slot = some c ∧ s.shardRuns die slot = true ∧ c.kind ≠ 1 ∧ c.decided = true ∧ c.done = false ∧
      c.todo = [] ∧ (c.wcDone = true ∨ c.writes = false ∨ s.wcPacked die slot = false) →
      exec (.varnishSliceDone die slot) s = .next (s.finishCons die slot (s.slot die slot).shard c)) ∧
    (s.varnishRuns die = true ∧ ((s.die die).cons.any fun c => (c.1 / 65536 == 1 || keySlot c.1 == slot) && c.2.writes) = true →
      exec (.wcReopen die slot) s = .next (s.wcOpen die slot))

/-- Detected faults, replays, arbitration, recovery, field tests, fail-stop (R303, R304, R308, R309, R313, R316, R320, R323, R324). The order of
equally near spares, the place of an arbiter's operands and how the twin learns of a damaged pair are the model's choices (logs 25, 28). -/
def Obligations.FaultHandlingCompletes : Prop :=
  ∀ (s : State), s.live = true →
    (∀ x : FaultDesc, 1 ≤ x.detector ∧ x.detector ≤ 12 ∧ x.die < s.dieCount ∧ (x.detector ≤ 4 → x.unit < 132) →
      exec (.faultDetect x) s = .next ((if x.detector = 1 ∧ s.dpaOk x.addr then s.markBad x.addr else s).fault x)) ∧
    (∀ die beat slice, die < s.dieCount ∧ ¬ (beat = true ∧ slice = true) →
      exec (.watchdogCheck die beat slice) s = .next (s.fault ⟨11, die, die, 0, false, []⟩)) ∧
    (∀ t x rest, t = s.settleHandling ∧ t.ks.queue = x :: rest ∧ t.ks.handling = [] →
      exec .queuedFaultServe s = .next (
        let u : State := { t with ks := { t.ks with queue := rest } }
        if u.absorbed x then u.logDetected x (u.domainOf x).level 7 (Config.faultStatus x.detector) 0 0 else u.firstAction x)) ∧
    (∀ b i rest fills, s.bayLive b = true ∧ (s.bay b.die b.bay).replays = i :: rest ∧ s.slotFree b = true ∧
      (s.logical b.die b.bay).isSome = true ∧ s.issueCheck b.die b.bay i = .go fills →
      exec (.replayIssue b) s = .next ((s.modBay b.die b.bay fun x => { x with replays := rest }).issueTo b.die b.bay i fills)) ∧
    (∀ b : BayRef, (s.bay b.die b.bay).waking = true → exec (.spareWakeDone b) s = .next (
      let t := s.modBay b.die b.bay fun x => { x with waking := false }
      { t with ks := { t.ks with arbs := t.ks.arbs.map fun a => if a.die = b.die ∧ a.arbiter = b.bay then { a with awake := true } else a } })) ∧
    (∀ (b : BayRef) a t r e1 e2 e3, (s.ks.arbs.find? fun a => a.die == b.die && a.bay == b.bay && a.awake) = some a ∧
      (s.bay b.die b.bay).tiles.find? (·.phase == .held) = some t ∧ (s.bay b.die b.bay).strokeOf t = some r →
      exec (.arbitrationDone b e1 e2 e3) s = .next (s.arbitrate b a t r e1 e2 e3)) ∧
    (∀ x : DamageDesc, x.die < s.dieCount → exec (.damagedDataRecovery x) s = .next (s.recoverDamage x)) ∧
    (∀ die, die < s.dieCount ∧ die ≠ s.ks.leader ∧ (s.die die).fenced = false → exec (.leaderContactLoss die) s = .next (s.fenceDie die)) ∧
    (∀ reason, exec (.partFailStop reason) s = .next (s.failStop Config.failStopDetector reason)) ∧
    (∀ unit die index pass pattern t, (s.ks.tests.find? fun t => t.unit == unit && t.die == die && t.index == index) = some t ∧ s.testMayEnd t = true →
      exec (.fieldTestDone unit die index pass pattern) s = .next (s.testDone t pass pattern))

/-- Twin and replica digests are compared and sent (R317, R318, R319). -/
def Obligations.DigestComparisonsComplete : Prop :=
  ∀ (s : State), s.live = true →
    (∀ die key obs c p, s.consOf die key = some c ∧ (s.die die).peers.find? (·.1 == key) = some p ∧ c.done = true ∧ s.consTwin die key c = false ∧
      (s.consId die key c).2.2 = p.2.1 ∧ c.stage ≠ 4 ∧ p.2.2.1 = c.gradDigest ∧ p.2.2.2 = c.updDigest →
      exec (.digestCompare die key obs) s = .next ((s.agreeSend die key c 0).agreeCons die key c)) ∧
    (∀ die key obs c p, s.consOf die key = some c ∧ (s.die die).peers.find? (·.1 == key) = some p ∧ c.done = true ∧ s.consTwin die key c = false ∧
      (s.consId die key c).2.2 = p.2.1 ∧ c.stage ≠ 4 ∧ c.kind = 0 ∧ p.2.2.1 ≠ c.gradDigest ∧ (c.stage ≠ 0 ∨ (s.slot die key).disputed = true) →
      exec (.digestCompare die key obs) s = .next (State.resetSlice (State.modDie
        ((s.logStage die c.gradDigest).agreeSend die key c 1) die fun d => { d with peers := d.peers.filter (·.1 != key) }) die key)) ∧
    (∀ die key obs c p t c', s.consOf die key = some c ∧ (s.die die).peers.find? (·.1 == key) = some p ∧ c.done = true ∧ s.consTwin die key c = false ∧
      (s.consId die key c).2.2 = p.2.1 ∧ c.stage = 0 ∧ c.kind = 0 ∧ p.2.2.1 ≠ c.gradDigest ∧ (s.slot die key).disputed = false ∧
      (s.ks.queue.any fun x => x.detector == 10 && x.die == die && x.addr == key) = false ∧
      t = s.fault ⟨10, die, 0, key, false, sub c.gradDigest 0 24⟩ ∧ t.consOf die key = some c' ∧ t.live = true ∧ c'.stage ≠ 0 →
      exec (.digestCompare die key obs) s = .next (t.digestStages die key c' p obs)) ∧
    (∀ entry g step, mget s.span.gather entry = some g ∧ g.last = some step ∧ step % (mgetD {} s.jobs g.job).period = 0 ∧
      ((s.gatherRegs g step).all fun x => (s.bay g.die x.1).allAt .dry x.2.1 x.2.2) = true →
      exec (.replicaDigestCompute entry) s = .next (s.send 0x42
        (if s.part.fencedNodes.contains g.ownerNode then g.twinNode else g.ownerNode) g.ownerDie
        (pack [(2, g.slot), (2, 0), (4, step)] ++ copyDigest s.mem (s.resolveDesc g.die 0xFF (g.desc step)))))

/-- The outer loop: forming, accepting and closing rounds, updating blocks, joining (R400, R401, R402, R403, R404, R405, R408, R409). -/
def Obligations.OuterLoopCompletes : Prop :=
  ∀ (s : State),
    (∀ frag r again, (mget s.via.frags frag).isSome = true ∧ s.varnishRuns (s.frag frag).die = true ∧ (s.outer (s.frag frag).job).period ≠ 0 ∧
      s.fragTwin (s.frag frag) = false ∧ s.fragQuiet (s.frag frag) = true ∧
      ((s.frag frag).formed = none ∧ r = s.round (s.frag frag).job ∧ again = false ∨
        (∃ p, (s.frag frag).formed = some p ∧ p ≠ s.round (s.frag frag).job ∧ r = p + 1 ∧ again = false ∧ (s.frag frag).closed = some p) ∨
        (s.frag frag).formed = some (s.round (s.frag frag).job) ∧ r = s.round (s.frag frag).job ∧ again = true ∧
          s.catchSessions (s.frag frag) r ≠ [] ∧ (∃ own, (s.frag frag).own = some own ∧ own.round = r ∧ own.catchup = false)) ∧
      (r * (s.outer (s.frag frag).job).period + (s.frag frag).off) * 10 ^ 6 ≤ s.part.tai ∧
      ((s.jobFrags (s.frag frag).job).any fun g => (s.frag g).needs) = false ∧ s.consOf (s.frag frag).die (fragKey frag) = none →
      exec (.fragmentDeltaRead frag) s = .next (s.formFragment frag r again)) ∧
    (∀ frag k own, (mget s.via.frags frag).isSome = true ∧ s.varnishRuns (s.frag frag).die = true ∧ (s.outer (s.frag frag).job).period ≠ 0 ∧
      s.fragTwin (s.frag frag) = false ∧ (s.frag frag).needs = false ∧ (s.frag frag).own = some own ∧ own.round = k ∧
      ((s.frag frag).closed = none ∧ (s.frag frag).formed = some k ∨ ∃ c, (s.frag frag).closed = some c ∧ k = c + 1) ∧
      (k + 1) * (s.outer (s.frag frag).job).period * 10 ^ 6 ≤ s.part.tai ∧ s.consOf (s.frag frag).die (fragKey frag) = none →
      exec (.roundClosing frag) s = .next (s.closeFragment frag k own)) ∧
    (∀ frag, (mget s.via.frags frag).isSome = true ∧ s.varnishRuns (s.frag frag).die = true ∧ (s.outer (s.frag frag).job).period ≠ 0 ∧
      s.fragTwin (s.frag frag) = false ∧ (s.frag frag).needs = true →
      exec (.roundClosing frag) s = .next (s.anchorAsk (s.frag frag).donor frag)) ∧
    (∀ frag block c h copy a, h = s.shard (s.frag frag).die (s.frag frag).shard ∧ s.consOf (s.frag frag).die (fragKey frag) = some c ∧
      h.current s.mem ((s.frag frag).first + block) = some (copy, a) ∧ s.varnishRuns (s.frag frag).die = true ∧ h.stopped = false ∧
      c.todo.contains block = true ∧ s.outerBehind (s.frag frag) c block = false ∧
      s.pairLost (s.frag frag).die (s.frag frag).shard ((s.frag frag).first + block) = false →
      (s.wcSlotOf (s.frag frag).die (s.frag frag).shard ((s.frag frag).first + block) = none →
        exec (.outerUpdate frag block) s = .next (s.outerBlock frag block c copy a none)) ∧
      (∀ n, s.wcSlotOf (s.frag frag).die (s.frag frag).shard ((s.frag frag).first + block) = some n ∧
        (s.wcOpen (s.frag frag).die n).wcIsOpen (s.frag frag).die n = true →
        exec (.outerUpdate frag block) s = .next ((s.wcOpen (s.frag frag).die n).outerBlock frag block c copy a (some n)))) ∧
    (∀ die m, MsgReady s die 0x64 m (decide (32 ≤ m.body.length ∧ fld m.body 2 1 < 3 ∧ fld m.body 3 1 < 4 ∧ fld m.body 0x1C 4 ≤ 16384 ∧
        fld m.body 0x18 4 + fld m.body 0x1C 4 ≤ fld m.body 0x14 4) && m.body.length == 32 + fld m.body 0x1C 4) →
      exec (.outerInput die m) s = .next ((s.outerPiece die m).1.answerWith m 0x64 (s.outerPiece die m).2)) ∧
    (∀ k msg t, s.takeMsg k msg = some t ∧ t.msgOk k 1 msg = true ∧ t.fragOk k msg = true ∧ bodyOk (msg.drop 40) (fldBe msg 0x14 4) = true →
      exec (.outerDelta k msg) s = .next (t.takeDelta k msg)) ∧
    (∀ k msg t, s.takeMsg k msg = some t ∧ t.msgOk k 2 msg = true ∧ t.fragOk k msg = true ∧ 48 ≤ msg.length ∧
      msg.length = 48 + 8 * fldBe msg 40 4 → exec (.roundClose k msg) s = .next (t.noteClose k msg)) ∧
    (∀ k msg t, s.takeMsg k msg = some t ∧ t.msgOk k 3 msg = true ∧ msg.length = 40 ∧
      (fldBe msg 0x12 2 = 0xFFFF ∨ (t.frag (fldBe msg 0x12 2)).sessions.contains k = true) →
      exec (.anchorReq k msg) s = .next (t.sendAnchors k msg)) ∧
    (∀ k msg t, s.takeMsg k msg = some t ∧ t.msgOk k 4 msg = true ∧ t.fragOk k msg = true ∧ msg.length = 40 + 192 * fldBe msg 0x14 4 →
      exec (.anchorData k msg) s = .next (t.takeAnchors msg))

/-- Session segments and timers (R386, R387, R390, R392, R393, R395, R397). -/
def Obligations.SessionSegmentsComplete : Prop :=
  ∀ (port k : Nat) (seg : List Byte) (s : State),
    (∀ place, s.segFor port 1 seg = (some k, s) ∧ fldBe seg 0x24 4 + fldBe seg 6 2 ≤ fldBe seg 0x2C 4 ∧
      ((s.sess k).rx.find? (·.id == fldBe seg 0x20 4) = none ∧ (s.sess k).room (fldBe seg 0x2C 4) = some place ∨
        ∃ m, (s.sess k).rx.find? (·.id == fldBe seg 0x20 4) = some m ∧ m.len = fldBe seg 0x2C 4 ∧ m.place = place) ∧
      after48 (fldBe seg 8 6) (s.sess k).cum = true ∧
      (s.sess k).bits.contains (fldBe seg 8 6) = false ∧ ahead48 (fldBe seg 8 6) (s.sess k).cum ≤ (s.sess k).quota →
      exec (.dataSeg port seg) s = .next (s.dataTaken k seg place)) ∧
    (s.segFor port 1 seg = (some k, s) ∧ fldBe seg 0x24 4 + fldBe seg 6 2 ≤ fldBe seg 0x2C 4 ∧
      (∀ m, (s.sess k).rx.find? (·.id == fldBe seg 0x20 4) = some m → m.len = fldBe seg 0x2C 4) ∧ after48 (fldBe seg 8 6) (s.sess k).cum = false →
      exec (.dataSeg port seg) s = .next (State.ackSend ((s.modItf port (s.sess k).itf fun i =>
        { i with duplicates := satAdd 32 i.duplicates 1 }).modSess k fun x => { x with echo := fldBe seg 0x10 8 }) k)) ∧
    (s.segFor port 2 seg = (some k, s) ∧ seg.length = 576 ∧ zeroAt seg 54 2 = true ∧ zeroAt seg 62 2 = true → exec (.ackSeg port seg) s = .next (s.ackTaken k seg)) ∧
    (s.segFor port 3 seg = (some k, s) ∧ seg.length = 112 ∧ fldBe (seg.drop 48) 0 1 = 5 ∧ fldBe (seg.drop 48) 1 1 = 0 ∧
      fldBe (seg.drop 48) 2 2 = (s.sess k).job ∧ fldBe (seg.drop 48) 0x10 1 = (s.sess k).peer ∧ fldBe (seg.drop 48) 0x11 1 = (s.sess k).local_ ∧
      fldBe (seg.drop 48) 0x18 4 = 24 ∧ zeroAt (seg.drop 48) 0x1C 12 = true ∧ zeroAt (seg.drop 48) 43 1 = true ∧
      zeroAt (seg.drop 48) 52 4 = true → exec (.datagram port seg) s = .next (s.beatTaken k (seg.drop 48))) ∧
    (s.segFor port 4 seg = (some k, s) → exec (.openSeg port seg) s = .next (
      if s.openMatches k seg then ((s.adoptEpoch k (fldBe seg 0xE 2)).openSend k 5).sessOpened k
      else (s.modSess k fun x => { x with mismatches := satAdd 32 x.mismatches 1 }).closeSend k)) ∧
    (s.segFor port 5 seg = (some k, s) → exec (.openAck port seg) s = .next (
      if s.openMatches k seg then (s.adoptEpoch k (fldBe seg 0xE 2)).sessOpened k
      else (s.modSess k fun x => { x with mismatches := satAdd 32 x.mismatches 1 }).closeSend k)) ∧
    (s.segFor port 6 seg = (some k, s) → exec (.closeSeg port seg) s = .next s) ∧
    (s.live = true ∧ (s.sess k).state = .opening → exec (.openRetry k) s = .next (s.openSend k 4)) ∧
    (s.live = true ∧ (s.sess k).state ≠ .closed ∧ (s.sess k).state ≠ .opening → exec (.heartbeatTimer k) s = .next (
      s.segSend k 3 0 0 0 0 0 0 (s.outerMsg k 5 0 (s.round (s.sess k).job) s.part.tai 0 0
        (packBe [(1, (s.sess k).state.code), (1, b2n (!(s.sess k).standby || s.part.takenOver)), (1, s.time.state.code), (1, 0),
          (4, s.round (s.sess k).job), (4, (s.outer (s.sess k).job).rejoinRound.getD noRound), (4, 0), (8, s.timeError)])))) ∧
    (s.live = true ∧ (s.sess k).state = .running ∧ (s.sess k).lastBeat + 500000000 ≤ s.part.tai →
      exec (.heartbeatLoss k) s = .next (s.suspend k)) ∧
    (∀ q e, (s.sess k).table.find? (·.seq == q) = some e ∧ s.live = true ∧ (s.sess k).state = .running ∧ s.sessFrozen k = false ∧
      e.lastTx + (s.sess k).again ≤ s.part.tai → exec (.retransmitTimer k q) s = .next (s.resendSeg k e)) ∧
    (s.live = true ∧ (s.sess k).due = true ∧ (s.sess k).state ≠ .closed → exec (.ackTimer k) s = .next (s.ackSend k))

/-- Ethernet frames, neighbor discovery, echo, path MTU and MACsec keys (R380, R381, R382, R383, R384). -/
def Obligations.InterfaceEventsComplete : Prop :=
  ∀ (port itf : Nat) (s : State), s.itfUp port itf = true →
    (∀ x : Frame, x.macControl = true → exec (.ethernetFrameReceive port itf x) s =
      .next (s.modItf port itf fun i => { i with macControl := satAdd 32 i.macControl 1 })) ∧
    (∀ x : Frame, x.macControl = false ∧ 4246 < x.len → exec (.ethernetFrameReceive port itf x) s =
      .next (s.modItf port itf fun i => { i with oversize := satAdd 32 i.oversize 1 })) ∧
    (∀ x : Frame, x.macControl = false ∧ x.len ≤ 4246 ∧ (s.itf port itf).accepts x.dstMac = true ∧ x.secured = true ∧
      ((s.itf port itf).rxAns.contains x.an = false ∨ x.icvOk = false ∨ x.pn + (s.vport port).window ≤ mgetD 0 (s.itf port itf).lastPn x.an) →
      exec (.ethernetFrameReceive port itf x) s = .next (s.modItf port itf fun i => { i with macsecDrops := satAdd 32 i.macsecDrops 1 })) ∧
    (∀ x : Frame, x.macControl = false ∧ x.len ≤ 4246 ∧ (s.itf port itf).accepts x.dstMac = true ∧ x.secured = true ∧
      (s.itf port itf).rxAns.contains x.an = true ∧ x.icvOk = true ∧ mgetD 0 (s.itf port itf).lastPn x.an < x.pn + (s.vport port).window →
      exec (.ethernetFrameReceive port itf x) s = .next (s.frameTaken port itf x)) ∧
    (∀ target, s.itfCarries port itf = true ∧ target ≠ 0 ∧ (target = (s.itf port itf).linkLocal ∨ target = (s.itf port itf).addr) →
      exec (.neighborSolicitation port itf target) s = .next (s.netSend port itf 136 (natBe 16 target))) ∧
    (∀ dst n, s.itfCarries port itf = true ∧ dst ≠ 0 ∧ (dst = (s.itf port itf).linkLocal ∨ dst = (s.itf port itf).addr) ∧
      n = (if (s.itf port itf).echoSec = s.part.tai / 10 ^ 9 then (s.itf port itf).echoes else 0) ∧ n < 100 →
      exec (.echoRequest port itf dst) s = .next (State.netSend (s.modItf port itf fun i =>
        { i with echoSec := s.part.tai / 10 ^ 9, echoes := n + 1 }) port itf 129 (natBe 16 dst))) ∧
    (∀ mtu, exec (.packetTooBig port itf mtu) s = .next (State.event (s.modItf port itf fun i => { i with tooBig := satAdd 32 i.tooBig 1 })
      evPathMtu 0 (s.viaDie port) 0 (pack [(1, port), (1, itf), (2, 0), (4, mtu)]))) ∧
    ((s.itf port itf).cakSet = true → ∀ p ps, exec (.mkaHello port itf (p :: ps)) s =
      .next (State.netSend (s.modItf port itf fun i => { i with peers := p :: ps }) port itf 0 ((p :: ps).flatMap (natBe 8)))) ∧
    ((s.itf port itf).cakSet = true → exec (.mkaHello port itf []) s = .next (State.modItf
      ((s.modItf port itf fun i => { i with peers := [] }).netSend port itf 0 []) port itf fun i =>
        { i with txAn := none, rxAns := [], retiring := none })) ∧
    ((s.itf port itf).cakSet = true ∧ (s.itf port itf).peers ≠ [] → ∀ ks, exec (.sakRotation port itf ks) s = .next (
      let t := s.modItf port itf Itf.install
      if ks then t.netSend port itf 1 (natBe 1 ((t.itf port itf).txAn.getD 0)) else t)) ∧
    (∀ an, (s.itf port itf).retiring = some an → exec (.receiveSaRetire port itf an) s =
      .next (s.modItf port itf fun i => { i with rxAns := i.rxAns.filter (· != an), retiring := none }))

/-- PPS edges, ZDA sentences, holdover and offset changes (R410, R411). -/
def Obligations.TimeEventsComplete : Prop :=
  ∀ (s : State), s.live = true →
    (∀ (edge : Nat) l err, s.time.state = .locked ∧ s.time.label = some l ∧ err = ((l + 1 + s.time.missing : Nat) : Int) * 10 ^ 9 - edge →
      exec (.ppsEdge edge) s = .next (State.moveTai (s.modTime fun t => { t with
        lastEdge := some edge, label := some (l + 1 + s.time.missing), labelled := true, missing := 0
        edgeOk := match s.time.lastEdge with | some e => decide (e + 10 ^ 9 ≤ edge + 10000 ∧ edge ≤ e + 10 ^ 9 + 10000) | none => false })
        (if err.natAbs ≤ 100000 then err + (Config.edgeError edge).val - 20 else if err < 0 then -100000 else 100000))) ∧
    (∀ edge, s.time.state ≠ .locked ∧ s.time.lastEdge = none → exec (.ppsEdge edge) s = .next (s.modTime fun t =>
      { t with lastEdge := some edge, edgeOk := false, labelled := false, missing := 0, good := 0, label := none })) ∧
    (∀ bs ms u e, zdaUtc bs = some u ∧ s.time.lastEdge = some e ∧ 100 ≤ ms ∧ ms ≤ 900 ∧ s.time.labelled = false ∧ s.time.state ≠ .locked →
      exec (.zdaSentence bs ms) s = .next (s.zdaTaken u e)) ∧
    (s.time.state = .locked ∧ s.time.missing < 2 → exec .ppsMissing s = .next (s.modTime fun t =>
      { t with missing := t.missing + 1, good := 0, edgeOk := false })) ∧
    (∀ t, s.time.state = .locked ∧ 2 ≤ s.time.missing ∧ t = s.modTime (fun t => { t with
        state := .holdover, holdStart := s.part.tai, missing := 0, good := 0, edgeOk := false, label := none, labelled := false, limited := false }) →
      exec .ppsMissing s = .next (t.event evHoldover 0 0 0 (natLe 8 t.timeError))) ∧
    (∀ t, s.time.state = .holdover ∧ s.time.limited = false ∧ s.time.limit * 10 ^ 6 < s.timeError ∧
      t = s.modTime (fun t => { t with limited := true }) →
      exec .timeErrorLimitExceeded s = .next (t.event evTimeLimit 0 0 0 (natLe 8 s.timeError))) ∧
    (∀ at_ o, s.time.change = some (at_, o) ∧ at_ ≤ s.part.tai →
      exec .taiUtcOffsetChange s = .next (s.modTime fun t => { t with offset := o, change := none }))

/-- Flits, replay, lanes, retraining and PROBE of a port (R355, R356, R357, R358, R360). -/
def Obligations.LinkEventsComplete : Prop :=
  ∀ (port : PortRef) (s : State), s.portExists port.key = true →
    ((s.port port.key).up = true ∧ (s.port port.key).training = false →
      (∀ flit t, flitOk flit = true ∧ bitOf (fld flit 0 1) 3 = false ∧ t = s.flitHead port.key flit ∧
        fld flit 1 3 % 4096 = ((t.port port.key).lastRx + 1) % 4096 →
        exec (.flitReceive port true flit) s = .next (t.flitTaken port.key (fld flit 0 1) (fld flit 1 3 % 4096) (sub flit 8 256))) ∧
      (∀ flit t, flitOk flit = true ∧ bitOf (fld flit 0 1) 3 = false ∧ t = s.flitHead port.key flit ∧
        fld flit 1 3 % 4096 ≠ ((t.port port.key).lastRx + 1) % 4096 →
        exec (.flitReceive port true flit) s = .next (t.modPort port.key Port.discard)) ∧
      (∀ ok flit, ok = false ∨ flitOk flit = false → exec (.flitReceive port ok flit) s =
        .next ((s.modPort port.key fun p => { p.discard with nackDue := true }).sendIdle port.key true 0)) ∧
      exec (.linkAckTimeout port) s = .next (s.resendFlits port.key) ∧
      ((s.port port.key).replay ≠ [] ∧ s.live = true → ∀ t, t = s.modPort port.key (fun p => { p with training := true, resends := 0 }) →
        t.live = true → exec (.replayExhausted port) s = .next (t.fault ⟨6, t.portDie port.key, port.key, 0, false, []⟩)) ∧
      (∀ lane ls, lane < 4 ∧ at' false (s.port port.key).lanes lane = true ∧ ls = setAt (s.port port.key).lanes lane false ∧
        min (s.port port.key).width (laneWidth ls) ≠ 0 → exec (.laneRemove port lane) s = .next (s.modPort port.key fun p =>
          { p with lanes := ls, width := min (s.port port.key).width (laneWidth ls), training := true })) ∧
      (s.live = true → exec (.probeTimer port) s = .next (s.sendProbe port.key))) ∧
    ((s.port port.key).training = true → exec (.portRetrainDone port false) s = .next (s.portDown port.key)) ∧
    ((s.port port.key).training = true → ∀ t, t = s.modPort port.key (fun p => { p with up := true, training := false, nackDue := false }) →
      exec (.portRetrainDone port true) s = .next (State.modPort ((t.resendFlits port.key).sendProbe port.key) port.key fun p => { p with resends := 0 })) ∧
    (s.live = true → ∀ m : SpanMsg, m.kind = 0x40 ∧ m.ecrcOk = true ∧ m.flags < 4 ∧ m.body.length = 12 → exec (.probe port m) s =
      .next (s.modPort port.key fun p => { p with probe := some ⟨fld m.body 0 2, fld m.body 2 1, fld m.body 4 8, s.part.tai⟩ }))

/-- Forwarding, fencing notices, heartbeats and takeover (R361, R374, R376, R377, R325). -/
def Obligations.PortMessagesComplete : Prop :=
  ∀ (port : PortRef) (s : State), s.live = true →
    (∀ cls (m : SpanMsg) k c, port.key < 16 ∧ s.portExists port.key = true ∧ s.part.node.isSome = true ∧ m.kind ≠ 0x40 ∧ m.ecrcOk = true ∧
      m.flags < 4 ∧ m.hops + 1 < 32 ∧ bitOf m.flags 1 = false ∧ s.part.node ≠ some m.dst ∧ s.part.fencedNodes.contains m.dst = false ∧
      s.routePort m.dst = some (k, c) ∧ k ≠ 254 → exec (.messageForward port cls m) s =
        .next (s.transmit ⟨k, max cls c, m.kind, m.flags, m.dst, m.src, m.hops + 1, m.seq, m.body⟩)) ∧
    (∀ m : SpanMsg, s.portExists port.key = true ∧ s.part.node.isSome = true ∧ m.kind = 0x41 ∧ m.ecrcOk = true ∧ m.flags < 4 ∧ m.body.length = 10 ∧
      s.part.node ≠ some (fld m.body 0 2) ∧ s.part.fencedNodes.contains (fld m.body 0 2) = false → exec (.fenced port m) s =
        .next ((s.recordFenced (fld m.body 0 2)).floodFenced (fld m.body 0 2) (fld m.body 2 8) (some port.key))) ∧
    (∀ m : SpanMsg, s.portExists port.key = true ∧ s.part.node.isSome = true ∧ m.kind = 0x41 ∧ m.ecrcOk = true ∧ m.flags < 4 ∧ m.body.length = 10 ∧
      s.part.node = some (fld m.body 0 2) → exec (.fenced port m) s = .next (s.failStop Config.failStopDetector stFenced)) ∧
    (∀ m : SpanMsg, s.portExists port.key = true ∧ s.part.node.isSome = true ∧ m.kind = 0x60 ∧ m.ecrcOk = true ∧ m.flags < 4 ∧ m.body.length = 16 ∧ s.part.twinNode = some m.src →
      exec (.heartbeat port m) s = .next { s with part := { s.part with beatSeen := true, beatsMissed := 0 }, ks := { s.ks with twinPresent := true } }) ∧
    (∀ m : SpanMsg, s.portExists port.key = true ∧ s.part.node.isSome = true ∧ m.kind = 0x61 ∧ m.ecrcOk = true ∧ m.flags < 4 ∧ m.body.length = 10 ∧ s.part.twinNode = some m.src →
      exec (.takeover port m) s = .next (s.takeOver (fld m.body 8 2))) ∧
    (∀ n t, s.part.twinNode = some n ∧ t = s.send 0x60 n 0 (pack [(8, s.part.tai), (4, s.part.beatCount), (1, 0), (1, s.ks.leader), (2, 0)]) →
      exec .heartbeatSend s = .next { t with part := { t.part with beatCount := (t.part.beatCount + 1) % 2 ^ 32 } }) ∧
    (∀ n, s.part.twinNode = some n ∧ s.part.takenOver = false ∧ s.part.beatSeen = false ∧ s.part.beatsMissed < 2 →
      exec .heartbeatMiss s = .next { s with part := { s.part with beatsMissed := s.part.beatsMissed + 1 } }) ∧
    (∀ n k t, s.part.twinNode = some n ∧ s.part.takenOver = false ∧ s.part.beatSeen = false ∧ 2 ≤ s.part.beatsMissed ∧ k < 16 ∧
      (s.port k).up = true ∧ t = { s with part := { s.part with beatsMissed := s.part.beatsMissed + 1 } } →
      exec .heartbeatMiss s = .next ((t.takeOver stHeartbeatLost).floodFenced n s.part.tai none))

/-- PUT, GET, their answers, wet-source seals and resending (R366, R367, R368, R369, R370). The fields by which a NAK of a part on the way names its
message are the model's choice (log 13). -/
def Obligations.SpanMessagesComplete : Prop :=
  ∀ (die : Nat) (m : SpanMsg) (s : State),
    (∀ u, MsgReady s die 0x11 m (respOk m) ∧ s.ackedMsg m = some u →
      exec (.putAck die m) s = .next (State.answerWith ((s.answered m).srcSettle) m 0x11 (.silent))) ∧
    (∀ u b r d, MsgReady s die 0x13 m (decide (32 ≤ m.body.length) && zeroAt m.body 0x13 13) ∧ s.ackedMsg m = some u ∧ s.strokeOfCtx u.ctx = some (b, r) ∧ d = r.desc (at' 0 u.ctx 4) ∧
      m.body.length = 32 + d.wireLen (at' 0 u.ctx 5) (at' 0 u.ctx 6) →
      exec (.getData die m) s = .next (State.answerWith (State.answered { s with mem := d.store s.mem (at' 0 u.ctx 5) (at' 0 u.ctx 6) (m.body.drop 32) } m) m 0x13 (.silent))) ∧
    (∀ u q, MsgReady s die 0x16 m (respOk m) ∧ q = s.nakAbout m ∧ s.ackedMsg q = some u ∧ ackStatus q ≠ stDeferred →
      exec (.nak die m) s = .next (State.answerWith ((s.answered q).refused u (ackStatus q)) m 0x16 (.silent))) ∧
    (∀ u k q, MsgReady s die 0x16 m (respOk m) ∧ q = s.nakAbout m ∧ s.ackedMsg q = some u ∧ ackStatus q = stDeferred ∧ k = chanKey q.src (vcOf u.kind) →
      exec (.nak die m) s = .next (State.answerWith ({ s with span := { s.span with unacked := mset s.span.unacked k ((mgetD [] s.span.unacked k).map fun x =>
        if x.seq = u.seq then { x with again := true } else x) } }) m 0x16 (.silent))) ∧
    (∀ u, MsgReady s die 0x30 m (respOk m) ∧ s.ackedMsg m = some u ∧ ackStatus m ≠ stDeferred ∧ u.ctx.head? ≠ some 5 →
      exec (.msgAck die m) s = .next (State.answerWith ((s.answered m).accepted m u.ctx) m 0x30 (.silent))) ∧
    (∀ d, s.isFrozen (masterWord 5 0 m.src) = false ∧ MsgReady s die 0x10 m (reqOk m && (decide (160 ≤ m.body.length ∧ 1 ≤ fld m.body 8 4 ∧ cdiv (fld m.body 8 4 * (parseDesc (sub m.body 32 128)).bits) 8 ≤ 16384) &&
      m.body.length == 160 + (parseDesc (sub m.body 32 128)).wireLen (fld m.body 4 4) (fld m.body 8 4))) ∧ s.remCheck die m true = .ok d ∧ s.memOn d.base = true ∧ s.putBegun die m d.regs = true →
      exec (.put die m) s = .next (State.answerWith (s.putStore die m d) m 0x10 (.ackAs 0x11 stOk))) ∧
    (∀ d, s.isFrozen (masterWord 5 0 m.src) = false ∧ MsgReady s die 0x10 m (reqOk m && (decide (160 ≤ m.body.length ∧ 1 ≤ fld m.body 8 4 ∧ cdiv (fld m.body 8 4 * (parseDesc (sub m.body 32 128)).bits) 8 ≤ 16384) &&
      m.body.length == 160 + (parseDesc (sub m.body 32 128)).wireLen (fld m.body 4 4) (fld m.body 8 4))) ∧ s.remCheck die m true = .ok d ∧ s.memOn d.base = true ∧ s.putBegun die m d.regs = false ∧ s.putBounce die d.regs = false ∧
      (∀ x ∈ d.regs, (s.bay die x.2.1).freeAt x.2.2.1 x.2.2.2 = true) ∧ s.putFull die m d.regs = false →
      exec (.put die m) s = .next (State.answerWith ((s.putBegin die m d.regs).putStore die m d) m 0x10 (.ackAs 0x11 stOk))) ∧
    (s.isFrozen (masterWord 5 0 m.src) = false ∧ MsgReady s die 0x14 m (reqOk m && m.body.length == 32) →
      exec (.srcSeal die m) s = .next (State.answerWith (s.endTargets die m SealEnt.dried) m 0x14 (.ack stOk))) ∧
    (s.isFrozen (masterWord 5 0 m.src) = false ∧ MsgReady s die 0x15 m (reqOk m && m.body.length == 32) →
      exec (.srcRetract die m) s = .next (State.answerWith (s.endTargets die m SealEnt.freed) m 0x15 (.ack stOk))) ∧
    (∀ d, s.isFrozen (masterWord 5 0 m.src) = false ∧ MsgReady s die 0x12 m (reqOk m && (m.body.length == 160 && decide (1 ≤ fld m.body 8 4 ∧ cdiv (fld m.body 8 4 * (parseDesc (sub m.body 32 128)).bits) 8 ≤ 16384))) ∧ s.remCheck die m false = .ok d ∧ s.getReady die d = true →
      exec (.get die m) s = .next (State.answerWith (s.serveGet m) m 0x12 (.served))) ∧
    (∀ d, s.isFrozen (masterWord 5 0 m.src) = false ∧ MsgReady s die 0x12 m (reqOk m && (m.body.length == 160 && decide (1 ≤ fld m.body 8 4 ∧ cdiv (fld m.body 8 4 * (parseDesc (sub m.body 32 128)).bits) 8 ≤ 16384))) ∧ s.remCheck die m false = .ok d ∧ s.getReady die d = false ∧ (s.die die).heldGets.length < 256 →
      exec (.get die m) s = .next (State.answerWith (s.modDie die fun y => { y with heldGets := mset y.heldGets y.nextHeld m, nextHeld := (y.nextHeld + 1) % 65536 }) m 0x12 (.ackAs 0x30 stDeferred))) ∧
    (∀ held, s.live = true ∧ held < 65536 ∧ mget (s.die die).heldGets held = some m ∧ s.getReady die (parseDesc (sub m.body 32 128)) = true →
      exec (.heldGetResume die held) s = .next (State.heldServed ((s.modDie die fun y => { y with heldGets := mdel y.heldGets held }).serveGet m) m)) ∧
    (s.live = true → ∀ dst chan, exec (.msgResendTimeout dst chan) s = .next (s.resendFrom dst chan fun _ => true)) ∧
    (s.live = true → ∀ dst chan seq u, u = mgetD [] s.span.unacked (chanKey dst chan) ∧ (u.any fun x => x.seq == seq && x.again) = true →
      exec (.deferredResend dst chan seq) s = .next (State.resendFrom { s with span := { s.span with
        unacked := mset s.span.unacked (chanKey dst chan) (u.map fun x => if x.seq = seq then { x with again := false } else x) } } dst chan (·.seq == seq)))

/-- All-gather, replica digests and what twins send each other (R372, R316, R317, R318, R319). The layouts of DIGESTS, AGREE and REFETCH are the
model's choice (log 13). -/
def Obligations.ReplicaMessagesComplete : Prop :=
  ∀ (die : Nat) (m : SpanMsg) (s : State),
    (∀ g, MsgReady s die 0x20 m (m.body.length == 8 && zeroAt m.body 2 2 && decide (fld m.body 0 2 < 4096)) ∧ mget s.span.gather (fld m.body 0 2) = some g ∧ (s.part.node = some g.ownerNode ∨ s.part.node = some g.twinNode) ∧ g.ownerDie = die ∧
      s.wcReady die g.slot (fld m.body 4 4) = true →
      exec (.gatherReq die m) s = .next (State.answerWith ((s.answer m 0x30 stOk).gatherServe die (fld m.body 0 2) (some m.src) m.seq) m 0x20 (.served))) ∧
    (∀ g, MsgReady s die 0x20 m (m.body.length == 8 && zeroAt m.body 2 2 && decide (fld m.body 0 2 < 4096)) ∧ mget s.span.gather (fld m.body 0 2) = some g ∧ (s.part.node = some g.ownerNode ∨ s.part.node = some g.twinNode) ∧ g.ownerDie = die ∧
      s.wcReady die g.slot (fld m.body 4 4) = false →
      exec (.gatherReq die m) s = .next (State.answerWith (s.modDie die fun y => { y with heldGathers := y.heldGathers ++ [m] }) m 0x20 (.ackAs 0x30 stDeferred))) ∧
    (∀ g step d p n incl data, MsgReady s die 0x21 m (decide (32 ≤ m.body.length) && zeroAt m.body 0x13 13) ∧ mget s.span.gather (fld m.body 4 4) = some g ∧ g.asked = some step ∧ d = s.resolveDesc g.die 0xFF (g.desc step) ∧
      p = fld m.body 8 4 ∧ n = fld m.body 12 4 ∧ p = g.got ∧ p + n ≤ d.wireTotal ∧ incl = (if p = 0 then sub m.body 32 272 else g.incl) ∧ fld incl 0 4 = step ∧
      data = m.body.drop (if p = 0 then 304 else 32) ∧ data.length = (if d.compressed then n else d.wireLen p n) →
      exec (.gatherData die m) s = .next (State.answerWith (s.gatherTaken (fld m.body 4 4) step g d p n incl data) m 0x21 (.silent))) ∧
    (∀ x, MsgReady s die 0x42 m (m.body.length == 40) ∧ (s.span.digests.find? fun x => x.1 == die && x.2.1 == fld m.body 0 2 && x.2.2.1 == fld m.body 4 4) = some x ∧ x.2.2.2 = m.body.drop 8 →
      exec (.replicaDigest die m) s = .next (State.answerWith (s) m 0x42 (.silent))) ∧
    (∀ x, MsgReady s die 0x42 m (m.body.length == 40) ∧ (s.span.digests.find? fun x => x.1 == die && x.2.1 == fld m.body 0 2 && x.2.2.1 == fld m.body 4 4) = some x ∧ x.2.2.2 ≠ m.body.drop 8 →
      exec (.replicaDigest die m) s = .next (State.answerWith ((s.event evReplicaRefetch (s.slot die (fld m.body 0 2)).job die 0 (pack [(2, fld m.body 0 2), (2, m.src), (4, fld m.body 4 4)])).send
        0x43 m.src 0 (pack [(2, fld m.body 0 2 + 4096 * die), (2, m.src), (4, fld m.body 4 4)])) m 0x42 (.silent))) ∧
    (∀ e g, MsgReady s die 0x43 m (m.body.length == 8) ∧ (s.span.gather.find? fun e => (e.2.ownerNode == m.src || e.2.twinNode == m.src) && e.2.slot == fld m.body 0 2 % 4096 &&
      e.2.ownerDie == fld m.body 0 2 / 4096 && e.2.last == some (fld m.body 4 4)) = some (e, g) →
      exec (.refetch die m) s = .next (State.answerWith (s.refetchCopy e (fld m.body 4 4) g) m 0x43 (.silent))) ∧
    (∀ key, MsgReady s die 0x62 m (m.body.length == 76) ∧ fld m.body 2 1 = die ∧ s.part.twinNode = some m.src ∧ key = consKey (fld m.body 3 1) (fld m.body 4 2) →
      exec (.digests die m) s = .next (State.answerWith (s.modDie die fun y => { y with
        peers := (y.peers.filter (·.1 != key)) ++ [(key, fld m.body 8 4, sub m.body 12 32, sub m.body 44 32)] }) m 0x62 (.ackAs 0x30 stOk))) ∧
    (∀ key c, MsgReady s die 0x63 m (m.body.length == if fld m.body 3 1 = 4 then 44 else 12) ∧ fld m.body 2 1 = die ∧ s.part.twinNode = some m.src ∧ key = consKey (fld m.body 6 2) (fld m.body 4 2) ∧
      s.consOf die key = some c ∧ (s.consId die key c).2.2 = fld m.body 8 4 ∧ c.done = true →
      exec (.agree die m) s = .next (State.answerWith (s.agreeTaken die key (fld m.body 3 1) c (sub m.body 12 32)) m 0x63 (.ackAs 0x30 stOk))) ∧
    (∀ h, MsgReady s die 0x65 m (m.body.length == 968) ∧ mget (s.die die).shards (fld m.body 0 4) = some h ∧ s.part.twinNode = some m.src ∧ fld m.body 4 4 < h.blocks →
      exec (.recordPair die m) s = .next (State.answerWith ((s.pairStore h (fld m.body 4 4) m.body).modDie die fun d => { d with pairWait := d.pairWait.filter (· != (fld m.body 0 4, fld m.body 4 4)) }) m 0x65 (.ack stOk))) ∧
    (∀ d, MsgReady s die 0x66 m (decide (8 ≤ m.body.length) && m.body.length == 8 + fld m.body 2 2 * (rawBlock (s.wcFormat die (fld m.body 0 2)).1 + 1)) ∧ s.part.twinNode = some m.src ∧ fld m.body 4 4 + fld m.body 2 2 ≤ (s.slot die (fld m.body 0 2)).blocks ∧ s.wcDesc die (fld m.body 0 2) = some d →
      exec (.wcBlocks die m) s = .next (State.answerWith (s.wcStore die (fld m.body 0 2) d m.body) m 0x66 (.ack stOk))) ∧
    (∀ idx g ready ms, s.live = true ∧ g = mgetD {} s.span.gather idx ∧ ready = (fun (x : SpanMsg) => fld x.body 0 2 == idx && s.wcReady die g.slot (fld x.body 4 4)) ∧
      ms = (s.die die).heldGathers.filter ready ∧ ms ≠ [] → exec (.heldGetResume die (65536 + idx)) s = .next (ms.foldl (fun (s : State) x => s.heldServed x)
        ((s.modDie die fun y => { y with heldGathers := y.heldGathers.filter (!ready ·) }).gatherServe die idx none 0)))

/-- Atelier: packets, segments, pictures, clips, banks, engines (R332, R333, R335, R339, R342, R343, R350, R351, R352). -/
def Obligations.AtelierEventsComplete : Prop :=
  ∀ (die n : Nat) (s : State),
    (s.streamRuns die n = true → ∀ x, x = s.stream die n →
      (∀ off, off = (if x.container = 1 then 4 else 0) ∧ x.container ≠ 2 ∧ 188 + off ≤ x.data.length ∧ fldBe x.data off 1 = 0x47 →
        exec (.tsPacket die n) s = .next (State.modStream (s.tsPacket die n ((x.data.drop off).take 188)) die n
          fun y => { y with data := y.data.drop (188 + off) })) ∧
      (∀ g rest bs, x.segs = g :: rest ∧ s.holdsRange x.job 3 x.port g.addr g.len = true ∧ (s.host x.port).usable s.ks.ideRequired = true ∧
        bs.length = g.len → exec (.segmentRead die n (some bs)) s = .next (s.modStream die n fun x => { x with
          segs := rest, data := if x.container = 2 then [] else x.data ++ bs, discAt := x.discAt || bitOf g.flags 1
          state := if bitOf g.flags 0 then .ending else x.state })) ∧
      (∀ pic : Picture, (at' {} (s.die die).engines x.engine).fenced = false ∧ (at' {} (s.die die).engines x.engine).testing = false ∧
        (s.pool die x.pool).canTake = true →
        (pic.unsupported = false ∧ x.damages pic = false ∧ x.drops pic = false ∧ (x.usePicture pic).2 = true →
          exec (.pictureDecode die n pic) s = .next (s.modStream die n fun _ => (x.usePicture pic).1)) ∧
        (pic.unsupported = false ∧ (x.damages pic = true ∨ x.drops pic = true) →
          exec (.pictureDecode die n pic) s = .next (s.modStream die n fun _ => x.dropPicture pic)) ∧
        (pic.unsupported = true → exec (.pictureDecode die n pic) s =
          .next (s.streamStop die n stUnsupported (((x.timing pic).1.or x.lastPts).getD 0)))) ∧
      (x.state = .ending ∧ x.segs = [] ∧ x.drained = true ∧ x.ready = [] → ∀ t,
        t = State.modStream (x.audio.foldl (fun (s : State) a => if fldBe a.2 4 2 = 0 then s.audioRecord die n a.1 a.2 else s) s) die n (fun x => { x.count 5 x.clips.length with clips := [], audio := [], state := .ended }) →
        exec (.streamEnd die n) s = .next (t.event evStreamEnd x.job die 0 (pack [(1, n), (3, 0)] ++ (t.stream die n).counterBytes)))) ∧
    (s.live = true ∧ die < s.dieCount →
      (∀ pool q x c rest, q = s.pool die pool ∧ x = s.stream die n ∧ x.ready = c :: rest ∧ (mget (s.die die).pools pool).isSome = true ∧
        s.poolsRun die = true ∧ s.isFrozen (masterWord 4 die n) = false ∧ q.streams.contains n = true ∧ q.canTake = true ∧
        (fld q.raw 1 1 = 0 → (s.turnOf die pool).map (·.2) = some n) →
        exec (.clipComplete die pool n) s = .next (s.clipTaken die pool n q x c rest)) ∧
      ((mget (s.die die).pools n).isSome = true ∧ s.poolsRun die = true ∧ (s.pool die n).filled = (s.pool die n).slots ∧
        at' false (s.pool die n).bankFree ((s.pool die n).pass % 2) = true ∧ s.notifyRoom die (s.pool die n).job = true →
        exec (.bankReady die n) s = .next (s.bankDone die n)) ∧
      (∀ pass, (s.pool die n).asked.contains pass = true → exec (.bankRelease die n pass) s = .next (s.modPool die n fun q =>
        if q.ready.contains pass then { q with
          asked := q.asked.erase pass, ready := q.ready.filter (· != pass), bankFree := setAt q.bankFree (pass % 2) true }
        else { q with asked := q.asked.erase pass, ignored := satAdd 32 q.ignored 1 })) ∧
      (n < 4 ∧ (at' {} (s.die die).engines n).fenced = false → ∀ k, k = (at' {} (s.die die).engines n).faults + 1 →
        exec (.engineFault die n) s = .next (
          let t := s.modDie die fun d => { d with engines := d.engines.modify n fun e => { e with faults := k, fenced := decide (2 ≤ k) } }
          if k < 2 then t else t.moveStreams die n)))

/-- Host reads and writes of registers, mailboxes and the device-memory window (R416, R417, R418, R422, R424, R428, R434). That the wake of a memory
is part of the access is the model's choice (log 29). -/
def Obligations.HostAccessesComplete : Prop :=
  ∀ (p : Nat) (s : State), s.hostLinked p = true ∧ s.hostUr p = false ∧ (s.host p).frozen = false →
    (∀ v, exec (.hifCtrl p v) s = .next (s.modHost p fun h => { h with ctrl := v.toNat % 4 })) ∧
    (∀ v, exec (.mbxDone p v) s = .next (s.modHost p fun h => { h with done := h.done &&& (v.toNat ^^^ (2 ^ 32 - 1)) })) ∧
    (∀ off size v, bar0Sized off size = false → exec (.registerWrite p off size v) s = .next (s.countHost p 3)) ∧
    (∀ off v, bar0Sized off 4 = true → exec (.registerWrite p off 4 v) s = .next (s.writeWord p off (v.toNat % 2 ^ 32))) ∧
    (∀ off v, bar0Sized off 8 = true → exec (.registerWrite p off 8 v) s =
      .next ((s.writeWord p off (v.toNat % 2 ^ 32)).writeWord p (off + 4) (v.toNat / 2 ^ 32))) ∧
    (∀ off size, bar0Sized off size = false → exec (.bar0BadSize p off size false) s = .next ((s.complete p (some (zeros size))).countHost p 3)) ∧
    (∀ off size, bar0Sized off size = false → exec (.bar0BadSize p off size true) s = .next (s.countHost p 3)) ∧
    (∀ off v, s.bar0Wide p off = some v → exec (.bar0LowHalfRead p off) s = .next (State.modHost (s.complete p (some (natLe 4 (v % 2 ^ 32)))) p
      fun h => { h with latch := some (off + 4, v / 2 ^ 32 % 2 ^ 32) })) ∧
    (∀ v, v < 64 → exec (.msixVectorUnmask p v) s = .next (s.msixWrite p (4 * v + 3) 0)) ∧
    (∀ off data, data ≠ [] ∧ off + data.length ≤ 0x40000 ∧ (∀ i, i < data.length → (off + i) % 0x2000 < 0x1000 ∧
      bitOf (s.host p).busy ((off + i) / 0x2000) = false) → exec (.mailboxRequestWrite p off data) s = .next (s.modHost p fun h => h.mbxWrite off data)) ∧
    (∀ v body m, m = v.toNat % 32 ∧ bitOf (s.host p).ctrl 0 = true ∧ (s.part.state = 2 ∨ s.part.state = 3) ∧ bitOf (s.host p).busy m = false ∧
      hdrOk ((s.host p).mbxBytes (0x2000 * m) 32) = true → exec (.mbxPost p v body) s =
        .next (State.admitCmd (State.modHost { s with part := { s.part with posts := s.part.posts + 1 } } p
          fun h => { h with busy := h.busy ||| 2 ^ m, done := h.done &&& (2 ^ m ^^^ (2 ^ 32 - 1)) }) (s.postedCmd p m body))) ∧
    (∀ off n a, s.winCovers p off n = true ∧ s.hostFenced p = false ∧ a = ((s.winBytes p off n).head?.map (·.2)).getD 0 ∧
      (∀ x ∈ s.winBytes p off n, s.winRule1 false x = false ∧ s.winRule2 x = false ∧ s.winRule3 x = false) →
      ((∀ x ∈ s.winBytes p off n, s.badWord x.2 = false) →
        exec (.bar4Read p off n) s = .next ((s.memWake a).complete p (some ((s.winBytes p off n).map fun x => s.winByte x.2)))) ∧
      (∀ x, (s.winBytes p off n).find? (fun x => s.badWord x.2) = some x → exec (.bar4Read p off n) s = .next (State.complete
        (s.logFault ⟨0, 1, 1, 0, dpaDie x.2, 0, Config.faultStatus 1, 0, dpaBay x.2, 0, 0, x.2, []⟩) p none))) ∧
    (∀ off data a as t, s.winCovers p off data.length = true ∧ s.hostFenced p = false ∧ as = (s.winBytes p off data.length).map (·.2) ∧
      a = as.head?.getD 0 ∧ t = s.memWake a ∧ (∀ x ∈ s.winBytes p off data.length, s.winRule1 true x = false ∧
      s.winRule2 x = false ∧ s.winRule3 x = false ∧ s.winRule4 x = false ∧ s.winRule5 x = false) ∧
      (∀ x ∈ as, t.badWord x = false ∨ (∀ i, i < 4 → as.contains (x / 4 * 4 + i) = true)) → exec (.bar4Write p off data) s =
        .next (State.wrote { t with mem := (List.zip as data).foldl (fun m x => wrByte m x.1 x.2) t.mem } a data.length)) ∧
    (∀ m c, (s.host p).posted.find? (·.mailbox == m) = some c ∧ s.admitFree (s.hostDie p) c.standing = true → exec (.commandAdmit p m) s =
      .next (State.modDie (s.modHost p fun h => { h with posted := h.posted.erase c }) (s.hostDie p) fun d => { d with admitted := d.admitted ++ [c] }))

/-- Host links, resets, failover, completion timeouts, DOE and IDE (R413, R423, R425, R426, R427). -/
def Obligations.HostPortEventsComplete : Prop :=
  ∀ (p : Nat) (s : State),
    (s.hostLinked p = true → exec (.functionLevelReset p) s = .next (s.resetPort p)) ∧
    (p < 2 → exec (.linkDown p .d3hot) s = .next (State.stopTier (State.modHost (s.resetPort p) p fun h =>
      { h with d3hot := true, downSince := h.downSince.or (some (s.resetPort p).part.tai) }) p)) ∧
    (p < 2 → ∀ why, why ≠ .d3hot → exec (.linkDown p why) s = .next (State.stopTier (State.modHost (s.resetPort p) p fun h =>
      { h with linkUp := false, ideSecure := [], downSince := h.downSince.or (some (s.resetPort p).part.tai) }) p)) ∧
    (p < 2 ∧ s.part.porN = true → ∀ rate width flit msix i, i < 10 → exec (.hostLinkUp p rate width flit msix (2 ^ (30 + i))) s =
      .next (State.flushVectors (s.modHost p fun h => { h with
        linkUp := true, d3hot := false, rate := rate, width := width, flit := flit || rate == 6, msixEnable := msix, bar4 := 2 ^ (30 + i)
        downSince := if h.frozen || h.ideDown then h.downSince else none }) p)) ∧
    ((s.part.state = 2 ∨ s.part.state = 3) ∧ (s.host s.ks.primary).linkUp = false ∧ (s.host (1 - s.ks.primary)).linkUp = true →
      ∀ t, (s.host s.ks.primary).downSince = some t ∧ t + 1000000000 ≤ s.part.tai → exec .primaryFailover s = .next (
        State.event { s with ks := { s.ks with primary := 1 - s.ks.primary } } evPrimary 0 (s.hostDie (1 - s.ks.primary)) 0
          (natLe 1 (1 - s.ks.primary)))) ∧
    (p < 2 ∧ s.live = true →
      (∀ die n, n < 64 ∧ die < 8 ∧ s.streamRuns die n = true ∧ (s.stream die n).port = p ∧ (s.stream die n).segs ≠ [] →
        exec (.completionTimeout p (64 * die + n)) s = .next (s.streamStop die n stHostIo ((s.stream die n).lastPts.getD 0))) ∧
      (∀ die n h, n < 1024 ∧ die < 8 ∧ mget (s.die die).shards n = some h ∧ h.hostTier = true ∧ h.port = p ∧ h.stopped = false →
        exec (.completionTimeout p (512 + 1024 * die + n)) s = .next (s.fault ⟨9, die, n, 0, false, []⟩)) ∧
      (∀ m late, m < 32 ∧ late = (fun (c : Cmd) => if c.port = p ∧ c.mailbox = m ∧ bitOf c.flags 0 then { c with hostErr := true } else c) →
        ∀ t, t = s.modHost p (fun h => { h with posted := h.posted.map late }) → exec (.completionTimeout p (16384 + m)) s =
          .next { t with dies := t.dies.map fun d => (d.1, { d.2 with admitted := d.2.admitted.map late }) })) ∧
    (s.hostLinked p = true →
      exec (.doeObject p .done) s = .next (s.modHost p fun h => { h with doeBusy := false }) ∧
      ((s.host p).doeBusy = true → ∀ x, x ≠ .done → exec (.doeObject p x) s = .next (s.modHost p fun h => { h with doeIgnored := h.doeIgnored + 1 })) ∧
      ((s.host p).doeBusy = false → exec (.doeObject p .begun) s = .next (s.modHost p fun h => { h with doeBusy := true })) ∧
      ((s.host p).doeBusy = false ∧ s.ks.identityOk = true → ∀ r, exec (.doeObject p (.spdm r)) s =
        .next { s with out := { s.out with doe := s.out.doe ++ [(p, s.spdmAnswer r)] } }) ∧
      ((s.host p).doeBusy = false → ∀ n, n < 5 → exec (.doeObject p (.ideKeyed n)) s = .next (s.modHost p fun h => { h with
        ideSecure := if h.ideSecure.contains n then h.ideSecure else h.ideSecure ++ [n], ideDown := false
        downSince := if h.linkUp && !h.d3hot && !h.frozen then none else h.downSince })) ∧
      (∀ n, (s.host p).ideSecure.contains n = true → exec (.ideIntegrityFail p n) s = .next (State.stopTier (State.modHost ((s.countHost p 6).resetPort p) p fun h => { h with
        ideSecure := h.ideSecure.filter (· != n), ideDown := true, downSince := h.downSince.or (some s.part.tai) }) p)))

/-- DEV- and MEM- commands (R429, R430, R433, R440, R422, R97). -/
def Obligations.DeviceAndMemoryCommandsComplete : Prop :=
  ∀ (x : CmdRef) (c : Cmd) (s t : State),
    (CmdReady s x 1 1 c t ∧ c.body = [] →
      exec (.devInfo x) s = .next (State.respond (t) c stOk (t.infoBody))) ∧
    (∀ die, CmdReady s x 1 2 c t ∧ die = fld c.body 0 1 ∧ c.body.length = 4 ∧ die < t.dieCount ∧ zeroAt c.body 1 3 = true →
      exec (.devBays x) s = .next (State.respond (t) c stOk (t.bayBody die))) ∧
    (CmdReady s x 1 3 c t ∧ c.body = [] →
      exec (.devProbes x) s = .next (State.respond (t) c stOk (t.probesBody))) ∧
    (CmdReady s x 1 4 c t ∧ c.body.length = 2 ∧ fld c.body 0 2 < 4096 ∧ t.jobs = [] →
      exec (.devNode x) s = .next (State.respond ({ t with part := { t.part with node := some (fld c.body 0 2) } }) c stOk)) ∧
    (∀ dpa, CmdReady s x 2 1 c t ∧ dpa = fld c.body 4 8 ∧ c.body.length = 12 ∧ fld c.body 0 2 < 512 ∧ fld c.body 2 1 < 4 ∧ zeroAt c.body 3 1 = true ∧ dpa % 2 ^ 30 = 0 ∧ dpa < 2 ^ 48 ∧ t.dpaOk dpa = true →
      exec (.memWindow x) s = .next (State.respond (t.modHost c.port fun h => { h with wins := mset h.wins (fld c.body 0 2) {
        job := c.job, base := dpa / 2 ^ 30, writable := bitOf (fld c.body 2 1) 1
        valid := bitOf (fld c.body 2 1) 0, stamp := t.ks.retirements } }) c stOk)) ∧
    (∀ die b a n u, CmdReady s x 2 2 c t ∧ u = t.modBay die b (fun y => y.register a n .dry .none) ∧ t.memRange c = .ok (die, b, a, n) ∧ (t.bay die b).freeAt a n = true ∧ (t.bay die b).sealCount < 1024 →
      exec (.memDry x) s = .next (State.respond (u) c stOk (natLe 4 ((((u.bay die b).seals.find? fun e => e.start == a && e.state == .dry).map (·.gen)).getD 0)))) ∧
    (∀ die b a n u, CmdReady s x 2 3 c t ∧ u = t.modBay die b (fun y => y.freeDry a n) ∧ t.memRange c = .ok (die, b, a, n) ∧ (t.bay die b).dryWhole a n = true ∧ (u.bay die b).releasing a n = false →
      exec (.memFree x) s = .next (State.respond (u) c stOk)) ∧
    (∀ die b a n u, CmdReady s x 2 3 c t ∧ u = t.modBay die b (fun y => y.freeDry a n) ∧ t.memRange c = .ok (die, b, a, n) ∧ (t.bay die b).dryWhole a n = true ∧ (u.bay die b).releasing a n = true →
      exec (.memFree x) s = .next ((u).keepWork c))

/-- JOB- commands, responses and the ends of deferred commands (R417, R429, R430, R435, R440). -/
def Obligations.JobCommandsComplete : Prop :=
  ∀ (x : CmdRef) (c : Cmd) (s t : State),
    (∀ gs u, CmdReady s x 3 1 c t ∧ u = t.bayGiven c.job gs ∧ fld c.body 0 1 < 4 ∧ t.grantList c = .ok gs ∧ mget t.jobs c.job = none ∧ t.jobs.length < 256 ∧ t.grantedElsewhere c.job gs = false →
      exec (.jobCreate x) s = .next (State.respond ({ u with jobs := mset u.jobs c.job (newJob c.body gs) }) c stOk)) ∧
    (∀ gs, CmdReady s x 3 2 c t ∧ zeroAt c.body 0 1 = true ∧ zeroAt c.body 2 2 = true ∧ t.grantList c = .ok gs ∧ t.grantedElsewhere c.job gs = false →
      exec (.jobGrant x) s = .next (State.respond ((t.bayGiven c.job gs).modJob c.job fun j => { j with grants := j.grants ++ gs }) c stOk)) ∧
    (∀ gs, CmdReady s x 3 3 c t ∧ zeroAt c.body 0 1 = true ∧ zeroAt c.body 2 2 = true ∧ t.grantList c = .ok gs ∧ gs.all (t.holdsGrant c.job) = true ∧ gs.any (t.grantUsed c.job) = false →
      exec (.jobRevoke x) s = .next (State.respond (t.ungrant c.job gs) c stOk)) ∧
    (∀ gs, CmdReady s x 3 3 c t ∧ zeroAt c.body 0 1 = true ∧ zeroAt c.body 2 2 = true ∧ t.grantList c = .ok gs ∧ gs.all (t.holdsGrant c.job) = true ∧ gs.any (t.grantUsed c.job) = true →
      exec (.jobRevoke x) s = .next ((t).keepWork c)) ∧
    (CmdReady s x 3 4 c t ∧ c.body = [] ∧ (t.endJob c.job).jobBusy c.job = false →
      exec (.jobDestroy x) s = .next (State.respond ((t.endJob c.job).destroyJob c.job) c stOk)) ∧
    (CmdReady s x 3 4 c t ∧ c.body = [] ∧ (t.endJob c.job).jobBusy c.job = true →
      exec (.jobDestroy x) s = .next ((t.endJob c.job).keepWork c)) ∧
    (CmdReady s x 3 5 c t ∧ c.body = [] →
      exec (.jobStatus x) s = .next (State.respond (t) c stOk (t.jobBody c.job))) ∧
    (∀ p m ok r, p < 2 ∧ s.readyResp p m = some r → exec (.mailboxResponse p m ok) s = .next (
      State.writeResponse (s.modHost p fun h => { h with resps := h.resps.erase r }) p r ok)) ∧
    (∀ p m token e, (s.deferreds.find? fun e => e.2.cmd.port == p && e.2.cmd.mailbox == m && e.2.token.isNone) = some e ∧
      ((s.die e.1).deferred.any (·.token == some token)) = false ∧ token < 2 ^ 32 → exec (.deferralTimeout p m token) s = .next (State.respond
        (s.modDie e.1 fun d => { d with deferred := d.deferred.map fun y => if y = e.2 then { y with token := some token } else y })
        e.2.cmd stDeferred [] 0 (e.1 * 2 ^ 32 + token))) ∧
    (∀ die token e, (s.die die).deferred.find? (·.token == some token) = some e ∧ e.result.isSome = true ∧
      ((s.die die).deferred.find? fun e => e.token == some token && e.result.isSome) = some e →
      exec (.deferredCommandEnd die token) s = .next (s.cmdDone die token e))

/-- PRG- and RUN- commands (R111, R135, R141, R142, R143, R504). That the loader does not hold the header's strict bit against the instructions is the
model's choice (log 28). -/
def Obligations.ProgramAndRunCommandsComplete : Prop :=
  ∀ (x : CmdRef) (c : Cmd) (s t : State),
    (∀ id die img n, CmdReady s x 4 1 c t ∧ die = fld c.body 0 1 ∧ n = pickFree (t.die die).images id 65536 ∧ 4 ≤ c.body.length ∧ die < t.dieCount ∧ zeroAt c.body 1 3 = true ∧ loadStroke t.dieCount t.part.lpddr c.job (c.body.drop 4) = .ok img ∧ (t.die die).images.length < 4096 →
      exec (.prgStroke x id) s = .next (State.respond (t.modDie die fun d => { d with images := mset d.images n img }) c stOk (pack [(2, n), (2, 0), (4, img.work)]))) ∧
    (∀ id die g n, CmdReady s x 4 2 c t ∧ die = fld c.body 0 1 ∧ n = pickFree (t.die die).graphs id 64 ∧ 4 ≤ c.body.length ∧ die < t.dieCount ∧ zeroAt c.body 1 3 = true ∧ loadGraph t.dieCount (t.die die).images c.job (c.body.drop 4) = .ok g ∧ (t.die die).graphs.length < 64 →
      exec (.prgGraph x id) s = .next (State.respond (t.modDie die fun d => { d with graphs := mset d.graphs n g }) c stOk (natLe 2 n))) ∧
    (∀ die n i, CmdReady s x 4 3 c t ∧ die = fld c.body 0 1 ∧ n = fld c.body 2 2 ∧ c.body.length = 4 ∧ die < t.dieCount ∧ fld c.body 1 1 = 0 ∧ mget (t.die die).images n = some i ∧ i.job = c.job ∧ ((t.activeRuns die).any fun r => (strokeRefs (mgetD {} (t.die die).graphs r.2.graph).nodes).contains n) = false →
      exec (.prgUnload x) s = .next (State.respond (t.modDie die fun d => { d with images := mdel d.images n }) c stOk)) ∧
    (∀ die n g, CmdReady s x 4 3 c t ∧ die = fld c.body 0 1 ∧ n = fld c.body 2 2 ∧ c.body.length = 4 ∧ die < t.dieCount ∧ fld c.body 1 1 = 1 ∧ mget (t.die die).graphs n = some g ∧ g.job = c.job ∧ ((t.activeRuns die).any fun r => r.2.graph == n) = false →
      exec (.prgUnload x) s = .next (State.respond (t.modDie die fun d => { d with graphs := mdel d.graphs n }) c stOk)) ∧
    (∀ id die n g k, CmdReady s x 5 1 c t ∧ die = fld c.body 0 1 ∧ n = fld c.body 2 2 ∧ k = (if (t.freeRuns die).contains id then id else (t.freeRuns die).headD 0) ∧ c.body.length = 4 ∧ die < t.dieCount ∧ mget (t.die die).graphs n = some g ∧ g.job = c.job ∧ t.imagesOf die c.job g = true ∧ (g.bays.all fun l => t.holds c.job 1 die l) = true ∧ zeroAt c.body 1 1 = true ∧ freeFault (t.die die).images g.nodes = none ∧ t.baysTaken die c.job g = false ∧ t.freeRuns die ≠ [] →
      exec (.runStart x id) s = .next (State.respond (t.modDie die fun d => { d with runs := mset d.runs k { graph := fld c.body 2 2, job := c.job } }) c stOk (natLe 1 k))) ∧
    (∀ die r u, CmdReady s x 5 2 c t ∧ u = t.stopRun die r ∧ t.okRun c = .ok (die, r) ∧ (u.openOf die r).isEmpty = true →
      exec (.runStop x) s = .next (State.respond (u) c stOk (natLe 2 (u.run die r).node))) ∧
    (∀ die r u, CmdReady s x 5 2 c t ∧ u = t.stopRun die r ∧ t.okRun c = .ok (die, r) ∧ (u.openOf die r).isEmpty = false →
      exec (.runStop x) s = .next ((u).keepWork c)) ∧
    (∀ die r, CmdReady s x 5 3 c t ∧ t.okRun c = .ok (die, r) →
      exec (.runStatus x) s = .next (State.respond (t) c stOk ((t.run die r).statusBody))) ∧
    (∀ die r, CmdReady s x 5 4 c t ∧ die = fld c.body 0 1 ∧ c.body.length = 8 ∧ die < t.dieCount ∧ (t.bay die (t.phys die (fld c.body 1 1))).recordAt c.job (fld c.body 4 4) = some r ∧ t.holds c.job 1 die (fld c.body 1 1) = true ∧ zeroAt c.body 2 2 = true →
      exec (.runRecord x) s = .next (State.respond (t) c stOk (r.bytes))) ∧
    (∀ die, CmdReady s x 5 5 c t ∧ die = fld c.body 0 1 ∧ c.body.length = 20 ∧ die < t.dieCount ∧ zeroAt c.body 1 1 = true ∧ ((t.poolOfTag die c.job (fld c.body 2 2)).isSome || t.notifyRoom die c.job) = true →
      exec (.runNotify x) s = .next (State.respond (t.notify die c.job (fld c.body 2 2) ((List.range 4).map fun i => fld c.body (4 + 4 * i) 4)) c stOk))

/-- ATL- commands (R331, R332, R337, R341, R348, R349). -/
def Obligations.AtelierCommandsComplete : Prop :=
  ∀ (x : CmdRef) (c : Cmd) (s t : State),
    (∀ die y n p e, CmdReady s x 6 1 c t ∧ die = fld c.body 0 1 ∧ y = newStream c.job (sub c.body 4 128) ∧ n = fld (sub c.body 4 128) 0 1 ∧ c.body.length = 132 ∧ die < t.dieCount ∧ mget (t.die die).pools y.pool = some p ∧ p.job = c.job ∧ (t.holds c.job 6 die n && (y.audioBase == 0 || t.holdsRange c.job 3 y.port y.audioBase y.audioBytes)) = true ∧ zeroAt c.body 1 3 = true ∧ AllHold (streamFields c.job y) ∧ y.sample = p.elems ∧ (∀ z ∈ (t.die die).streams, z.2.pool = y.pool → z.2.fmt = y.fmt) ∧ mget (t.die die).streams n = none ∧ t.poolsFit die y.pool y.fmt p = true ∧ t.engineFor die = some e →
      exec (.atlStream x) s = .next (
        if t.areaFits die (Config.workArea (sub c.body 4 128)).toNat = true then State.respond (t.modDie die fun d => { d with streams := mset d.streams (fld (sub c.body 4 128) 0 1) { newStream c.job (sub c.body 4 128) with engine := e } }) c stOk (natLe 8 (Config.workArea (sub c.body 4 128)).toNat)
        else t.refuse c 0)) ∧
    (∀ bs die n y k, CmdReady s x 6 2 c t ∧ k = fld c.body 2 2 ∧ c.body.length = 16 ∧ t.okStream c 1 = .ok (die, n, y) ∧ t.holdsRange c.job 3 y.port (fld c.body 8 8) (16 * k) = true ∧ (1 ≤ k ∧ k ≤ 256) ∧ zeroAt c.body 4 4 = true ∧ (y.state == .running && !y.segs.any fun g => bitOf g.flags 0) = true ∧ y.segs.length + k ≤ 1024 ∧ bs.length = 16 * k ∧ (t.host y.port).usable t.ks.ideRequired = true ∧ segmentsOk bs k = true →
      exec (.atlSubmit x (some bs)) s = .next (State.respond (t.modStream die n fun y => { y with segs := y.segs ++ segmentList bs (fld c.body 2 2) }) c stOk (natLe 4 (y.segs.length + fld c.body 2 2)))) ∧
    (∀ die p n, CmdReady s x 6 3 c t ∧ die = fld c.body 0 1 ∧ p = ({ raw := sub c.body 4 128, job := c.job } : Pool) ∧ n = fld p.raw 0 1 ∧ c.body.length = 132 ∧ die < t.dieCount ∧ t.holds c.job 7 die n = true ∧ zeroAt c.body 1 3 = true ∧ AllHold (poolFields c.job die p) ∧ mget (t.die die).pools n = none ∧ t.poolsFit die n (t.newPoolFmt die p) p = true ∧ t.holdsRange c.job 2 die (fld p.raw 8 8 % 2 ^ 44) (p.bytes (t.newPoolFmt die p)) = true →
      exec (.atlPool x) s = .next (State.respond (t.modDie die fun d => { d with pools := mset d.pools n p }) c stOk)) ∧
    (∀ die n y, CmdReady s x 6 4 c t ∧ c.body.length = 16 ∧ t.okStream c 1 = .ok (die, n, y) ∧ (fld c.body 8 8 == 0 || t.holdsRange c.job 3 y.port (fld c.body 8 8) (fld c.body 4 4)) = true ∧ zeroAt c.body 2 2 = true ∧ fld c.body 4 4 % 16 = 0 →
      exec (.atlAudio x) s = .next (State.respond (t.modStream die n fun y => { y with audioBase := fld c.body 8 8, audioBytes := fld c.body 4 4, audioPos := 0, audioFull := false }) c stOk)) ∧
    (∀ die d n y, CmdReady s x 6 5 c t ∧ die = fld c.body 0 1 ∧ c.body.length = 4 ∧ die < t.dieCount ∧ fld c.body 1 1 = 0 ∧ t.okStream c 2 = .ok (d, n, y) ∧ zeroAt c.body 3 1 = true →
      exec (.atlClose x) s = .next (State.respond (t.modDie die fun d => { d with streams := mdel d.streams (fld c.body 2 1) }) c stOk (y.counterBytes))) ∧
    (∀ die n p, CmdReady s x 6 5 c t ∧ die = fld c.body 0 1 ∧ n = fld c.body 2 1 ∧ c.body.length = 4 ∧ die < t.dieCount ∧ fld c.body 1 1 = 1 ∧ mget (t.die die).pools n = some p ∧ p.job = c.job ∧ zeroAt c.body 3 1 = true ∧ ((t.die die).streams.any fun y => y.2.pool == n) = false →
      exec (.atlClose x) s = .next (State.respond (t.modDie die fun d => { d with pools := mdel d.pools n }) c stOk)) ∧
    (∀ d n y, CmdReady s x 6 6 c t ∧ c.body.length = 2 ∧ t.okStream c 1 = .ok (d, n, y) →
      exec (.atlStatus x) s = .next (State.respond (t) c stOk (y.counterBytes)))

/-- COL- commands (R244, R245, R246, R266, R271, R361, R363, R372). -/
def Obligations.CollectiveCommandsComplete : Prop :=
  ∀ (x : CmdRef) (c : Cmd) (s t : State),
    (∀ die r n b, CmdReady s x 7 1 c t ∧ die = fld c.body 0 1 ∧ r = sub c.body 4 64 ∧ n = fld r 0 2 ∧ b = t.bay die (t.phys die (fld r 0x10 1)) ∧ 68 ≤ c.body.length ∧ die < t.dieCount ∧ (t.holds c.job 4 die n && t.holds c.job 1 die (fld r 0x10 1)) = true ∧ zeroAt c.body 1 3 = true ∧ AllHold (t.slotFields c.job die r) ∧ (if (slotHints c.body).isEmpty then fld r 3 1 != 0 else (slotHints c.body).length == fld r 0x1C 4) = true ∧ ((slotHints c.body).findIdx? fun a => a == 0 || a == 255) = none ∧ (t.slot die n).state = .free ∧ (t.slot die n).opening = none ∧ (b.freeAt (fld r 0x14 4) (256 * fld r 0x1C 4) && b.freeAt (fld r 0x18 4) (fld r 0x1C 4)) = true →
      exec (.colSlot x) s = .next (State.respond (State.openSlot (t.modSlot die n fun sl => sl.described r) die n (fld r 8 4) (slotHints c.body)) c stOk)) ∧
    (∀ d n sl, CmdReady s x 7 2 c t ∧ c.body.length = 4 ∧ t.okSlot c 2 = .ok (d, n, sl) ∧ zeroAt c.body 1 1 = true →
      exec (.colRead x) s = .next (State.respond (t) c stOk (sl.descBytes n ++ sl.statusBytes))) ∧
    (∀ die n sl, CmdReady s x 7 3 c t ∧ c.body.length = 4 ∧ t.okSlot c 2 = .ok (die, n, sl) ∧ zeroAt c.body 1 1 = true ∧ (sl.state != .gated && sl.state != .updating && sl.state != .resetting) = true →
      exec (.colFree x) s = .next (State.respond (t.freeSlotOf die n) c stOk)) ∧
    (∀ a n, CmdReady s x 7 4 c t ∧ a = fld c.body 0 2 ∧ n = fld c.body 2 2 ∧ c.body.length = 4 + 4 * n ∧ a + n ≤ 4096 ∧ ((routeList c.body n).all fun e => !bitOf e 15 || (t.portExists (e % 16) && t.portExists (e / 16 % 16))) = true →
      exec (.colRoute x) s = .next (State.respond (t.setRoutes a (routeList c.body n)) c stOk)) ∧
    (CmdReady s x 7 5 c t ∧ c.body.length = 4 ∧ fld c.body 1 1 < 4 ∧ ((List.range 16).all fun k => !bitOf (fld c.body 2 2) k || t.portExists k) = true →
      exec (.colMcast x) s = .next (State.respond ({ t with span := { t.span with mcast := mset t.span.mcast (fld c.body 0 1) { valid := bitOf (fld c.body 1 1) 0, toSelf := bitOf (fld c.body 1 1) 1, ports := fld c.body 2 2 } } }) c stOk)) ∧
    (∀ n even odd, CmdReady s x 7 6 c t ∧ n = fld c.body 0 2 ∧ c.body.length = 272 ∧ n < 4096 ∧ fld c.body 2 2 < 4096 ∧ fld c.body 4 2 < 4096 ∧ fld c.body 6 1 < 8 ∧ fld c.body 8 2 < 4096 ∧ zeroAt c.body 10 6 = true ∧ t.okDesc c 16 = .ok even ∧ t.okDesc c 144 = .ok odd ∧ even.workingCopy = true ∧ odd.workingCopy = true ∧ ([even, odd].all fun d => t.holds c.job 1 (dpaDie d.base) (dpaBay d.base)) = true ∧ (∀ g, mget t.span.gather n = some g → g.job = c.job) →
      exec (.colGather x) s = .next (State.respond ({ t with span := { t.span with gather := mset t.span.gather n (newGather c.job c.body even odd) } }) c stOk)) ∧
    (∀ die, CmdReady s x 7 7 c t ∧ die = fld c.body 0 1 ∧ c.body.length = 4 ∧ die < t.dieCount ∧ zeroAt c.body 1 1 = true ∧ 1 ≤ fld c.body 2 2 ∧ fld c.body 2 2 ≤ 4096 →
      exec (.colLimit x) s = .next (State.respond (t.modDie die fun d => { d with pendingLimit := fld c.body 2 2 }) c stOk))

/-- VAR- commands (R273, R275, R278, R285, R287, R295, R302, R318). How a roll-back reaches the other side, and that one of an outer update is
refused, are the model's choices (log 28). -/
def Obligations.VarnishCommandsComplete : Prop :=
  ∀ (x : CmdRef) (c : Cmd) (s t : State),
    (∀ die h0 n, CmdReady s x 8 1 c t ∧ die = fld c.body 0 1 ∧ h0 = ({ raw := sub c.body 4 128, job := c.job } : Shard) ∧ n = fld h0.raw 0 2 ∧ c.body.length = 132 ∧ die < t.dieCount ∧ t.holds c.job 5 die n = true ∧ zeroAt c.body 1 3 = true ∧ AllHold (shardFields c.job h0) ∧ t.shardHeld die h0 = true ∧ (t.userTable h0).all plainPos = true ∧ t.anchorsAgree die n h0 = true ∧ t.shardBusy die n = false →
      exec (.varShard x) s = .next (State.respond (t.modDie die fun d => { d with shards := mset d.shards n (t.shardLoaded die n h0 (t.userTable h0)) }) c stOk)) ∧
    (∀ hostData die k h0 a n, CmdReady s x 8 2 c t ∧ a = fld c.body 16 8 ∧ n = fld c.body 8 4 ∧ c.body.length = 24 ∧ t.okShard c 2 = .ok (die, k, h0) ∧ fld c.body 1 1 = 0 ∧ t.holdsLpddr c.job (dpaDie a) a (128 * n) = true ∧ fld c.body 4 4 + n ≤ h0.blocks ∧ (1 ≤ fld c.body 12 1 ∧ fld c.body 12 1 ≤ 254) ∧ zeroAt c.body 13 3 = true ∧ (rdBytes t.mem a (128 * n)).length = 128 * n →
      exec (.varInit x hostData) s = .next (State.respond ((t.modDie die fun d => { d with pairWait := d.pairWait.filter fun w =>
        !(w.1 == k && decide (fld c.body 4 4 ≤ w.2 ∧ w.2 < fld c.body 4 4 + fld c.body 8 4)) }).initBlocks h0 (fld c.body 4 4) (fld c.body 8 4) (fld c.body 12 1) (rdBytes t.mem (fld c.body 16 8) (128 * fld c.body 8 4))) c stOk)) ∧
    (∀ bs die k h0 n, CmdReady s x 8 2 c t ∧ n = fld c.body 8 4 ∧ c.body.length = 24 ∧ t.okShard c 2 = .ok (die, k, h0) ∧ fld c.body 1 1 = 1 ∧ t.holdsRange c.job 3 c.port (fld c.body 16 8) (128 * n) = true ∧ fld c.body 4 4 + n ≤ h0.blocks ∧ (1 ≤ fld c.body 12 1 ∧ fld c.body 12 1 ≤ 254) ∧ zeroAt c.body 13 3 = true ∧ bs.length = 128 * n ∧ (t.host c.port).usable t.ks.ideRequired = true →
      exec (.varInit x (some bs)) s = .next (State.respond ((t.modDie die fun d => { d with pairWait := d.pairWait.filter fun w =>
        !(w.1 == k && decide (fld c.body 4 4 ≤ w.2 ∧ w.2 < fld c.body 4 4 + fld c.body 8 4)) }).initBlocks h0 (fld c.body 4 4) (fld c.body 8 4) (fld c.body 12 1) bs) c stOk)) ∧
    (∀ die n sl bound, CmdReady s x 8 3 c t ∧ c.body.length = 132 ∧ t.okSlot c 2 = .ok (die, n, sl) ∧ zeroAt c.body 1 1 = true ∧ (sl.role != .contributor) = true ∧ t.okBinding c die sl = .ok bound →
      exec (.varBind x) s = .next (State.respond (t.bindSlot die n sl bound) c stOk)) ∧
    (∀ die n, CmdReady s x 8 4 c t ∧ die = fld c.body 0 1 ∧ n = fld c.body 2 2 ∧ c.body.length = 4 + 2 * n ∧ die < t.dieCount ∧ (slotList c.body n).all (t.slotOf die c.job) = true ∧ zeroAt c.body 1 1 = true →
      exec (.varSchedule x) s = .next (State.respond (t.modDie die fun d => { d with order := (d.order.filter fun k => !t.slotOf die c.job k) ++ slotList c.body n }) c stOk)) ∧
    (CmdReady s x 8 5 c t ∧ c.body.length = 16 ∧ zeroAt c.body 4 4 = true ∧ 0 ≤ sgn 64 (fld c.body 8 8) →
      exec (.varNorm x) s = .next (State.respond (t.modJob c.job fun j => { j with gnorms := (j.gnorms.filter fun g => g.1 != fld c.body 0 4) ++ [(fld c.body 0 4, sgn 64 (fld c.body 8 8))] }) c stOk)) ∧
    (∀ die, CmdReady s x 8 6 c t ∧ die = fld c.body 0 1 ∧ c.body.length = 1 ∧ die < t.dieCount →
      exec (.varTotals x) s = .next (State.respond (t) c stOk (t.totalsBody die c.job))) ∧
    (∀ die rs, CmdReady s x 8 7 c t ∧ die = fld c.body 0 1 ∧ rs = t.reportsFrom die c.job (fld c.body 4 4) (fld c.body 1 1) ∧ c.body.length = 8 ∧ die < t.dieCount ∧ (1 ≤ fld c.body 1 1 ∧ fld c.body 1 1 ≤ 5) ∧ zeroAt c.body 2 2 = true →
      exec (.varReport x) s = .next (State.respond (t) c (outcomeStatus ((rs.getLast?.map (·.outcome)).getD 0)) (rs.flatMap (·.bytes)))) ∧
    (CmdReady s x 8 8 c t ∧ c.body.length = 4 →
      exec (.varRollback x) s = .next (State.respond ((t.rollback c.job (fld c.body 0 4)).1) c stOk (natLe 4 (t.rollback c.job (fld c.body 0 4)).2))) ∧
    (∀ die key k, CmdReady s x 8 9 c t ∧ die = fld c.body 0 1 ∧ c.body.length = 8 ∧ die < t.dieCount ∧ t.haltedCons c.job die (fld c.body 2 2) (fld c.body 4 4) = some (key, k) ∧ fld c.body 1 1 ≤ 2 ∧ (fld c.body 1 1 = 2 → k.kind ≠ 1) →
      exec (.varResolve x) s = .next (State.respond (if fld c.body 1 1 = 2 then (t.agreeSend die key k 4 (zeros 32)).rollHalted die key k else if (fld c.body 1 1 == 1) == t.consTwin die key k then t.adoptOwn die key k else t) c stOk)) ∧
    (∀ d n h0, CmdReady s x 8 10 c t ∧ c.body.length = 4 ∧ t.okShard c 2 = .ok (d, n, h0) ∧ zeroAt c.body 1 1 = true →
      exec (.varCounters x) s = .next (State.respond (t) c stOk (h0.counters.flatMap (natLe 8))))

/-- VIA- commands (R378, R379, R385, R386, R398, R399, R405, R410, R412). -/
def Obligations.ViaductCommandsComplete : Prop :=
  ∀ (x : CmdRef) (c : Cmd) (s t : State),
    (∀ p, CmdReady s x 9 1 c t ∧ p = fld c.body 0 1 ∧ c.body.length = 32 + 96 * (fld c.body 1 1 + 1) ∧ t.viaExists p = true ∧ fld c.body 1 1 ≤ 1 ∧ AllHold (portFields c.body) ∧ t.portArea c.body = true ∧ t.portInUse p = false →
      exec (.viaPort x) s = .next (State.respond (t.modVport p fun v => v.described c.body) c stOk)) ∧
    (∀ r, CmdReady s x 9 2 c t (fun y => y.op != 1 && y.op != 2) ∧ r = sub c.body 4 64 ∧ c.body.length = 68 ∧ t.sessHeld c.job r = true ∧ c.op = 0 ∧ zeroAt c.body 1 3 = true ∧ AllHold (sessionFields c.job r) ∧ t.quotaFits r = true ∧ (∀ y, mget t.via.sessions (fld r 0 2) = some y → y.state = .closed) →
      exec (.viaSessionLoad x) s = .next (State.respond ({ t with via := { t.via with sessions := mset t.via.sessions (fld r 0 2) (t.newSess c.job r) } }) c stOk)) ∧
    (∀ k y, CmdReady s x 9 2 c t (fun y => y.op == 1) ∧ t.okSess c = .ok (k, y) ∧ t.time.state ≠ .free ∧ y.state = .closed →
      exec (.viaSessionOpen x) s = .next (State.respond (State.openSend (t.modSess k fun y => { y.fresh with state := .opening, epoch := (y.epoch + 1) % 65536 }) k 4) c stOk)) ∧
    (∀ k y, CmdReady s x 9 2 c t (fun y => y.op == 2) ∧ t.okSess c = .ok (k, y) →
      exec (.viaSessionClose x) s = .next (State.respond (t.closeSession k) c stOk)) ∧
    (CmdReady s x 9 3 c t ∧ c.body.length = 44 ∧ AllHold (outerFields c.body) →
      exec (.viaOuter x) s = .next (State.respond (t.modJob c.job fun j => { j with outer := some (outerOf c.body) }) c stOk)) ∧
    (∀ a n, CmdReady s x 9 4 c t ∧ a = fld c.body 0 2 ∧ n = fld c.body 2 2 ∧ c.body.length = 4 + 64 * n ∧ ((fragList c.job n c.body).all fun f => decide (f.die < t.dieCount)) = true ∧ (fragList c.job n c.body).all (t.fragHeld c.job) = true ∧ a + n ≤ 65536 ∧ AllHold (t.fragFields c.job n c.body) ∧ (t.via.frags.all fun f => f.2.job == c.job || f.1 < a || a + n ≤ f.1) = true →
      exec (.viaFragments x) s = .next (State.respond (t.setFrags a (fragList c.job n c.body)) c stOk)) ∧
    (∀ y, CmdReady s x 9 5 c t ∧ c.body.length = 8 ∧ mget t.via.sessions (fld c.body 0 2) = some y ∧ y.job = c.job ∧ (1 ≤ fld c.body 2 2 ∧ fld c.body 2 2 ≤ 200) →
      exec (.viaLog x) s = .next (State.respond (t) c stOk (y.logFrom (fld c.body 4 4) (fld c.body 2 2)))) ∧
    (CmdReady s x 9 6 c t ∧ c.body.length = 28 ∧ fld c.body 0 1 ≤ 1 ∧ zeroAt c.body 1 3 = true →
      exec (.viaTime x) s = .next (State.respond (t.modTime fun z => z.described c.body) c stOk)) ∧
    (∀ p, CmdReady s x 9 7 c t ∧ p = fld c.body 0 1 ∧ c.body.length = 1 ∧ t.holds c.job 8 (t.viaDie p) p = true →
      exec (.viaStatus x) s = .next (State.respond (t) c stOk (t.viaBody p)))

/-- CHK-, TEL- and EVT- commands (R96, R320, R328, R330, R438, R459). -/
def Obligations.ServiceCommandsComplete : Prop :=
  ∀ (x : CmdRef) (c : Cmd) (s t : State),
    (∀ unit die i, CmdReady s x 10 1 c t ∧ unit = fld c.body 0 1 ∧ die = fld c.body 1 1 ∧ i = fld c.body 2 2 ∧ c.body.length = 8 ∧ die < t.dieCount ∧ (1 ≤ unit ∧ unit ≤ 7) ∧ t.unitExists unit die i = true ∧ t.testHeld c.job unit die i = true ∧ zeroAt c.body 4 4 = true ∧ t.testRefused unit die i = false →
      exec (.chkTest x) s = .next ((t.startTest { unit := fld c.body 0 1, die := fld c.body 1 1, index := fld c.body 2 2, cmd := some c }).keepWork c)) ∧
    (∀ w f, CmdReady s x 10 2 c t ∧ w = fld c.body 0 4 ∧ c.body.length = 8 ∧ w >>> 28 ≠ 7 ∧ t.masterOnDie w = true ∧ mget t.ks.freezes w = some f ∧ t.thawHeld c.job w = true ∧ zeroAt c.body 4 4 = true →
      exec (.chkThaw x) s = .next (State.respond (t.thaw w) c stOk)) ∧
    (∀ die l, CmdReady s x 10 3 c t ∧ die = fld c.body 0 1 ∧ l = fld c.body 1 1 ∧ c.body.length = 4 ∧ die < t.dieCount ∧ t.holds c.job 1 die l = true →
      exec (.chkSeal x) s = .next (State.respond (t) c stOk ((t.bay die (t.phys die l)).sealBody (fld c.body 2 2)))) ∧
    (∀ f, CmdReady s x 10 4 c t ∧ c.body.length = 4 ∧ t.masterOnDie (fld c.body 0 4) = true ∧ mget t.ks.freezes (fld c.body 0 4) = some f →
      exec (.chkFreeze x) s = .next (State.respond (t) c stOk (f.bytes))) ∧
    (CmdReady s x 10 5 c t ∧ c.body.length = 8 ∧ zeroAt c.body 6 2 = true →
      exec (.chkFaults x) s = .next (State.respond (t) c stOk (((t.ks.faultLog.filter fun r => decide (fld c.body 0 4 ≤ r.index)).take (fld c.body 4 2)).flatMap (·.bytes)))) ∧
    (∀ die ws, CmdReady s x 11 1 c t ∧ die = fld c.body 0 1 ∧ c.body.length = 8 ∧ die < t.dieCount ∧ t.telGroup c.port die (fld c.body 1 1) = some ws ∧ fld c.body 2 2 + fld c.body 4 2 ≤ telSize (fld c.body 1 1) ws.length ∧ fld c.body 4 2 ≤ 508 ∧ zeroAt c.body 6 2 = true →
      exec (.telRead x) s = .next (State.respond (t) c stOk ((List.range (fld c.body 4 2)).flatMap fun i => natLe 8 (at' 0 ws (fld c.body 2 2 + i))))) ∧
    (∀ n es, CmdReady s x 12 1 c t ∧ n = fld c.body 0 1 ∧ es = (t.host c.port).events ∧ c.body.length = 1 ∧ (1 ≤ n ∧ n ≤ 42) →
      exec (.evtRead x) s = .next (State.respond (t.eventsTaken c.port n) c stOk (pack [(2, min n es.length), (2, 0)] ++ (es.take n).flatMap (·.bytes))))

/-- Reset, the stages of Gesso, rails, domains, clocks, temperature and voltage (R450, R461, R463, R465, R466, R470, R471, R472, R488, R489). -/
def Obligations.PowerAndResetComplete : Prop :=
  ∀ (s : State),
    (s.part.porN = false → exec .porNRise s = .next { s with part := { s.part with porN := true, railsOk := true, state := 1, stage := 1 } }) ∧
    (s.part.porN = true → exec .porNFall s = .next (s.afterReset false s.part.railsOk)) ∧
    (∀ x c t, CmdReady s x 1 5 c t ∧ c.body.length = 4 ∧ zeroAt c.body 0 4 = true ∧ t.jobs = [] → exec (.devReset x) s = .next (State.afterReset
      (if c.gone then t else t.writeResponse c.port { cmd := c, status := stOk } true) true t.part.railsOk)) ∧
    (s.part.porN = true ∧ s.part.state = 1 →
      (∀ st av cool a b h0 h1, s.part.stage = 1 → exec (.gessoStageEnd (.rom st av cool a b h0 h1)) s = .next (s.stageRom st av cool a b h0 h1)) ∧
      (∀ h r e cl, s.part.stage = 2 → exec (.gessoStageEnd (.config h r e cl)) s = .next (s.stageConfig h r e cl)) ∧
      (∀ u h d, s.part.stage = 3 → exec (.gessoStageEnd (.puf u h d)) s = .next (s.stagePuf u h d)) ∧
      (∀ l sl, s.part.stage = 4 → exec (.gessoStageEnd (.links l sl)) s = .next (s.stageLinks l sl)) ∧
      (∀ gb, s.part.stage = 5 → exec (.gessoStageEnd (.memory gb)) s = .next (s.stageMemory gb)) ∧
      (∀ bad, s.part.stage = 6 → exec (.gessoStageEnd (.stores bad)) s = .next (s.stageStores bad)) ∧
      (∀ sp pl, s.part.stage = 7 → exec (.gessoStageEnd (.ports sp pl)) s = .next (s.stagePorts sp pl)) ∧
      (s.part.stage = 8 → exec (.gessoStageEnd .ready) s = .next s.stageReady)) ∧
    (s.part.porN = true → ∀ t : State, t = { s with part := { s.part with railsOk := false } } →
      exec .railsOkLow s = .next (t.mgmtInterrupt.failStop Config.failStopDetector stFenced)) ∧
    (∀ die, s.part.porN = true ∧ die < s.dieCount → exec (.referenceLoss die) s = .next (s.mgmtInterrupt.failStop 11 (Config.faultStatus 11))) ∧
    (∀ die dom, s.live = true ∧ die < s.dieCount →
      (s.domOn die dom = true ∧ s.domBusy die dom = false → exec (.domainIdleGate die dom) s = .next (s.gate die dom)) ∧
      (dom < 13 ∧ mgetD .off s.power.doms (domKey die dom) = .off ∧ s.domWanted die dom = true → exec (.domainWake die dom) s = .next (s.setDom die dom .waking).settlePlls) ∧
      (dom < 13 ∧ mgetD .off s.power.doms (domKey die dom) = .on → exec (.domainWake die dom) s =
        .next { s with power := { s.power with gatedClk := s.power.gatedClk.filter (· != domKey die dom) } }) ∧
      (mgetD .off s.power.doms (domKey die dom) = .waking → dom ≠ 11 → exec (.domainWakeDone die dom) s = .next (s.setDom die dom .on)) ∧
      (mgetD .off s.power.doms (domKey die 11) = .waking → ∀ t, t = s.setDom die 11 .on → exec (.domainWakeDone die 11) s =
        .next { t with power := { t.power with selfRefresh := t.power.selfRefresh.filter (· != die) } }) ∧
      (dom < 13 ∧ s.domOn die dom = true ∧ s.power.gatedClk.contains (domKey die dom) = false → exec (.clockGate die dom) s =
        .next { s with power := { s.power with gatedClk := s.power.gatedClk ++ [domKey die dom] } })) ∧
    (∀ sensors mw dieMw tj k k' t, s.part.porN = true ∧ sensors.length = 12 * s.dieCount ∧ tj = sensors.foldl max 0 ∧ k = s.ks.throttle ∧
      k' = throttleNext k tj mw s.part.variant.maxPower ∧ s.ks.trip = false ∧ t = { s with ks := { s.ks with
        sensors := sensors, tj := tj, hottest := (sensors.findIdx (· == tj)) / 12, powerMw := mw, dieMw := dieMw
        throttledUs := if k < 16 then s.ks.throttledUs + 100 else s.ks.throttledUs } } →
      (1840 ≤ tj → exec (.thermalEval sensors mw dieMw) s = .next t.thermalTrip) ∧
      (tj < 1840 ∧ ¬ (k = 16 ∧ k' < 16) → exec (.thermalEval sensors mw dieMw) s = .next { t with ks := { t.ks with throttle := k' } }) ∧
      (tj < 1840 ∧ k = 16 ∧ k' < 16 → exec (.thermalEval sensors mw dieMw) s =
        .next (State.event { t with ks := { t.ks with throttle := k' } } evThrottle 0 t.ks.hottest 0 (natLe 2 tj)))) ∧
    (∀ die margin r, s.ks.record = some r ∧ s.part.porN = true ∧ die < s.dieCount →
      (0 ≤ margin → exec (.avsEval die margin) s = .next { s with power := { s.power with
        avs := mset s.power.avs die (max 7000 (min 8500 (binVoltage r.speedBin - min 400 (margin.toNat / 25 * 25))))
        margin := mset s.power.margin die margin } }) ∧
      (margin < 0 ∧ mgetD 8500 s.power.avs die + (-margin).toNat ≤ binVoltage r.speedBin → exec (.avsEval die margin) s =
        .next { s with power := { s.power with
          avs := mset s.power.avs die (max 7000 (min 8500 (mgetD 8500 s.power.avs die + (-margin).toNat)))
          margin := mset s.power.margin die margin } }))

/-- Management commands and attestation messages (R448, R451, R452, R455, R456, R457, R458, R459). -/
def Obligations.ManagementCommandsComplete : Prop :=
  ∀ (m : MgmtMsg) (s : State),
    (s.mgmtFor m = true →
      (∀ fresh n, n = sub fresh 0 32 → exec (.nonce m fresh) s = .next (State.mgmtReply ({ s with ks := { s.ks with
        nonces := (s.ks.nonces.filter fun x => decide (s.part.tai ≤ x.1 + 60 * 10 ^ 9)) ++ [(s.part.tai, n)] } }) 0x01 stOk m.nonce n)) ∧
      (exec (.mgmtStatus m) s = .next (s.mgmtReply 0x02 stOk m.nonce
        (pack [(4, s.hifStatus s.ks.primary), (4, s.kstStatus), (4, s.kstThermal), (4, s.ks.faultsLogged), (8, s.part.tai)]))) ∧
      (s.ks.flash.owner = none ∧ m.mctp = true ∧ m.body.length = 384 → exec (.enrollOwner m) s = .next (State.mgmtReply (s.modFlash fun f => { f with owner := some m.body, network := [] }) 0x18 stOk m.nonce [])) ∧
      (∀ n, n = fld m.body 0 1 ∧ n < 2 ∧ 8 ≤ m.body.length ∧ m.body.length ≤ 1024 ∧ zeroAt m.body 1 3 = true ∧ fld m.body 4 4 + (m.body.length - 8) ≤ slotBytes ∧ s.ks.bootSlot ≠ some n → exec (.updateChunk m) s = .next (State.mgmtReply (s.modFlash fun f => f.writeChunk n (fld m.body 4 4) (m.body.drop 8)) 0x1A stOk m.nonce []))) ∧
    (s.mgmtFor m = true ∧ s.ks.identityOk = true ∧ s.nonceCurrent m.nonce = true ∧ m.ownerSigOk = true ∧ s.ks.flash.owner.isSome = true → ∀ t, t = s.useNonce m.nonce →
      (∀ p, p = fld m.body 0 1 ∧ m.body.length = 1 ∧ p < 2 ∧ (t.host p).frozen = true → exec (.thawHost m) s = .next (State.mgmtReply (State.modHost { t with ks := { t.ks with
        freezes := mdel t.ks.freezes (masterWord 7 0 p) } } p fun h => { h with
          frozen := false, downSince := if h.linkUp && !h.d3hot && !h.ideDown then none else h.downSince }) 0x10 stOk m.nonce [])) ∧
      (∀ p, p = fld m.body 0 1 ∧ m.body.length = 1 ∧ p < 2 ∧ p ≠ t.ks.primary → exec (.setPrimary m) s = .next (State.mgmtReply (State.event { t with ks := { t.ks with primary := p } } evPrimary 0 (t.hostDie p) 0 (natLe 1 p)) 0x11 stOk m.nonce [])) ∧
      (m.body.length = 2 → exec (.failStop m) s = .next (State.mgmtReply (t.mgmtInterrupt.failStop Config.failStopDetector (fld m.body 0 2)) 0x12 stOk m.nonce [])) ∧
      (∀ u die i, u = fld m.body 0 1 ∧ die = fld m.body 1 1 ∧ i = fld m.body 2 2 ∧ m.body.length = 8 ∧ 1 ≤ u ∧ u < 8 ∧ zeroAt m.body 4 4 = true ∧
        t.live = true ∧ t.unitExists u die i = true ∧ t.testRefused u die i = false →
        exec (.fieldTest m) s = .next (t.startTest { unit := u, die := die, index := i, mgmt := some m.nonce })) ∧
      (∀ p i n, p = fld m.body 0 1 ∧ i = fld m.body 1 1 ∧ n = fld m.body 2 2 ∧ m.body.length = 420 ∧ 1 ≤ n ∧ n ≤ 32 ∧ t.viaExists p = true ∧ i < 2 ∧ 
        (t.via.sessions.any fun x => x.1 / 256 == p && x.2.itf == i && x.2.state != .closed) = false → exec (.setCak m true) s = .next (State.mgmtReply (t.modItf p i fun x => x.associated (sub m.body 4 n)) 0x14 stOk m.nonce [])) ∧
      (m.body.length = 16 → exec (.setTai m) s = .next (State.mgmtReply ({ t with time := { t.time with
        offset := sgn 32 (fld m.body 0 4), change := if fld m.body 4 8 = 0 then none else some (fld m.body 4 8, sgn 32 (fld m.body 12 4)) } }) 0x15 stOk m.nonce [])) ∧
      (m.body.length ≤ 1024 → exec (.setNetwork m) s = .next (State.mgmtReply (t.modFlash fun f => { f with network := m.body }) 0x16 stOk m.nonce [])) ∧
      (∀ k, k = bayKey (fld m.body 0 1) (fld m.body 1 1) ∧ m.body.length = 2 ∧ fld m.body 0 1 < t.dieCount ∧ fld m.body 1 1 < 132 ∧ t.ks.flash.retired.contains k = true → exec (.clearRetirement m) s = .next (State.mgmtReply (t.modFlash fun f => { f with retired := f.retired.filter (· != k) }) 0x17 stOk m.nonce [])) ∧
      (m.body.length = 384 → exec (.enrollOwner m) s = .next (State.mgmtReply (t.modFlash fun f => { f with owner := some m.body, network := [] }) 0x18 stOk m.nonce [])) ∧
      (∀ ks es n st, n = fld m.body 0 1 ∧ st = t.ks.flash.imagesStatus ks es ∧ m.body.length = 1 ∧ n < 2 → exec (.updateCommit m ks es) s = .next (State.mgmtReply (t.modFlash fun f => { f with
        slots := f.slots.modify n fun x => { x with state := some (if st = stOk then 1 else 0) } }) 0x1B st m.nonce [])) ∧
      (∀ v, v = fld m.body 4 4 ∧ m.body.length = 8 ∧ zeroAt m.body 1 3 = true ∧ fld m.body 0 1 = 0 ∧ t.ks.flash.fwFloor ≤ v ∧ v ≤ t.ks.fwVersion → exec (.advanceFloor m) s = .next (State.mgmtReply (t.modFlash fun f => { f with fwFloor := v }) 0x1C stOk m.nonce [])) ∧
      (∀ v, v = fld m.body 4 4 ∧ m.body.length = 8 ∧ zeroAt m.body 1 3 = true ∧ fld m.body 0 1 = 1 ∧ t.ks.flash.recFloor ≤ v ∧ v ≤ t.ks.recVersion → exec (.advanceFloor m) s = .next (State.mgmtReply (t.modFlash fun f => { f with recFloor := v }) 0x1C stOk m.nonce []))) ∧
    (s.mgmtFor m = true ∧ s.ks.identityOk = true ∧ s.nonceCurrent m.nonce = true ∧ m.luotteSigOk = true ∧ m.body = [] → exec (.resetOwner m) s =
      .next (State.mgmtReply ((s.useNonce m.nonce).modFlash fun f => { f with owner := none, network := [] }) 0x19 stOk m.nonce [])) ∧
    (s.part.porN = true → ∀ f u, f = s.ks.flash ∧ u = s.ks.unflushed → exec .faultLogFlush s = .next { s with ks := { s.ks with
      unflushed := []
      flash := { f with log := (f.log ++ u).drop (f.log.length + u.length - 131072), logCount := f.logCount + u.length } } }) ∧
    (s.part.porN = true ∧ s.ks.identityOk = true → ∀ x, exec (.mctpSpdmMessage x) s =
      .next { s with out := { s.out with mgmt := s.out.mgmt ++ [s.spdmAnswer x] } }) ∧
    (s.part.porN = true → ∀ x, exec (.mctpControlMessage x) s =
      .next { s with out := { s.out with mgmt := s.out.mgmt ++ [Config.mctpAnswer s.out.mgmt.length x] } })

/-- A step runs the command at the front of the queue (15_viaduct.md, 95_what_each_step_holds.md). -/
def Obligations.StepRunsFrontCommand : Prop :=
  (∀ (c : Instr) (cs : List Instr) (s : State), s.pending = c :: cs → step s = exec c { s with pending := cs }) ∧
  (∀ s : State, s.pending = [] → ∃ t, step s = .next t ∧ t.part = { s.part with tai := (s.part.tai + 40) % 2 ^ 64 } ∧
    ((s.part.tai + 40) % 2 ^ 64 / 1000 = s.part.tai / 1000 → t.dies = s.dies ∧ t.span = s.span) ∧ t.time = s.time ∧ t.ks = s.ks ∧
    t.power = s.power ∧ t.mem = s.mem ∧ t.bays = s.bays ∧ t.movers = s.movers ∧ t.jobs = s.jobs ∧ t.via = s.via ∧ t.hosts = s.hosts ∧
    t.out = s.out ∧ t.pending = [])

/-- What reset leaves: every register at the value the spec gives, nothing waiting, nothing listed (R416, R417, R419, R420, R421, R454, R490). -/
def Obligations.ResetState : Prop :=
  State.reset.pending = [] ∧ State.reset.mem = [] ∧ State.reset.mem.wf = true ∧ State.reset.hifStatus 0 = 1 ∧ State.reset.hifStatus 1 = 1 ∧
  State.reset.kstStatus = 0 ∧ State.reset.kstThermal = 0 ∧ State.reset.ks.faultsLogged = 0 ∧ State.reset.ks.powerMw = 0 ∧
  State.reset.part.tai = 0 ∧ State.reset.part.thermtripN = true ∧ State.reset.ks.debugOpen = false ∧ State.reset.ks.freezes = [] ∧
  State.reset.jobs = [] ∧ State.reset.via.sessions = [] ∧ State.reset.bays = [] ∧ State.reset.movers = [] ∧ State.reset.dies = [] ∧
  (∀ p, p < 2 → (State.reset.host p).ctrl = 0 ∧ (State.reset.host p).busy = 0 ∧ (State.reset.host p).done = 0 ∧
    (State.reset.host p).wins = [] ∧ (State.reset.host p).events = [] ∧ (State.reset.host p).counters = List.replicate 8 0 ∧
    (State.reset.host p).rate = 0 ∧ (State.reset.host p).width = 0 ∧ (State.reset.host p).bar4 = 2 ^ 34 ∧
    (State.reset.host p).msixPending = [] ∧ (State.reset.host p).frozen = false)

/-- Every step keeps the stores in their canonical form (08_tensors_and_movement.md, 18_keystone_and_security.md). -/
def Obligations.StoresStayCanonical : Prop :=
  ∀ s t : State, step s = .next t → s.mem.wf = true → t.mem.wf = true

/-- Every command answers a next state and leaves the queue (95_what_each_step_holds.md, 17_vobin_commands.md). -/
def Obligations.EveryCommandAnswers : Prop :=
  ∀ (c : Instr) (s : State), ∃ t, exec c s = .next t ∧ t.pending = s.pending

/-- The floors of the flash only rise, by ADVANCE_FLOOR alone, to the running version at most (R448, R458). -/
def Obligations.FloorsOnlyRise : Prop :=
  ∀ s t : State, step s = .next t →
    s.ks.flash.fwFloor ≤ t.ks.flash.fwFloor ∧ s.ks.flash.recFloor ≤ t.ks.flash.recFloor ∧
    (t.ks.flash.fwFloor ≠ s.ks.flash.fwFloor → ∃ m cs, s.pending = .advanceFloor m :: cs ∧ s.ownerSigned m = true ∧ s.nonceCurrent m.nonce = true ∧
      t.ks.flash.fwFloor = fld m.body 4 4 ∧ t.ks.flash.fwFloor ≤ s.ks.fwVersion) ∧
    (t.ks.flash.recFloor ≠ s.ks.flash.recFloor → ∃ m cs, s.pending = .advanceFloor m :: cs ∧ s.ownerSigned m = true ∧ s.nonceCurrent m.nonce = true ∧
      t.ks.flash.recFloor = fld m.body 4 4 ∧ t.ks.flash.recFloor ≤ s.ks.recVersion)

/-- The owner record changes only by ENROLL_OWNER or RESET_OWNER (R456, R458). -/
def Obligations.OwnerOnlyByEnrolOrReset : Prop :=
  ∀ s t : State, step s = .next t → t.ks.flash.owner = s.ks.flash.owner ∨
    (∃ m cs, s.pending = .enrollOwner m :: cs ∧ t.ks.flash.owner = some m.body ∧
      ((s.ks.flash.owner = none ∧ m.mctp = true) ∨ (m.ownerSigOk = true ∧ s.nonceCurrent m.nonce = true))) ∨
    (∃ m cs, s.pending = .resetOwner m :: cs ∧ t.ks.flash.owner = none ∧ m.luotteSigOk = true ∧ s.nonceCurrent m.nonce = true)

/-- An entry of the retirement list goes only by CLEAR_RETIREMENT, or with a list that fails its HMAC (R452, R458). -/
def Obligations.RetirementEntriesStay : Prop :=
  ∀ s t : State, step s = .next t → ∀ k, k ∈ s.ks.flash.retired → k ∈ t.ks.flash.retired ∨
    (∃ m cs, s.pending = .clearRetirement m :: cs ∧ s.ownerSigned m = true ∧ s.nonceCurrent m.nonce = true ∧ k = bayKey (fld m.body 0 1) (fld m.body 1 1)) ∨
    (∃ g cs, s.pending = .gessoStageEnd g :: cs ∧ s.ks.flash.retiredOk = false)

/-- THERMTRIP_N once asserted is held until POR_N goes low; the part stays the part it is (R490, R472, R1). -/
def Obligations.ThermtripHeldUntilPorN : Prop :=
  ∀ s t : State, step s = .next t → t.part.variant = s.part.variant ∧ t.part.stepping = s.part.stepping ∧
    (s.part.thermtripN = false → t.part.thermtripN = false ∨ (s.part.porN = true ∧ ∃ cs, s.pending = .porNFall :: cs ∧ t.part.porN = false))

/-- Register instructions change nothing but their own stroke (R104, R149, R154, R101, R105). -/
def Obligations.RegisterInstructionFrame : Prop :=
  ∀ (b : BayRef) (f : Fields) (s t : State) (c : Instr),
    c ∈ ([.vadd b f, .vsub b f, .vmul b f, .vfma b f, .vfnma b f, .vmin b f, .vmax b f, .vabs b f, .vneg b f, .vrcp b f, .vrsqrt b f, .viadd b f, .visub b f, .vimul b f,
      .viadds b f, .visubs b f, .vimin b f, .vimax b f, .vand b f, .vor b f, .vxor b f, .vshl b f, .vshr b f, .vsra b f, .vbci b f, .vbcs b f, .vcmp b f, .vsel b f,
      .vicmp b f, .prange b f, .pcount b f, .plogic b f, .smovi b f, .saddi b f, .sadd b f, .ssub b f, .smul b f, .sand b f, .sor b f, .sxor b f, .sshl b f, .sshr b f,
      .sfadd b f, .sfmul b f, .sffma b f, .sfmin b f, .sfmax b f, .vext b f, .vrsum b f, .vrmax b f, .vrmin b f, .vramax b f, .vrisum b f, .vperm b f, .vrot b f, .rng b f,
      .rngU b f, .nop b f, .ldArg b f] : List Instr) →
    exec c s = .next t →
    t = { s with bays := t.bays } ∧ (∀ d k, bayKey d k ≠ bayKey b.die b.bay → t.bay d k = s.bay d k) ∧
    (∃ xs, t.bay b.die b.bay = { s.bay b.die b.bay with slots := xs } ∧ xs.length = (s.bay b.die b.bay).slots.length) ∧
    (∀ r, (s.bay b.die b.bay).issuing = some r → ∀ q ∈ (s.bay b.die b.bay).slots, q.seq ≠ r.seq → q ∈ (t.bay b.die b.bay).slots)

/-- A store changes no byte but those it stores to (R122, R123, R422, R328). -/
def Obligations.StoresLeaveOtherBytes : Prop :=
  (∀ (b : BayRef) (f : Fields) (s t : State) (r : Running), s.mem.wf = true →
    (s.atStroke b 0x99 f = some r → exec (.stS b f) s = .next t → ∀ a,
      a < (r.desc (f.imm.toNat % 256)).bitAt ((r.desc (f.imm.toNat % 256)).off (r.sreg f.src2).toNat) / 8 ∨ ((r.desc (f.imm.toNat % 256)).bitAt ((r.desc (f.imm.toNat % 256)).off (r.sreg f.src2).toNat) + (r.desc (f.imm.toNat % 256)).bits + 7) / 8 ≤ a → rdByte t.mem a = rdByte s.mem a) ∧
    (s.atStroke b 0x98 f = some r → f.imm.toNat.testBit 8 = false → exec (.st b f) s = .next t → ∀ a,
      (∀ k ∈ r.moved (modOf false f) (r.desc (f.imm.toNat % 256)).fmt, a < ((r.desc (f.imm.toNat % 256)).bitAt ((r.desc (f.imm.toNat % 256)).off (r.sreg f.src2).toNat) + 8 * k) / 8 ∨
        ((r.desc (f.imm.toNat % 256)).bitAt ((r.desc (f.imm.toNat % 256)).off (r.sreg f.src2).toNat) + 8 * k + 8 + 7) / 8 ≤ a) → rdByte t.mem a = rdByte s.mem a) ∧
    (s.atStroke b 0x98 f = some r → f.imm.toNat.testBit 8 = true → exec (.st b f) s = .next t → ∀ a,
      (∀ l ∈ r.sideLanes (modOf false f), a ≠ (r.desc (f.imm.toNat % 256)).sideAddr ((r.sreg f.src2).toNat / 32 + l)) → rdByte t.mem a = rdByte s.mem a)) ∧
  (∀ (p off : Nat) (data : List Byte) (s t : State), s.mem.wf = true →
    ((∀ die h, h ∈ (s.die die).shards → (h.2.hostTier && h.2.port == p && !h.2.stopped) = false) ∨ ∀ x ∈ s.winBytes p off data.length,
      s.winRule1 true x = false ∧ s.winRule3 x = false ∧ s.winRule5 x = false) → exec (.bar4Write p off data) s = .next t →
    ∀ a, (∀ x ∈ s.winBytes p off data.length, a ≠ x.2) → rdByte t.mem a = rdByte s.mem a)

/-- BX64 accumulation is the same in every order, saturates in every order, and markers decide it by their set (R50, R51). -/
def Obligations.BlockAccumulationOrderFree : Prop :=
  ∀ (b : Bx) (cs ds : List (List Val)), 1 ≤ b.anchor → b.anchor ≤ 254 → b.ns.length = 32 →
    (∀ n ∈ b.ns, n < 2 ^ 64 ∧ (sgn 64 n).natAbs < 2 ^ 62) → (∀ v ∈ cs, v.length = 32) → cs.Perm ds →
    ((∀ v ∈ cs, bxMarker v = none) →
      ((∀ i, i < 32 →
          ((sgn 64 (at' 0 b.ns i) :: cs.map fun v => bxAlign b.anchor (at' .nan v i)).map fun a => max a 0).sum < 2 ^ 62 ∧
          ((sgn 64 (at' 0 b.ns i) :: cs.map fun v => bxAlign b.anchor (at' .nan v i)).map fun a => max (-a) 0).sum < 2 ^ 62) →
        ds.foldl (fun x v => (bxAccum x v).1) b = cs.foldl (fun x v => (bxAccum x v).1) b ∧
        cs.foldl (fun x v => (bxAccum x v).1) b = ⟨b.anchor, (List.range 32).map fun i =>
          unsgn 64 (sgn 64 (at' 0 b.ns i) :: cs.map fun v => bxAlign b.anchor (at' .nan v i)).sum⟩) ∧
      ((∃ i, i < 32 ∧ 2 ^ 62 ≤ (sgn 64 (at' 0 b.ns i) :: cs.map fun v => bxAlign b.anchor (at' .nan v i)).sum.natAbs) →
        ds.foldl (fun x v => (bxAccum x v).1) b = bxSpecial 4)) ∧
    (∀ k, bxMarker cs.flatten = some k → ds.foldl (fun x v => (bxAccum x v).1) b = bxSpecial k)

/-- One shape register describes every legal tile (R119). -/
def Obligations.TileShapeRegister : Prop :=
  ∀ (r : Running) (f : Fields) (ta tb acc : Bool) (m n k : Nat), 1 ≤ m → m ≤ 64 → 1 ≤ n → n ≤ 64 → 1 ≤ k → k ≤ 2 ^ 20 →
    (r.sreg f.dst).extractLsb' 26 6 = BitVec.ofNat 6 (m - 1) → (r.sreg f.dst).extractLsb' 20 6 = BitVec.ofNat 6 (n - 1) →
    (r.sreg f.dst).extractLsb' 0 20 = BitVec.ofNat 20 (k - 1) →
    (r.tileOf f ta tb acc).m = m ∧ (r.tileOf f ta tb acc).n = n ∧ (r.tileOf f ta tb acc).k = k

/-- Every stroke instruction word is its opcode and fields, and nothing else (R114). -/
def Obligations.StrokeWordRoundTrip : Prop :=
  (∀ (op : Nat) (f : Fields), op < 256 →
    (encodeWord op f).extractLsb' 56 8 = BitVec.ofNat 8 op ∧ (encodeWord op f).extractLsb' 50 6 = f.dst ∧
    (encodeWord op f).extractLsb' 44 6 = f.src1 ∧ (encodeWord op f).extractLsb' 38 6 = f.src2 ∧
    (encodeWord op f).extractLsb' 32 6 = f.src3 ∧ (encodeWord op f).extractLsb' 0 32 = f.imm ∧
    wordOp (encodeWord op f) = op ∧ wordFields (encodeWord op f) = f) ∧
  (∀ w : DWord, encodeWord (wordOp w) (wordFields w) = w)
end

