-- ==== Sys2Proof/Laws/Memory.lean ====
section
/-! SUPPORT. The canonical form of the stores is kept by every memory operation, and a byte read after a write is the byte written. -/

namespace Sys2Proof.Laws

open Sys2Proof Sys2Proof.Machine

theorem wf_nil : Mem.wf [] = true := by decide

theorem wf_cons {k : Nat} {b : Byte} {m : Mem} :
    Mem.wf ((k, b) :: m) = true ↔ (∀ c ∈ m, k < c.1) ∧ b ≠ memDefault ∧ Mem.wf m = true := by
  simp only [Mem.wf, List.map_cons, List.pairwise_cons, List.all_cons, Bool.and_eq_true, decide_eq_true_eq, List.mem_map,
    forall_exists_index, and_imp, forall_apply_eq_imp_iff₂, bne_iff_ne]
  tauto

/-- Every address of a store that a write changed is the one written or one already listed. -/
theorem mem_wrByte {m : Mem} {a : Nat} {b : Byte} {c : Host.Cell} (h : c ∈ wrByte m a b) : c.1 = a ∨ c ∈ m := by
  induction m with
  | nil => simp only [wrByte] at h; split at h <;> simp_all
  | cons x m ih =>
    obtain ⟨k, y⟩ := x
    simp only [wrByte] at h
    split_ifs at h <;> simp_all <;> grind

theorem wrByte_wf {m : Mem} (a : Nat) (b : Byte) (h : Mem.wf m = true) : Mem.wf (wrByte m a b) = true := by
  induction m with
  | nil =>
    simp only [wrByte]
    split
    · exact wf_nil
    · exact wf_cons.2 ⟨by simp, by assumption, wf_nil⟩
  | cons x m ih =>
    obtain ⟨k, y⟩ := x
    obtain ⟨h1, h2, h3⟩ := wf_cons.1 h
    simp only [wrByte]
    split_ifs with ha hb hk hb
    · exact h
    · exact wf_cons.2 ⟨by
        intro c hc
        rcases List.mem_cons.1 hc with rfl | hc
        · exact ha
        · exact lt_trans ha (h1 c hc), hb, h⟩
    · exact h3
    · exact wf_cons.2 ⟨fun c hc => hk ▸ h1 c hc, hb, h3⟩
    · refine wf_cons.2 ⟨fun c hc => ?_, h2, ih h3⟩
      rcases mem_wrByte hc with hc | hc
      · omega
      · exact h1 c hc

theorem wrBytes_wf {m : Mem} (a : Nat) (bs : List Byte) (h : Mem.wf m = true) : Mem.wf (wrBytes m a bs) = true := by
  induction bs generalizing m a with
  | nil => exact h
  | cons b bs ih => exact ih _ (wrByte_wf a b h)

theorem filter_wf {m : Mem} (p : Host.Cell → Bool) (h : Mem.wf m = true) : Mem.wf (m.filter p) = true := by
  induction m with
  | nil => exact h
  | cons x m ih =>
    obtain ⟨k, y⟩ := x
    obtain ⟨h1, h2, h3⟩ := wf_cons.1 h
    rw [List.filter_cons]
    split
    · exact wf_cons.2 ⟨fun c hc => h1 c (List.mem_filter.1 hc).1, h2, ih h3⟩
    · exact ih h3

theorem clrBytes_wf {m : Mem} (a n : Nat) (h : Mem.wf m = true) : Mem.wf (clrBytes m a n) = true := filter_wf _ h

theorem wrNat_wf {m : Mem} (a n v : Nat) (h : Mem.wf m = true) : Mem.wf (wrNat m a n v) = true := wrBytes_wf _ _ h

/-- A fold of changes that each keep the form keeps it. -/
theorem foldl_wf {α : Type} (f : Mem → α → Mem) (hf : ∀ m x, Mem.wf m = true → Mem.wf (f m x) = true) (xs : List α) {m : Mem}
    (h : Mem.wf m = true) : Mem.wf (xs.foldl f m) = true := by
  induction xs generalizing m with
  | nil => exact h
  | cons x xs ih => exact ih (hf m x h)

theorem moveMem_wf {m : Mem} (src dst n : Nat) (h : Mem.wf m = true) : Mem.wf (moveMem m src dst n) = true :=
  foldl_wf _ (fun _ _ h => wrByte_wf _ _ h) _ (clrBytes_wf _ _ h)

/-- The byte written is read back. -/
theorem rdByte_wrByte_self {m : Mem} (a : Nat) (b : Byte) (h : Mem.wf m = true) : rdByte (wrByte m a b) a = b := by
  induction m with
  | nil => simp only [wrByte]; split <;> simp_all [rdByte]
  | cons x m ih =>
    obtain ⟨k, y⟩ := x
    obtain ⟨h1, h2, h3⟩ := wf_cons.1 h
    simp only [wrByte]
    split_ifs with ha hb hb hb
    · have : ¬a = k := by omega
      simp [rdByte, this, ha, hb]
    · simp [rdByte]
    · subst hb
      cases m with
      | nil => simp_all [rdByte]
      | cons z m =>
        obtain ⟨j, w⟩ := z
        have := h1 (j, w) (by simp)
        simp only at this
        have h' : ¬a = j := by omega
        simp_all [rdByte]
    · simp [rdByte]
    · simp [rdByte, hb, ha, ih h3]

/-- Below every listed address a byte is the default. -/
theorem rdByte_below {m : Mem} (c : Nat) (h : ∀ x ∈ m, c < x.1) : rdByte m c = memDefault := by
  cases m with
  | nil => rfl
  | cons z m =>
    obtain ⟨j, w⟩ := z
    have hj : c < j := h (j, w) (by simp)
    have hne : ¬c = j := by omega
    simp [rdByte, hne, hj]

/-- A byte elsewhere reads as before. -/
theorem rdByte_wrByte_other {m : Mem} (a c : Nat) (b : Byte) (h : Mem.wf m = true) (hc : c ≠ a) :
    rdByte (wrByte m a b) c = rdByte m c := by
  induction m with
  | nil => simp only [wrByte]; split <;> simp [rdByte, hc]
  | cons x m ih =>
    obtain ⟨k, y⟩ := x
    obtain ⟨h1, h2, h3⟩ := wf_cons.1 h
    simp only [wrByte]
    split_ifs with ha hb hk hb
    · rfl
    · have hlt : c < a → ¬c = k ∧ c < k := fun _ => ⟨by omega, by omega⟩
      by_cases hca : c < a
      · simp [rdByte, hc, hca, (hlt hca).1, (hlt hca).2]
      · simp [rdByte, hc, hca]
    · have hck : ¬c = k := by omega
      by_cases hlt : c < k
      · rw [rdByte_below c fun x hx => lt_trans hlt (h1 x hx)]
        simp [rdByte, hck, hlt]
      · simp [rdByte, hck, hlt]
    · have hck : ¬c = k := by omega
      simp [rdByte, hc, hck, hk]
    · simp [rdByte, ih h3]

end Sys2Proof.Laws
end

