-- ==== Sys2Proof/Laws/Keeps.lean ====
section
/-! SUPPORT. What every operation but a few keeps, whatever else it changes: the queue, what the part is, the flash's floors, owner
and retirement entries, an asserted THERMTRIP_N, the canonical form of the stores. -/

namespace Sys2Proof.Laws

open Sys2Proof Sys2Proof.Machine

/-- The part is the same part, and an asserted THERMTRIP_N stays. -/
structure KeepsPart (p q : Part) : Prop where
  variant : q.variant = p.variant
  stepping : q.stepping = p.stepping
  trip : p.thermtripN = false → q.thermtripN = false

/-- The flash keeps its floors and owner, and every retirement entry. -/
structure KeepsFlash (f g : Flash) : Prop where
  fwFloor : g.fwFloor = f.fwFloor
  recFloor : g.recFloor = f.recFloor
  owner : g.owner = f.owner
  network : g.network = f.network
  retired : ∀ k ∈ f.retired, k ∈ g.retired

/-- What every operation keeps. -/
structure Keeps (s t : State) : Prop where
  queue : t.pending = s.pending
  part : KeepsPart s.part t.part
  flash : KeepsFlash s.ks.flash t.ks.flash
  mem : s.mem.wf = true → t.mem.wf = true

theorem KeepsPart.same {p q : Part} (h1 : q.variant = p.variant) (h2 : q.stepping = p.stepping) (h3 : q.thermtripN = p.thermtripN) :
    KeepsPart p q := ⟨h1, h2, fun h => h3.trans h⟩

theorem KeepsFlash.same {f g : Flash} (h : g = f) : KeepsFlash f g := by subst h; exact ⟨rfl, rfl, rfl, rfl, fun _ h => h⟩

theorem Keeps.refl (s : State) : Keeps s s := ⟨rfl, .same rfl rfl rfl, .same rfl, id⟩

theorem Keeps.trans {a b c : State} (h : Keeps a b) (k : Keeps b c) : Keeps a c :=
  ⟨k.queue.trans h.queue, ⟨k.part.variant.trans h.part.variant, k.part.stepping.trans h.part.stepping, fun x => k.part.trip (h.part.trip x)⟩,
   ⟨k.flash.fwFloor.trans h.flash.fwFloor, k.flash.recFloor.trans h.flash.recFloor, k.flash.owner.trans h.flash.owner,
    k.flash.network.trans h.flash.network, fun x hx => k.flash.retired x (h.flash.retired x hx)⟩, fun x => k.mem (h.mem x)⟩

/-- A record update keeps what it must where its part, flash and stores do. -/
theorem Keeps.mk' {s0 s : State} {part : Part} {time : Time} {ks : Keystone} {power : Power} {mem : Mem} {bays : SMap Bay}
    {movers : SMap Mover} {dies : SMap Die} {jobs : SMap Job} {span : Span} {via : Viaduct} {hosts : List HostPort} {out : Outputs}
    (H : Keeps s0 s) (hp : KeepsPart s.part part) (hk : KeepsFlash s.ks.flash ks.flash) (hm : s.mem.wf = true → mem.wf = true) :
    Keeps s0 ⟨part, time, ks, power, mem, bays, movers, dies, jobs, span, via, hosts, out, s.pending⟩ :=
  H.trans ⟨rfl, hp, hk, hm⟩

theorem keeps_withMem {s0 s : State} {m : Mem} (H : Keeps s0 s) (h : s.mem.wf = true → m.wf = true) : Keeps s0 { s with mem := m } :=
  H.trans ⟨rfl, .same rfl rfl rfl, .same rfl, h⟩

theorem keeps_foldl {α : Type} {s0 s : State} {f : State → α → State} {xs : List α} (H : Keeps s0 s)
    (hf : ∀ t x, Keeps s0 t → Keeps s0 (f t x)) : Keeps s0 (xs.foldl f s) := by
  induction xs generalizing s with
  | nil => exact H
  | cons x xs ih => exact ih (hf s x H)

theorem keeps_foldl_fst {α β : Type} {s0 : State} {s : State × β} {f : State × β → α → State × β} {xs : List α} (H : Keeps s0 s.1)
    (hf : ∀ t x, Keeps s0 t.1 → Keeps s0 (f t x).1) : Keeps s0 (xs.foldl f s).1 := by
  induction xs generalizing s with
  | nil => exact H
  | cons x xs ih => exact ih (hf s x H)

theorem keeps_of_pair {α : Type} {s0 t : State} {x : α} {p : State × α} (h : p = (t, x)) (H : Keeps s0 p.1) : Keeps s0 t := by
  subst h; exact H

theorem keeps_of_pair2 {α : Type} {s0 t : State} {x : α} {p : α × State} (h : p = (x, t)) (H : Keeps s0 p.2) : Keeps s0 t := by
  subst h; exact H

/-- New records in the log change nothing else of the flash. -/
theorem KeepsFlash.logged (f : Flash) (l : List FaultRec) (n : Nat) : KeepsFlash f { f with log := l, logCount := n } :=
  ⟨rfl, rfl, rfl, rfl, fun _ h => h⟩

theorem keeps_id {s0 t : State} (H : Keeps s0 t) : Keeps s0 (id t) := H

/-- An optional state. -/
def KeepsOpt (s0 : State) (o : Option State) : Prop := ∀ t, o = some t → Keeps s0 t

theorem keeps_of_opt {s0 t : State} {o : Option State} (h : o = some t) (H : KeepsOpt s0 o) : Keeps s0 t := H t h
theorem keepsOpt_some {s0 t : State} (H : Keeps s0 t) : KeepsOpt s0 (some t) := fun _ h => Option.some.inj h ▸ H
theorem keepsOpt_none {s0 : State} : KeepsOpt s0 none := fun _ h => nomatch h

theorem keepsOpt_map {α : Type} {s0 : State} {o : Option α} {f : α → State} (hf : ∀ a, Keeps s0 (f a)) : KeepsOpt s0 (o.map f) := by
  cases o with
  | none => exact keepsOpt_none
  | some a => exact keepsOpt_some (hf a)

/-- The effect of a stroke instruction. -/
def KeepsEff (s0 : State) : Eff → Prop
  | .done s _ => Keeps s0 s
  | _ => True

theorem keepsEff_done {s0 s : State} {r : Running} (H : Keeps s0 s) : KeepsEff s0 (.done s r) := H
theorem keepsEff_hold {s0 : State} : KeepsEff s0 .hold := trivial
theorem keepsEff_viol {s0 : State} {a b : Nat} {d : Option Desc} : KeepsEff s0 (.viol a b d) := trivial

/-- The outcome of a Vobin command's checks and effect. -/
def KeepsExe (s0 : State) : Exe CmdOut → Prop
  | .ok o => Keeps s0 o.s
  | .error _ => True

theorem keepsExe_pure {s0 : State} {o : CmdOut} (H : Keeps s0 o.s) : KeepsExe s0 (pure o) := H
theorem keepsExe_bind {α : Type} {s0 : State} {x : Exe α} {f : α → Exe CmdOut} (H : ∀ a, KeepsExe s0 (f a)) : KeepsExe s0 (x >>= f) := by
  cases x with
  | error e => exact trivial
  | ok a => exact H a
theorem keepsExe_error {s0 : State} {e : Nat × Nat × Nat} : KeepsExe s0 (.error e) := trivial
theorem keepsExe_throw {s0 : State} {e : Nat × Nat × Nat} : KeepsExe s0 (throw e) := trivial

/-- The answer of a command. -/
def KeepsOut (s0 : State) : Outcome → Prop
  | .next t => Keeps s0 t
  | _ => True

theorem keepsOut_next {s0 t : State} (H : Keeps s0 t) : KeepsOut s0 (.next t) := H

theorem keeps_ite {c : Prop} [Decidable c] {s0 a b : State} (ha : Keeps s0 a) (hb : Keeps s0 b) : Keeps s0 (if c then a else b) := by
  split <;> assumption
theorem keepsOpt_ite {c : Prop} [Decidable c] {s0 : State} {a b : Option State} (ha : KeepsOpt s0 a) (hb : KeepsOpt s0 b) :
    KeepsOpt s0 (if c then a else b) := by
  split <;> assumption
theorem keepsEff_ite {c : Prop} [Decidable c] {s0 : State} {a b : Eff} (ha : KeepsEff s0 a) (hb : KeepsEff s0 b) :
    KeepsEff s0 (if c then a else b) := by
  split <;> assumption
theorem keepsExe_ite {c : Prop} [Decidable c] {s0 : State} {a b : Exe CmdOut} (ha : KeepsExe s0 a) (hb : KeepsExe s0 b) :
    KeepsExe s0 (if c then a else b) := by
  split <;> assumption

end Sys2Proof.Laws
end

