-- ==== Sys2Proof/Laws/Stores.lean ====
section
/-! SUPPORT. Every operation that writes the stores through a descriptor keeps their canonical form. -/

namespace Sys2Proof.Laws

open Sys2Proof Sys2Proof.Machine

theorem wrBits_wf {m : Mem} (a w c : Nat) (h : Mem.wf m = true) : Mem.wf (wrBits m a w c) = true := wrNat_wf _ _ _ h

theorem wr_wf {m : Mem} (d : Desc) (p c : Nat) (h : Mem.wf m = true) : Mem.wf (d.wr m p c) = true := wrBits_wf _ _ _ h

theorem wrSide_wf {m : Mem} (d : Desc) (j c : Nat) (h : Mem.wf m = true) : Mem.wf (d.wrSide m j c) = true := wrByte_wf _ _ h

theorem wrBlock_wf {m : Mem} (d : Desc) (j : Nat) (cs : List Nat) (h : Mem.wf m = true) : Mem.wf (d.wrBlock m j cs) = true :=
  foldl_wf _ (fun _ _ h => wrBits_wf _ _ _ h) _ h

theorem wrBx_wf {m : Mem} (d : Desc) (j : Nat) (b : Bx) (h : Mem.wf m = true) : Mem.wf (d.wrBx m j b) = true :=
  wrSide_wf _ _ _ (wrBlock_wf _ _ _ h)

theorem putVal_wf {k : Sink} (d : Desc) (p : Nat) (v : Val) (h : Mem.wf k.mem = true) : Mem.wf (d.putVal k p v).mem = true :=
  wr_wf _ _ _ h

theorem putMx_wf {k : Sink} (d : Desc) (j : Nat) (vs : List Val) (h : Mem.wf k.mem = true) : Mem.wf (d.putMx k j vs).mem = true :=
  wrSide_wf _ _ _ (wrBlock_wf _ _ _ h)

theorem putBx_wf {k : Sink} (d : Desc) (j : Nat) (vs : List Val) (h : Mem.wf k.mem = true) : Mem.wf (d.putBx k j vs).mem = true :=
  wrBx_wf _ _ _ h

/-- A fold of sinks that each keep the form keeps it. -/
theorem foldlSink_wf {α : Type} {f : Sink → α → Sink} (hf : ∀ k x, Mem.wf k.mem = true → Mem.wf (f k x).mem = true) {xs : List α} {k : Sink}
    (h : Mem.wf k.mem = true) : Mem.wf (xs.foldl f k).mem = true := by
  induction xs generalizing k with
  | nil => exact h
  | cons x xs ih => exact ih (hf k x h)

theorem putRow_wf {k : Sink} (d : Desc) (p : Nat) (vs : List Val) (h : Mem.wf k.mem = true) : Mem.wf (d.putRow k p vs).mem = true := by
  unfold Desc.putRow
  split
  · refine foldlSink_wf (fun k b hk => ?_) h
    dsimp only
    split
    · exact putBx_wf _ _ _ hk
    · exact putMx_wf _ _ _ hk
  · exact foldlSink_wf (fun k b hk => putVal_wf _ _ _ hk) h

theorem accBlock_wf {m : Mem} (d : Desc) (j : Nat) (vs : List Val) (h : Mem.wf m = true) : Mem.wf (d.accBlock m j vs).1 = true :=
  wrBx_wf _ _ _ h

theorem putHist_wf {m : Mem} (d : Desc) (x : Hist) (h : Mem.wf m = true) : Mem.wf (d.putHist m x) = true := by
  unfold Desc.putHist
  exact foldl_wf _ (fun _ _ h => wr_wf _ _ _ h) _ h

theorem store_wf {m : Mem} (d : Desc) (p n : Nat) (bs : List Byte) (h : Mem.wf m = true) : Mem.wf (d.store m p n bs) = true := by
  unfold Desc.store
  dsimp only
  split
  · exact foldl_wf _ (fun _ _ h => wrSide_wf _ _ _ (wrBlock_wf _ _ _ h)) _ h
  · exact foldl_wf _ (fun _ _ h => wr_wf _ _ _ h) _ h

theorem padRow_wf {m : Mem} (d : Desc) (p : Nat) (h : Mem.wf m = true) : Mem.wf (d.padRow m p) = true := by
  unfold Desc.padRow
  split
  · exact foldl_wf _ (fun _ _ h => wrBits_wf _ _ _ h) _ h
  · exact h

theorem copyPairs_wf {m : Mem} (m0 : Mem) (src dst : Desc) (ps : List (Nat × Nat)) (h : Mem.wf m = true) :
    Mem.wf (copyPairs m0 m src dst ps) = true := by
  refine foldl_wf _ (fun m x h => ?_) _ h
  dsimp only
  split
  · exact wrSide_wf _ _ _ (padRow_wf _ _ (wr_wf _ _ _ h))
  · exact padRow_wf _ _ (wr_wf _ _ _ h)

theorem zeroSlice_wf {m : Mem} (d : Desc) (j : Nat) (h : Mem.wf m = true) : Mem.wf (d.zeroSlice m j) = true := by
  refine foldl_wf _ (fun m x h => ?_) _ h
  dsimp only
  split
  · exact wrSide_wf _ _ _ (padRow_wf _ _ (wr_wf _ _ _ h))
  · exact padRow_wf _ _ (wr_wf _ _ _ h)

/-- A fold that carries the stores and something else. -/
theorem foldlFst_wf {α β : Type} {f : Mem × β → α → Mem × β} (hf : ∀ m x, Mem.wf m.1 = true → Mem.wf (f m x).1 = true) {xs : List α}
    {m : Mem × β} (h : Mem.wf m.1 = true) : Mem.wf (xs.foldl f m).1 = true := by
  induction xs generalizing m with
  | nil => exact h
  | cons x xs ih => exact ih (hf m x h)

theorem wf_of_pair {β : Type} {m : Mem} {x : β} {p : Mem × β} (h : p = (m, x)) (H : Mem.wf p.1 = true) : Mem.wf m = true := by
  subst h; exact H

theorem formBlocks_wf {m : Mem} (q : MvReq) (e : Bool) (js : List Nat) (h : Mem.wf m = true) : Mem.wf (q.formBlocks m e js).1 = true :=
  foldlFst_wf (fun m _ h => foldlSink_wf (fun _ _ hk => putVal_wf _ _ _ hk) (k := ⟨m.1, [0, 0, 0, 0], none⟩) h) h

theorem storeBytes_wf {m : Mem} (r : Running) (i : BitVec 6) (d : Desc) (p : Nat) (bs : List Nat) (h : Mem.wf m = true) :
    Mem.wf (r.storeBytes i d m p bs) = true :=
  foldl_wf _ (fun _ _ h => wrBits_wf _ _ _ h) _ h

theorem bounced_wf {m : Mem} (q : MvReq) (a : Nat) (h : Mem.wf m = true) : Mem.wf (q.bounced m a) = true := by
  refine foldl_wf _ (fun _ _ h => ?_) _ h
  dsimp only
  split
  · exact wrByte_wf _ _ h
  · exact h

theorem clipSamples_wf {s : State} (h : s.mem.wf = true) (q : Pool) (x : Stream) (c : Clip) (bank i : Nat) :
    (s.clipSamples q x c bank i).wf = true := by
  unfold State.clipSamples
  dsimp only
  split
  · exact wrBytes_wf _ _ h
  · exact wrBytes_wf _ _ (wrBytes_wf _ _ h)

theorem copyRanges_wf {m : Mem} (rs : List (Nat × Nat)) (a : Nat) (h : Mem.wf m = true) : Mem.wf (copyRanges m rs a) = true :=
  foldlFst_wf (fun _ _ h => wrBytes_wf _ _ h) h

end Sys2Proof.Laws
end

