-- ==== Sys2Proof/Laws/KeptOps.lean ====
section
/-! SUPPORT. What the operations of Machine/Ops.lean keep: one lemma for each. -/

namespace Sys2Proof.Laws

open Sys2Proof Sys2Proof.Machine

theorem keeps_setBay {σ s : State} (H : Keeps σ s) (die b : Nat) (x : Bay) : Keeps σ (State.setBay s die b x) := by
  unfold State.setBay
  repeat' first
    | with_reducible assumption
    | exact .same rfl rfl rfl
    | exact ⟨rfl, rfl, rfl, rfl, fun _ h => h⟩
    | with_reducible exact id
    | with_reducible refine Keeps.mk' ?_ ?_ ?_ ?_

theorem keeps_modBay {σ s : State} (H : Keeps σ s) (die b : Nat) (f : Bay → Bay) : Keeps σ (State.modBay s die b f) := by
  unfold State.modBay
  repeat' first
    | with_reducible assumption
    | with_reducible apply keeps_setBay

theorem keeps_setDie {σ s : State} (H : Keeps σ s) (d : Nat) (x : Die) : Keeps σ (State.setDie s d x) := by
  unfold State.setDie
  repeat' first
    | with_reducible assumption
    | exact .same rfl rfl rfl
    | exact ⟨rfl, rfl, rfl, rfl, fun _ h => h⟩
    | with_reducible exact id
    | with_reducible refine Keeps.mk' ?_ ?_ ?_ ?_

theorem keeps_modDie {σ s : State} (H : Keeps σ s) (d : Nat) (f : Die → Die) : Keeps σ (State.modDie s d f) := by
  unfold State.modDie
  repeat' first
    | with_reducible assumption
    | with_reducible apply keeps_setDie

theorem keeps_countRefusal {σ s : State} (H : Keeps σ s) (die resource standing : Nat) (n : Nat) : Keeps σ (State.countRefusal s die resource standing n) := by
  unfold State.countRefusal
  repeat' first
    | with_reducible assumption
    | with_reducible apply keeps_modDie

theorem keeps_modMover {σ s : State} (H : Keeps σ s) (die m : Nat) (f : Mover → Mover) : Keeps σ (State.modMover s die m f) := by
  unfold State.modMover
  repeat' first
    | with_reducible assumption
    | exact .same rfl rfl rfl
    | exact ⟨rfl, rfl, rfl, rfl, fun _ h => h⟩
    | with_reducible exact id
    | with_reducible refine Keeps.mk' ?_ ?_ ?_ ?_

theorem keeps_modHost {σ s : State} (H : Keeps σ s) (p : Nat) (f : HostPort → HostPort) : Keeps σ (State.modHost s p f) := by
  unfold State.modHost
  repeat' first
    | with_reducible assumption
    | exact .same rfl rfl rfl
    | exact ⟨rfl, rfl, rfl, rfl, fun _ h => h⟩
    | with_reducible exact id
    | with_reducible refine Keeps.mk' ?_ ?_ ?_ ?_

theorem keeps_modJob {σ s : State} (H : Keeps σ s) (j : Nat) (f : Job → Job) : Keeps σ (State.modJob s j f) := by
  unfold State.modJob
  repeat' first
    | with_reducible assumption
    | exact .same rfl rfl rfl
    | exact ⟨rfl, rfl, rfl, rfl, fun _ h => h⟩
    | with_reducible exact id
    | with_reducible refine Keeps.mk' ?_ ?_ ?_ ?_

theorem keeps_modSlot {σ s : State} (H : Keeps σ s) (die n : Nat) (f : Slot → Slot) : Keeps σ (State.modSlot s die n f) := by
  unfold State.modSlot
  repeat' first
    | with_reducible assumption
    | with_reducible apply keeps_modDie

theorem keeps_modPort {σ s : State} (H : Keeps σ s) (k : Nat) (f : Port → Port) : Keeps σ (State.modPort s k f) := by
  unfold State.modPort
  repeat' first
    | with_reducible assumption
    | exact .same rfl rfl rfl
    | exact ⟨rfl, rfl, rfl, rfl, fun _ h => h⟩
    | with_reducible exact id
    | dsimp only
    | with_reducible refine Keeps.mk' ?_ ?_ ?_ ?_

theorem keeps_memWake {σ s : State} (H : Keeps σ s) (a : Nat) : Keeps σ (State.memWake s a) := by
  unfold State.memWake
  repeat' first
    | with_reducible assumption
    | exact .same rfl rfl rfl
    | exact ⟨rfl, rfl, rfl, rfl, fun _ h => h⟩
    | with_reducible exact id
    | with_reducible apply keeps_ite
    | dsimp only
    | with_reducible refine Keeps.mk' ?_ ?_ ?_ ?_

theorem keeps_markBad {σ s : State} (H : Keeps σ s) (a : Nat) : Keeps σ (State.markBad s a) := by
  unfold State.markBad
  repeat' first
    | with_reducible assumption
    | with_reducible apply keeps_modBay
    | with_reducible apply keeps_ite

theorem keeps_wrote {σ s : State} (H : Keeps σ s) (a n : Nat) : Keeps σ (State.wrote s a n) := by
  unfold State.wrote
  repeat' first
    | with_reducible assumption
    | with_reducible apply keeps_modBay
    | with_reducible apply keeps_ite

theorem keeps_addReaders {σ s : State} (H : Keeps σ s) (die : Nat) (ys : List (Nat × Nat × Nat)) : Keeps σ (State.addReaders s die ys) := by
  unfold State.addReaders
  repeat' first
    | with_reducible assumption
    | with_reducible apply keeps_modBay
    | with_reducible apply keeps_foldl
    | intro _

theorem keeps_dropReaders {σ s : State} (H : Keeps σ s) (die : Nat) (ys : List (Nat × Nat × Nat)) : Keeps σ (State.dropReaders s die ys) := by
  unfold State.dropReaders
  repeat' first
    | with_reducible assumption
    | with_reducible apply keeps_modBay
    | with_reducible apply keeps_foldl
    | intro _

theorem keeps_onSram {σ s : State} (H : Keeps σ s) (a : Nat) (f : Nat → Bay → Bay) : Keeps σ (State.onSram s a f) := by
  unfold State.onSram
  repeat' first
    | with_reducible assumption
    | with_reducible apply keeps_modBay
    | split

theorem keeps_countHost {σ s : State} (H : Keeps σ s) (p f : Nat) : Keeps σ (State.countHost s p f) := by
  unfold State.countHost
  repeat' first
    | with_reducible assumption
    | with_reducible apply keeps_modHost

theorem keeps_vector {σ s : State} (H : Keeps σ s) (p v : Nat) : Keeps σ (State.vector s p v) := by
  unfold State.vector
  repeat' first
    | with_reducible assumption
    | with_reducible apply keeps_countHost
    | with_reducible apply keeps_modHost
    | exact .same rfl rfl rfl
    | exact ⟨rfl, rfl, rfl, rfl, fun _ h => h⟩
    | with_reducible exact id
    | with_reducible apply keeps_ite
    | dsimp only
    | with_reducible refine Keeps.mk' ?_ ?_ ?_ ?_

theorem keeps_eventAt {σ s : State} (H : Keeps σ s) (p code job die status : Nat) (data : List Byte) : Keeps σ (State.eventAt s p code job die status data) := by
  unfold State.eventAt
  repeat' first
    | with_reducible assumption
    | with_reducible apply keeps_countHost
    | with_reducible apply keeps_modHost
    | with_reducible apply keeps_vector
    | with_reducible apply keeps_ite

theorem keeps_eventPorts {σ s : State} (H : Keeps σ s) (ps : List Nat) (code job die status : Nat) (data : List Byte) : Keeps σ (State.eventPorts s ps code job die status data) := by
  unfold State.eventPorts
  repeat' first
    | with_reducible assumption
    | with_reducible apply keeps_eventAt
    | with_reducible apply keeps_foldl
    | intro _

theorem keeps_event {σ s : State} (H : Keeps σ s) (code job die status : Nat) (data : List Byte) : Keeps σ (State.event s code job die status data) := by
  unfold State.event
  repeat' first
    | with_reducible assumption
    | with_reducible apply keeps_eventPorts

theorem keeps_mgmtSend {σ s : State} (H : Keeps σ s) (code status : Nat) (nonce body : List Byte) : Keeps σ (State.mgmtSend s code status nonce body) := by
  unfold State.mgmtSend
  repeat' first
    | with_reducible assumption
    | exact .same rfl rfl rfl
    | exact ⟨rfl, rfl, rfl, rfl, fun _ h => h⟩
    | with_reducible exact id
    | with_reducible apply keeps_ite
    | dsimp only
    | with_reducible refine Keeps.mk' ?_ ?_ ?_ ?_

theorem keeps_mgmtRelease {σ s : State} (H : Keeps σ s)  : Keeps σ (State.mgmtRelease s) := by
  unfold State.mgmtRelease
  repeat' first
    | with_reducible assumption
    | with_reducible apply keeps_mgmtSend
    | with_reducible apply keeps_foldl
    | exact .same rfl rfl rfl
    | exact ⟨rfl, rfl, rfl, rfl, fun _ h => h⟩
    | with_reducible exact id
    | intro _
    | with_reducible apply keeps_ite
    | dsimp only
    | with_reducible refine Keeps.mk' ?_ ?_ ?_ ?_

theorem keeps_logFault {σ s : State} (H : Keeps σ s) (r : FaultRec) : Keeps σ (s.logFault r) := by
  unfold State.logFault
  have key : ∀ ks : Keystone, KeepsFlash s.ks.flash ks.flash → Keeps σ { s with ks := ks } := fun ks h =>
    H.trans ⟨rfl, .same rfl rfl rfl, h, id⟩
  extract_lets r' now sent drop old flash ks body t u
  have h : Keeps σ t := key ks (by
    dsimp only [ks]
    split
    · exact .logged _ _ _
    · exact .same rfl)
  have hu : Keeps σ u := keeps_ite h (keeps_mgmtSend h _ _ _ _)
  exact keeps_ite (keeps_event hu _ _ _ _ _) hu

theorem keeps_freeze {σ s : State} (H : Keeps σ s) (f : Freeze) : Keeps σ (State.freeze s f) := by
  unfold State.freeze
  repeat' first
    | with_reducible assumption
    | with_reducible apply keeps_event
    | with_reducible apply keeps_logFault
    | with_reducible apply keeps_modHost
    | with_reducible apply keeps_modJob
    | exact .same rfl rfl rfl
    | exact ⟨rfl, rfl, rfl, rfl, fun _ h => h⟩
    | with_reducible exact id
    | with_reducible apply keeps_ite
    | dsimp only
    | with_reducible refine Keeps.mk' ?_ ?_ ?_ ?_

theorem keeps_pumpPort {σ s : State} (H : Keeps σ s) (k : Nat) : Keeps σ (State.pumpPort s k) := by
  unfold State.pumpPort
  repeat' first
    | with_reducible assumption
    | with_reducible apply keeps_modPort
    | exact .same rfl rfl rfl
    | exact ⟨rfl, rfl, rfl, rfl, fun _ h => h⟩
    | with_reducible exact id
    | with_reducible apply keeps_ite
    | dsimp only
    | with_reducible refine Keeps.mk' ?_ ?_ ?_ ?_

theorem keeps_transmit {σ s : State} (H : Keeps σ s) (w : Wire) : Keeps σ (State.transmit s w) := by
  unfold State.transmit
  repeat' first
    | with_reducible assumption
    | with_reducible apply keeps_modPort
    | with_reducible apply keeps_pumpPort
    | exact .same rfl rfl rfl
    | exact ⟨rfl, rfl, rfl, rfl, fun _ h => h⟩
    | with_reducible exact id
    | with_reducible apply keeps_ite
    | dsimp only
    | with_reducible refine Keeps.mk' ?_ ?_ ?_ ?_

theorem keeps_unsent {σ s : State} (H : Keeps σ s) (kind seq status : Nat) (body : List Byte) : Keeps σ (State.unsent s kind seq status body) := by
  unfold State.unsent
  repeat' first
    | with_reducible assumption
    | with_reducible apply keeps_transmit
    | exact .same rfl rfl rfl
    | exact ⟨rfl, rfl, rfl, rfl, fun _ h => h⟩
    | with_reducible exact id
    | with_reducible apply keeps_ite
    | dsimp only
    | with_reducible refine Keeps.mk' ?_ ?_ ?_ ?_

theorem keeps_emit {σ s : State} (H : Keeps σ s) (kind flags dst seq : Nat) (body : List Byte) : Keeps σ (State.emit s kind flags dst seq body) := by
  unfold State.emit
  repeat' first
    | with_reducible assumption
    | with_reducible apply keeps_transmit
    | with_reducible apply keeps_unsent
    | exact .same rfl rfl rfl
    | exact ⟨rfl, rfl, rfl, rfl, fun _ h => h⟩
    | with_reducible exact id
    | with_reducible apply keeps_ite
    | dsimp only
    | split
    | with_reducible refine Keeps.mk' ?_ ?_ ?_ ?_

theorem keeps_send {σ s : State} (H : Keeps σ s) (kind dst die : Nat) (body : List Byte) (ctx : List Nat) : Keeps σ (State.send s kind dst die body ctx) := by
  unfold State.send
  repeat' first
    | with_reducible assumption
    | with_reducible apply keeps_emit
    | exact .same rfl rfl rfl
    | exact ⟨rfl, rfl, rfl, rfl, fun _ h => h⟩
    | with_reducible exact id
    | with_reducible apply keeps_ite
    | dsimp only
    | with_reducible refine Keeps.mk' ?_ ?_ ?_ ?_

theorem keeps_answer {σ s : State} (H : Keeps σ s) (m : SpanMsg) (kind status : Nat) : Keeps σ (State.answer s m kind status) := by
  unfold State.answer
  repeat' first
    | with_reducible assumption
    | with_reducible apply keeps_emit

theorem keeps_consume {σ s : State} (H : Keeps σ s) (m : SpanMsg) (kind status : Nat) : Keeps σ (State.consume s m kind status) := by
  unfold State.consume
  repeat' first
    | with_reducible assumption
    | exact .same rfl rfl rfl
    | exact ⟨rfl, rfl, rfl, rfl, fun _ h => h⟩
    | with_reducible exact id
    | dsimp only
    | with_reducible refine Keeps.mk' ?_ ?_ ?_ ?_

theorem keeps_expectNext {σ s : State} (H : Keeps σ s) (m : SpanMsg) : Keeps σ (State.expectNext s m) := by
  unfold State.expectNext
  repeat' first
    | with_reducible assumption
    | exact .same rfl rfl rfl
    | exact ⟨rfl, rfl, rfl, rfl, fun _ h => h⟩
    | with_reducible exact id
    | dsimp only
    | with_reducible refine Keeps.mk' ?_ ?_ ?_ ?_

theorem keeps_discardOn {σ s : State} (H : Keeps σ s) (k : Nat) : Keeps σ (State.discardOn s k) := by
  unfold State.discardOn
  repeat' first
    | with_reducible assumption
    | with_reducible apply keeps_modPort
    | exact .same rfl rfl rfl
    | exact ⟨rfl, rfl, rfl, rfl, fun _ h => h⟩
    | with_reducible exact id
    | with_reducible apply keeps_ite
    | dsimp only
    | with_reducible refine Keeps.mk' ?_ ?_ ?_ ?_

theorem keeps_discardMsg {σ s : State} (H : Keeps σ s) (m : SpanMsg) : Keeps σ (State.discardMsg s m) := by
  unfold State.discardMsg
  repeat' first
    | with_reducible assumption
    | with_reducible apply keeps_discardOn

theorem keeps_answerWith {σ s : State} (H : Keeps σ s) (m : SpanMsg) (kind : Nat) (a : Answer) : Keeps σ (State.answerWith s m kind a) := by
  unfold State.answerWith
  repeat' first
    | with_reducible assumption
    | with_reducible apply keeps_answer
    | with_reducible apply keeps_consume
    | with_reducible apply keeps_expectNext
    | with_reducible apply keeps_ite
    | dsimp only
    | split

theorem keeps_recv {σ s : State} {die kind : Nat} {m : SpanMsg} {ok : Bool} {f : State → State × Answer} {dup : State → State} (H : Keeps σ s)
    (hf : ∀ t, Keeps σ t → Keeps σ (f t).1) (hd : ∀ t, Keeps σ t → Keeps σ (dup t)) : Keeps σ (s.recv die kind m ok f dup) := by
  unfold State.recv
  have h := hf s H
  repeat' first
    | with_reducible assumption
    | (with_reducible apply keeps_answerWith)
    | (with_reducible apply keeps_answer)
    | (with_reducible apply keeps_consume)
    | (with_reducible apply keeps_discardMsg)
    | (with_reducible exact hd s H)
    | split
    | (refine keeps_of_pair (by assumption) ?_)
    | (dsimp only)

theorem keeps_acked {σ s : State} (H : Keeps σ s) (node vc seq : Nat) : Keeps σ (State.acked s node vc seq) := by
  unfold State.acked
  repeat' first
    | with_reducible assumption
    | with_reducible apply keeps_emit
    | exact .same rfl rfl rfl
    | exact ⟨rfl, rfl, rfl, rfl, fun _ h => h⟩
    | with_reducible exact id
    | with_reducible apply keeps_ite
    | dsimp only
    | split
    | with_reducible refine Keeps.mk' ?_ ?_ ?_ ?_

theorem keeps_hostWrite {σ s : State} (H : Keeps σ s) (p addr : Nat) (bs : List Byte) : Keeps σ (State.hostWrite s p addr bs) := by
  unfold State.hostWrite
  repeat' first
    | with_reducible assumption
    | exact .same rfl rfl rfl
    | exact ⟨rfl, rfl, rfl, rfl, fun _ h => h⟩
    | with_reducible exact id
    | dsimp only
    | with_reducible refine Keeps.mk' ?_ ?_ ?_ ?_

theorem keeps_complete {σ s : State} (H : Keeps σ s) (p : Nat) (d : Option (List Byte)) : Keeps σ (State.complete s p d) := by
  unfold State.complete
  repeat' first
    | with_reducible assumption
    | with_reducible apply keeps_countHost
    | exact .same rfl rfl rfl
    | exact ⟨rfl, rfl, rfl, rfl, fun _ h => h⟩
    | with_reducible exact id
    | with_reducible apply keeps_ite
    | dsimp only
    | with_reducible refine Keeps.mk' ?_ ?_ ?_ ?_

end Sys2Proof.Laws
end

