-- ==== Sys2Proof/Laws/KeptContribution.lean ====
section
/-! SUPPORT. What the operations of Machine/Contribution.lean keep: one lemma for each. -/

namespace Sys2Proof.Laws

open Sys2Proof Sys2Proof.Machine

theorem keeps_redSend {σ s : State} (H : Keeps σ s) (die n node kind flags count first token : Nat) (payload : List Byte) (ctx : List Nat) : Keeps σ (State.redSend s die n node kind flags count first token payload ctx) := by
  unfold State.redSend
  repeat' first
    | with_reducible assumption
    | with_reducible apply keeps_send

theorem keeps_queueRange {σ s : State} (H : Keeps σ s) (die n kind flags token a r c : Nat) : Keeps σ (State.queueRange s die n kind flags token a r c) := by
  unfold State.queueRange
  repeat' first
    | with_reducible assumption
    | with_reducible apply keeps_modSlot

theorem keeps_sendPiece {σ s : State} (H : Keeps σ s) (die n : Nat) (q : List Nat) : Keeps σ (State.sendPiece s die n q) := by
  unfold State.sendPiece
  repeat' first
    | with_reducible assumption
    | with_reducible apply keeps_modSlot
    | with_reducible apply keeps_redSend
    | dsimp only
    | split

theorem keeps_pump {σ s : State} (H : Keeps σ s) (die n : Nat) : Keeps σ (State.pump s die n) := by
  unfold State.pump
  repeat' first
    | with_reducible assumption
    | with_reducible apply keeps_sendPiece
    | with_reducible apply keeps_foldl
    | intro _
    | with_reducible apply keeps_ite

theorem keeps_openReqSend {σ s : State} (H : Keeps σ s) (die n : Nat) : Keeps σ (State.openReqSend s die n) := by
  unfold State.openReqSend
  repeat' first
    | with_reducible assumption
    | with_reducible apply keeps_redSend
    | with_reducible apply keeps_foldl
    | intro _

theorem keeps_gatherSend {σ s : State} (H : Keeps σ s) (e : Nat) : Keeps σ (State.gatherSend s e) := by
  unfold State.gatherSend
  repeat' first
    | with_reducible assumption
    | with_reducible apply keeps_modBay
    | with_reducible apply keeps_send
    | with_reducible apply keeps_foldl
    | exact .same rfl rfl rfl
    | exact ⟨rfl, rfl, rfl, rfl, fun _ h => h⟩
    | with_reducible exact id
    | intro _
    | with_reducible apply keeps_ite
    | dsimp only
    | split
    | with_reducible refine Keeps.mk' ?_ ?_ ?_ ?_

theorem keeps_gatherRetry {σ s : State} (H : Keeps σ s)  : Keeps σ (State.gatherRetry s) := by
  unfold State.gatherRetry
  repeat' first
    | with_reducible assumption
    | with_reducible apply keeps_gatherSend
    | with_reducible apply keeps_foldl
    | intro _

theorem keeps_gatherAsk {σ s : State} (H : Keeps σ s) (die n : Nat) : Keeps σ (State.gatherAsk s die n) := by
  unfold State.gatherAsk
  repeat' first
    | with_reducible assumption
    | with_reducible apply keeps_gatherRetry
    | exact .same rfl rfl rfl
    | exact ⟨rfl, rfl, rfl, rfl, fun _ h => h⟩
    | with_reducible exact id
    | dsimp only
    | with_reducible refine Keeps.mk' ?_ ?_ ?_ ?_

theorem keeps_trySeal {σ s : State} (H : Keeps σ s) (die n : Nat) : Keeps σ (State.trySeal s die n) := by
  unfold State.trySeal
  repeat' first
    | with_reducible assumption
    | with_reducible apply keeps_gatherAsk
    | with_reducible apply keeps_modSlot
    | with_reducible apply keeps_redSend
    | with_reducible apply keeps_foldl
    | intro _
    | with_reducible apply keeps_ite

theorem keeps_sendRanges {σ s : State} (H : Keeps σ s) (die n flags : Nat) : Keeps σ (State.sendRanges s die n flags) := by
  unfold State.sendRanges
  repeat' first
    | with_reducible assumption
    | with_reducible apply keeps_pump
    | with_reducible apply keeps_queueRange
    | with_reducible apply keeps_foldl
    | intro _

theorem keeps_tryRetract {σ s : State} (H : Keeps σ s) (die n : Nat) : Keeps σ (State.tryRetract s die n) := by
  unfold State.tryRetract
  repeat' first
    | with_reducible assumption
    | with_reducible apply keeps_modSlot
    | with_reducible apply keeps_pump
    | with_reducible apply keeps_redSend
    | with_reducible apply keeps_foldl
    | intro _
    | with_reducible apply keeps_ite

theorem keeps_retractToken {σ s : State} (H : Keeps σ s) (die token : Nat) (withdraw : Bool) : Keeps σ (State.retractToken s die token withdraw) := by
  unfold State.retractToken
  repeat' first
    | with_reducible assumption
    | with_reducible apply keeps_modSlot
    | with_reducible apply keeps_tryRetract
    | with_reducible apply keeps_foldl
    | intro _

theorem keeps_slotLost {σ s : State} (H : Keeps σ s) (die n : Nat) : Keeps σ (State.slotLost s die n) := by
  unfold State.slotLost
  repeat' first
    | with_reducible assumption
    | with_reducible apply keeps_modSlot
    | with_reducible apply keeps_redSend
    | with_reducible apply keeps_foldl
    | intro _
    | with_reducible apply keeps_ite

theorem keeps_touch {σ s : State} (H : Keeps σ s) (die n block : Nat) : Keeps σ (State.touch s die n block) := by
  unfold State.touch
  repeat' first
    | with_reducible assumption
    | with_reducible apply keeps_modDie
    | with_reducible apply keeps_modSlot
    | with_reducible apply keeps_ite

theorem keeps_accumulate {σ s : State} (H : Keeps σ s) (die : Nat) (d : Desc) (j : Nat) (vs : List Val) (brings : Bool) : Keeps σ (State.accumulate s die d j vs brings) := by
  unfold State.accumulate
  repeat' first
    | with_reducible assumption
    | with_reducible apply keeps_touch
    | exact .same rfl rfl rfl
    | exact ⟨rfl, rfl, rfl, rfl, fun _ h => h⟩
    | intro _
    | with_reducible apply accBlock_wf
    | with_reducible apply keeps_ite
    | with_reducible refine Keeps.mk' ?_ ?_ ?_ ?_

theorem keeps_accRange {σ s : State} (H : Keeps σ s) (die : Nat) (d : Desc) (p n : Nat) (val : Mem → Nat → Val) (brings : Mem → List Nat → List Val → Bool) : Keeps σ (State.accRange s die d p n val brings) := by
  unfold State.accRange
  repeat' first
    | with_reducible assumption
    | with_reducible apply keeps_accumulate
    | with_reducible apply keeps_foldl
    | intro _

end Sys2Proof.Laws
end

