-- ==== Sys2Proof/Laws/KeptStroke.lean ====
section
/-! SUPPORT. What the operations of Machine/Stroke.lean keep: one lemma for each. -/

namespace Sys2Proof.Laws

open Sys2Proof Sys2Proof.Machine

theorem keeps_putRunning {σ s : State} (H : Keeps σ s) (b : BayRef) (r : Running) : Keeps σ (State.putRunning s b r) := by
  unfold State.putRunning
  repeat' first
    | with_reducible assumption
    | with_reducible apply keeps_modBay

theorem keeps_freezeBayAt {σ s : State} (H : Keeps σ s) (b : BayRef) (r : Running) (pc reason addr : Nat) (d : Option Desc) : Keeps σ (State.freezeBayAt s b r pc reason addr d) := by
  unfold State.freezeBayAt
  repeat' first
    | with_reducible assumption
    | with_reducible apply keeps_freeze
    | with_reducible apply keeps_putRunning
    | with_reducible apply keeps_retractToken

theorem keeps_freezeBay {σ s : State} (H : Keeps σ s) (b : BayRef) (r : Running) (reason addr : Nat) (d : Option Desc) : Keeps σ (State.freezeBay s b r reason addr d) := by
  unfold State.freezeBay
  repeat' first
    | with_reducible assumption
    | with_reducible apply keeps_freezeBayAt

theorem keeps_strokeStep {σ s : State} {b : BayRef} {op : Nat} {f : Fields} {g : State → Running → Eff} (H : Keeps σ s)
    (hg : ∀ t r, Keeps σ t → KeepsEff σ (g t r)) : Keeps σ (s.strokeStep b op f g) := by
  unfold State.strokeStep
  split
  · exact H
  · rename_i r _
    have h := hg s r H
    split
    · rename_i e; rw [e] at h; exact keeps_putRunning h _ _
    · exact H
    · exact keeps_freezeBay H _ _ _ _ _

end Sys2Proof.Laws
end

