-- ==== Sys2Proof/Laws/KeptJournal.lean ====
section
/-! SUPPORT. What the operations of Machine/Journal.lean keep: one lemma for each. -/

namespace Sys2Proof.Laws

open Sys2Proof Sys2Proof.Machine

theorem keeps_srcSettle {σ s : State} (H : Keeps σ s)  : Keeps σ (State.srcSettle s) := by
  unfold State.srcSettle
  repeat' first
    | with_reducible assumption
    | with_reducible apply keeps_send
    | with_reducible apply keeps_foldl
    | exact .same rfl rfl rfl
    | exact ⟨rfl, rfl, rfl, rfl, fun _ h => h⟩
    | with_reducible exact id
    | intro _
    | dsimp only
    | with_reducible refine Keeps.mk' ?_ ?_ ?_ ?_

theorem keeps_srcTokens {σ s : State} (H : Keeps σ s) (b : BayRef) (r : Running) (kind : Nat) : Keeps σ (State.srcTokens s b r kind) := by
  unfold State.srcTokens
  repeat' first
    | with_reducible assumption
    | with_reducible apply keeps_srcSettle
    | exact .same rfl rfl rfl
    | exact ⟨rfl, rfl, rfl, rfl, fun _ h => h⟩
    | with_reducible exact id
    | dsimp only
    | with_reducible refine Keeps.mk' ?_ ?_ ?_ ?_

theorem keeps_modSealsDie {σ s : State} (H : Keeps σ s) (die : Nat) (t : SealEnt → Bool) (f : SealEnt → SealEnt) : Keeps σ (State.modSealsDie s die t f) := by
  unfold State.modSealsDie
  repeat' first
    | with_reducible assumption
    | exact .same rfl rfl rfl
    | exact ⟨rfl, rfl, rfl, rfl, fun _ h => h⟩
    | with_reducible exact id
    | with_reducible refine Keeps.mk' ?_ ?_ ?_ ?_

theorem keeps_dropMv {σ s : State} (H : Keeps σ s) (die mv : Nat) (q : MvReq) : Keeps σ (State.dropMv s die mv q) := by
  unfold State.dropMv
  repeat' first
    | with_reducible assumption
    | with_reducible apply keeps_dropReaders
    | with_reducible apply keeps_modBay
    | with_reducible apply keeps_modMover
    | split

theorem keeps_clearSpare {σ s : State} (H : Keeps σ s) (die b : Nat) : Keeps σ (State.clearSpare s die b) := by
  unfold State.clearSpare
  repeat' first
    | with_reducible assumption
    | with_reducible apply keeps_modBay
    | exact .same rfl rfl rfl
    | exact ⟨rfl, rfl, rfl, rfl, fun _ h => h⟩
    | intro _
    | with_reducible apply clrBytes_wf
    | with_reducible refine Keeps.mk' ?_ ?_ ?_ ?_

theorem keeps_releaseArbiter {σ s : State} (H : Keeps σ s) (a : Arb) : Keeps σ (State.releaseArbiter s a) := by
  unfold State.releaseArbiter
  repeat' first
    | with_reducible assumption
    | with_reducible apply keeps_clearSpare
    | with_reducible apply keeps_modBay
    | exact .same rfl rfl rfl
    | exact ⟨rfl, rfl, rfl, rfl, fun _ h => h⟩
    | with_reducible exact id
    | with_reducible apply keeps_ite
    | dsimp only
    | with_reducible refine Keeps.mk' ?_ ?_ ?_ ?_

theorem keeps_dropArb {σ s : State} (H : Keeps σ s) (b : BayRef) (r : Running) : Keeps σ (State.dropArb s b r) := by
  unfold State.dropArb
  repeat' first
    | with_reducible assumption
    | with_reducible apply keeps_releaseArbiter
    | with_reducible apply keeps_foldl
    | intro _
    | with_reducible apply keeps_ite

theorem keeps_dropStroke {σ s : State} (H : Keeps σ s) (b : BayRef) (r : Running) : Keeps σ (State.dropStroke s b r) := by
  unfold State.dropStroke
  repeat' first
    | with_reducible assumption
    | with_reducible apply keeps_dropArb
    | with_reducible apply keeps_dropMv
    | with_reducible apply keeps_dropReaders
    | with_reducible apply keeps_modBay
    | with_reducible apply keeps_modSealsDie
    | with_reducible apply keeps_srcTokens
    | with_reducible apply keeps_foldl
    | intro _

theorem keeps_modRun {σ s : State} (H : Keeps σ s) (die r : Nat) (f : Run → Run) : Keeps σ (State.modRun s die r f) := by
  unfold State.modRun
  repeat' first
    | with_reducible assumption
    | with_reducible apply keeps_modDie

theorem keeps_haltRun {σ s : State} (H : Keeps σ s) (die r st : Nat) : Keeps σ (State.haltRun s die r st) := by
  unfold State.haltRun
  repeat' first
    | with_reducible assumption
    | with_reducible apply keeps_event
    | with_reducible apply keeps_modRun

theorem keeps_closeInst {σ s : State} (H : Keeps σ s) (die : Nat) (i : Inst) : Keeps σ (State.closeInst s die i) := by
  unfold State.closeInst
  repeat' first
    | with_reducible assumption
    | with_reducible apply keeps_modRun

theorem keeps_discardStroke {σ s : State} (H : Keeps σ s) (b : BayRef) (r : Running) : Keeps σ (State.discardStroke s b r) := by
  unfold State.discardStroke
  repeat' first
    | with_reducible assumption
    | with_reducible apply keeps_closeInst
    | with_reducible apply keeps_dropStroke
    | with_reducible apply keeps_modBay

theorem keeps_abandonTo {σ s : State} (H : Keeps σ s) (b : BayRef) (r : Running) (home : Nat) (outcome : Nat) : Keeps σ (State.abandonTo s b r home outcome) := by
  unfold State.abandonTo
  repeat' first
    | with_reducible assumption
    | with_reducible apply keeps_closeInst
    | with_reducible apply keeps_dropStroke
    | with_reducible apply keeps_haltRun
    | with_reducible apply keeps_modBay
    | with_reducible apply keeps_retractToken
    | with_reducible apply keeps_ite

theorem keeps_abandon {σ s : State} (H : Keeps σ s) (b : BayRef) (r : Running) : Keeps σ (State.abandon s b r) := by
  unfold State.abandon
  repeat' first
    | with_reducible assumption
    | with_reducible apply keeps_abandonTo

end Sys2Proof.Laws
end

