-- ==== Sys2Proof/Laws/KeptAccess.lean ====
section
/-! SUPPORT. What the operations of Machine/Access.lean keep: one lemma for each. -/

namespace Sys2Proof.Laws

open Sys2Proof Sys2Proof.Machine

theorem keeps_execNop {σ s : State} (H : Keeps σ s) (b : BayRef) (f : Fields) : KeepsOut σ (execNop b f s) := by
  unfold execNop
  repeat' first
    | with_reducible apply keepsOut_next
    | with_reducible assumption
    | with_reducible apply keeps_strokeStep
    | with_reducible apply keepsEff_done

theorem keeps_execSeal {σ s : State} (H : Keeps σ s) (b : BayRef) (f : Fields) : KeepsOut σ (execSeal b f s) := by
  unfold execSeal
  repeat' first
    | with_reducible apply keepsOut_next
    | with_reducible assumption
    | with_reducible apply keeps_strokeStep
    | with_reducible apply keepsEff_done
    | intro _

theorem keeps_execLd {σ s : State} (H : Keeps σ s) (b : BayRef) (f : Fields) : KeepsOut σ (execLd b f s) := by
  unfold execLd
  repeat' first
    | with_reducible apply keepsOut_next
    | with_reducible assumption
    | with_reducible apply keeps_strokeStep
    | with_reducible exact keepsEff_hold
    | with_reducible exact keepsEff_viol
    | with_reducible apply keepsEff_done
    | intro _
    | with_reducible apply keepsEff_ite
    | dsimp only
    | split

theorem keeps_execSt {σ s : State} (H : Keeps σ s) (b : BayRef) (f : Fields) : KeepsOut σ (execSt b f s) := by
  unfold execSt
  repeat' first
    | with_reducible apply keepsOut_next
    | with_reducible assumption
    | with_reducible apply keeps_strokeStep
    | with_reducible exact keepsEff_hold
    | with_reducible exact keepsEff_viol
    | with_reducible apply keepsEff_done
    | exact .same rfl rfl rfl
    | exact ⟨rfl, rfl, rfl, rfl, fun _ h => h⟩
    | intro _
    | with_reducible apply wrSide_wf
    | with_reducible apply storeBytes_wf
    | with_reducible apply foldl_wf
    | with_reducible apply keepsEff_ite
    | dsimp only
    | split
    | with_reducible refine Keeps.mk' ?_ ?_ ?_ ?_

theorem keeps_execLdS {σ s : State} (H : Keeps σ s) (b : BayRef) (f : Fields) : KeepsOut σ (execLdS b f s) := by
  unfold execLdS
  repeat' first
    | with_reducible apply keepsOut_next
    | with_reducible assumption
    | with_reducible apply keeps_strokeStep
    | with_reducible exact keepsEff_hold
    | with_reducible exact keepsEff_viol
    | with_reducible apply keepsEff_done
    | intro _
    | with_reducible apply keepsEff_ite
    | dsimp only
    | split

theorem keeps_execStS {σ s : State} (H : Keeps σ s) (b : BayRef) (f : Fields) : KeepsOut σ (execStS b f s) := by
  unfold execStS
  repeat' first
    | with_reducible apply keepsOut_next
    | with_reducible assumption
    | with_reducible apply keeps_strokeStep
    | with_reducible exact keepsEff_hold
    | with_reducible exact keepsEff_viol
    | with_reducible apply keepsEff_done
    | exact .same rfl rfl rfl
    | exact ⟨rfl, rfl, rfl, rfl, fun _ h => h⟩
    | intro _
    | with_reducible apply wr_wf
    | with_reducible apply keepsEff_ite
    | dsimp only
    | split
    | with_reducible refine Keeps.mk' ?_ ?_ ?_ ?_

theorem keeps_execLdArg {σ s : State} (H : Keeps σ s) (b : BayRef) (f : Fields) : KeepsOut σ (execLdArg b f s) := by
  unfold execLdArg
  repeat' first
    | with_reducible apply keepsOut_next
    | with_reducible assumption
    | with_reducible apply keeps_strokeStep
    | with_reducible apply keepsEff_done
    | intro _

theorem keeps_execSum {σ s : State} (H : Keeps σ s) (b : BayRef) (f : Fields) : KeepsOut σ (execSum b f s) := by
  unfold execSum
  repeat' first
    | with_reducible apply keepsOut_next
    | with_reducible assumption
    | with_reducible apply keeps_strokeStep
    | with_reducible apply keepsEff_done
    | intro _

theorem keeps_execSumH {σ s : State} (H : Keeps σ s) (b : BayRef) (f : Fields) : KeepsOut σ (execSumH b f s) := by
  unfold execSumH
  repeat' first
    | with_reducible apply keepsOut_next
    | with_reducible assumption
    | with_reducible apply keeps_strokeStep
    | with_reducible exact keepsEff_hold
    | with_reducible apply keepsEff_done
    | intro _
    | with_reducible apply keepsEff_ite

theorem keeps_execSumX {σ s : State} (H : Keeps σ s) (b : BayRef) (f : Fields) : KeepsOut σ (execSumX b f s) := by
  unfold execSumX
  repeat' first
    | with_reducible apply keepsOut_next
    | with_reducible assumption
    | with_reducible apply keeps_strokeStep
    | with_reducible exact keepsEff_hold
    | with_reducible apply keepsEff_done
    | intro _
    | with_reducible apply keepsEff_ite

theorem keeps_execBxaV {σ s : State} (H : Keeps σ s) (b : BayRef) (f : Fields) : KeepsOut σ (execBxaV b f s) := by
  unfold execBxaV
  repeat' first
    | with_reducible apply keepsOut_next
    | with_reducible assumption
    | with_reducible apply keeps_accRange
    | with_reducible apply keeps_strokeStep
    | with_reducible exact keepsEff_hold
    | with_reducible exact keepsEff_viol
    | with_reducible apply keepsEff_done
    | intro _
    | with_reducible apply keepsEff_ite
    | split

theorem keeps_execBxaT {σ s : State} (H : Keeps σ s) (b : BayRef) (f : Fields) : KeepsOut σ (execBxaT b f s) := by
  unfold execBxaT
  repeat' first
    | with_reducible apply keepsOut_next
    | with_reducible assumption
    | with_reducible apply keeps_accRange
    | with_reducible apply keeps_strokeStep
    | with_reducible exact keepsEff_hold
    | with_reducible exact keepsEff_viol
    | with_reducible apply keepsEff_done
    | intro _
    | with_reducible apply keepsEff_ite
    | split

theorem keeps_execSpPut {σ s : State} (H : Keeps σ s) (b : BayRef) (f : Fields) (transfer : Nat) : KeepsOut σ (execSpPut b f transfer s) := by
  unfold execSpPut
  repeat' first
    | with_reducible apply keepsOut_next
    | with_reducible assumption
    | with_reducible apply keeps_send
    | with_reducible apply keeps_strokeStep
    | with_reducible apply keeps_foldl
    | with_reducible exact keepsEff_hold
    | with_reducible exact keepsEff_viol
    | with_reducible apply keepsEff_done
    | intro _
    | with_reducible apply keepsEff_ite
    | dsimp only
    | split

theorem keeps_execSpGet {σ s : State} (H : Keeps σ s) (b : BayRef) (f : Fields) (transfer : Nat) : KeepsOut σ (execSpGet b f transfer s) := by
  unfold execSpGet
  repeat' first
    | with_reducible apply keepsOut_next
    | with_reducible assumption
    | with_reducible apply keeps_send
    | with_reducible apply keeps_strokeStep
    | with_reducible apply keeps_foldl
    | with_reducible exact keepsEff_hold
    | with_reducible exact keepsEff_viol
    | with_reducible apply keepsEff_done
    | intro _
    | with_reducible apply keepsEff_ite
    | dsimp only
    | split

theorem keeps_execSpAcc {σ s : State} (H : Keeps σ s) (b : BayRef) (f : Fields) : KeepsOut σ (execSpAcc b f s) := by
  unfold execSpAcc
  repeat' first
    | with_reducible apply keepsOut_next
    | with_reducible assumption
    | with_reducible apply keeps_modBay
    | with_reducible apply keeps_modSlot
    | with_reducible apply keeps_openReqSend
    | with_reducible apply keeps_pump
    | with_reducible apply keeps_queueRange
    | with_reducible apply keeps_strokeStep
    | with_reducible exact keepsEff_hold
    | with_reducible exact keepsEff_viol
    | with_reducible apply keepsEff_done
    | intro _
    | with_reducible apply keeps_ite
    | with_reducible apply keepsEff_ite
    | dsimp only
    | split

end Sys2Proof.Laws
end

