-- ==== Sys2Proof/Laws/KeptRecord.lean ====
section
/-! SUPPORT. What the operations of Machine/Record.lean keep: one lemma for each. -/

namespace Sys2Proof.Laws

open Sys2Proof Sys2Proof.Machine

theorem keeps_wrCopy {σ s : State} (H : Keeps σ s) (h : Shard) (j c : Nat) (r : Rec) : Keeps σ (State.wrCopy s h j c r) := by
  unfold State.wrCopy
  repeat' first
    | with_reducible assumption
    | with_reducible apply keeps_hostWrite
    | exact .same rfl rfl rfl
    | exact ⟨rfl, rfl, rfl, rfl, fun _ h => h⟩
    | intro _
    | with_reducible apply wrBytes_wf
    | with_reducible apply keeps_ite
    | with_reducible refine Keeps.mk' ?_ ?_ ?_ ?_

theorem keeps_voidBlock {σ s : State} (H : Keeps σ s) (h : Shard) (j : Nat) : Keeps σ (State.voidBlock s h j) := by
  unfold State.voidBlock
  repeat' first
    | with_reducible assumption
    | with_reducible apply keeps_wrCopy
    | split

theorem keeps_wrAnchor {σ s : State} (H : Keeps σ s) (h : Shard) (j : Nat) (ws : List Word) : Keeps σ (State.wrAnchor s h j ws) := by
  unfold State.wrAnchor
  repeat' first
    | with_reducible assumption
    | with_reducible apply keeps_hostWrite
    | exact .same rfl rfl rfl
    | exact ⟨rfl, rfl, rfl, rfl, fun _ h => h⟩
    | intro _
    | with_reducible apply wrBytes_wf
    | with_reducible apply keeps_ite
    | with_reducible refine Keeps.mk' ?_ ?_ ?_ ?_

theorem keeps_anchorSlot {σ s : State} (H : Keeps σ s) (die n : Nat) (as : List Nat) : Keeps σ (State.anchorSlot s die n as) := by
  unfold State.anchorSlot
  repeat' first
    | with_reducible assumption
    | exact .same rfl rfl rfl
    | exact ⟨rfl, rfl, rfl, rfl, fun _ h => h⟩
    | intro _
    | with_reducible apply wrBytes_wf
    | with_reducible apply clrBytes_wf
    | dsimp only
    | with_reducible refine Keeps.mk' ?_ ?_ ?_ ?_

theorem keeps_untouch {σ s : State} (H : Keeps σ s) (die n : Nat) : Keeps σ (State.untouch s die n) := by
  unfold State.untouch
  repeat' first
    | with_reducible assumption
    | with_reducible apply keeps_modDie
    | with_reducible apply keeps_modSlot

end Sys2Proof.Laws
end

