-- ==== Sys2Proof/Laws/KeptReduction.lean ====
section
/-! SUPPORT. What the operations of Machine/Reduction.lean keep: one lemma for each. -/

namespace Sys2Proof.Laws

open Sys2Proof Sys2Proof.Machine

theorem keeps_redRecv {σ s : State} {die kind : Nat} {m : SpanMsg} {f : State → State × Answer} (H : Keeps σ s)
    (hf : ∀ t, Keeps σ t → Keeps σ (f t).1) : Keeps σ (s.redRecv die kind m f) := keeps_recv H hf fun _ h => h

theorem keeps_lateAnswer {σ s : State} (H : Keeps σ s) (m : SpanMsg) (status : Nat) : Keeps σ (State.lateAnswer s m status) := by
  unfold State.lateAnswer
  repeat' first
    | with_reducible assumption
    | with_reducible apply keeps_answer
    | exact .same rfl rfl rfl
    | exact ⟨rfl, rfl, rfl, rfl, fun _ h => h⟩
    | with_reducible exact id
    | dsimp only
    | with_reducible refine Keeps.mk' ?_ ?_ ?_ ?_

theorem keeps_beginConsume {σ s : State} (H : Keeps σ s) (die n : Nat) : Keeps σ (State.beginConsume s die n) := by
  unfold State.beginConsume
  repeat' first
    | with_reducible assumption
    | with_reducible apply keeps_modDie
    | with_reducible apply keeps_modSlot
    | with_reducible apply keeps_ite

theorem keeps_gateCheck {σ s : State} (H : Keeps σ s) (die n : Nat) : Keeps σ (State.gateCheck s die n) := by
  unfold State.gateCheck
  repeat' first
    | with_reducible assumption
    | with_reducible apply keeps_beginConsume
    | with_reducible apply keeps_modSlot
    | with_reducible apply keeps_ite

theorem keeps_giveCredit {σ s : State} (H : Keeps σ s) (die n : Nat) : Keeps σ (State.giveCredit s die n) := by
  unfold State.giveCredit
  repeat' first
    | with_reducible assumption
    | with_reducible apply keeps_lateAnswer
    | with_reducible apply keeps_modSlot
    | with_reducible apply keeps_foldl
    | intro _

theorem keeps_twinSend {σ s : State} (H : Keeps σ s) (die n kind flags step who token : Nat) (payload : List Byte) : Keeps σ (State.twinSend s die n kind flags step who token payload) := by
  unfold State.twinSend
  repeat' first
    | with_reducible assumption
    | with_reducible apply keeps_send
    | split

theorem keeps_memberSend {σ s : State} (H : Keeps σ s) (die n kind flags : Nat) (x : Member) (payload : List Byte) : Keeps σ (State.memberSend s die n kind flags x payload) := by
  unfold State.memberSend
  repeat' first
    | with_reducible assumption
    | with_reducible apply keeps_send

theorem keeps_fixSet {σ s : State} (H : Keeps σ s) (die n : Nat) : Keeps σ (State.fixSet s die n) := by
  unfold State.fixSet
  repeat' first
    | with_reducible assumption
    | with_reducible apply keeps_gateCheck
    | with_reducible apply keeps_giveCredit
    | with_reducible apply keeps_modSlot
    | with_reducible apply keeps_twinSend
    | with_reducible apply keeps_ite

theorem keeps_fixCheck {σ s : State} (H : Keeps σ s) (die n : Nat) : Keeps σ (State.fixCheck s die n) := by
  unfold State.fixCheck
  repeat' first
    | with_reducible assumption
    | with_reducible apply keeps_fixSet
    | with_reducible apply keeps_ite

theorem keeps_execDeadlineExpiry {σ s : State} (H : Keeps σ s) (die slot : Nat) : KeepsOut σ (execDeadlineExpiry die slot s) := by
  unfold execDeadlineExpiry
  repeat' first
    | with_reducible apply keepsOut_next
    | with_reducible assumption
    | with_reducible apply keeps_fixSet
    | with_reducible apply keeps_ite

theorem keeps_grantTo {σ s : State} (H : Keeps σ s) (die n : Nat) (carried : Bool) (m : SpanMsg) : Keeps σ (State.grantTo s die n carried m) := by
  unfold State.grantTo
  repeat' first
    | with_reducible assumption
    | with_reducible apply keeps_fixCheck
    | with_reducible apply keeps_memberSend
    | with_reducible apply keeps_modSlot
    | with_reducible apply keeps_twinSend

theorem keeps_dropReq {σ s : State} (H : Keeps σ s) (die n : Nat) (m : SpanMsg) : Keeps σ (State.dropReq s die n m) := by
  unfold State.dropReq
  repeat' first
    | with_reducible assumption
    | with_reducible apply keeps_memberSend
    | with_reducible apply keeps_modSlot
    | with_reducible apply keeps_ite

theorem keeps_settleReq {σ s : State} (H : Keeps σ s) (die n : Nat) (m : SpanMsg) (z : Decision) : Keeps σ (State.settleReq s die n m z) := by
  unfold State.settleReq
  repeat' first
    | with_reducible assumption
    | with_reducible apply keeps_dropReq
    | with_reducible apply keeps_grantTo
    | split

theorem keeps_holdReq {σ s : State} (H : Keeps σ s) (die n : Nat) (m : SpanMsg) : Keeps σ (State.holdReq s die n m) := by
  unfold State.holdReq
  repeat' first
    | with_reducible assumption
    | with_reducible apply keeps_modSlot

theorem keeps_noteSender {σ s : State} (H : Keeps σ s) (die : Nat) (k : Nat × Member) (node : Nat) : Keeps σ (State.noteSender s die k node) := by
  unfold State.noteSender
  repeat' first
    | with_reducible assumption
    | with_reducible apply keeps_modSlot

theorem keeps_execOpenReq {σ s : State} (H : Keeps σ s) (die : Nat) (m : SpanMsg) : KeepsOut σ (execOpenReq die m s) := by
  unfold execOpenReq
  repeat' first
    | with_reducible apply keepsOut_next
    | with_reducible assumption
    | with_reducible apply keeps_discardMsg
    | with_reducible apply keeps_holdReq
    | with_reducible apply keeps_memberSend
    | with_reducible apply keeps_noteSender
    | with_reducible apply keeps_redRecv
    | with_reducible apply keeps_settleReq
    | intro _
    | with_reducible apply keeps_ite
    | dsimp only
    | split

theorem keeps_unhold {σ s : State} (H : Keeps σ s) (die n : Nat) (m : SpanMsg) : Keeps σ (State.unhold s die n m) := by
  unfold State.unhold
  repeat' first
    | with_reducible assumption
    | with_reducible apply keeps_modSlot

theorem keeps_noteGrant {σ s : State} (H : Keeps σ s) (die n : Nat) (m : SpanMsg) : Keeps σ (State.noteGrant s die n m) := by
  unfold State.noteGrant
  repeat' first
    | with_reducible assumption
    | with_reducible apply keeps_lateAnswer
    | with_reducible apply keeps_modSlot
    | with_reducible apply keeps_noteSender
    | with_reducible apply keeps_unhold
    | with_reducible apply keeps_ite
    | dsimp only
    | split

theorem keeps_execGrantNote {σ s : State} (H : Keeps σ s) (die : Nat) (m : SpanMsg) : KeepsOut σ (execGrantNote die m s) := by
  unfold execGrantNote
  repeat' first
    | with_reducible apply keepsOut_next
    | with_reducible assumption
    | with_reducible apply keeps_discardMsg
    | with_reducible apply keeps_noteGrant
    | with_reducible apply keeps_redRecv
    | intro _
    | split

theorem keeps_flushTwin {σ s : State} (H : Keeps σ s) (die n : Nat) (t : SpanMsg → Bool) : Keeps σ (State.flushTwin s die n t) := by
  unfold State.flushTwin
  repeat' first
    | with_reducible assumption
    | with_reducible apply keeps_lateAnswer
    | with_reducible apply keeps_modSlot
    | with_reducible apply keeps_unhold
    | with_reducible apply keeps_foldl
    | intro _

theorem keeps_takeSet {σ s : State} (H : Keeps σ s) (die n : Nat) (incl : List Byte) : Keeps σ (State.takeSet s die n incl) := by
  unfold State.takeSet
  repeat' first
    | with_reducible assumption
    | with_reducible apply keeps_flushTwin
    | with_reducible apply keeps_gateCheck
    | with_reducible apply keeps_giveCredit
    | with_reducible apply keeps_modSlot
    | with_reducible apply keeps_ite

theorem keeps_execSetFixed {σ s : State} (H : Keeps σ s) (die : Nat) (m : SpanMsg) : KeepsOut σ (execSetFixed die m s) := by
  unfold execSetFixed
  repeat' first
    | with_reducible apply keepsOut_next
    | with_reducible assumption
    | with_reducible apply keeps_discardMsg
    | with_reducible apply keeps_redRecv
    | with_reducible apply keeps_takeSet
    | intro _
    | dsimp only
    | split

theorem keeps_notTake {σ s : State} (H : Keeps σ s) (die n : Nat) (m : SpanMsg) : Keeps σ (State.notTake s die n m).1 := by
  unfold State.notTake
  repeat' first
    | with_reducible assumption
    | with_reducible apply keeps_modSlot
    | split

theorem keeps_applyContrib {σ s : State} (H : Keeps σ s) (die n : Nat) (m : SpanMsg) : Keeps σ (State.applyContrib s die n m) := by
  unfold State.applyContrib
  repeat' first
    | with_reducible assumption
    | with_reducible apply keeps_accumulate
    | with_reducible apply keeps_foldl
    | intro _

theorem keeps_execContrib {σ s : State} (H : Keeps σ s) (die : Nat) (m : SpanMsg) : KeepsOut σ (execContrib die m s) := by
  unfold execContrib
  repeat' first
    | with_reducible apply keepsOut_next
    | with_reducible assumption
    | with_reducible apply keeps_applyContrib
    | with_reducible apply keeps_discardMsg
    | with_reducible apply keeps_modSlot
    | with_reducible apply keeps_notTake
    | with_reducible apply keeps_redRecv
    | intro _
    | dsimp only
    | split

theorem keeps_clearSlot {σ s : State} (H : Keeps σ s) (die n : Nat) : Keeps σ (State.clearSlot s die n) := by
  unfold State.clearSlot
  repeat' first
    | with_reducible assumption
    | with_reducible apply keeps_anchorSlot
    | with_reducible apply keeps_modDie
    | with_reducible apply keeps_modSlot
    | with_reducible apply keeps_untouch
    | with_reducible apply keeps_voidBlock
    | with_reducible apply keeps_foldl
    | intro _
    | split

theorem keeps_resetCheck {σ s : State} (H : Keeps σ s) (die n : Nat) : Keeps σ (State.resetCheck s die n) := by
  unfold State.resetCheck
  repeat' first
    | with_reducible assumption
    | with_reducible apply keeps_fixSet
    | with_reducible apply keeps_ite

theorem keeps_resetSlice {σ s : State} (H : Keeps σ s) (die n : Nat) : Keeps σ (State.resetSlice s die n) := by
  unfold State.resetSlice
  repeat' first
    | with_reducible assumption
    | with_reducible apply keeps_clearSlot
    | with_reducible apply keeps_event
    | with_reducible apply keeps_memberSend
    | with_reducible apply keeps_modJob
    | with_reducible apply keeps_modSlot
    | with_reducible apply keeps_resetCheck
    | with_reducible apply keeps_send
    | with_reducible apply keeps_twinSend
    | with_reducible apply keeps_foldl
    | intro _
    | with_reducible apply keeps_ite

theorem keeps_execResetNote {σ s : State} (H : Keeps σ s) (die : Nat) (m : SpanMsg) : KeepsOut σ (execResetNote die m s) := by
  unfold execResetNote
  repeat' first
    | with_reducible apply keepsOut_next
    | with_reducible assumption
    | with_reducible apply keeps_clearSlot
    | with_reducible apply keeps_discardMsg
    | with_reducible apply keeps_redRecv
    | with_reducible apply keeps_resetSlice
    | intro _
    | with_reducible apply keeps_ite
    | dsimp only
    | split

theorem keeps_retractBlocks {σ s : State} (H : Keeps σ s) (die n : Nat) (m : SpanMsg) : Keeps σ (State.retractBlocks s die n m) := by
  unfold State.retractBlocks
  repeat' first
    | with_reducible assumption
    | with_reducible apply keeps_modSlot
    | with_reducible apply keeps_resetSlice
    | with_reducible apply keeps_touch
    | with_reducible apply keeps_foldl_fst
    | exact .same rfl rfl rfl
    | exact ⟨rfl, rfl, rfl, rfl, fun _ h => h⟩
    | intro _
    | with_reducible apply wrBx_wf
    | with_reducible apply keeps_ite
    | dsimp only
    | split
    | with_reducible refine Keeps.mk' ?_ ?_ ?_ ?_

theorem keeps_execRetract {σ s : State} (H : Keeps σ s) (die : Nat) (m : SpanMsg) : KeepsOut σ (execRetract die m s) := by
  unfold execRetract
  repeat' first
    | with_reducible apply keepsOut_next
    | with_reducible assumption
    | with_reducible apply keeps_discardMsg
    | with_reducible apply keeps_notTake
    | with_reducible apply keeps_redRecv
    | with_reducible apply keeps_retractBlocks
    | intro _
    | dsimp only
    | split

theorem keeps_execReductionSeal {σ s : State} (H : Keeps σ s) (die : Nat) (m : SpanMsg) : KeepsOut σ (execReductionSeal die m s) := by
  unfold execReductionSeal
  repeat' first
    | with_reducible apply keepsOut_next
    | with_reducible assumption
    | with_reducible apply keeps_discardMsg
    | with_reducible apply keeps_gateCheck
    | with_reducible apply keeps_modSlot
    | with_reducible apply keeps_redRecv
    | with_reducible apply keeps_resetCheck
    | intro _
    | dsimp only
    | split

theorem keeps_withdrawn {σ s : State} (H : Keeps σ s) (die n : Nat) (m : SpanMsg) : Keeps σ (State.withdrawn s die n m) := by
  unfold State.withdrawn
  repeat' first
    | with_reducible assumption
    | with_reducible apply keeps_fixCheck
    | with_reducible apply keeps_fixSet
    | with_reducible apply keeps_gateCheck
    | with_reducible apply keeps_modSlot
    | with_reducible apply keeps_resetCheck
    | with_reducible apply keeps_resetSlice
    | with_reducible apply keeps_ite

theorem keeps_takeWithdraw {σ s : State} (H : Keeps σ s) (die n : Nat) (m : SpanMsg) : Keeps σ (State.takeWithdraw s die n m).1 := by
  unfold State.takeWithdraw
  repeat' first
    | with_reducible assumption
    | with_reducible apply keeps_holdReq
    | with_reducible apply keeps_withdrawn
    | with_reducible apply keeps_ite
    | dsimp only
    | split

theorem keeps_execWithdraw {σ s : State} (H : Keeps σ s) (die : Nat) (m : SpanMsg) : KeepsOut σ (execWithdraw die m s) := by
  unfold execWithdraw
  repeat' first
    | with_reducible apply keepsOut_next
    | with_reducible assumption
    | with_reducible apply keeps_discardMsg
    | with_reducible apply keeps_redRecv
    | with_reducible apply keeps_takeWithdraw
    | intro _
    | dsimp only
    | split

theorem keeps_execHeldRequestRelease {σ s : State} (H : Keeps σ s) (die slot : Nat) : KeepsOut σ (execHeldRequestRelease die slot s) := by
  unfold execHeldRequestRelease
  repeat' first
    | with_reducible apply keepsOut_next
    | with_reducible assumption
    | with_reducible apply keeps_lateAnswer
    | with_reducible apply keeps_settleReq
    | with_reducible apply keeps_takeWithdraw
    | with_reducible apply keeps_unhold
    | with_reducible apply keeps_ite
    | dsimp only
    | split

theorem keeps_execGrant {σ s : State} (H : Keeps σ s) (die : Nat) (m : SpanMsg) : KeepsOut σ (execGrant die m s) := by
  unfold execGrant
  repeat' first
    | with_reducible apply keepsOut_next
    | with_reducible assumption
    | with_reducible apply keeps_discardMsg
    | with_reducible apply keeps_modSlot
    | with_reducible apply keeps_pump
    | with_reducible apply keeps_redRecv
    | with_reducible apply keeps_sendRanges
    | with_reducible apply keeps_trySeal
    | intro _
    | with_reducible apply keeps_ite
    | dsimp only
    | split

theorem keeps_execLateDrop {σ s : State} (H : Keeps σ s) (die : Nat) (m : SpanMsg) : KeepsOut σ (execLateDrop die m s) := by
  unfold execLateDrop
  repeat' first
    | with_reducible apply keepsOut_next
    | with_reducible assumption
    | with_reducible apply keeps_discardMsg
    | with_reducible apply keeps_gatherAsk
    | with_reducible apply keeps_modSlot
    | with_reducible apply keeps_redRecv
    | intro _
    | split

theorem keeps_forgetFlying {σ s : State} (H : Keeps σ s) (die n : Nat) : Keeps σ (State.forgetFlying s die n) := by
  unfold State.forgetFlying
  repeat' first
    | with_reducible assumption
    | exact .same rfl rfl rfl
    | exact ⟨rfl, rfl, rfl, rfl, fun _ h => h⟩
    | with_reducible exact id
    | dsimp only
    | with_reducible refine Keeps.mk' ?_ ?_ ?_ ?_

theorem keeps_execReplayReq {σ s : State} (H : Keeps σ s) (die : Nat) (m : SpanMsg) : KeepsOut σ (execReplayReq die m s) := by
  unfold execReplayReq
  repeat' first
    | with_reducible apply keepsOut_next
    | with_reducible assumption
    | with_reducible apply keeps_discardMsg
    | with_reducible apply keeps_forgetFlying
    | with_reducible apply keeps_modSlot
    | with_reducible apply keeps_redRecv
    | with_reducible apply keeps_redSend
    | with_reducible apply keeps_sendRanges
    | with_reducible apply keeps_trySeal
    | with_reducible apply keeps_foldl
    | intro _
    | dsimp only
    | split

theorem keeps_openSlot {σ s : State} (H : Keeps σ s) (die n step : Nat) (as : List Nat) : Keeps σ (State.openSlot s die n step as) := by
  unfold State.openSlot
  repeat' first
    | with_reducible assumption
    | with_reducible apply keeps_modBay
    | with_reducible apply keeps_modSlot

theorem keeps_freeBuffer {σ s : State} (H : Keeps σ s) (die n : Nat) : Keeps σ (State.freeBuffer s die n) := by
  unfold State.freeBuffer
  repeat' first
    | with_reducible assumption
    | exact .same rfl rfl rfl
    | exact ⟨rfl, rfl, rfl, rfl, fun _ h => h⟩
    | with_reducible exact id
    | with_reducible refine Keeps.mk' ?_ ?_ ?_ ?_

theorem keeps_execSliceDone {σ s : State} (H : Keeps σ s) (die : Nat) (m : SpanMsg) : KeepsOut σ (execSliceDone die m s) := by
  unfold execSliceDone
  repeat' first
    | with_reducible apply keepsOut_next
    | with_reducible assumption
    | with_reducible apply keeps_discardMsg
    | with_reducible apply keeps_freeBuffer
    | with_reducible apply keeps_modSlot
    | with_reducible apply keeps_openSlot
    | with_reducible apply keeps_redRecv
    | intro _
    | with_reducible apply keeps_ite
    | dsimp only
    | split

theorem keeps_execSlotOpenDone {σ s : State} (H : Keeps σ s) (die slot : Nat) : KeepsOut σ (execSlotOpenDone die slot s) := by
  unfold execSlotOpenDone
  repeat' first
    | with_reducible apply keepsOut_next
    | with_reducible assumption
    | with_reducible apply keeps_anchorSlot
    | with_reducible apply keeps_modSlot
    | with_reducible apply keeps_ite
    | dsimp only
    | split

theorem keeps_releaseSlice {σ s : State} (H : Keeps σ s) (die n : Nat) : Keeps σ (State.releaseSlice s die n) := by
  unfold State.releaseSlice
  repeat' first
    | with_reducible assumption
    | with_reducible apply keeps_flushTwin
    | with_reducible apply keeps_freeBuffer
    | with_reducible apply keeps_memberSend
    | with_reducible apply keeps_modSlot
    | with_reducible apply keeps_openSlot
    | with_reducible apply keeps_untouch
    | with_reducible apply keeps_foldl
    | intro _
    | with_reducible apply keeps_ite

end Sys2Proof.Laws
end

