-- ==== Sys2Proof/Laws/KeptVarnish.lean ====
section
/-! SUPPORT. What the operations of Machine/Varnish.lean keep: one lemma for each. -/

namespace Sys2Proof.Laws

open Sys2Proof Sys2Proof.Machine

theorem keeps_modCons {σ s : State} (H : Keeps σ s) (die key : Nat) (f : Consume → Consume) : Keeps σ (State.modCons s die key f) := by
  unfold State.modCons
  repeat' first
    | with_reducible assumption
    | with_reducible apply keeps_modDie

theorem keeps_wcOpen {σ s : State} (H : Keeps σ s) (die n : Nat) : Keeps σ (State.wcOpen s die n) := by
  unfold State.wcOpen
  repeat' first
    | with_reducible assumption
    | with_reducible apply keeps_modBay
    | with_reducible apply keeps_foldl
    | intro _
    | with_reducible apply keeps_ite

theorem keeps_wcDry {σ s : State} (H : Keeps σ s) (die n : Nat) : Keeps σ (State.wcDry s die n) := by
  unfold State.wcDry
  repeat' first
    | with_reducible assumption
    | with_reducible apply keeps_modSealsDie

theorem keeps_execWcReopen {σ s : State} (H : Keeps σ s) (die slot : Nat) : KeepsOut σ (execWcReopen die slot s) := by
  unfold execWcReopen
  repeat' first
    | with_reducible apply keepsOut_next
    | with_reducible assumption
    | with_reducible apply keeps_wcOpen
    | with_reducible apply keeps_ite

theorem keeps_wcWrite {σ s : State} (H : Keeps σ s) (die n i : Nat) (w : WcBlock) : Keeps σ (State.wcWrite s die n i w) := by
  unfold State.wcWrite
  repeat' first
    | with_reducible assumption
    | exact .same rfl rfl rfl
    | exact ⟨rfl, rfl, rfl, rfl, fun _ h => h⟩
    | intro _
    | with_reducible apply wrSide_wf
    | with_reducible apply wrBlock_wf
    | with_reducible apply keeps_ite
    | split
    | with_reducible refine Keeps.mk' ?_ ?_ ?_ ?_

theorem keeps_wcEncode {σ s : State} (H : Keeps σ s) (die n : Nat) (d : Desc) : Keeps σ (State.wcEncode s die n d) := by
  unfold State.wcEncode
  repeat' first
    | with_reducible assumption
    | with_reducible apply keeps_modDie
    | exact .same rfl rfl rfl
    | exact ⟨rfl, rfl, rfl, rfl, fun _ h => h⟩
    | intro _
    | with_reducible apply wrBytes_wf
    | with_reducible apply wrSide_wf
    | with_reducible apply foldl_wf
    | split
    | with_reducible refine Keeps.mk' ?_ ?_ ?_ ?_

theorem keeps_execWcEncode {σ s : State} (H : Keeps σ s) (die slot : Nat) : KeepsOut σ (execWcEncode die slot s) := by
  unfold execWcEncode
  repeat' first
    | with_reducible apply keepsOut_next
    | with_reducible assumption
    | with_reducible apply keeps_modCons
    | with_reducible apply keeps_wcEncode
    | with_reducible apply keeps_wcOpen
    | with_reducible apply keeps_ite
    | dsimp only
    | split

theorem keeps_derive {σ s : State} (H : Keeps σ s) (die n t : Nat) (is : List Nat) : Keeps σ (State.derive s die n t is) := by
  unfold State.derive
  repeat' first
    | with_reducible assumption
    | with_reducible apply keeps_modDie
    | with_reducible apply keeps_ite

theorem keeps_voidShard {σ s : State} (H : Keeps σ s) (die k t : Nat) : Keeps σ (State.voidShard s die k t).1 := by
  unfold State.voidShard
  repeat' first
    | with_reducible assumption
    | with_reducible apply keeps_derive
    | with_reducible apply keeps_voidBlock
    | with_reducible apply keeps_foldl
    | intro _

theorem keeps_rollDie {σ s : State} (H : Keeps σ s) (job t die : Nat) : Keeps σ (State.rollDie s job t die).1 := by
  unfold State.rollDie
  repeat' first
    | with_reducible assumption
    | with_reducible apply keeps_modDie
    | with_reducible apply keeps_voidShard
    | with_reducible apply keeps_foldl_fst
    | intro _

theorem keeps_rollback {σ s : State} (H : Keeps σ s) (job t : Nat) : Keeps σ (State.rollback s job t).1 := by
  unfold State.rollback
  repeat' first
    | with_reducible assumption
    | with_reducible apply keeps_modJob
    | with_reducible apply keeps_rollDie
    | with_reducible apply keeps_foldl_fst
    | intro _

theorem keeps_unstage {σ s : State} (H : Keeps σ s) (die n i : Nat) : Keeps σ (State.unstage s die n i) := by
  unfold State.unstage
  repeat' first
    | with_reducible assumption
    | with_reducible apply keeps_modDie

theorem keeps_passOne {σ s : State} (H : Keeps σ s) (die n i : Nat) : Keeps σ (State.passOne s die n i) := by
  unfold State.passOne
  repeat' first
    | with_reducible assumption
    | with_reducible apply keeps_modCons
    | with_reducible apply keeps_unstage
    | dsimp only
    | split

theorem keeps_normPass {σ s : State} (H : Keeps σ s) (die slot : Nat) : Keeps σ (State.normPass s die slot) := by
  unfold State.normPass
  repeat' first
    | with_reducible assumption
    | with_reducible apply keeps_event
    | with_reducible apply keeps_modCons
    | with_reducible apply keeps_modDie
    | with_reducible apply keeps_passOne
    | with_reducible apply keeps_rollback
    | with_reducible apply keeps_foldl
    | intro _
    | with_reducible apply keeps_ite

theorem keeps_execVarnishNormPassDone {σ s : State} (H : Keeps σ s) (die slot : Nat) : KeepsOut σ (execVarnishNormPassDone die slot s) := by
  unfold execVarnishNormPassDone
  repeat' first
    | with_reducible apply keepsOut_next
    | with_reducible assumption
    | with_reducible apply keeps_normPass
    | with_reducible apply keeps_ite

theorem keeps_execUpdatingWaitEnd {σ s : State} (H : Keeps σ s) (die slot : Nat) : KeepsOut σ (execUpdatingWaitEnd die slot s) := by
  unfold execUpdatingWaitEnd
  repeat' first
    | with_reducible apply keepsOut_next
    | with_reducible assumption
    | with_reducible apply keeps_beginConsume
    | with_reducible apply keeps_ite

theorem keeps_hostPair {σ s : State} (H : Keeps σ s) (h : Shard) (j : Nat) (data : List Byte) : Keeps σ (State.hostPair s h j data) := by
  unfold State.hostPair
  split
  · exact H.trans ⟨rfl, .same rfl rfl rfl, .same rfl, fun m => wrBytes_wf _ _ m⟩
  · exact H

theorem keeps_execRecordPrefetch {σ s : State} (H : Keeps σ s) (die slot : Nat) (x : RecordRead) : KeepsOut σ (execRecordPrefetch die slot x s) := by
  unfold execRecordPrefetch
  repeat' first
    | with_reducible apply keepsOut_next
    | with_reducible assumption
    | with_reducible apply keeps_hostPair
    | with_reducible apply keeps_modCons
    | with_reducible apply keeps_modDie
    | with_reducible apply keeps_passOne
    | with_reducible apply keeps_ite

theorem keeps_raiseHint {σ s : State} (H : Keeps σ s) (die n i : Nat) (h : Shard) (j c : Nat) (a : Rec) : Keeps σ (State.raiseHint s die n i h j c a) := by
  unfold State.raiseHint
  repeat' first
    | with_reducible assumption
    | with_reducible apply keeps_hostWrite
    | exact .same rfl rfl rfl
    | exact ⟨rfl, rfl, rfl, rfl, fun _ h => h⟩
    | intro _
    | with_reducible apply wrBytes_wf
    | with_reducible apply wrSide_wf
    | dsimp only
    | split
    | with_reducible refine Keeps.mk' ?_ ?_ ?_ ?_

theorem keeps_updateBlock {σ s : State} (H : Keeps σ s) (die n i : Nat) (c : Consume) (copy : Nat) (a : Rec) (x : Bx) : Keeps σ (State.updateBlock s die n i c copy a x) := by
  unfold State.updateBlock
  repeat' first
    | with_reducible assumption
    | with_reducible apply keeps_modCons
    | with_reducible apply keeps_wcWrite
    | with_reducible apply keeps_wrCopy
    | exact .same rfl rfl rfl
    | exact ⟨rfl, rfl, rfl, rfl, fun _ h => h⟩
    | intro _
    | with_reducible apply wrSide_wf
    | dsimp only
    | with_reducible refine Keeps.mk' ?_ ?_ ?_ ?_

theorem keeps_rederiveBlock {σ s : State} (H : Keeps σ s) (die key i : Nat) (a : Rec) : Keeps σ (State.rederiveBlock s die key i a) := by
  unfold State.rederiveBlock
  repeat' first
    | with_reducible assumption
    | with_reducible apply keeps_modCons
    | with_reducible apply keeps_wcWrite

theorem keeps_execVarnishBlockUpdate {σ s : State} (H : Keeps σ s) (die slot block : Nat) : KeepsOut σ (execVarnishBlockUpdate die slot block s) := by
  unfold execVarnishBlockUpdate
  repeat' first
    | with_reducible apply keepsOut_next
    | with_reducible assumption
    | with_reducible apply keeps_modCons
    | with_reducible apply keeps_raiseHint
    | with_reducible apply keeps_rederiveBlock
    | with_reducible apply keeps_unstage
    | with_reducible apply keeps_updateBlock
    | with_reducible apply keeps_wcOpen
    | with_reducible apply keeps_ite
    | dsimp only
    | split

theorem keeps_orthoPass {σ s : State} (H : Keeps σ s) (die slot : Nat) : Keeps σ (State.orthoPass s die slot) := by
  unfold State.orthoPass
  repeat' first
    | with_reducible assumption
    | with_reducible apply keeps_modCons
    | with_reducible apply keeps_foldl
    | intro _

theorem keeps_execWholeLayerOrtho {σ s : State} (H : Keeps σ s) (die slot : Nat) : KeepsOut σ (execWholeLayerOrtho die slot s) := by
  unfold execWholeLayerOrtho
  repeat' first
    | with_reducible apply keepsOut_next
    | with_reducible assumption
    | with_reducible apply keeps_orthoPass
    | with_reducible apply keeps_ite
    | dsimp only
    | split

theorem keeps_report {σ s : State} (H : Keeps σ s) (die n : Nat) (c : Consume) : Keeps σ (State.report s die n c) := by
  unfold State.report
  repeat' first
    | with_reducible assumption
    | with_reducible apply keeps_modDie

theorem keeps_peerSend {σ s : State} (H : Keeps σ s) (die key : Nat) (c : Consume) (kind : Nat) (body : List Byte) : Keeps σ (State.peerSend s die key c kind body) := by
  unfold State.peerSend
  repeat' first
    | with_reducible assumption
    | with_reducible apply keeps_send
    | split

theorem keeps_agreeSend {σ s : State} (H : Keeps σ s) (die key : Nat) (c : Consume) (result : Nat) (more : List Byte) : Keeps σ (State.agreeSend s die key c result more) := by
  unfold State.agreeSend
  repeat' first
    | with_reducible assumption
    | with_reducible apply keeps_peerSend

theorem keeps_agreeCons {σ s : State} (H : Keeps σ s) (die key : Nat) (c : Consume) : Keeps σ (State.agreeCons s die key c) := by
  unfold State.agreeCons
  repeat' first
    | with_reducible assumption
    | with_reducible apply keeps_modDie
    | with_reducible apply keeps_releaseSlice
    | with_reducible apply keeps_wcDry
    | with_reducible apply keeps_foldl
    | intro _
    | with_reducible apply keeps_ite

theorem keeps_finishCons {σ s : State} (H : Keeps σ s) (die key shard : Nat) (c : Consume) : Keeps σ (State.finishCons s die key shard c) := by
  unfold State.finishCons
  repeat' first
    | with_reducible assumption
    | with_reducible apply keeps_agreeCons
    | with_reducible apply keeps_modCons
    | with_reducible apply keeps_modDie
    | with_reducible apply keeps_peerSend
    | with_reducible apply keeps_report
    | exact .same rfl rfl rfl
    | exact ⟨rfl, rfl, rfl, rfl, fun _ h => h⟩
    | with_reducible exact id
    | with_reducible apply keeps_ite
    | dsimp only
    | split
    | with_reducible refine Keeps.mk' ?_ ?_ ?_ ?_

theorem keeps_execVarnishSliceDone {σ s : State} (H : Keeps σ s) (die slot : Nat) : KeepsOut σ (execVarnishSliceDone die slot s) := by
  unfold execVarnishSliceDone
  repeat' first
    | with_reducible apply keepsOut_next
    | with_reducible assumption
    | with_reducible apply keeps_finishCons
    | with_reducible apply keeps_ite
    | dsimp only
    | split

end Sys2Proof.Laws
end

