-- ==== Sys2Proof/Laws/KeptFence.lean ====
section
/-! SUPPORT. What the operations of Machine/Fence.lean keep: one lemma for each. -/

namespace Sys2Proof.Laws

open Sys2Proof Sys2Proof.Machine

theorem keeps_floodFenced {σ s : State} (H : Keeps σ s) (node tai : Nat) (but : Option Nat) : Keeps σ (State.floodFenced s node tai but) := by
  unfold State.floodFenced
  repeat' first
    | with_reducible assumption
    | with_reducible apply keeps_transmit
    | with_reducible apply keeps_foldl
    | intro _

theorem keeps_failStop {σ s : State} (H : Keeps σ s) (detector reason : Nat) : Keeps σ (State.failStop s detector reason) := by
  unfold State.failStop
  repeat' first
    | with_reducible assumption
    | with_reducible apply keeps_event
    | with_reducible apply keeps_floodFenced
    | with_reducible apply keeps_logFault
    | with_reducible apply keeps_send
    | exact .same rfl rfl rfl
    | exact ⟨rfl, rfl, rfl, rfl, fun _ h => h⟩
    | with_reducible exact id
    | with_reducible apply keeps_ite
    | dsimp only
    | split
    | with_reducible refine Keeps.mk' ?_ ?_ ?_ ?_

theorem keeps_reissueOver {σ s : State} (H : Keeps σ s) (k : Nat) : Keeps σ (State.reissueOver s k) := by
  unfold State.reissueOver
  repeat' first
    | with_reducible assumption
    | with_reducible apply keeps_transmit
    | with_reducible apply keeps_foldl
    | intro _
    | with_reducible apply keeps_ite
    | split

theorem keeps_portDown {σ s : State} (H : Keeps σ s) (k : Nat) : Keeps σ (State.portDown s k) := by
  unfold State.portDown
  repeat' first
    | with_reducible assumption
    | with_reducible apply keeps_event
    | with_reducible apply keeps_failStop
    | with_reducible apply keeps_modPort
    | with_reducible apply keeps_pumpPort
    | with_reducible apply keeps_ite

theorem keeps_dropNode {σ s : State} (H : Keeps σ s) (node : Nat) : Keeps σ (State.dropNode s node) := by
  unfold State.dropNode
  repeat' first
    | with_reducible assumption
    | with_reducible apply keeps_modSlot
    | with_reducible apply keeps_tryRetract
    | with_reducible apply keeps_trySeal
    | with_reducible apply keeps_foldl
    | exact .same rfl rfl rfl
    | exact ⟨rfl, rfl, rfl, rfl, fun _ h => h⟩
    | with_reducible exact id
    | intro _
    | dsimp only
    | with_reducible refine Keeps.mk' ?_ ?_ ?_ ?_

theorem keeps_fencedMembers {σ s : State} (H : Keeps σ s) (node : Nat) : Keeps σ (State.fencedMembers s node) := by
  unfold State.fencedMembers
  repeat' first
    | with_reducible assumption
    | with_reducible apply keeps_resetSlice
    | with_reducible apply keeps_foldl
    | intro _

theorem keeps_recordFenced {σ s : State} (H : Keeps σ s) (node : Nat) : Keeps σ (State.recordFenced s node) := by
  unfold State.recordFenced
  repeat' first
    | with_reducible assumption
    | with_reducible apply keeps_dropNode
    | with_reducible apply keeps_fencedMembers
    | with_reducible apply keeps_send
    | with_reducible apply keeps_srcSettle
    | with_reducible apply keeps_foldl
    | exact .same rfl rfl rfl
    | exact ⟨rfl, rfl, rfl, rfl, fun _ h => h⟩
    | with_reducible exact id
    | intro _
    | with_reducible apply keeps_ite
    | dsimp only
    | split
    | with_reducible refine Keeps.mk' ?_ ?_ ?_ ?_

theorem keeps_takeOver {σ s : State} (H : Keeps σ s) (reason : Nat) : Keeps σ (State.takeOver s reason) := by
  unfold State.takeOver
  repeat' first
    | with_reducible assumption
    | with_reducible apply keeps_agreeCons
    | with_reducible apply keeps_event
    | with_reducible apply keeps_fencedMembers
    | with_reducible apply keeps_fixCheck
    | with_reducible apply keeps_gateCheck
    | with_reducible apply keeps_recordFenced
    | with_reducible apply keeps_foldl
    | exact .same rfl rfl rfl
    | exact ⟨rfl, rfl, rfl, rfl, fun _ h => h⟩
    | with_reducible exact id
    | intro _
    | with_reducible apply keeps_ite
    | dsimp only
    | split
    | with_reducible refine Keeps.mk' ?_ ?_ ?_ ?_

theorem keeps_abandonAll {σ s : State} (H : Keeps σ s) (die b home outcome : Nat) (ks : List (Nat × Nat)) : Keeps σ (State.abandonAll s die b home outcome ks) := by
  unfold State.abandonAll
  repeat' first
    | with_reducible assumption
    | with_reducible apply keeps_abandon
    | with_reducible apply keeps_abandonTo
    | with_reducible apply keeps_foldl
    | intro _
    | with_reducible apply keeps_ite
    | split

theorem keeps_discardFrozen {σ s : State} (H : Keeps σ s) (die b : Nat) : Keeps σ (State.discardFrozen s die b) := by
  unfold State.discardFrozen
  repeat' first
    | with_reducible assumption
    | with_reducible apply keeps_discardStroke
    | with_reducible apply keeps_foldl
    | intro _

theorem keeps_slotsLost {σ s : State} (H : Keeps σ s) (die : Nat) (ns : List Nat) : Keeps σ (State.slotsLost s die ns) := by
  unfold State.slotsLost
  repeat' first
    | with_reducible assumption
    | with_reducible apply keeps_resetSlice
    | with_reducible apply keeps_slotLost
    | with_reducible apply keeps_foldl
    | intro _
    | with_reducible apply keeps_ite

theorem keeps_wcLost {σ s : State} (H : Keeps σ s) (die b : Nat) : Keeps σ (State.wcLost s die b) := by
  unfold State.wcLost
  repeat' first
    | with_reducible assumption
    | with_reducible apply keeps_modDie
    | with_reducible apply keeps_foldl
    | intro _
    | with_reducible apply keeps_ite
    | split

theorem keeps_substitute {σ s : State} (H : Keeps σ s) (die b spare l : Nat) (wakes : Bool) : Keeps σ (State.substitute s die b spare l wakes) := by
  unfold State.substitute
  repeat' first
    | with_reducible assumption
    | with_reducible apply keeps_abandonAll
    | with_reducible apply keeps_discardFrozen
    | with_reducible apply keeps_gatherRetry
    | with_reducible apply keeps_modBay
    | with_reducible apply keeps_modDie
    | with_reducible apply keeps_slotsLost
    | with_reducible apply keeps_wcLost
    | exact .same rfl rfl rfl
    | exact ⟨rfl, rfl, rfl, rfl, fun _ h => h⟩
    | intro _
    | with_reducible apply moveMem_wf
    | with_reducible apply foldl_wf
    | dsimp only
    | split
    | with_reducible refine Keeps.mk' ?_ ?_ ?_ ?_

theorem keeps_queueToPeer {σ s : State} (H : Keeps σ s) (die m : Nat) (g : Mover → Mover) : Keeps σ (State.queueToPeer s die m g) := by
  unfold State.queueToPeer
  repeat' first
    | with_reducible assumption
    | with_reducible apply keeps_modMover

theorem keeps_retireBay {σ s : State} (H : Keeps σ s) (die b detector : Nat) (arbiter : Option Nat) : Keeps σ (State.retireBay s die b detector arbiter) := by
  unfold State.retireBay
  repeat' first
    | with_reducible assumption
    | with_reducible apply keeps_clearSpare
    | with_reducible apply keeps_event
    | with_reducible apply keeps_failStop
    | with_reducible apply keeps_logFault
    | with_reducible apply keeps_modBay
    | with_reducible apply keeps_substitute
    | exact .same rfl rfl rfl
    | exact ⟨rfl, rfl, rfl, rfl, fun _ h => List.mem_append_left _ h⟩
    | with_reducible exact id
    | dsimp only
    | split
    | with_reducible refine Keeps.mk' ?_ ?_ ?_ ?_

theorem keeps_moveStreams {σ s : State} (H : Keeps σ s) (die engine : Nat) : Keeps σ (State.moveStreams s die engine) := by
  unfold State.moveStreams
  repeat' first
    | with_reducible assumption
    | with_reducible apply keeps_modDie
    | with_reducible apply keeps_foldl
    | intro _
    | split

theorem keeps_startTest {σ s : State} (H : Keeps σ s) (t : FTest) : Keeps σ (State.startTest s t) := by
  unfold State.startTest
  repeat' first
    | with_reducible assumption
    | with_reducible apply keeps_clearSpare
    | with_reducible apply keeps_modBay
    | with_reducible apply keeps_modDie
    | with_reducible apply keeps_modPort
    | with_reducible apply keeps_moveStreams
    | with_reducible apply keeps_queueToPeer
    | with_reducible apply keeps_substitute
    | exact .same rfl rfl rfl
    | exact ⟨rfl, rfl, rfl, rfl, fun _ h => h⟩
    | with_reducible exact id
    | dsimp only
    | split
    | with_reducible refine Keeps.mk' ?_ ?_ ?_ ?_

theorem keeps_testBay {σ s : State} (H : Keeps σ s) (die b : Nat) : Keeps σ (State.testBay s die b) := by
  unfold State.testBay
  repeat' first
    | with_reducible assumption
    | with_reducible apply keeps_startTest
    | with_reducible apply keeps_ite

theorem keeps_settleHandling {σ s : State} (H : Keeps σ s)  : Keeps σ (State.settleHandling s) := by
  unfold State.settleHandling
  repeat' first
    | with_reducible assumption
    | exact .same rfl rfl rfl
    | exact ⟨rfl, rfl, rfl, rfl, fun _ h => h⟩
    | with_reducible exact id
    | dsimp only
    | with_reducible refine Keeps.mk' ?_ ?_ ?_ ?_

theorem keeps_handle {σ s : State} (H : Keeps σ s) (d : Domain) : Keeps σ (State.handle s d) := by
  unfold State.handle
  repeat' first
    | with_reducible assumption
    | exact .same rfl rfl rfl
    | exact ⟨rfl, rfl, rfl, rfl, fun _ h => h⟩
    | with_reducible exact id
    | dsimp only
    | with_reducible refine Keeps.mk' ?_ ?_ ?_ ?_

theorem keeps_logDetected {σ s : State} (H : Keeps σ s) (x : FaultDesc) (level action status job seq : Nat) : Keeps σ (State.logDetected s x level action status job seq) := by
  unfold State.logDetected
  repeat' first
    | with_reducible assumption
    | with_reducible apply keeps_logFault

theorem keeps_queueFault {σ s : State} (H : Keeps σ s) (x : FaultDesc) (level : Nat) : Keeps σ (State.queueFault s x level) := by
  unfold State.queueFault
  repeat' first
    | with_reducible assumption
    | with_reducible apply keeps_failStop
    | with_reducible apply keeps_logDetected
    | exact .same rfl rfl rfl
    | exact ⟨rfl, rfl, rfl, rfl, fun _ h => h⟩
    | with_reducible exact id
    | with_reducible apply keeps_ite
    | dsimp only
    | with_reducible refine Keeps.mk' ?_ ?_ ?_ ?_

theorem keeps_abandonBays {σ s : State} (H : Keeps σ s) (die : Nat) (t : Nat → Bool) : Keeps σ (State.abandonBays s die t) := by
  unfold State.abandonBays
  repeat' first
    | with_reducible assumption
    | with_reducible apply keeps_abandonAll
    | with_reducible apply keeps_foldl
    | intro _

theorem keeps_fenceHost {σ s : State} (H : Keeps σ s) (p : Nat) : Keeps σ (State.fenceHost s p) := by
  unfold State.fenceHost
  repeat' first
    | with_reducible assumption
    | with_reducible apply keeps_modHost

theorem keeps_fenceUnit {σ s : State} (H : Keeps σ s) (x : FaultDesc) (level : Nat) : Keeps σ (State.fenceUnit s x level) := by
  unfold State.fenceUnit
  repeat' first
    | with_reducible assumption
    | with_reducible apply keeps_failStop
    | with_reducible apply keeps_fenceHost
    | with_reducible apply keeps_portDown
    | with_reducible apply keeps_queueToPeer
    | with_reducible apply keeps_retireBay
    | with_reducible apply keeps_ite
    | dsimp only
    | split

theorem keeps_handleAt {σ s : State} (H : Keeps σ s) (x : FaultDesc) (d : Domain) (status : Nat) : Keeps σ (State.handleAt s x d status) := by
  unfold State.handleAt
  repeat' first
    | with_reducible assumption
    | with_reducible apply keeps_abandonBays
    | with_reducible apply keeps_fenceUnit
    | with_reducible apply keeps_handle
    | with_reducible apply keeps_logDetected
    | with_reducible apply keeps_foldl
    | intro _
    | with_reducible apply keeps_ite

theorem keeps_startArb {σ s : State} (H : Keeps σ s) (die b c : Nat) : Keeps σ (s.startArb die b c) := by
  unfold State.startArb
  extract_lets spare t rs n a u
  have ht : Keeps σ t := keeps_ite (keeps_modBay (keeps_clearSpare H _ _) _ _ _) H
  have hu : Keeps σ u := keeps_modBay (keeps_withMem ht (copyRanges_wf _ _)) _ _ _
  exact Keeps.mk' hu (.same rfl rfl rfl) (.same rfl) id

theorem keeps_abandonUncounted {σ s : State} (H : Keeps σ s) (b : BayRef) (r : Running) : Keeps σ (State.abandonUncounted s b r) := by
  unfold State.abandonUncounted
  repeat' first
    | with_reducible assumption
    | with_reducible apply keeps_abandon
    | with_reducible apply keeps_modBay

theorem keeps_excludeUnit {σ s : State} (H : Keeps σ s) (die b addr : Nat) : Keeps σ (State.excludeUnit s die b addr) := by
  unfold State.excludeUnit
  repeat' first
    | with_reducible assumption
    | with_reducible apply keeps_modBay
    | with_reducible apply keeps_testBay
    | with_reducible apply keeps_ite

theorem keeps_bayFault {σ s : State} (H : Keeps σ s) (x : FaultDesc) (d : Domain) : Keeps σ (State.bayFault s x d) := by
  unfold State.bayFault
  repeat' first
    | with_reducible assumption
    | with_reducible apply keeps_abandon
    | with_reducible apply keeps_abandonUncounted
    | with_reducible apply keeps_excludeUnit
    | with_reducible apply keeps_handle
    | with_reducible apply keeps_handleAt
    | with_reducible apply keeps_logDetected
    | with_reducible apply keeps_modBay
    | with_reducible apply keeps_retireBay
    | with_reducible apply keeps_slotsLost
    | with_reducible apply keeps_ite
    | dsimp only
    | split

theorem keeps_firstAction {σ s : State} (H : Keeps σ s) (x : FaultDesc) : Keeps σ (State.firstAction s x) := by
  unfold State.firstAction
  repeat' first
    | with_reducible assumption
    | with_reducible apply keeps_abandonAll
    | with_reducible apply keeps_bayFault
    | with_reducible apply keeps_handle
    | with_reducible apply keeps_handleAt
    | with_reducible apply keeps_logDetected
    | with_reducible apply keeps_modDie
    | with_reducible apply keeps_queueFault
    | with_reducible apply keeps_reissueOver
    | with_reducible apply keeps_startArb
    | with_reducible apply keeps_ite
    | dsimp only
    | split

theorem keeps_fault {σ s : State} (H : Keeps σ s) (x : FaultDesc) : Keeps σ (State.fault s x) := by
  unfold State.fault
  repeat' first
    | with_reducible assumption
    | with_reducible apply keeps_failStop
    | with_reducible apply keeps_firstAction
    | with_reducible apply keeps_handleAt
    | with_reducible apply keeps_queueFault
    | with_reducible apply keeps_settleHandling
    | with_reducible apply keeps_ite

end Sys2Proof.Laws
end

