-- ==== Sys2Proof/Laws/KeptConvert.lean ====
section
/-! SUPPORT. What the operations of Machine/Convert.lean keep: one lemma for each. -/

namespace Sys2Proof.Laws

open Sys2Proof Sys2Proof.Machine

theorem keeps_execCvt {σ s : State} (H : Keeps σ s) (b : BayRef) (f : Fields) : KeepsOut σ (execCvt b f s) := by
  unfold execCvt
  repeat' first
    | with_reducible apply keepsOut_next
    | with_reducible assumption
    | with_reducible apply keeps_strokeStep
    | with_reducible apply keepsEff_done
    | intro _

theorem keeps_execXcvt {σ s : State} (H : Keeps σ s) (b : BayRef) (f : Fields) : KeepsOut σ (execXcvt b f s) := by
  unfold execXcvt
  repeat' first
    | with_reducible apply keepsOut_next
    | with_reducible assumption
    | with_reducible apply keeps_strokeStep
    | with_reducible exact keepsEff_viol
    | with_reducible apply keepsEff_done
    | intro _
    | with_reducible apply keepsEff_ite

theorem keeps_execXside {σ s : State} (H : Keeps σ s) (b : BayRef) (f : Fields) : KeepsOut σ (execXside b f s) := by
  unfold execXside
  repeat' first
    | with_reducible apply keepsOut_next
    | with_reducible assumption
    | with_reducible apply keeps_strokeStep
    | with_reducible apply keepsEff_done
    | intro _

theorem keeps_execTscSet {σ s : State} (H : Keeps σ s) (b : BayRef) (f : Fields) : KeepsOut σ (execTscSet b f s) := by
  unfold execTscSet
  repeat' first
    | with_reducible apply keepsOut_next
    | with_reducible assumption
    | with_reducible apply keeps_strokeStep
    | with_reducible exact keepsEff_viol
    | with_reducible apply keepsEff_done
    | intro _
    | with_reducible apply keepsEff_ite

theorem keeps_execTscale {σ s : State} (H : Keeps σ s) (b : BayRef) (f : Fields) : KeepsOut σ (execTscale b f s) := by
  unfold execTscale
  repeat' first
    | with_reducible apply keepsOut_next
    | with_reducible assumption
    | with_reducible apply keeps_strokeStep
    | with_reducible exact keepsEff_viol
    | with_reducible apply keepsEff_done
    | intro _
    | with_reducible apply keepsEff_ite

theorem keeps_execTscaleH {σ s : State} (H : Keeps σ s) (b : BayRef) (f : Fields) : KeepsOut σ (execTscaleH b f s) := by
  unfold execTscaleH
  repeat' first
    | with_reducible apply keepsOut_next
    | with_reducible assumption
    | with_reducible apply keeps_strokeStep
    | with_reducible exact keepsEff_hold
    | with_reducible apply keepsEff_done
    | intro _
    | with_reducible apply keepsEff_ite

theorem keeps_execVsketch {σ s : State} (H : Keeps σ s) (b : BayRef) (f : Fields) : KeepsOut σ (execVsketch b f s) := by
  unfold execVsketch
  repeat' first
    | with_reducible apply keepsOut_next
    | with_reducible assumption
    | with_reducible apply keeps_strokeStep
    | with_reducible exact keepsEff_hold
    | with_reducible apply keepsEff_done
    | exact .same rfl rfl rfl
    | exact ⟨rfl, rfl, rfl, rfl, fun _ h => h⟩
    | intro _
    | with_reducible apply putHist_wf
    | with_reducible apply keepsEff_ite
    | with_reducible refine Keeps.mk' ?_ ?_ ?_ ?_

theorem keeps_execLutExp2 {σ s : State} (H : Keeps σ s) (b : BayRef) (f : Fields) : KeepsOut σ (execLutExp2 b f s) := by
  unfold execLutExp2
  repeat' first
    | with_reducible apply keepsOut_next
    | with_reducible assumption
    | with_reducible apply keeps_strokeStep
    | with_reducible apply keepsEff_done
    | intro _

theorem keeps_execLutLog2 {σ s : State} (H : Keeps σ s) (b : BayRef) (f : Fields) : KeepsOut σ (execLutLog2 b f s) := by
  unfold execLutLog2
  repeat' first
    | with_reducible apply keepsOut_next
    | with_reducible assumption
    | with_reducible apply keeps_strokeStep
    | with_reducible apply keepsEff_done
    | intro _

theorem keeps_execLutRcp {σ s : State} (H : Keeps σ s) (b : BayRef) (f : Fields) : KeepsOut σ (execLutRcp b f s) := by
  unfold execLutRcp
  repeat' first
    | with_reducible apply keepsOut_next
    | with_reducible assumption
    | with_reducible apply keeps_strokeStep
    | with_reducible apply keepsEff_done
    | intro _

theorem keeps_execLutSig {σ s : State} (H : Keeps σ s) (b : BayRef) (f : Fields) : KeepsOut σ (execLutSig b f s) := by
  unfold execLutSig
  repeat' first
    | with_reducible apply keepsOut_next
    | with_reducible assumption
    | with_reducible apply keeps_strokeStep
    | with_reducible apply keepsEff_done
    | intro _

theorem keeps_execLutTanh {σ s : State} (H : Keeps σ s) (b : BayRef) (f : Fields) : KeepsOut σ (execLutTanh b f s) := by
  unfold execLutTanh
  repeat' first
    | with_reducible apply keepsOut_next
    | with_reducible assumption
    | with_reducible apply keeps_strokeStep
    | with_reducible apply keepsEff_done
    | intro _

theorem keeps_execLutLd {σ s : State} (H : Keeps σ s) (b : BayRef) (f : Fields) : KeepsOut σ (execLutLd b f s) := by
  unfold execLutLd
  repeat' first
    | with_reducible apply keepsOut_next
    | with_reducible assumption
    | with_reducible apply keeps_strokeStep
    | with_reducible exact keepsEff_hold
    | with_reducible apply keepsEff_done
    | intro _
    | with_reducible apply keepsEff_ite

theorem keeps_execLutUsr {σ s : State} (H : Keeps σ s) (b : BayRef) (f : Fields) : KeepsOut σ (execLutUsr b f s) := by
  unfold execLutUsr
  repeat' first
    | with_reducible apply keepsOut_next
    | with_reducible assumption
    | with_reducible apply keeps_strokeStep
    | with_reducible exact keepsEff_viol
    | with_reducible apply keepsEff_done
    | intro _
    | dsimp only
    | split

end Sys2Proof.Laws
end

