-- ==== Sys2Proof/Laws/KeptRowEngine.lean ====
section
/-! SUPPORT. What the operations of Machine/RowEngine.lean keep: one lemma for each. -/

namespace Sys2Proof.Laws

open Sys2Proof Sys2Proof.Machine

theorem keeps_Running_putRole {σ s : State} (H : Keeps σ s) (r : Running) (k row : Nat) (ws : List Word) (x : Exc) : Keeps σ (Running.putRole r s k row ws x).1 := by
  unfold Running.putRole
  repeat' first
    | with_reducible assumption
    | exact .same rfl rfl rfl
    | exact ⟨rfl, rfl, rfl, rfl, fun _ h => h⟩
    | intro _
    | with_reducible apply putRow_wf
    | assumption
    | dsimp only
    | split
    | with_reducible refine Keeps.mk' ?_ ?_ ?_ ?_

theorem keeps_Running_putPlane {σ s : State} (H : Keeps σ s) (r : Running) (row : Nat) (bs : List Bool) : Keeps σ (Running.putPlane r s row bs) := by
  unfold Running.putPlane
  repeat' first
    | with_reducible assumption
    | exact .same rfl rfl rfl
    | exact ⟨rfl, rfl, rfl, rfl, fun _ h => h⟩
    | intro _
    | with_reducible apply wr_wf
    | with_reducible apply foldl_wf
    | dsimp only
    | split
    | with_reducible refine Keeps.mk' ?_ ?_ ?_ ?_

theorem keeps_Running_putStat {σ s : State} (H : Keeps σ s) (r : Running) (b : BayRef) (row : Nat) (s0 s1 : Word) (st : Nat) : Keeps σ (Running.putStat r s b row s0 s1 st) := by
  unfold Running.putStat
  repeat' first
    | with_reducible assumption
    | exact .same rfl rfl rfl
    | exact ⟨rfl, rfl, rfl, rfl, fun _ h => h⟩
    | intro _
    | with_reducible apply wrNat_wf
    | with_reducible apply wr_wf
    | with_reducible apply foldl_wf
    | with_reducible apply keeps_ite
    | dsimp only
    | split
    | with_reducible refine Keeps.mk' ?_ ?_ ?_ ?_

theorem keeps_rowStep {σ s : State} (H : Keeps σ s) (b : BayRef) (op : Nat) (f : Fields) (need rd wr : List Nat) (stats : Nat) (producers : List Nat) (bad : State → Running → Nat → Nat → Option (Nat × Desc)) (go : State → Running → Nat → Nat → State × Running) (hx : ∀ t r i j, Keeps σ t → Keeps σ (go t r i j).1) : Keeps σ (State.rowStep s b op f need rd wr stats producers bad go) := by
  unfold State.rowStep
  repeat' first
    | with_reducible assumption
    | with_reducible apply keeps_strokeStep
    | with_reducible apply keeps_foldl_fst
    | with_reducible exact keepsEff_hold
    | with_reducible exact keepsEff_viol
    | with_reducible apply keepsEff_done
    | with_reducible apply hx
    | intro _
    | with_reducible apply keepsEff_ite
    | dsimp only
    | split

theorem keeps_execReBind {σ s : State} (H : Keeps σ s) (b : BayRef) (f : Fields) : KeepsOut σ (execReBind b f s) := by
  unfold execReBind
  repeat' first
    | with_reducible apply keepsOut_next
    | with_reducible assumption
    | with_reducible apply keeps_strokeStep
    | with_reducible apply keepsEff_done
    | intro _

theorem keeps_execReParm {σ s : State} (H : Keeps σ s) (b : BayRef) (f : Fields) : KeepsOut σ (execReParm b f s) := by
  unfold execReParm
  repeat' first
    | with_reducible apply keepsOut_next
    | with_reducible assumption
    | with_reducible apply keeps_strokeStep
    | with_reducible exact keepsEff_viol
    | with_reducible apply keepsEff_done
    | intro _
    | with_reducible apply keepsEff_ite

theorem keeps_Running_normF {σ s : State} (H : Keeps σ s) (r : Running) (b : BayRef) (rms : Bool) (imm srow row : Nat) : Keeps σ (Running.normF r s b rms imm srow row).1 := by
  unfold Running.normF
  repeat' first
    | with_reducible assumption
    | with_reducible apply keeps_Running_putRole
    | with_reducible apply keeps_Running_putStat
    | dsimp only
    | split

theorem keeps_execReLnF {σ s : State} (H : Keeps σ s) (b : BayRef) (f : Fields) : KeepsOut σ (execReLnF b f s) := by
  unfold execReLnF
  repeat' first
    | with_reducible apply keepsOut_next
    | with_reducible assumption
    | with_reducible apply keeps_Running_normF
    | with_reducible apply keeps_rowStep
    | intro _

theorem keeps_execReRmsF {σ s : State} (H : Keeps σ s) (b : BayRef) (f : Fields) : KeepsOut σ (execReRmsF b f s) := by
  unfold execReRmsF
  repeat' first
    | with_reducible apply keepsOut_next
    | with_reducible assumption
    | with_reducible apply keeps_Running_normF
    | with_reducible apply keeps_rowStep
    | intro _

theorem keeps_Running_accRow {σ s : State} (H : Keeps σ s) (r : Running) (b : BayRef) (k : Nat) (vs : List Val) : Keeps σ (Running.accRow r s b k vs) := by
  unfold Running.accRow
  repeat' first
    | with_reducible assumption
    | with_reducible apply keeps_accumulate
    | with_reducible apply keeps_foldl
    | intro _
    | with_reducible apply keeps_ite
    | split

theorem keeps_Running_normB {σ s : State} (H : Keeps σ s) (r : Running) (b : BayRef) (rms : Bool) (imm srow row : Nat) : Keeps σ (Running.normB r s b rms imm srow row).1 := by
  unfold Running.normB
  repeat' first
    | with_reducible assumption
    | with_reducible apply keeps_Running_accRow
    | with_reducible apply keeps_Running_putRole
    | dsimp only
    | split

theorem keeps_execReLnB {σ s : State} (H : Keeps σ s) (b : BayRef) (f : Fields) : KeepsOut σ (execReLnB b f s) := by
  unfold execReLnB
  repeat' first
    | with_reducible apply keepsOut_next
    | with_reducible assumption
    | with_reducible apply keeps_Running_normB
    | with_reducible apply keeps_rowStep
    | intro _

theorem keeps_execReRmsB {σ s : State} (H : Keeps σ s) (b : BayRef) (f : Fields) : KeepsOut σ (execReRmsB b f s) := by
  unfold execReRmsB
  repeat' first
    | with_reducible apply keepsOut_next
    | with_reducible assumption
    | with_reducible apply keeps_Running_normB
    | with_reducible apply keeps_rowStep
    | intro _

theorem keeps_Running_smxF {σ s : State} (H : Keeps σ s) (r : Running) (b : BayRef) (imm srow row : Nat) : Keeps σ (Running.smxF r s b imm srow row).1 := by
  unfold Running.smxF
  repeat' first
    | with_reducible assumption
    | with_reducible apply keeps_Running_putRole
    | with_reducible apply keeps_Running_putStat
    | dsimp only
    | split

theorem keeps_execReSmxF {σ s : State} (H : Keeps σ s) (b : BayRef) (f : Fields) : KeepsOut σ (execReSmxF b f s) := by
  unfold execReSmxF
  repeat' first
    | with_reducible apply keepsOut_next
    | with_reducible assumption
    | with_reducible apply keeps_rowStep
    | with_reducible apply keeps_Running_smxF
    | intro _

theorem keeps_Running_smxB {σ s : State} (H : Keeps σ s) (r : Running) (b : BayRef) (imm srow row : Nat) : Keeps σ (Running.smxB r s b imm srow row).1 := by
  unfold Running.smxB
  repeat' first
    | with_reducible assumption
    | with_reducible apply keeps_Running_putRole
    | dsimp only
    | split

theorem keeps_execReSmxB {σ s : State} (H : Keeps σ s) (b : BayRef) (f : Fields) : KeepsOut σ (execReSmxB b f s) := by
  unfold execReSmxB
  repeat' first
    | with_reducible apply keepsOut_next
    | with_reducible assumption
    | with_reducible apply keeps_rowStep
    | with_reducible apply keeps_Running_smxB
    | intro _

theorem keeps_Running_xent {σ s : State} (H : Keeps σ s) (r : Running) (b : BayRef) (imm srow row : Nat) : Keeps σ (Running.xent r s b imm srow row).1 := by
  unfold Running.xent
  repeat' first
    | with_reducible assumption
    | with_reducible apply keeps_Running_putRole
    | with_reducible apply keeps_Running_putStat
    | dsimp only
    | split

theorem keeps_execReXent {σ s : State} (H : Keeps σ s) (b : BayRef) (f : Fields) : KeepsOut σ (execReXent b f s) := by
  unfold execReXent
  repeat' first
    | with_reducible apply keepsOut_next
    | with_reducible assumption
    | with_reducible apply keeps_rowStep
    | with_reducible apply keeps_Running_xent
    | intro _

theorem keeps_execReLsum {σ s : State} (H : Keeps σ s) (b : BayRef) (f : Fields) : KeepsOut σ (execReLsum b f s) := by
  unfold execReLsum
  repeat' first
    | with_reducible apply keepsOut_next
    | with_reducible assumption
    | with_reducible apply keeps_strokeStep
    | with_reducible apply keepsEff_done
    | intro _

theorem keeps_Running_actRowF {σ s : State} (H : Keeps σ s) (r : Running) (fn row : Nat) : Keeps σ (Running.actRowF r s fn row).1 := by
  unfold Running.actRowF
  repeat' first
    | with_reducible assumption
    | with_reducible apply keeps_Running_putPlane
    | with_reducible apply keeps_Running_putRole
    | with_reducible apply keeps_ite
    | dsimp only
    | split

theorem keeps_execReActF {σ s : State} (H : Keeps σ s) (b : BayRef) (f : Fields) : KeepsOut σ (execReActF b f s) := by
  unfold execReActF
  repeat' first
    | with_reducible apply keepsOut_next
    | with_reducible assumption
    | with_reducible apply keeps_Running_actRowF
    | with_reducible apply keeps_rowStep
    | intro _

theorem keeps_Running_actRowB {σ s : State} (H : Keeps σ s) (r : Running) (fn row : Nat) : Keeps σ (Running.actRowB r s fn row).1 := by
  unfold Running.actRowB
  repeat' first
    | with_reducible assumption
    | with_reducible apply keeps_Running_putRole
    | dsimp only
    | split

theorem keeps_execReActB {σ s : State} (H : Keeps σ s) (b : BayRef) (f : Fields) : KeepsOut σ (execReActB b f s) := by
  unfold execReActB
  repeat' first
    | with_reducible apply keepsOut_next
    | with_reducible assumption
    | with_reducible apply keeps_Running_actRowB
    | with_reducible apply keeps_rowStep
    | intro _

theorem keeps_Running_poolRowF {σ s : State} (H : Keeps σ s) (r : Running) (w row : Nat) : Keeps σ (Running.poolRowF r s w row).1 := by
  unfold Running.poolRowF
  repeat' first
    | with_reducible assumption
    | with_reducible apply keeps_Running_putPlane
    | with_reducible apply keeps_Running_putRole
    | dsimp only
    | split

theorem keeps_execRePoolF {σ s : State} (H : Keeps σ s) (b : BayRef) (f : Fields) : KeepsOut σ (execRePoolF b f s) := by
  unfold execRePoolF
  repeat' first
    | with_reducible apply keepsOut_next
    | with_reducible assumption
    | with_reducible apply keeps_Running_poolRowF
    | with_reducible apply keeps_rowStep
    | intro _

theorem keeps_Running_poolRowB {σ s : State} (H : Keeps σ s) (r : Running) (w row : Nat) : Keeps σ (Running.poolRowB r s w row).1 := by
  unfold Running.poolRowB
  repeat' first
    | with_reducible assumption
    | with_reducible apply keeps_Running_putRole
    | dsimp only
    | split

theorem keeps_execRePoolB {σ s : State} (H : Keeps σ s) (b : BayRef) (f : Fields) : KeepsOut σ (execRePoolB b f s) := by
  unfold execRePoolB
  repeat' first
    | with_reducible apply keepsOut_next
    | with_reducible assumption
    | with_reducible apply keeps_Running_poolRowB
    | with_reducible apply keeps_rowStep
    | intro _

theorem keeps_execRePst {σ s : State} (H : Keeps σ s) (b : BayRef) (f : Fields) : KeepsOut σ (execRePst b f s) := by
  unfold execRePst
  repeat' first
    | with_reducible apply keepsOut_next
    | with_reducible assumption
    | with_reducible apply keeps_strokeStep
    | with_reducible exact keepsEff_hold
    | with_reducible exact keepsEff_viol
    | with_reducible apply keepsEff_done
    | exact .same rfl rfl rfl
    | exact ⟨rfl, rfl, rfl, rfl, fun _ h => h⟩
    | intro _
    | with_reducible apply wr_wf
    | with_reducible apply keepsEff_ite
    | dsimp only
    | split
    | with_reducible refine Keeps.mk' ?_ ?_ ?_ ?_

theorem keeps_execRePld {σ s : State} (H : Keeps σ s) (b : BayRef) (f : Fields) : KeepsOut σ (execRePld b f s) := by
  unfold execRePld
  repeat' first
    | with_reducible apply keepsOut_next
    | with_reducible assumption
    | with_reducible apply keeps_strokeStep
    | with_reducible exact keepsEff_hold
    | with_reducible exact keepsEff_viol
    | with_reducible apply keepsEff_done
    | intro _
    | with_reducible apply keepsEff_ite
    | dsimp only
    | split

end Sys2Proof.Laws
end

