-- ==== Sys2Proof/Laws/KeptMover.lean ====
section
/-! SUPPORT. What the operations of Machine/Mover.lean keep: one lemma for each. -/

namespace Sys2Proof.Laws

open Sys2Proof Sys2Proof.Machine

theorem keeps_mvStart {σ s : State} (H : Keeps σ s) (die mv : Nat) (q : MvReq) : Keeps σ (State.mvStart s die mv q) := by
  unfold State.mvStart
  repeat' first
    | with_reducible assumption
    | with_reducible apply keeps_addReaders
    | with_reducible apply keeps_modJob
    | with_reducible apply keeps_modMover

theorem keeps_mv {σ s : State} (H : Keeps σ s) (b : BayRef) (op : Nat) (f : Fields) (mv : Nat) : Keeps σ (s.mv b op f mv) := by
  unfold State.mv
  refine keeps_strokeStep H fun t r ht => ?_
  extract_lets q
  repeat' first
    | with_reducible exact keepsEff_hold
    | with_reducible exact keepsEff_viol
    | exact keepsEff_done (keeps_mvStart ht _ _ _)
    | exact keepsEff_done ht
    | split

theorem keeps_execMvCopy {σ s : State} (H : Keeps σ s) (b : BayRef) (f : Fields) (mv : Nat) : KeepsOut σ (execMvCopy b f mv s) := by
  unfold execMvCopy
  repeat' first
    | with_reducible apply keepsOut_next
    | with_reducible assumption
    | with_reducible apply keeps_mv

theorem keeps_execMvGather {σ s : State} (H : Keeps σ s) (b : BayRef) (f : Fields) (mv : Nat) : KeepsOut σ (execMvGather b f mv s) := by
  unfold execMvGather
  repeat' first
    | with_reducible apply keepsOut_next
    | with_reducible assumption
    | with_reducible apply keeps_mv

theorem keeps_execMvScatter {σ s : State} (H : Keeps σ s) (b : BayRef) (f : Fields) (mv : Nat) : KeepsOut σ (execMvScatter b f mv s) := by
  unfold execMvScatter
  repeat' first
    | with_reducible apply keepsOut_next
    | with_reducible assumption
    | with_reducible apply keeps_mv

theorem keeps_execMvScadd {σ s : State} (H : Keeps σ s) (b : BayRef) (f : Fields) (mv : Nat) : KeepsOut σ (execMvScadd b f mv s) := by
  unfold execMvScadd
  repeat' first
    | with_reducible apply keepsOut_next
    | with_reducible assumption
    | with_reducible apply keeps_mv

theorem keeps_execMvSegsum {σ s : State} (H : Keeps σ s) (b : BayRef) (f : Fields) (mv : Nat) : KeepsOut σ (execMvSegsum b f mv s) := by
  unfold execMvSegsum
  repeat' first
    | with_reducible apply keepsOut_next
    | with_reducible assumption
    | with_reducible apply keeps_mv

theorem keeps_execMvSegmax {σ s : State} (H : Keeps σ s) (b : BayRef) (f : Fields) (mv : Nat) : KeepsOut σ (execMvSegmax b f mv s) := by
  unfold execMvSegmax
  repeat' first
    | with_reducible apply keepsOut_next
    | with_reducible assumption
    | with_reducible apply keeps_mv

theorem keeps_execMvSketch {σ s : State} (H : Keeps σ s) (b : BayRef) (f : Fields) (mv : Nat) : KeepsOut σ (execMvSketch b f mv s) := by
  unfold execMvSketch
  repeat' first
    | with_reducible apply keepsOut_next
    | with_reducible assumption
    | with_reducible apply keeps_mv

theorem keeps_execBounceBufferTake {σ s : State} (H : Keeps σ s) (die mover : Nat) : KeepsOut σ (execBounceBufferTake die mover s) := by
  unfold execBounceBufferTake
  repeat' first
    | with_reducible apply keepsOut_next
    | with_reducible assumption
    | with_reducible apply keeps_modBay
    | with_reducible apply keeps_modMover
    | exact .same rfl rfl rfl
    | exact ⟨rfl, rfl, rfl, rfl, fun _ h => h⟩
    | intro _
    | with_reducible apply bounced_wf
    | with_reducible apply keeps_ite
    | dsimp only
    | split
    | with_reducible refine Keeps.mk' ?_ ?_ ?_ ?_

theorem keeps_encodeCopy {σ s : State} (H : Keeps σ s) (m0 : Mem) (die : Nat) (q : MvReq) : Keeps σ (s.encodeCopy m0 die q) := by
  unfold State.encodeCopy
  have side : ∀ (d : Desc) (m : Mem) (xs : List Nat), Mem.wf m = true →
      Mem.wf (xs.foldl (fun m j => d.wrSide m j (q.src.rdSide m0 j)) m) = true :=
    fun d m xs h => foldl_wf _ (fun _ _ h => wrSide_wf _ _ _ h) _ h
  dsimp only
  cases q.idx <;> dsimp only <;> split
  · exact H.trans ⟨rfl, .same rfl rfl rfl, .same rfl, fun h => side _ _ _ (wrBytes_wf _ _ (wrBytes_wf _ _ h))⟩
  · exact Keeps.mk' (keeps_modDie H _ _) (.same rfl rfl rfl) (.same rfl) fun h => side _ _ _ (wrBytes_wf _ _ (wrBytes_wf _ _ h))
  · exact H.trans ⟨rfl, .same rfl rfl rfl, .same rfl, fun h => side _ _ _ (wrBytes_wf _ _ (wrBytes_wf _ _ h))⟩
  · exact H.trans ⟨rfl, .same rfl rfl rfl, .same rfl, fun h => side _ _ _ (wrBytes_wf _ _ (wrBytes_wf _ _ h))⟩

theorem keeps_mvCount {σ s : State} (H : Keeps σ s) (die : Nat) (q : MvReq) (x : Exc) : Keeps σ (State.mvCount s die q x) := by
  unfold State.mvCount
  repeat' first
    | with_reducible assumption
    | with_reducible apply keeps_modBay

theorem keeps_execScaddRound {σ s : State} (H : Keeps σ s) (die mover : Nat) : KeepsOut σ (execScaddRound die mover s) := by
  unfold execScaddRound
  repeat' first
    | with_reducible apply keepsOut_next
    | with_reducible assumption
    | with_reducible apply keeps_modMover
    | exact .same rfl rfl rfl
    | exact ⟨rfl, rfl, rfl, rfl, fun _ h => h⟩
    | intro _
    | with_reducible apply formBlocks_wf
    | with_reducible apply keeps_ite
    | dsimp only
    | split
    | with_reducible refine Keeps.mk' ?_ ?_ ?_ ?_

theorem keeps_accSlices {σ s : State} (H : Keeps σ s) (die : Nat) (q : MvReq) (pairs : List (Nat × Nat)) : Keeps σ (State.accSlices s die q pairs) := by
  unfold State.accSlices
  repeat' first
    | with_reducible assumption
    | with_reducible apply keeps_accRange
    | with_reducible apply keeps_foldl
    | intro _

theorem keeps_mvApply {σ s : State} (H : Keeps σ s) (die : Nat) (q : MvReq) : Keeps σ (State.mvApply s die q) := by
  unfold State.mvApply
  repeat' first
    | with_reducible assumption
    | with_reducible apply keeps_accSlices
    | with_reducible apply keeps_encodeCopy
    | with_reducible apply keeps_modBay
    | with_reducible apply keeps_mvCount
    | exact .same rfl rfl rfl
    | exact ⟨rfl, rfl, rfl, rfl, fun _ h => h⟩
    | intro _
    | with_reducible apply wr_wf
    | with_reducible apply putHist_wf
    | with_reducible apply copyPairs_wf
    | with_reducible apply zeroSlice_wf
    | with_reducible apply formBlocks_wf
    | with_reducible apply foldl_wf
    | with_reducible apply keeps_ite
    | dsimp only
    | split
    | with_reducible refine Keeps.mk' ?_ ?_ ?_ ?_

theorem keeps_mvKeep {σ s : State} (H : Keeps σ s) (die : Nat) (q : MvReq) : Keeps σ (State.mvKeep s die q) := by
  unfold State.mvKeep
  repeat' first
    | with_reducible assumption
    | with_reducible apply keeps_modDie
    | with_reducible apply keeps_ite

theorem keeps_execMoverRequestDone {σ s : State} (H : Keeps σ s) (die mover : Nat) : KeepsOut σ (execMoverRequestDone die mover s) := by
  unfold execMoverRequestDone
  repeat' first
    | with_reducible apply keepsOut_next
    | with_reducible assumption
    | with_reducible apply keeps_dropMv
    | with_reducible apply keeps_mvApply
    | with_reducible apply keeps_mvKeep
    | with_reducible apply keeps_ite
    | split

end Sys2Proof.Laws
end

