-- ==== Sys2Proof/Laws/KeptTile.lean ====
section
/-! SUPPORT. What the operations of Machine/Tile.lean keep: one lemma for each. -/

namespace Sys2Proof.Laws

open Sys2Proof Sys2Proof.Machine

theorem keeps_mxt {σ s : State} (H : Keeps σ s) (b : BayRef) (op : Nat) (f : Fields) (ta tb acc : Bool) : Keeps σ (State.mxt s b op f ta tb acc) := by
  unfold State.mxt
  repeat' first
    | with_reducible assumption
    | with_reducible apply keeps_modBay
    | with_reducible apply keeps_strokeStep
    | with_reducible exact keepsEff_hold
    | with_reducible exact keepsEff_viol
    | with_reducible apply keepsEff_done
    | intro _
    | with_reducible apply keepsEff_ite
    | dsimp only
    | split

theorem keeps_execMxtNn {σ s : State} (H : Keeps σ s) (b : BayRef) (f : Fields) : KeepsOut σ (execMxtNn b f s) := by
  unfold execMxtNn
  repeat' first
    | with_reducible apply keepsOut_next
    | with_reducible assumption
    | with_reducible apply keeps_mxt

theorem keeps_execMxtNt {σ s : State} (H : Keeps σ s) (b : BayRef) (f : Fields) : KeepsOut σ (execMxtNt b f s) := by
  unfold execMxtNt
  repeat' first
    | with_reducible apply keepsOut_next
    | with_reducible assumption
    | with_reducible apply keeps_mxt

theorem keeps_execMxtTn {σ s : State} (H : Keeps σ s) (b : BayRef) (f : Fields) : KeepsOut σ (execMxtTn b f s) := by
  unfold execMxtTn
  repeat' first
    | with_reducible apply keepsOut_next
    | with_reducible assumption
    | with_reducible apply keeps_mxt

theorem keeps_execMxtTt {σ s : State} (H : Keeps σ s) (b : BayRef) (f : Fields) : KeepsOut σ (execMxtTt b f s) := by
  unfold execMxtTt
  repeat' first
    | with_reducible apply keepsOut_next
    | with_reducible assumption
    | with_reducible apply keeps_mxt

theorem keeps_execMxtNnAcc {σ s : State} (H : Keeps σ s) (b : BayRef) (f : Fields) : KeepsOut σ (execMxtNnAcc b f s) := by
  unfold execMxtNnAcc
  repeat' first
    | with_reducible apply keepsOut_next
    | with_reducible assumption
    | with_reducible apply keeps_mxt

theorem keeps_execMxtNtAcc {σ s : State} (H : Keeps σ s) (b : BayRef) (f : Fields) : KeepsOut σ (execMxtNtAcc b f s) := by
  unfold execMxtNtAcc
  repeat' first
    | with_reducible apply keepsOut_next
    | with_reducible assumption
    | with_reducible apply keeps_mxt

theorem keeps_execMxtTnAcc {σ s : State} (H : Keeps σ s) (b : BayRef) (f : Fields) : KeepsOut σ (execMxtTnAcc b f s) := by
  unfold execMxtTnAcc
  repeat' first
    | with_reducible apply keepsOut_next
    | with_reducible assumption
    | with_reducible apply keeps_mxt

theorem keeps_execMxtTtAcc {σ s : State} (H : Keeps σ s) (b : BayRef) (f : Fields) : KeepsOut σ (execMxtTtAcc b f s) := by
  unfold execMxtTtAcc
  repeat' first
    | with_reducible apply keepsOut_next
    | with_reducible assumption
    | with_reducible apply keeps_mxt

theorem keeps_found {σ s : State} (H : Keeps σ s) (b : BayRef) (r : Running) (e : Finding) : Keeps σ (State.found s b r e) := by
  unfold State.found
  repeat' first
    | with_reducible assumption
    | with_reducible apply keeps_abandon
    | with_reducible apply keeps_fault
    | with_reducible apply keeps_putRunning
    | with_reducible apply keeps_ite

theorem keeps_execTileProductPassStart {σ s : State} (H : Keeps σ s) (b : BayRef) : KeepsOut σ (execTileProductPassStart b s) := by
  unfold execTileProductPassStart
  repeat' first
    | with_reducible apply keepsOut_next
    | with_reducible assumption
    | with_reducible apply keeps_found
    | with_reducible apply keeps_modBay
    | with_reducible apply keeps_ite
    | split

theorem keeps_execTileProductPassEnd {σ s : State} (H : Keeps σ s) (b : BayRef) (agree : Bool) : KeepsOut σ (execTileProductPassEnd b agree s) := by
  unfold execTileProductPassEnd
  repeat' first
    | with_reducible apply keepsOut_next
    | with_reducible assumption
    | with_reducible apply keeps_found
    | with_reducible apply keeps_modBay
    | split

theorem keeps_retire {σ s : State} (H : Keeps σ s) (b : BayRef) (r : Running) (t : Tile) : Keeps σ (State.retire s b r t) := by
  unfold State.retire
  repeat' first
    | with_reducible assumption
    | with_reducible apply keeps_accumulate
    | with_reducible apply keeps_freezeBayAt
    | with_reducible apply keeps_putRunning
    | with_reducible apply keeps_foldl
    | exact .same rfl rfl rfl
    | exact ⟨rfl, rfl, rfl, rfl, fun _ h => h⟩
    | intro _
    | with_reducible apply putRow_wf
    | with_reducible apply foldlSink_wf
    | assumption
    | with_reducible apply keeps_ite
    | dsimp only
    | with_reducible refine Keeps.mk' ?_ ?_ ?_ ?_

theorem keeps_execTileRetire {σ s : State} (H : Keeps σ s) (b : BayRef) : KeepsOut σ (execTileRetire b s) := by
  unfold execTileRetire
  repeat' first
    | with_reducible apply keepsOut_next
    | with_reducible assumption
    | with_reducible apply keeps_modBay
    | with_reducible apply keeps_retire
    | with_reducible apply keeps_ite
    | split

end Sys2Proof.Laws
end

