-- ==== Sys2Proof/Laws/KeptStrokeEvents.lean ====
section
/-! SUPPORT. What the operations of Machine/StrokeEvents.lean keep: one lemma for each. -/

namespace Sys2Proof.Laws

open Sys2Proof Sys2Proof.Machine

theorem keeps_issueTo {σ s : State} (H : Keeps σ s) (die bay : Nat) (i : Inst) (fills : List (Nat × List Byte)) : Keeps σ (State.issueTo s die bay i fills) := by
  unfold State.issueTo
  repeat' first
    | with_reducible assumption
    | with_reducible apply keeps_addReaders
    | with_reducible apply keeps_modBay
    | with_reducible apply keeps_modSealsDie
    | with_reducible apply keeps_foldl
    | intro _
    | split

theorem keeps_freezeIssue {σ s : State} (H : Keeps σ s) (die bay : Nat) (i : Inst) (addr : Nat) (d : Option Desc) : Keeps σ (State.freezeIssue s die bay i addr d) := by
  unfold State.freezeIssue
  repeat' first
    | with_reducible assumption
    | with_reducible apply keeps_freeze

theorem keeps_execStrokeIssue {σ s : State} (H : Keeps σ s) (b : BayRef) : KeepsOut σ (execStrokeIssue b s) := by
  unfold execStrokeIssue
  repeat' first
    | with_reducible apply keepsOut_next
    | with_reducible assumption
    | with_reducible apply keeps_freezeIssue
    | with_reducible apply keeps_issueTo
    | with_reducible apply keeps_modBay
    | with_reducible apply keeps_ite
    | dsimp only
    | split

theorem keeps_sealStroke {σ s : State} (H : Keeps σ s) (b : BayRef) (r : Running) (cycles : Nat) : Keeps σ (State.sealStroke s b r cycles) := by
  unfold State.sealStroke
  repeat' first
    | with_reducible assumption
    | with_reducible apply keeps_dropReaders
    | with_reducible apply keeps_modBay
    | with_reducible apply keeps_modDie
    | with_reducible apply keeps_modSealsDie
    | with_reducible apply keeps_modSlot
    | with_reducible apply keeps_retireBay
    | with_reducible apply keeps_srcTokens
    | with_reducible apply keeps_trySeal
    | with_reducible apply keeps_foldl
    | intro _
    | with_reducible apply keeps_ite
    | dsimp only
    | split

theorem keeps_execStrokeSeal {σ s : State} (H : Keeps σ s) (b : BayRef) (cycles : Nat) : KeepsOut σ (execStrokeSeal b cycles s) := by
  unfold execStrokeSeal
  repeat' first
    | with_reducible apply keepsOut_next
    | with_reducible assumption
    | with_reducible apply keeps_sealStroke
    | with_reducible apply keeps_ite
    | split

theorem keeps_execPaletteFillStart {σ s : State} (H : Keeps σ s) (b : BayRef) (slot : Nat) : KeepsOut σ (execPaletteFillStart b slot s) := by
  unfold execPaletteFillStart
  repeat' first
    | with_reducible apply keepsOut_next
    | with_reducible assumption
    | with_reducible apply keeps_modBay
    | with_reducible apply keeps_ite
    | dsimp only
    | split

theorem keeps_execPaletteFillDone {σ s : State} (H : Keeps σ s) (b : BayRef) (slot : Nat) : KeepsOut σ (execPaletteFillDone b slot s) := by
  unfold execPaletteFillDone
  repeat' first
    | with_reducible apply keepsOut_next
    | with_reducible assumption
    | with_reducible apply keeps_modBay
    | with_reducible apply keeps_wrote
    | with_reducible apply keeps_ite
    | dsimp only
    | split

theorem keeps_execSealEntryRelease {σ s : State} (H : Keeps σ s) (b : BayRef) (start : Nat) : KeepsOut σ (execSealEntryRelease b start s) := by
  unfold execSealEntryRelease
  repeat' first
    | with_reducible apply keepsOut_next
    | with_reducible assumption
    | with_reducible apply keeps_gatherRetry
    | with_reducible apply keeps_modBay
    | with_reducible apply keeps_ite

end Sys2Proof.Laws
end

