-- ==== Sys2Proof/Laws/KeptGraph.lean ====
section
/-! SUPPORT. What the operations of Machine/Graph.lean keep: one lemma for each. -/

namespace Sys2Proof.Laws

open Sys2Proof Sys2Proof.Machine

theorem keeps_goto {σ s : State} (H : Keeps σ s) (die r n : Nat) : Keeps σ (State.goto s die r n) := by
  unfold State.goto
  repeat' first
    | with_reducible assumption
    | with_reducible apply keeps_haltRun
    | with_reducible apply keeps_modRun
    | with_reducible apply keeps_ite

theorem keeps_nextNode {σ s : State} (H : Keeps σ s) (die r : Nat) : Keeps σ (State.nextNode s die r) := by
  unfold State.nextNode
  repeat' first
    | with_reducible assumption
    | with_reducible apply keeps_goto

theorem keeps_waitRun {σ s : State} (H : Keeps σ s) (die r : Nat) (held : Bool) : Keeps σ (State.waitRun s die r held) := by
  unfold State.waitRun
  repeat' first
    | with_reducible assumption
    | with_reducible apply keeps_modRun

/-- The outcome of a graph node. -/
def KeepsOpnd (σ : State) : Opnd State → Prop
  | .ok s => Keeps σ s
  | .error _ => True

theorem keepsOpnd_ok {σ s : State} (H : Keeps σ s) : KeepsOpnd σ (.ok s) := H
theorem keepsOpnd_pure {σ s : State} (H : Keeps σ s) : KeepsOpnd σ (pure s) := H
theorem keepsOpnd_error {σ : State} {e : Option Nat} : KeepsOpnd σ (.error e) := trivial
theorem keepsOpnd_throw {σ : State} {e : Option Nat} : KeepsOpnd σ (throw e) := trivial
theorem keepsOpnd_bind {α : Type} {σ : State} {x : Opnd α} {f : α → Opnd State} (H : ∀ a, KeepsOpnd σ (f a)) : KeepsOpnd σ (x >>= f) := by
  cases x with
  | error e => exact trivial
  | ok a => exact H a

theorem keeps_nodeStep {σ s : State} {die r kind : Nat} {f : State → Opnd State} (H : Keeps σ s)
    (hf : ∀ t, Keeps σ t → KeepsOpnd σ (f t)) : Keeps σ (s.nodeStep die r kind f) := by
  unfold State.nodeStep
  have h := hf s H
  dsimp only
  split
  · exact H
  · split
    · rename_i e; rw [e] at h; exact h
    · exact keeps_waitRun H _ _ _
    · exact keeps_haltRun H _ _ _

theorem keeps_issueNode {σ s : State} (H : Keeps σ s) (die r : Nat) (img : Image) (argss : List (List Nat)) : Keeps σ (State.issueNode s die r img argss) := by
  unfold State.issueNode
  repeat' first
    | with_reducible assumption
    | with_reducible apply keeps_modBay
    | with_reducible apply keeps_modRun
    | with_reducible apply keeps_foldl
    | intro _

theorem keeps_execGraphStroke {σ s : State} (H : Keeps σ s) (die run : Nat) : KeepsOut σ (execGraphStroke die run s) := by
  unfold execGraphStroke
  repeat' first
    | with_reducible apply keepsOut_next
    | with_reducible assumption
    | with_reducible apply keeps_countRefusal
    | with_reducible apply keeps_haltRun
    | with_reducible apply keeps_issueNode
    | with_reducible apply keeps_nextNode
    | with_reducible apply keeps_nodeStep
    | with_reducible apply keeps_waitRun
    | with_reducible exact keepsOpnd_error
    | with_reducible apply keepsOpnd_ok
    | intro _
    | with_reducible apply keeps_ite
    | dsimp only
    | split

theorem keeps_execGraphLoop {σ s : State} (H : Keeps σ s) (die run : Nat) : KeepsOut σ (execGraphLoop die run s) := by
  unfold execGraphLoop
  repeat' first
    | with_reducible apply keepsOut_next
    | with_reducible assumption
    | with_reducible apply keeps_goto
    | with_reducible apply keeps_modRun
    | with_reducible apply keeps_nextNode
    | with_reducible apply keeps_nodeStep
    | with_reducible exact keepsOpnd_error
    | with_reducible apply keepsOpnd_ok
    | intro _
    | split

theorem keeps_execGraphEndLoop {σ s : State} (H : Keeps σ s) (die run : Nat) : KeepsOut σ (execGraphEndLoop die run s) := by
  unfold execGraphEndLoop
  repeat' first
    | with_reducible apply keepsOut_next
    | with_reducible assumption
    | with_reducible apply keeps_goto
    | with_reducible apply keeps_modRun
    | with_reducible apply keeps_nextNode
    | with_reducible apply keeps_nodeStep
    | with_reducible apply keepsOpnd_ok
    | intro _
    | dsimp only
    | split

theorem keeps_branchTo {σ s : State} (H : Keeps σ s) (die r t : Nat) : Keeps σ (State.branchTo s die r t) := by
  unfold State.branchTo
  repeat' first
    | with_reducible assumption
    | with_reducible apply keeps_goto
    | with_reducible apply keeps_modRun

theorem keeps_execGraphBranch {σ s : State} (H : Keeps σ s) (die run : Nat) : KeepsOut σ (execGraphBranch die run s) := by
  unfold execGraphBranch
  repeat' first
    | with_reducible apply keepsOut_next
    | with_reducible assumption
    | with_reducible apply keeps_branchTo
    | with_reducible apply keeps_nextNode
    | with_reducible apply keeps_nodeStep
    | with_reducible exact keepsOpnd_error
    | with_reducible apply keepsOpnd_ok
    | intro _
    | dsimp only
    | split

theorem keeps_execGraphSet {σ s : State} (H : Keeps σ s) (die run : Nat) : KeepsOut σ (execGraphSet die run s) := by
  unfold execGraphSet
  repeat' first
    | with_reducible apply keepsOut_next
    | with_reducible assumption
    | with_reducible apply keeps_modRun
    | with_reducible apply keeps_nextNode
    | with_reducible apply keeps_nodeStep
    | with_reducible exact keepsOpnd_error
    | with_reducible apply keepsOpnd_ok
    | intro _
    | dsimp only
    | split

theorem keeps_execGraphStep {σ s : State} (H : Keeps σ s) (die run : Nat) : KeepsOut σ (execGraphStep die run s) := by
  unfold execGraphStep
  repeat' first
    | with_reducible apply keepsOut_next
    | with_reducible assumption
    | with_reducible apply keeps_modRun
    | with_reducible apply keeps_nextNode
    | with_reducible apply keeps_nodeStep
    | with_reducible apply keepsOpnd_ok
    | intro _

theorem keeps_endWait {σ s : State} (H : Keeps σ s) (die r : Nat) : Keeps σ (State.endWait s die r) := by
  unfold State.endWait
  repeat' first
    | with_reducible assumption
    | with_reducible apply keeps_modRun
    | with_reducible apply keeps_nextNode
    | with_reducible apply keeps_ite

theorem keeps_execGraphWait {σ s : State} (H : Keeps σ s) (die run : Nat) : KeepsOut σ (execGraphWait die run s) := by
  unfold execGraphWait
  repeat' first
    | with_reducible apply keepsOut_next
    | with_reducible assumption
    | with_reducible apply keeps_endWait
    | with_reducible apply keeps_modRun
    | with_reducible apply keeps_nodeStep
    | with_reducible apply keeps_waitRun
    | with_reducible exact keepsOpnd_error
    | with_reducible apply keepsOpnd_ok
    | intro _
    | with_reducible apply keeps_ite
    | dsimp only
    | split

theorem keeps_execWaitEventMet {σ s : State} (H : Keeps σ s) (die run : Nat) : KeepsOut σ (execWaitEventMet die run s) := by
  unfold execWaitEventMet
  repeat' first
    | with_reducible apply keepsOut_next
    | with_reducible assumption
    | with_reducible apply keeps_endWait
    | with_reducible apply keeps_ite

theorem keeps_notify {σ s : State} (H : Keeps σ s) (die job tag : Nat) (vals : List Nat) : Keeps σ (State.notify s die job tag vals) := by
  unfold State.notify
  repeat' first
    | with_reducible assumption
    | with_reducible apply keeps_modDie
    | with_reducible apply keeps_modRun
    | with_reducible apply keeps_foldl
    | intro _
    | split

theorem keeps_execGraphNotify {σ s : State} (H : Keeps σ s) (die run : Nat) : KeepsOut σ (execGraphNotify die run s) := by
  unfold execGraphNotify
  repeat' first
    | with_reducible apply keepsOut_next
    | with_reducible assumption
    | with_reducible apply keeps_event
    | with_reducible apply keeps_nextNode
    | with_reducible apply keeps_nodeStep
    | with_reducible apply keeps_notify
    | with_reducible exact keepsOpnd_error
    | with_reducible apply keepsOpnd_ok
    | intro _
    | dsimp only
    | split

theorem keeps_releaseSlot {σ s : State} (H : Keeps σ s) (die n job : Nat) : Keeps σ (State.releaseSlot s die n job) := by
  unfold State.releaseSlot
  repeat' first
    | with_reducible assumption
    | with_reducible apply keeps_modDie
    | with_reducible apply keeps_modSlot
    | with_reducible apply keeps_openReqSend
    | with_reducible apply keeps_ite

theorem keeps_execGraphRelease {σ s : State} (H : Keeps σ s) (die run : Nat) : KeepsOut σ (execGraphRelease die run s) := by
  unfold execGraphRelease
  repeat' first
    | with_reducible apply keepsOut_next
    | with_reducible assumption
    | with_reducible apply keeps_modRun
    | with_reducible apply keeps_nextNode
    | with_reducible apply keeps_nodeStep
    | with_reducible apply keeps_releaseSlot
    | with_reducible apply keepsOpnd_ok
    | intro _
    | with_reducible apply keeps_ite

theorem keeps_execSlotReleaseEffect {σ s : State} (H : Keeps σ s) (die slot : Nat) : KeepsOut σ (execSlotReleaseEffect die slot s) := by
  unfold execSlotReleaseEffect
  repeat' first
    | with_reducible apply keepsOut_next
    | with_reducible assumption
    | with_reducible apply keeps_modRun
    | with_reducible apply keeps_releaseSlot
    | with_reducible apply keeps_ite
    | split

theorem keeps_freeNamed {σ s : State} (H : Keeps σ s) (die run node i : Nat) : Keeps σ (State.freeNamed s die run node i) := by
  unfold State.freeNamed
  repeat' first
    | with_reducible assumption
    | with_reducible apply keeps_modBay
    | with_reducible apply keeps_foldl
    | intro _
    | with_reducible apply keeps_ite
    | split

theorem keeps_execGraphFree {σ s : State} (H : Keeps σ s) (die run : Nat) : KeepsOut σ (execGraphFree die run s) := by
  unfold execGraphFree
  repeat' first
    | with_reducible apply keepsOut_next
    | with_reducible assumption
    | with_reducible apply keeps_freeNamed
    | with_reducible apply keeps_nextNode
    | with_reducible apply keeps_nodeStep
    | with_reducible apply keepsOpnd_ok
    | intro _

theorem keeps_execGraphEnd {σ s : State} (H : Keeps σ s) (die run : Nat) : KeepsOut σ (execGraphEnd die run s) := by
  unfold execGraphEnd
  repeat' first
    | with_reducible apply keepsOut_next
    | with_reducible assumption
    | with_reducible apply keeps_event
    | with_reducible apply keeps_modRun
    | with_reducible apply keeps_nodeStep
    | with_reducible exact keepsOpnd_error
    | with_reducible apply keepsOpnd_ok
    | intro _
    | dsimp only
    | split

end Sys2Proof.Laws
end

