-- ==== Sys2Proof/Laws/KeptAtelier.lean ====
section
/-! SUPPORT. What the operations of Machine/Atelier.lean keep: one lemma for each. -/

namespace Sys2Proof.Laws

open Sys2Proof Sys2Proof.Machine

theorem keeps_modStream {σ s : State} (H : Keeps σ s) (die n : Nat) (f : Stream → Stream) : Keeps σ (State.modStream s die n f) := by
  unfold State.modStream
  repeat' first
    | with_reducible assumption
    | with_reducible apply keeps_modDie

theorem keeps_modPool {σ s : State} (H : Keeps σ s) (die p : Nat) (f : Pool → Pool) : Keeps σ (State.modPool s die p f) := by
  unfold State.modPool
  repeat' first
    | with_reducible assumption
    | with_reducible apply keeps_modDie

theorem keeps_streamStop {σ s : State} (H : Keeps σ s) (die n status pts : Nat) : Keeps σ (State.streamStop s die n status pts) := by
  unfold State.streamStop
  repeat' first
    | with_reducible assumption
    | with_reducible apply keeps_event
    | with_reducible apply keeps_modStream

theorem keeps_execSegmentRead {σ s : State} (H : Keeps σ s) (die stream : Nat) (data : Option (List Byte)) : KeepsOut σ (execSegmentRead die stream data s) := by
  unfold execSegmentRead
  repeat' first
    | with_reducible apply keepsOut_next
    | with_reducible assumption
    | with_reducible apply keeps_freeze
    | with_reducible apply keeps_modStream
    | with_reducible apply keeps_streamStop
    | with_reducible apply keeps_ite
    | dsimp only
    | split

theorem keeps_psiSection {σ s : State} (H : Keeps σ s) (die n pid : Nat) (sec : List Byte) : Keeps σ (State.psiSection s die n pid sec) := by
  unfold State.psiSection
  repeat' first
    | with_reducible assumption
    | with_reducible apply keeps_modStream
    | with_reducible apply keeps_streamStop
    | with_reducible apply keeps_ite
    | split

theorem keeps_psiPacket {σ s : State} (H : Keeps σ s) (die n pid : Nat) (start : Bool) (pay : List Byte) : Keeps σ (State.psiPacket s die n pid start pay) := by
  unfold State.psiPacket
  repeat' first
    | with_reducible assumption
    | with_reducible apply keeps_modStream
    | with_reducible apply keeps_psiSection
    | with_reducible apply keeps_ite
    | dsimp only
    | split

theorem keeps_audioRecord {σ s : State} (H : Keeps σ s) (die n pid : Nat) (pes : List Byte) : Keeps σ (State.audioRecord s die n pid pes) := by
  unfold State.audioRecord
  repeat' first
    | with_reducible assumption
    | with_reducible apply keeps_event
    | with_reducible apply keeps_hostWrite
    | with_reducible apply keeps_modStream
    | with_reducible apply keeps_ite

theorem keeps_audioPacket {σ s : State} (H : Keeps σ s) (die n pid : Nat) (start : Bool) (pay : List Byte) : Keeps σ (State.audioPacket s die n pid start pay) := by
  unfold State.audioPacket
  repeat' first
    | with_reducible assumption
    | with_reducible apply keeps_audioRecord
    | with_reducible apply keeps_modStream
    | with_reducible apply keeps_ite
    | dsimp only
    | split

theorem keeps_tsPacket {σ s : State} (H : Keeps σ s) (die n : Nat) (pkt : List Byte) : Keeps σ (State.tsPacket s die n pkt) := by
  unfold State.tsPacket
  repeat' first
    | with_reducible assumption
    | with_reducible apply keeps_audioPacket
    | with_reducible apply keeps_modStream
    | with_reducible apply keeps_psiPacket
    | with_reducible apply keeps_ite
    | dsimp only
    | split

theorem keeps_execTsPacket {σ s : State} (H : Keeps σ s) (die stream : Nat) : KeepsOut σ (execTsPacket die stream s) := by
  unfold execTsPacket
  repeat' first
    | with_reducible apply keepsOut_next
    | with_reducible assumption
    | with_reducible apply keeps_modStream
    | with_reducible apply keeps_tsPacket
    | with_reducible apply keeps_ite

theorem keeps_execPictureDecode {σ s : State} (H : Keeps σ s) (die stream : Nat) (pic : Picture) : KeepsOut σ (execPictureDecode die stream pic s) := by
  unfold execPictureDecode
  repeat' first
    | with_reducible apply keepsOut_next
    | with_reducible assumption
    | with_reducible apply keeps_modStream
    | with_reducible apply keeps_streamStop
    | with_reducible apply keeps_ite

theorem keeps_execStreamEnd {σ s : State} (H : Keeps σ s) (die stream : Nat) : KeepsOut σ (execStreamEnd die stream s) := by
  unfold execStreamEnd
  repeat' first
    | with_reducible apply keepsOut_next
    | with_reducible assumption
    | with_reducible apply keeps_audioRecord
    | with_reducible apply keeps_event
    | with_reducible apply keeps_modStream
    | with_reducible apply keeps_foldl
    | intro _
    | with_reducible apply keeps_ite

theorem keeps_execEngineFault {σ s : State} (H : Keeps σ s) (die engine : Nat) : KeepsOut σ (execEngineFault die engine s) := by
  unfold execEngineFault
  repeat' first
    | with_reducible apply keepsOut_next
    | with_reducible assumption
    | with_reducible apply keeps_modDie
    | with_reducible apply keeps_moveStreams
    | with_reducible apply keeps_ite

theorem keeps_clipTaken {σ s : State} (H : Keeps σ s) (die pool stream : Nat) (q : Pool) (x : Stream) (c : Clip) (rest : List Clip) :
    Keeps σ (s.clipTaken die pool stream q x c rest) := by
  unfold State.clipTaken
  refine keeps_modPool (keeps_modStream (keeps_withMem H ?_) _ _ _) _ _ _
  exact fun h => wrBytes_wf _ _ (clipSamples_wf h _ _ _ _ _)

theorem keeps_execClipComplete {σ s : State} (H : Keeps σ s) (die pool stream : Nat) : KeepsOut σ (execClipComplete die pool stream s) := by
  unfold execClipComplete
  repeat' first
    | with_reducible apply keepsOut_next
    | with_reducible assumption
    | with_reducible apply keeps_clipTaken
    | with_reducible apply keeps_ite
    | dsimp only
    | split

theorem keeps_bankDone {σ s : State} (H : Keeps σ s) (die pool : Nat) : Keeps σ (State.bankDone s die pool) := by
  unfold State.bankDone
  repeat' first
    | with_reducible assumption
    | with_reducible apply keeps_modPool
    | with_reducible apply keeps_notify
    | exact .same rfl rfl rfl
    | exact ⟨rfl, rfl, rfl, rfl, fun _ h => h⟩
    | intro _
    | with_reducible apply wrBytes_wf
    | with_reducible refine Keeps.mk' ?_ ?_ ?_ ?_

theorem keeps_execBankReady {σ s : State} (H : Keeps σ s) (die pool : Nat) : KeepsOut σ (execBankReady die pool s) := by
  unfold execBankReady
  repeat' first
    | with_reducible apply keepsOut_next
    | with_reducible assumption
    | with_reducible apply keeps_bankDone
    | with_reducible apply keeps_ite

theorem keeps_execBankRelease {σ s : State} (H : Keeps σ s) (die pool pass : Nat) : KeepsOut σ (execBankRelease die pool pass s) := by
  unfold execBankRelease
  repeat' first
    | with_reducible apply keepsOut_next
    | with_reducible assumption
    | with_reducible apply keeps_modPool
    | with_reducible apply keeps_ite

end Sys2Proof.Laws
end

