-- ==== Sys2Proof/Laws/KeptAttest.lean ====
section
/-! SUPPORT. What the operations of Machine/Attest.lean keep: one lemma for each. -/

namespace Sys2Proof.Laws

open Sys2Proof Sys2Proof.Machine

theorem keeps_execMctpSpdmMessage {σ s : State} (H : Keeps σ s) (x : List Byte) : KeepsOut σ (execMctpSpdmMessage x s) := by
  unfold execMctpSpdmMessage
  repeat' first
    | with_reducible apply keepsOut_next
    | with_reducible assumption
    | exact .same rfl rfl rfl
    | exact ⟨rfl, rfl, rfl, rfl, fun _ h => h⟩
    | with_reducible exact id
    | with_reducible apply keeps_ite
    | dsimp only
    | with_reducible refine Keeps.mk' ?_ ?_ ?_ ?_

theorem keeps_execMctpControlMessage {σ s : State} (H : Keeps σ s) (x : List Byte) : KeepsOut σ (execMctpControlMessage x s) := by
  unfold execMctpControlMessage
  repeat' first
    | with_reducible apply keepsOut_next
    | with_reducible assumption
    | exact .same rfl rfl rfl
    | exact ⟨rfl, rfl, rfl, rfl, fun _ h => h⟩
    | with_reducible exact id
    | with_reducible apply keeps_ite
    | dsimp only
    | with_reducible refine Keeps.mk' ?_ ?_ ?_ ?_

end Sys2Proof.Laws
end

