-- ==== Sys2Proof/Laws/KeptRespond.lean ====
section
/-! SUPPORT. What the operations of Machine/Respond.lean keep: one lemma for each. -/

namespace Sys2Proof.Laws

open Sys2Proof Sys2Proof.Machine

theorem keeps_respond {σ s : State} (H : Keeps σ s) (c : Cmd) (status : Nat) (body : List Byte) (retry : Nat) (detail : Nat) : Keeps σ (State.respond s c status body retry detail) := by
  unfold State.respond
  repeat' first
    | with_reducible assumption
    | with_reducible apply keeps_modHost
    | with_reducible apply keeps_ite

theorem keeps_finishWork {σ s : State} (H : Keeps σ s) (die : Nat) (c : Cmd) (status : Nat) (result : List Byte) : Keeps σ (State.finishWork s die c status result) := by
  unfold State.finishWork
  repeat' first
    | with_reducible assumption
    | with_reducible apply keeps_modDie
    | with_reducible apply keeps_respond
    | with_reducible apply keeps_ite
    | split

theorem keeps_mgmtReply {σ s : State} (H : Keeps σ s) (code status : Nat) (nonce body : List Byte) : Keeps σ (State.mgmtReply s code status nonce body) := by
  unfold State.mgmtReply
  repeat' first
    | with_reducible assumption
    | with_reducible apply keeps_mgmtSend

end Sys2Proof.Laws
end

