-- ==== Sys2Proof/Laws/KeptCheck.lean ====
section
/-! SUPPORT. What the operations of Machine/Check.lean keep: one lemma for each. -/

namespace Sys2Proof.Laws

open Sys2Proof Sys2Proof.Machine

theorem keeps_execFaultDetect {σ s : State} (H : Keeps σ s) (x : FaultDesc) : KeepsOut σ (execFaultDetect x s) := by
  unfold execFaultDetect
  repeat' first
    | with_reducible apply keepsOut_next
    | with_reducible assumption
    | with_reducible apply keeps_fault
    | with_reducible apply keeps_markBad
    | with_reducible apply keeps_ite

theorem keeps_execReplayIssue {σ s : State} (H : Keeps σ s) (b : BayRef) : KeepsOut σ (execReplayIssue b s) := by
  unfold execReplayIssue
  repeat' first
    | with_reducible apply keepsOut_next
    | with_reducible assumption
    | with_reducible apply keeps_freezeIssue
    | with_reducible apply keeps_issueTo
    | with_reducible apply keeps_modBay
    | with_reducible apply keeps_ite
    | dsimp only
    | split

theorem keeps_execSpareWakeDone {σ s : State} (H : Keeps σ s) (b : BayRef) : KeepsOut σ (execSpareWakeDone b s) := by
  unfold execSpareWakeDone
  repeat' first
    | with_reducible apply keepsOut_next
    | with_reducible assumption
    | with_reducible apply keeps_modBay
    | exact .same rfl rfl rfl
    | exact ⟨rfl, rfl, rfl, rfl, fun _ h => h⟩
    | with_reducible exact id
    | with_reducible apply keeps_ite
    | dsimp only
    | with_reducible refine Keeps.mk' ?_ ?_ ?_ ?_

theorem keeps_arbitrate {σ s : State} (H : Keeps σ s) (b : BayRef) (a : Arb) (t : Tile) (r : Running) (arbEqHeld arbEqSums arbOwnOk : Bool) : Keeps σ (State.arbitrate s b a t r arbEqHeld arbEqSums arbOwnOk) := by
  unfold State.arbitrate
  repeat' first
    | with_reducible assumption
    | with_reducible apply keeps_abandon
    | with_reducible apply keeps_handleAt
    | with_reducible apply keeps_logFault
    | with_reducible apply keeps_modBay
    | with_reducible apply keeps_releaseArbiter
    | with_reducible apply keeps_testBay
    | exact .same rfl rfl rfl
    | exact ⟨rfl, rfl, rfl, rfl, fun _ h => h⟩
    | with_reducible exact id
    | with_reducible apply keeps_ite
    | dsimp only
    | with_reducible refine Keeps.mk' ?_ ?_ ?_ ?_

theorem keeps_execArbitrationDone {σ s : State} (H : Keeps σ s) (b : BayRef) (arbEqHeld arbEqSums arbOwnOk : Bool) : KeepsOut σ (execArbitrationDone b arbEqHeld arbEqSums arbOwnOk s) := by
  unfold execArbitrationDone
  repeat' first
    | with_reducible apply keepsOut_next
    | with_reducible assumption
    | with_reducible apply keeps_arbitrate
    | with_reducible apply keeps_ite
    | dsimp only
    | split

theorem keeps_refetch {σ s : State} (H : Keeps σ s) (e step : Nat) : Keeps σ (State.refetch s e step) := by
  unfold State.refetch
  repeat' first
    | with_reducible assumption
    | with_reducible apply keeps_gatherSend
    | with_reducible apply keeps_modBay
    | with_reducible apply keeps_foldl
    | exact .same rfl rfl rfl
    | exact ⟨rfl, rfl, rfl, rfl, fun _ h => h⟩
    | with_reducible exact id
    | intro _
    | dsimp only
    | with_reducible refine Keeps.mk' ?_ ?_ ?_ ?_

theorem keeps_inputLost {σ s : State} (H : Keeps σ s) (die b byte job : Nat) : Keeps σ (State.inputLost s die b byte job) := by
  unfold State.inputLost
  repeat' first
    | with_reducible assumption
    | with_reducible apply keeps_haltRun
    | with_reducible apply keeps_modJob
    | with_reducible apply keeps_foldl
    | intro _
    | with_reducible apply keeps_ite

theorem keeps_runAgain {σ s : State} (H : Keeps σ s) (die k : Nat) (j : JEntry) : Keeps σ (State.runAgain s die k j) := by
  unfold State.runAgain
  repeat' first
    | with_reducible assumption
    | with_reducible apply keeps_abandonUncounted
    | with_reducible apply keeps_modBay
    | with_reducible apply keeps_modSealsDie
    | with_reducible apply keeps_wrote
    | with_reducible apply keeps_foldl
    | intro _

theorem keeps_recoverOutput {σ s : State} (H : Keeps σ s) (x : DamageDesc) : Keeps σ (State.recoverOutput s x) := by
  unfold State.recoverOutput
  repeat' first
    | with_reducible assumption
    | with_reducible apply keeps_inputLost
    | with_reducible apply keeps_runAgain
    | with_reducible apply keeps_ite
    | split

theorem keeps_recoverDamage {σ s : State} (H : Keeps σ s) (x : DamageDesc) : Keeps σ (State.recoverDamage s x) := by
  unfold State.recoverDamage
  repeat' first
    | with_reducible assumption
    | with_reducible apply keeps_derive
    | with_reducible apply keeps_excludeUnit
    | with_reducible apply keeps_inputLost
    | with_reducible apply keeps_modDie
    | with_reducible apply keeps_mvApply
    | with_reducible apply keeps_recoverOutput
    | with_reducible apply keeps_refetch
    | with_reducible apply keeps_send
    | with_reducible apply keeps_wrote
    | with_reducible apply keeps_foldl
    | intro _
    | with_reducible apply keeps_ite
    | dsimp only
    | split

theorem keeps_execDamagedDataRecovery {σ s : State} (H : Keeps σ s) (x : DamageDesc) : KeepsOut σ (execDamagedDataRecovery x s) := by
  unfold execDamagedDataRecovery
  repeat' first
    | with_reducible apply keepsOut_next
    | with_reducible assumption
    | with_reducible apply keeps_recoverDamage
    | with_reducible apply keeps_ite

theorem keeps_execQueuedFaultServe {σ s : State} (H : Keeps σ s)  : KeepsOut σ (execQueuedFaultServe s) := by
  unfold execQueuedFaultServe
  repeat' first
    | with_reducible apply keepsOut_next
    | with_reducible assumption
    | with_reducible apply keeps_firstAction
    | with_reducible apply keeps_logDetected
    | with_reducible apply keeps_settleHandling
    | exact .same rfl rfl rfl
    | exact ⟨rfl, rfl, rfl, rfl, fun _ h => h⟩
    | with_reducible exact id
    | with_reducible apply keeps_ite
    | dsimp only
    | split
    | with_reducible refine Keeps.mk' ?_ ?_ ?_ ?_

theorem keeps_execWatchdogCheck {σ s : State} (H : Keeps σ s) (die : Nat) (heartbeat sliceOk : Bool) : KeepsOut σ (execWatchdogCheck die heartbeat sliceOk s) := by
  unfold execWatchdogCheck
  repeat' first
    | with_reducible apply keepsOut_next
    | with_reducible assumption
    | with_reducible apply keeps_fault
    | with_reducible apply keeps_ite

theorem keeps_fenceDie {σ s : State} (H : Keeps σ s) (die : Nat) : Keeps σ (State.fenceDie s die) := by
  unfold State.fenceDie
  repeat' first
    | with_reducible assumption
    | with_reducible apply keeps_modDie
    | with_reducible apply keeps_portDown
    | with_reducible apply keeps_transmit
    | with_reducible apply keeps_foldl
    | exact .same rfl rfl rfl
    | exact ⟨rfl, rfl, rfl, rfl, fun _ h => h⟩
    | with_reducible exact id
    | intro _
    | dsimp only
    | with_reducible refine Keeps.mk' ?_ ?_ ?_ ?_

theorem keeps_execLeaderContactLoss {σ s : State} (H : Keeps σ s) (die : Nat) : KeepsOut σ (execLeaderContactLoss die s) := by
  unfold execLeaderContactLoss
  repeat' first
    | with_reducible apply keepsOut_next
    | with_reducible assumption
    | with_reducible apply keeps_fenceDie
    | with_reducible apply keeps_ite

theorem keeps_execPartFailStop {σ s : State} (H : Keeps σ s) (reason : Code) : KeepsOut σ (execPartFailStop reason s) := by
  unfold execPartFailStop
  repeat' first
    | with_reducible apply keepsOut_next
    | with_reducible assumption
    | with_reducible apply keeps_failStop
    | with_reducible apply keeps_ite

theorem keeps_testEnd {σ s : State} (H : Keeps σ s) (t : FTest) (pass : Bool) : Keeps σ (State.testEnd s t pass) := by
  unfold State.testEnd
  repeat' first
    | with_reducible assumption
    | with_reducible apply keeps_clearSpare
    | with_reducible apply keeps_event
    | with_reducible apply keeps_failStop
    | with_reducible apply keeps_modBay
    | with_reducible apply keeps_modDie
    | with_reducible apply keeps_modMover
    | with_reducible apply keeps_modPort
    | with_reducible apply keeps_retireBay
    | exact .same rfl rfl rfl
    | exact ⟨rfl, rfl, rfl, rfl, fun _ h => h⟩
    | with_reducible exact id
    | intro _
    | with_reducible apply clrBytes_wf
    | with_reducible apply keeps_ite
    | dsimp only
    | split
    | with_reducible refine Keeps.mk' ?_ ?_ ?_ ?_

theorem keeps_logTest {σ s : State} (H : Keeps σ s) (t : FTest) (pass : Bool) (pattern : Nat) : Keeps σ (State.logTest s t pass pattern) := by
  unfold State.logTest
  repeat' first
    | with_reducible assumption
    | with_reducible apply keeps_logFault

theorem keeps_testDone {σ s : State} (H : Keeps σ s) (t : FTest) (pass : Bool) (pattern : Nat) : Keeps σ (State.testDone s t pass pattern) := by
  unfold State.testDone
  repeat' first
    | with_reducible assumption
    | with_reducible apply keeps_finishWork
    | with_reducible apply keeps_logTest
    | with_reducible apply keeps_mgmtReply
    | with_reducible apply keeps_testEnd
    | exact .same rfl rfl rfl
    | exact ⟨rfl, rfl, rfl, rfl, fun _ h => h⟩
    | with_reducible exact id
    | dsimp only
    | split
    | with_reducible refine Keeps.mk' ?_ ?_ ?_ ?_

theorem keeps_execFieldTestDone {σ s : State} (H : Keeps σ s) (unit die index : Nat) (pass : Bool) (pattern : Nat) : KeepsOut σ (execFieldTestDone unit die index pass pattern s) := by
  unfold execFieldTestDone
  repeat' first
    | with_reducible apply keepsOut_next
    | with_reducible assumption
    | with_reducible apply keeps_testDone
    | with_reducible apply keeps_ite
    | split

theorem keeps_execReplicaDigestCompute {σ s : State} (H : Keeps σ s) (entry : Nat) : KeepsOut σ (execReplicaDigestCompute entry s) := by
  unfold execReplicaDigestCompute
  repeat' first
    | with_reducible apply keepsOut_next
    | with_reducible assumption
    | with_reducible apply keeps_send
    | with_reducible apply keeps_ite
    | dsimp only
    | split

theorem keeps_rollHalted {σ s : State} (H : Keeps σ s) (die key : Nat) (c : Consume) : Keeps σ (State.rollHalted s die key c) := by
  unfold State.rollHalted
  repeat' first
    | with_reducible assumption
    | with_reducible apply keeps_agreeCons
    | with_reducible apply keeps_derive
    | with_reducible apply keeps_modDie
    | with_reducible apply keeps_modSlot
    | with_reducible apply keeps_releaseSlice
    | with_reducible apply keeps_voidBlock
    | with_reducible apply keeps_wcDry
    | with_reducible apply keeps_foldl
    | intro _
    | with_reducible apply keeps_ite

theorem keeps_logStage {σ s : State} (H : Keeps σ s) (die : Nat) (digest : List Byte) : Keeps σ (State.logStage s die digest) := by
  unfold State.logStage
  repeat' first
    | with_reducible assumption
    | with_reducible apply keeps_logFault

theorem keeps_unresolved {σ s : State} (H : Keeps σ s) (die key : Nat) (c : Consume) (ownerA : List Byte) : Keeps σ (State.unresolved s die key c ownerA) := by
  unfold State.unresolved
  repeat' first
    | with_reducible assumption
    | with_reducible apply keeps_event
    | with_reducible apply keeps_logStage
    | with_reducible apply keeps_modCons

theorem keeps_testVarnish {σ s : State} (H : Keeps σ s) (die key : Nat) (c : Consume) : Keeps σ (State.testVarnish s die key c) := by
  unfold State.testVarnish
  repeat' first
    | with_reducible assumption
    | with_reducible apply keeps_logStage
    | with_reducible apply keeps_modCons
    | with_reducible apply keeps_startTest
    | with_reducible apply keeps_foldl
    | intro _
    | with_reducible apply keeps_ite

theorem keeps_recompute {σ s : State} (H : Keeps σ s) (die key : Nat) (c : Consume) : Keeps σ (State.recompute s die key c) := by
  unfold State.recompute
  repeat' first
    | with_reducible assumption
    | with_reducible apply keeps_modCons
    | with_reducible apply keeps_rederiveBlock
    | with_reducible apply keeps_updateBlock
    | with_reducible apply keeps_wcEncode
    | with_reducible apply keeps_foldl
    | intro _
    | with_reducible apply keeps_ite
    | dsimp only
    | split

theorem keeps_takeRecomputed {σ s : State} (H : Keeps σ s) (die key : Nat) (c : Consume) : Keeps σ (State.takeRecomputed s die key c) := by
  unfold State.takeRecomputed
  repeat' first
    | with_reducible assumption
    | with_reducible apply keeps_modCons
    | with_reducible apply keeps_recompute

theorem keeps_digestStages {σ s : State} (H : Keeps σ s) (die key : Nat) (c : Consume) (p : Nat × Nat × List Byte × List Byte) (obs : DigestObs) : Keeps σ (State.digestStages s die key c p obs) := by
  unfold State.digestStages
  repeat' first
    | with_reducible assumption
    | with_reducible apply keeps_agreeSend
    | with_reducible apply keeps_failStop
    | with_reducible apply keeps_logStage
    | with_reducible apply keeps_modCons
    | with_reducible apply keeps_modDie
    | with_reducible apply keeps_resetSlice
    | with_reducible apply keeps_takeRecomputed
    | with_reducible apply keeps_testVarnish
    | with_reducible apply keeps_unresolved
    | with_reducible apply keeps_ite

theorem keeps_execDigestCompare {σ s : State} (H : Keeps σ s) (die slot : Nat) (obs : DigestObs) : KeepsOut σ (execDigestCompare die slot obs s) := by
  unfold execDigestCompare
  repeat' first
    | with_reducible apply keepsOut_next
    | with_reducible assumption
    | with_reducible apply keeps_agreeCons
    | with_reducible apply keeps_agreeSend
    | with_reducible apply keeps_digestStages
    | with_reducible apply keeps_fault
    | with_reducible apply keeps_ite
    | dsimp only
    | split

end Sys2Proof.Laws
end

