-- ==== Sys2Proof/Laws/KeptHost.lean ====
section
/-! SUPPORT. What the operations of Machine/Host.lean keep: one lemma for each. -/

namespace Sys2Proof.Laws

open Sys2Proof Sys2Proof.Machine

theorem keeps_stopTier {σ s : State} (H : Keeps σ s) (p : Nat) : Keeps σ (State.stopTier s p) := by
  unfold State.stopTier
  repeat' first
    | with_reducible assumption
    | with_reducible apply keeps_fault
    | with_reducible apply keeps_modDie
    | with_reducible apply keeps_foldl
    | intro _
    | with_reducible apply keeps_ite

theorem keeps_freezeHost {σ s : State} (H : Keeps σ s) (p reason address : Nat) (request : List Byte) : Keeps σ (State.freezeHost s p reason address request) := by
  unfold State.freezeHost
  repeat' first
    | with_reducible assumption
    | with_reducible apply keeps_freeze
    | with_reducible apply keeps_stopTier

theorem keeps_hostWrites {σ s : State} {p : Nat} {f : State → State} (H : Keeps σ s)
    (hf : ∀ t, Keeps σ t → Keeps σ (f t)) : Keeps σ (s.hostWrites p f) := by
  unfold State.hostWrites
  split
  · exact H
  · split
    · exact keeps_countHost H _ _
    · exact hf s H

theorem keeps_hostReads {σ s : State} {p : Nat} {f : State → State} (H : Keeps σ s)
    (hf : ∀ t, Keeps σ t → Keeps σ (f t)) : Keeps σ (s.hostReads p f) := by
  unfold State.hostReads
  split
  · exact H
  · split
    · exact Keeps.mk' H (.same rfl rfl rfl) (.same rfl) id
    · split
      · exact keeps_complete H _ _
      · exact hf s H

theorem keeps_execBar0BadSize {σ s : State} (H : Keeps σ s) (p off size : Nat) (isWrite : Bool) : KeepsOut σ (execBar0BadSize p off size isWrite s) := by
  unfold execBar0BadSize
  repeat' first
    | with_reducible apply keepsOut_next
    | with_reducible assumption
    | with_reducible apply keeps_complete
    | with_reducible apply keeps_countHost
    | with_reducible apply keeps_hostReads
    | with_reducible apply keeps_hostWrites
    | with_reducible apply keeps_modHost
    | intro _
    | with_reducible apply keeps_ite

theorem keeps_execBar0LowHalfRead {σ s : State} (H : Keeps σ s) (p off : Nat) : KeepsOut σ (execBar0LowHalfRead p off s) := by
  unfold execBar0LowHalfRead
  repeat' first
    | with_reducible apply keepsOut_next
    | with_reducible assumption
    | with_reducible apply keeps_complete
    | with_reducible apply keeps_hostReads
    | with_reducible apply keeps_modHost
    | intro _
    | split

theorem keeps_flushVectors {σ s : State} (H : Keeps σ s) (p : Nat) : Keeps σ (State.flushVectors s p) := by
  unfold State.flushVectors
  repeat' first
    | with_reducible assumption
    | with_reducible apply keeps_modHost
    | with_reducible apply keeps_vector
    | with_reducible apply keeps_foldl
    | intro _
    | with_reducible apply keeps_ite

theorem keeps_msixWrite {σ s : State} (H : Keeps σ s) (p i v : Nat) : Keeps σ (State.msixWrite s p i v) := by
  unfold State.msixWrite
  repeat' first
    | with_reducible assumption
    | with_reducible apply keeps_flushVectors
    | with_reducible apply keeps_modHost

theorem keeps_execMsixVectorUnmask {σ s : State} (H : Keeps σ s) (p vector : Nat) : KeepsOut σ (execMsixVectorUnmask p vector s) := by
  unfold execMsixVectorUnmask
  repeat' first
    | with_reducible apply keepsOut_next
    | with_reducible assumption
    | with_reducible apply keeps_hostWrites
    | with_reducible apply keeps_msixWrite
    | intro _
    | with_reducible apply keeps_ite

theorem keeps_writeCtrl {σ s : State} (H : Keeps σ s) (p v : Nat) : Keeps σ (State.writeCtrl s p v) := by
  unfold State.writeCtrl
  repeat' first
    | with_reducible assumption
    | with_reducible apply keeps_modHost

theorem keeps_clearDone {σ s : State} (H : Keeps σ s) (p v : Nat) : Keeps σ (State.clearDone s p v) := by
  unfold State.clearDone
  repeat' first
    | with_reducible assumption
    | with_reducible apply keeps_modHost

theorem keeps_execHifCtrl {σ s : State} (H : Keeps σ s) (p : Nat) (value : Word) : KeepsOut σ (execHifCtrl p value s) := by
  unfold execHifCtrl
  repeat' first
    | with_reducible apply keepsOut_next
    | with_reducible assumption
    | with_reducible apply keeps_hostWrites
    | with_reducible apply keeps_writeCtrl
    | intro _

theorem keeps_execMbxDone {σ s : State} (H : Keeps σ s) (p : Nat) (value : Word) : KeepsOut σ (execMbxDone p value s) := by
  unfold execMbxDone
  repeat' first
    | with_reducible apply keepsOut_next
    | with_reducible assumption
    | with_reducible apply keeps_clearDone
    | with_reducible apply keeps_hostWrites
    | intro _

theorem keeps_writeWord {σ s : State} (H : Keeps σ s) (p off v : Nat) : Keeps σ (State.writeWord s p off v) := by
  unfold State.writeWord
  repeat' first
    | with_reducible assumption
    | with_reducible apply keeps_clearDone
    | with_reducible apply keeps_msixWrite
    | with_reducible apply keeps_writeCtrl
    | with_reducible apply keeps_ite

theorem keeps_execRegisterWrite {σ s : State} (H : Keeps σ s) (p off size : Nat) (value : DWord) : KeepsOut σ (execRegisterWrite p off size value s) := by
  unfold execRegisterWrite
  repeat' first
    | with_reducible apply keepsOut_next
    | with_reducible assumption
    | with_reducible apply keeps_countHost
    | with_reducible apply keeps_hostWrites
    | with_reducible apply keeps_writeWord
    | intro _
    | with_reducible apply keeps_ite

theorem keeps_mbxBreach {σ s : State} (H : Keeps σ s) (p off : Nat) (req : List Byte) : Keeps σ (State.mbxBreach s p off req) := by
  unfold State.mbxBreach
  repeat' first
    | with_reducible assumption
    | with_reducible apply keeps_freezeHost

theorem keeps_execMailboxRequestWrite {σ s : State} (H : Keeps σ s) (p off : Nat) (data : List Byte) : KeepsOut σ (execMailboxRequestWrite p off data s) := by
  unfold execMailboxRequestWrite
  repeat' first
    | with_reducible apply keepsOut_next
    | with_reducible assumption
    | with_reducible apply keeps_hostWrites
    | with_reducible apply keeps_mbxBreach
    | with_reducible apply keeps_modHost
    | intro _
    | with_reducible apply keeps_ite

theorem keeps_refuse {σ s : State} (H : Keeps σ s) (c : Cmd) (retry : Nat) : Keeps σ (State.refuse s c retry) := by
  unfold State.refuse
  repeat' first
    | with_reducible assumption
    | with_reducible apply keeps_countRefusal
    | with_reducible apply keeps_respond

theorem keeps_admitCmd {σ s : State} (H : Keeps σ s) (c : Cmd) : Keeps σ (State.admitCmd s c) := by
  unfold State.admitCmd
  repeat' first
    | with_reducible assumption
    | with_reducible apply keeps_modDie
    | with_reducible apply keeps_modHost
    | with_reducible apply keeps_refuse
    | with_reducible apply keeps_respond
    | with_reducible apply keeps_ite
    | split

theorem keeps_post {σ s : State} (H : Keeps σ s) (p m : Nat) (hostBody : Option (List Byte)) : Keeps σ (State.post s p m hostBody) := by
  unfold State.post
  repeat' first
    | with_reducible assumption
    | with_reducible apply keeps_admitCmd
    | with_reducible apply keeps_mbxBreach
    | with_reducible apply keeps_modHost
    | exact .same rfl rfl rfl
    | exact ⟨rfl, rfl, rfl, rfl, fun _ h => h⟩
    | with_reducible exact id
    | with_reducible apply keeps_ite
    | dsimp only
    | with_reducible refine Keeps.mk' ?_ ?_ ?_ ?_

theorem keeps_execMbxPost {σ s : State} (H : Keeps σ s) (p : Nat) (value : Word) (hostBody : Option (List Byte)) : KeepsOut σ (execMbxPost p value hostBody s) := by
  unfold execMbxPost
  repeat' first
    | with_reducible apply keepsOut_next
    | with_reducible assumption
    | with_reducible apply keeps_hostWrites
    | with_reducible apply keeps_post
    | intro _

theorem keeps_execCommandAdmit {σ s : State} (H : Keeps σ s) (p m : Nat) : KeepsOut σ (execCommandAdmit p m s) := by
  unfold execCommandAdmit
  repeat' first
    | with_reducible apply keepsOut_next
    | with_reducible assumption
    | with_reducible apply keeps_modDie
    | with_reducible apply keeps_modHost
    | with_reducible apply keeps_ite
    | split

theorem keeps_writeResponse {σ s : State} (H : Keeps σ s) (p : Nat) (r : Resp) (hostOk : Bool) : Keeps σ (State.writeResponse s p r hostOk) := by
  unfold State.writeResponse
  repeat' first
    | with_reducible assumption
    | with_reducible apply keeps_hostWrite
    | with_reducible apply keeps_modHost
    | with_reducible apply keeps_vector
    | with_reducible apply keeps_ite

theorem keeps_execBar4Read {σ s : State} (H : Keeps σ s) (p off size : Nat) : KeepsOut σ (execBar4Read p off size s) := by
  unfold execBar4Read
  repeat' first
    | with_reducible apply keepsOut_next
    | with_reducible assumption
    | with_reducible apply keeps_complete
    | with_reducible apply keeps_countHost
    | with_reducible apply keeps_freezeHost
    | with_reducible apply keeps_hostReads
    | with_reducible apply keeps_logFault
    | with_reducible apply keeps_memWake
    | intro _
    | with_reducible apply keeps_ite
    | split

theorem keeps_execBar4Write {σ s : State} (H : Keeps σ s) (p off : Nat) (data : List Byte) : KeepsOut σ (execBar4Write p off data s) := by
  unfold execBar4Write
  repeat' first
    | with_reducible apply keepsOut_next
    | with_reducible assumption
    | with_reducible apply keeps_countHost
    | with_reducible apply keeps_freezeHost
    | with_reducible apply keeps_hostWrites
    | with_reducible apply keeps_logFault
    | with_reducible apply keeps_memWake
    | with_reducible apply keeps_wrote
    | exact .same rfl rfl rfl
    | exact ⟨rfl, rfl, rfl, rfl, fun _ h => h⟩
    | intro _
    | with_reducible apply wrByte_wf
    | with_reducible apply foldl_wf
    | with_reducible apply keeps_ite
    | dsimp only
    | split
    | with_reducible refine Keeps.mk' ?_ ?_ ?_ ?_

theorem keeps_resetPort {σ s : State} (H : Keeps σ s) (p : Nat) : Keeps σ (State.resetPort s p) := by
  unfold State.resetPort
  repeat' first
    | with_reducible assumption
    | with_reducible apply keeps_modHost
    | exact .same rfl rfl rfl
    | exact ⟨rfl, rfl, rfl, rfl, fun _ h => h⟩
    | with_reducible exact id
    | dsimp only
    | with_reducible refine Keeps.mk' ?_ ?_ ?_ ?_

theorem keeps_execFunctionLevelReset {σ s : State} (H : Keeps σ s) (p : Nat) : KeepsOut σ (execFunctionLevelReset p s) := by
  unfold execFunctionLevelReset
  repeat' first
    | with_reducible apply keepsOut_next
    | with_reducible assumption
    | with_reducible apply keeps_resetPort
    | with_reducible apply keeps_ite

theorem keeps_execLinkDown {σ s : State} (H : Keeps σ s) (p : Nat) (why : LinkEvent) : KeepsOut σ (execLinkDown p why s) := by
  unfold execLinkDown
  repeat' first
    | with_reducible apply keepsOut_next
    | with_reducible assumption
    | with_reducible apply keeps_modHost
    | with_reducible apply keeps_resetPort
    | with_reducible apply keeps_stopTier
    | with_reducible apply keeps_ite

theorem keeps_execHostLinkUp {σ s : State} (H : Keeps σ s) (p rate width : Nat) (flit msix : Bool) (bar4 : Nat) : KeepsOut σ (execHostLinkUp p rate width flit msix bar4 s) := by
  unfold execHostLinkUp
  repeat' first
    | with_reducible apply keepsOut_next
    | with_reducible assumption
    | with_reducible apply keeps_flushVectors
    | with_reducible apply keeps_modHost
    | with_reducible apply keeps_ite

theorem keeps_execPrimaryFailover {σ s : State} (H : Keeps σ s)  : KeepsOut σ (execPrimaryFailover s) := by
  unfold execPrimaryFailover
  repeat' first
    | with_reducible apply keepsOut_next
    | with_reducible assumption
    | with_reducible apply keeps_event
    | exact .same rfl rfl rfl
    | exact ⟨rfl, rfl, rfl, rfl, fun _ h => h⟩
    | with_reducible exact id
    | with_reducible apply keeps_ite
    | dsimp only
    | with_reducible refine Keeps.mk' ?_ ?_ ?_ ?_

theorem keeps_execCompletionTimeout {σ s : State} (H : Keeps σ s) (p req : Nat) : KeepsOut σ (execCompletionTimeout p req s) := by
  unfold execCompletionTimeout
  repeat' first
    | with_reducible apply keepsOut_next
    | with_reducible assumption
    | with_reducible apply keeps_fault
    | with_reducible apply keeps_modHost
    | with_reducible apply keeps_streamStop
    | exact .same rfl rfl rfl
    | exact ⟨rfl, rfl, rfl, rfl, fun _ h => h⟩
    | with_reducible exact id
    | with_reducible apply keeps_ite
    | dsimp only
    | split
    | with_reducible refine Keeps.mk' ?_ ?_ ?_ ?_

theorem keeps_execDoeObject {σ s : State} (H : Keeps σ s) (p : Nat) (x : DoeObject) : KeepsOut σ (execDoeObject p x s) := by
  unfold execDoeObject
  repeat' first
    | with_reducible apply keepsOut_next
    | with_reducible assumption
    | with_reducible apply keeps_modHost
    | exact .same rfl rfl rfl
    | exact ⟨rfl, rfl, rfl, rfl, fun _ h => h⟩
    | with_reducible exact id
    | with_reducible apply keeps_ite
    | dsimp only
    | split
    | with_reducible refine Keeps.mk' ?_ ?_ ?_ ?_

theorem keeps_execIdeIntegrityFail {σ s : State} (H : Keeps σ s) (p stream : Nat) : KeepsOut σ (execIdeIntegrityFail p stream s) := by
  unfold execIdeIntegrityFail
  repeat' first
    | with_reducible apply keepsOut_next
    | with_reducible assumption
    | with_reducible apply keeps_countHost
    | with_reducible apply keeps_modHost
    | with_reducible apply keeps_resetPort
    | with_reducible apply keeps_stopTier
    | with_reducible apply keeps_ite

end Sys2Proof.Laws
end

