-- ==== Sys2Proof/Laws/KeptTime.lean ====
section
/-! SUPPORT. What the operations of Machine/Time.lean keep: one lemma for each. -/

namespace Sys2Proof.Laws

open Sys2Proof Sys2Proof.Machine

theorem keeps_modTime {σ s : State} (H : Keeps σ s) (f : Time → Time) : Keeps σ (State.modTime s f) := by
  unfold State.modTime
  repeat' first
    | with_reducible assumption
    | exact .same rfl rfl rfl
    | exact ⟨rfl, rfl, rfl, rfl, fun _ h => h⟩
    | with_reducible exact id
    | with_reducible refine Keeps.mk' ?_ ?_ ?_ ?_

theorem keeps_moveTai {σ s : State} (H : Keeps σ s) (d : Int) : Keeps σ (State.moveTai s d) := by
  unfold State.moveTai
  repeat' first
    | with_reducible assumption
    | exact .same rfl rfl rfl
    | exact ⟨rfl, rfl, rfl, rfl, fun _ h => h⟩
    | with_reducible exact id
    | dsimp only
    | with_reducible refine Keeps.mk' ?_ ?_ ?_ ?_

theorem keeps_tick {σ s : State} (H : Keeps σ s)  : Keeps σ (State.tick s) := by
  unfold State.tick
  repeat' first
    | with_reducible assumption
    | exact .same rfl rfl rfl
    | exact ⟨rfl, rfl, rfl, rfl, fun _ h => h⟩
    | with_reducible exact id
    | dsimp only
    | split
    | with_reducible refine Keeps.mk' ?_ ?_ ?_ ?_

theorem keeps_execPpsEdge {σ s : State} (H : Keeps σ s) (edge : Nat) : KeepsOut σ (execPpsEdge edge s) := by
  unfold execPpsEdge
  repeat' first
    | with_reducible apply keepsOut_next
    | with_reducible assumption
    | with_reducible apply keeps_modTime
    | with_reducible apply keeps_moveTai
    | with_reducible apply keeps_ite
    | dsimp only
    | split

theorem keeps_zdaTaken {σ s : State} (H : Keeps σ s) (u e : Nat) : Keeps σ (State.zdaTaken s u e) := by
  unfold State.zdaTaken
  repeat' first
    | with_reducible assumption
    | with_reducible apply keeps_event
    | with_reducible apply keeps_modTime
    | with_reducible apply keeps_moveTai
    | with_reducible apply keeps_ite

theorem keeps_execZdaSentence {σ s : State} (H : Keeps σ s) (sentence : List Byte) (afterMs : Nat) : KeepsOut σ (execZdaSentence sentence afterMs s) := by
  unfold execZdaSentence
  repeat' first
    | with_reducible apply keepsOut_next
    | with_reducible assumption
    | with_reducible apply keeps_zdaTaken
    | with_reducible apply keeps_ite
    | dsimp only
    | split

theorem keeps_execPpsMissing {σ s : State} (H : Keeps σ s)  : KeepsOut σ (execPpsMissing s) := by
  unfold execPpsMissing
  repeat' first
    | with_reducible apply keepsOut_next
    | with_reducible assumption
    | with_reducible apply keeps_event
    | with_reducible apply keeps_modTime
    | with_reducible apply keeps_ite

theorem keeps_execTimeErrorLimitExceeded {σ s : State} (H : Keeps σ s)  : KeepsOut σ (execTimeErrorLimitExceeded s) := by
  unfold execTimeErrorLimitExceeded
  repeat' first
    | with_reducible apply keepsOut_next
    | with_reducible assumption
    | with_reducible apply keeps_event
    | with_reducible apply keeps_modTime
    | with_reducible apply keeps_ite

theorem keeps_execTaiUtcOffsetChange {σ s : State} (H : Keeps σ s)  : KeepsOut σ (execTaiUtcOffsetChange s) := by
  unfold execTaiUtcOffsetChange
  repeat' first
    | with_reducible apply keepsOut_next
    | with_reducible assumption
    | with_reducible apply keeps_modTime
    | with_reducible apply keeps_ite
    | split

end Sys2Proof.Laws
end

