-- ==== Sys2Proof/Laws/KeptViaduct.lean ====
section
/-! SUPPORT. What the operations of Machine/Viaduct.lean keep: one lemma for each. -/

namespace Sys2Proof.Laws

open Sys2Proof Sys2Proof.Machine

theorem keeps_modVport {σ s : State} (H : Keeps σ s) (p : Nat) (f : VPort → VPort) : Keeps σ (State.modVport s p f) := by
  unfold State.modVport
  repeat' first
    | with_reducible assumption
    | exact .same rfl rfl rfl
    | exact ⟨rfl, rfl, rfl, rfl, fun _ h => h⟩
    | with_reducible exact id
    | dsimp only
    | with_reducible refine Keeps.mk' ?_ ?_ ?_ ?_

theorem keeps_modItf {σ s : State} (H : Keeps σ s) (p i : Nat) (f : Itf → Itf) : Keeps σ (State.modItf s p i f) := by
  unfold State.modItf
  repeat' first
    | with_reducible assumption
    | with_reducible apply keeps_modVport

theorem keeps_modSess {σ s : State} (H : Keeps σ s) (k : Nat) (f : Session → Session) : Keeps σ (State.modSess s k f) := by
  unfold State.modSess
  repeat' first
    | with_reducible assumption
    | exact .same rfl rfl rfl
    | exact ⟨rfl, rfl, rfl, rfl, fun _ h => h⟩
    | with_reducible exact id
    | dsimp only
    | with_reducible refine Keeps.mk' ?_ ?_ ?_ ?_

theorem keeps_frameTaken {σ s : State} (H : Keeps σ s) (port itf : Nat) (x : Frame) : Keeps σ (State.frameTaken s port itf x) := by
  unfold State.frameTaken
  repeat' first
    | with_reducible assumption
    | with_reducible apply keeps_modItf
    | with_reducible apply keeps_ite

theorem keeps_execEthernetFrameReceive {σ s : State} (H : Keeps σ s) (port itf : Nat) (x : Frame) : KeepsOut σ (execEthernetFrameReceive port itf x s) := by
  unfold execEthernetFrameReceive
  repeat' first
    | with_reducible apply keepsOut_next
    | with_reducible assumption
    | with_reducible apply keeps_frameTaken
    | with_reducible apply keeps_modItf
    | with_reducible apply keeps_ite

theorem keeps_netSend {σ s : State} (H : Keeps σ s) (p i kind : Nat) (body : List Byte) : Keeps σ (State.netSend s p i kind body) := by
  unfold State.netSend
  repeat' first
    | with_reducible assumption
    | exact .same rfl rfl rfl
    | exact ⟨rfl, rfl, rfl, rfl, fun _ h => h⟩
    | with_reducible exact id
    | dsimp only
    | with_reducible refine Keeps.mk' ?_ ?_ ?_ ?_

theorem keeps_execNeighborSolicitation {σ s : State} (H : Keeps σ s) (port itf target : Nat) : KeepsOut σ (execNeighborSolicitation port itf target s) := by
  unfold execNeighborSolicitation
  repeat' first
    | with_reducible apply keepsOut_next
    | with_reducible assumption
    | with_reducible apply keeps_netSend
    | with_reducible apply keeps_ite

theorem keeps_execEchoRequest {σ s : State} (H : Keeps σ s) (port itf dst : Nat) : KeepsOut σ (execEchoRequest port itf dst s) := by
  unfold execEchoRequest
  repeat' first
    | with_reducible apply keepsOut_next
    | with_reducible assumption
    | with_reducible apply keeps_modItf
    | with_reducible apply keeps_netSend
    | with_reducible apply keeps_ite

theorem keeps_execPacketTooBig {σ s : State} (H : Keeps σ s) (port itf mtu : Nat) : KeepsOut σ (execPacketTooBig port itf mtu s) := by
  unfold execPacketTooBig
  repeat' first
    | with_reducible apply keepsOut_next
    | with_reducible assumption
    | with_reducible apply keeps_event
    | with_reducible apply keeps_modItf
    | with_reducible apply keeps_ite

theorem keeps_execMkaHello {σ s : State} (H : Keeps σ s) (port itf : Nat) (peers : List Nat) : KeepsOut σ (execMkaHello port itf peers s) := by
  unfold execMkaHello
  repeat' first
    | with_reducible apply keepsOut_next
    | with_reducible assumption
    | with_reducible apply keeps_modItf
    | with_reducible apply keeps_netSend
    | with_reducible apply keeps_ite

theorem keeps_execSakRotation {σ s : State} (H : Keeps σ s) (port itf : Nat) (keyServer : Bool) : KeepsOut σ (execSakRotation port itf keyServer s) := by
  unfold execSakRotation
  repeat' first
    | with_reducible apply keepsOut_next
    | with_reducible assumption
    | with_reducible apply keeps_modItf
    | with_reducible apply keeps_netSend
    | with_reducible apply keeps_ite

theorem keeps_execReceiveSaRetire {σ s : State} (H : Keeps σ s) (port itf an : Nat) : KeepsOut σ (execReceiveSaRetire port itf an s) := by
  unfold execReceiveSaRetire
  repeat' first
    | with_reducible apply keepsOut_next
    | with_reducible assumption
    | with_reducible apply keeps_modItf
    | with_reducible apply keeps_ite

theorem keeps_segSend {σ s : State} (H : Keeps σ s) (k type flags seq echo msg off len : Nat) (body : List Byte) : Keeps σ (State.segSend s k type flags seq echo msg off len body) := by
  unfold State.segSend
  repeat' first
    | with_reducible assumption
    | exact .same rfl rfl rfl
    | exact ⟨rfl, rfl, rfl, rfl, fun _ h => h⟩
    | with_reducible exact id
    | with_reducible apply keeps_ite
    | dsimp only
    | with_reducible refine Keeps.mk' ?_ ?_ ?_ ?_

theorem keeps_sendNext {σ s : State} (H : Keeps σ s) (k : Nat) : Keeps σ (State.sendNext s k) := by
  unfold State.sendNext
  repeat' first
    | with_reducible assumption
    | with_reducible apply keeps_modSess
    | with_reducible apply keeps_segSend
    | exact .same rfl rfl rfl
    | exact ⟨rfl, rfl, rfl, rfl, fun _ h => h⟩
    | intro _
    | with_reducible apply wrBytes_wf
    | with_reducible apply keeps_ite
    | dsimp only
    | split
    | with_reducible refine Keeps.mk' ?_ ?_ ?_ ?_

theorem keeps_pumpSess {σ s : State} (H : Keeps σ s) (k : Nat) : Keeps σ (State.pumpSess s k) := by
  unfold State.pumpSess
  repeat' first
    | with_reducible assumption
    | with_reducible apply keeps_sendNext
    | with_reducible apply keeps_foldl
    | intro _

theorem keeps_queueMsg {σ s : State} (H : Keeps σ s) (k : Nat) (round : Option Nat) (bytes : List Byte) : Keeps σ (State.queueMsg s k round bytes) := by
  unfold State.queueMsg
  repeat' first
    | with_reducible assumption
    | with_reducible apply keeps_modSess
    | with_reducible apply keeps_pumpSess

theorem keeps_resendSeg {σ s : State} (H : Keeps σ s) (k : Nat) (e : TxSeg) : Keeps σ (State.resendSeg s k e) := by
  unfold State.resendSeg
  repeat' first
    | with_reducible assumption
    | with_reducible apply keeps_modItf
    | with_reducible apply keeps_modSess
    | with_reducible apply keeps_segSend

theorem keeps_execRetransmitTimer {σ s : State} (H : Keeps σ s) (session seq : Nat) : KeepsOut σ (execRetransmitTimer session seq s) := by
  unfold execRetransmitTimer
  repeat' first
    | with_reducible apply keepsOut_next
    | with_reducible assumption
    | with_reducible apply keeps_resendSeg
    | with_reducible apply keeps_ite
    | dsimp only
    | split

theorem keeps_ackSend {σ s : State} (H : Keeps σ s) (k : Nat) : Keeps σ (State.ackSend s k) := by
  unfold State.ackSend
  repeat' first
    | with_reducible assumption
    | with_reducible apply keeps_modSess
    | with_reducible apply keeps_segSend

theorem keeps_segBad {σ s : State} (H : Keeps σ s) (k : Nat) : Keeps σ (State.segBad s k) := by
  unfold State.segBad
  repeat' first
    | with_reducible assumption
    | with_reducible apply keeps_modItf

theorem keeps_segFor {σ s : State} (H : Keeps σ s) (port type : Nat) (seg : List Byte) : Keeps σ (State.segFor s port type seg).2 := by
  unfold State.segFor
  repeat' first
    | with_reducible assumption
    | with_reducible apply keeps_segBad
    | dsimp only
    | split

theorem keeps_dataTaken {σ s : State} (H : Keeps σ s) (k : Nat) (seg : List Byte) (place : Nat) : Keeps σ (State.dataTaken s k seg place) := by
  unfold State.dataTaken
  repeat' first
    | with_reducible assumption
    | with_reducible apply keeps_ackSend
    | with_reducible apply keeps_modSess
    | exact .same rfl rfl rfl
    | exact ⟨rfl, rfl, rfl, rfl, fun _ h => h⟩
    | intro _
    | with_reducible apply wrBytes_wf
    | with_reducible apply keeps_ite
    | with_reducible refine Keeps.mk' ?_ ?_ ?_ ?_

theorem keeps_execDataSeg {σ s : State} (H : Keeps σ s) (port : Nat) (seg : List Byte) : KeepsOut σ (execDataSeg port seg s) := by
  unfold execDataSeg
  repeat' first
    | with_reducible apply keepsOut_next
    | with_reducible assumption
    | with_reducible apply keeps_ackSend
    | with_reducible apply keeps_dataTaken
    | with_reducible apply keeps_modItf
    | with_reducible apply keeps_modSess
    | with_reducible apply keeps_segBad
    | with_reducible apply keeps_segFor
    | with_reducible apply keeps_ite
    | dsimp only
    | split
    | refine keeps_of_pair2 (by assumption) ?_

theorem keeps_execAckTimer {σ s : State} (H : Keeps σ s) (session : Nat) : KeepsOut σ (execAckTimer session s) := by
  unfold execAckTimer
  repeat' first
    | with_reducible apply keepsOut_next
    | with_reducible assumption
    | with_reducible apply keeps_ackSend
    | with_reducible apply keeps_ite

theorem keeps_ackTaken {σ s : State} (H : Keeps σ s) (k : Nat) (seg : List Byte) : Keeps σ (State.ackTaken s k seg) := by
  unfold State.ackTaken
  repeat' first
    | with_reducible assumption
    | with_reducible apply keeps_modSess
    | with_reducible apply keeps_pumpSess
    | with_reducible apply keeps_resendSeg
    | with_reducible apply keeps_foldl
    | intro _
    | with_reducible apply keeps_ite

theorem keeps_execAckSeg {σ s : State} (H : Keeps σ s) (port : Nat) (seg : List Byte) : KeepsOut σ (execAckSeg port seg s) := by
  unfold execAckSeg
  repeat' first
    | with_reducible apply keepsOut_next
    | with_reducible assumption
    | with_reducible apply keeps_ackTaken
    | with_reducible apply keeps_segBad
    | with_reducible apply keeps_segFor
    | with_reducible apply keeps_ite
    | split
    | refine keeps_of_pair2 (by assumption) ?_

theorem keeps_openSend {σ s : State} (H : Keeps σ s) (k type : Nat) : Keeps σ (State.openSend s k type) := by
  unfold State.openSend
  repeat' first
    | with_reducible assumption
    | with_reducible apply keeps_segSend

end Sys2Proof.Laws
end

