-- ==== Sys2Proof/Laws/KeptOuter.lean ====
section
/-! SUPPORT. What the operations of Machine/Outer.lean keep: one lemma for each. -/

namespace Sys2Proof.Laws

open Sys2Proof Sys2Proof.Machine

theorem keeps_outerSend {σ s : State} (H : Keeps σ s) (k type flags round tai frag blocks : Nat) (body : List Byte) : Keeps σ (State.outerSend s k type flags round tai frag blocks body) := by
  unfold State.outerSend
  repeat' first
    | with_reducible assumption
    | with_reducible apply keeps_modSess
    | with_reducible apply keeps_queueMsg
    | with_reducible apply keeps_ite

theorem keeps_modFrag {σ s : State} (H : Keeps σ s) (f : Nat) (g : Frag → Frag) : Keeps σ (State.modFrag s f g) := by
  unfold State.modFrag
  repeat' first
    | with_reducible assumption
    | exact .same rfl rfl rfl
    | exact ⟨rfl, rfl, rfl, rfl, fun _ h => h⟩
    | with_reducible exact id
    | dsimp only
    | with_reducible refine Keeps.mk' ?_ ?_ ?_ ?_

theorem keeps_anchorAsk {σ s : State} (H : Keeps σ s) (k frag : Nat) : Keeps σ (State.anchorAsk s k frag) := by
  unfold State.anchorAsk
  repeat' first
    | with_reducible assumption
    | with_reducible apply keeps_outerSend

theorem keeps_join {σ s : State} (H : Keeps σ s) (k : Nat) : Keeps σ (State.join s k) := by
  unfold State.join
  repeat' first
    | with_reducible assumption
    | with_reducible apply keeps_anchorAsk
    | with_reducible apply keeps_modFrag
    | with_reducible apply keeps_modSess
    | with_reducible apply keeps_foldl
    | intro _

theorem keeps_sessOpened {σ s : State} (H : Keeps σ s) (k : Nat) : Keeps σ (State.sessOpened s k) := by
  unfold State.sessOpened
  repeat' first
    | with_reducible assumption
    | with_reducible apply keeps_join
    | with_reducible apply keeps_modSess
    | with_reducible apply keeps_pumpSess
    | with_reducible apply keeps_ite

theorem keeps_adoptEpoch {σ s : State} (H : Keeps σ s) (k e : Nat) : Keeps σ (State.adoptEpoch s k e) := by
  unfold State.adoptEpoch
  repeat' first
    | with_reducible assumption
    | with_reducible apply keeps_modSess
    | with_reducible apply keeps_ite

theorem keeps_closeSend {σ s : State} (H : Keeps σ s) (k : Nat) : Keeps σ (State.closeSend s k) := by
  unfold State.closeSend
  repeat' first
    | with_reducible assumption
    | with_reducible apply keeps_segSend

theorem keeps_opened {σ s : State} (H : Keeps σ s) (port type : Nat) (seg : List Byte) : Keeps σ (State.opened s port type seg) := by
  unfold State.opened
  repeat' first
    | with_reducible assumption
    | with_reducible apply keeps_adoptEpoch
    | with_reducible apply keeps_closeSend
    | with_reducible apply keeps_modSess
    | with_reducible apply keeps_openSend
    | with_reducible apply keeps_segFor
    | with_reducible apply keeps_sessOpened
    | with_reducible apply keeps_ite
    | dsimp only
    | split
    | refine keeps_of_pair2 (by assumption) ?_

theorem keeps_execOpenSeg {σ s : State} (H : Keeps σ s) (port : Nat) (seg : List Byte) : KeepsOut σ (execOpenSeg port seg s) := by
  unfold execOpenSeg
  repeat' first
    | with_reducible apply keepsOut_next
    | with_reducible assumption
    | with_reducible apply keeps_opened

theorem keeps_execOpenAck {σ s : State} (H : Keeps σ s) (port : Nat) (seg : List Byte) : KeepsOut σ (execOpenAck port seg s) := by
  unfold execOpenAck
  repeat' first
    | with_reducible apply keepsOut_next
    | with_reducible assumption
    | with_reducible apply keeps_opened

theorem keeps_execCloseSeg {σ s : State} (H : Keeps σ s) (port : Nat) (seg : List Byte) : KeepsOut σ (execCloseSeg port seg s) := by
  unfold execCloseSeg
  repeat' first
    | with_reducible apply keepsOut_next
    | with_reducible assumption
    | with_reducible apply keeps_segFor

theorem keeps_execOpenRetry {σ s : State} (H : Keeps σ s) (session : Nat) : KeepsOut σ (execOpenRetry session s) := by
  unfold execOpenRetry
  repeat' first
    | with_reducible apply keepsOut_next
    | with_reducible assumption
    | with_reducible apply keeps_openSend
    | with_reducible apply keeps_ite

theorem keeps_execHeartbeatTimer {σ s : State} (H : Keeps σ s) (session : Nat) : KeepsOut σ (execHeartbeatTimer session s) := by
  unfold execHeartbeatTimer
  repeat' first
    | with_reducible apply keepsOut_next
    | with_reducible assumption
    | with_reducible apply keeps_segSend
    | with_reducible apply keeps_ite

theorem keeps_moveUnacked {σ s : State} (H : Keeps σ s) (k p : Nat) : Keeps σ (State.moveUnacked s k p) := by
  unfold State.moveUnacked
  repeat' first
    | with_reducible assumption
    | with_reducible apply keeps_modSess
    | with_reducible apply keeps_queueMsg
    | with_reducible apply keeps_foldl
    | intro _
    | with_reducible apply keeps_ite

theorem keeps_suspend {σ s : State} (H : Keeps σ s) (session : Nat) : Keeps σ (State.suspend s session) := by
  unfold State.suspend
  repeat' first
    | with_reducible assumption
    | with_reducible apply keeps_event
    | with_reducible apply keeps_modSess
    | with_reducible apply keeps_moveUnacked
    | with_reducible apply keeps_ite

theorem keeps_execHeartbeatLoss {σ s : State} (H : Keeps σ s) (session : Nat) : KeepsOut σ (execHeartbeatLoss session s) := by
  unfold execHeartbeatLoss
  repeat' first
    | with_reducible apply keepsOut_next
    | with_reducible assumption
    | with_reducible apply keeps_suspend
    | with_reducible apply keeps_ite

theorem keeps_dropData {σ s : State} (H : Keeps σ s) (k : Nat) (below : Option Nat) : Keeps σ (State.dropData s k below) := by
  unfold State.dropData
  repeat' first
    | with_reducible assumption
    | with_reducible apply keeps_countRefusal
    | with_reducible apply keeps_modSess

theorem keeps_dropStale {σ s : State} (H : Keeps σ s) (job : Nat) : Keeps σ (State.dropStale s job) := by
  unfold State.dropStale
  repeat' first
    | with_reducible assumption
    | with_reducible apply keeps_dropData
    | with_reducible apply keeps_foldl
    | intro _

theorem keeps_resume {σ s : State} (H : Keeps σ s) (k : Nat) : Keeps σ (State.resume s k) := by
  unfold State.resume
  repeat' first
    | with_reducible assumption
    | with_reducible apply keeps_dropData
    | with_reducible apply keeps_dropStale
    | with_reducible apply keeps_event
    | with_reducible apply keeps_join
    | with_reducible apply keeps_modSess
    | with_reducible apply keeps_pumpSess
    | with_reducible apply keeps_ite

theorem keeps_beatTaken {σ s : State} (H : Keeps σ s) (k : Nat) (m : List Byte) : Keeps σ (State.beatTaken s k m) := by
  unfold State.beatTaken
  repeat' first
    | with_reducible assumption
    | with_reducible apply keeps_modSess
    | with_reducible apply keeps_moveUnacked
    | with_reducible apply keeps_resume
    | with_reducible apply keeps_foldl
    | intro _
    | with_reducible apply keeps_ite

theorem keeps_execDatagram {σ s : State} (H : Keeps σ s) (port : Nat) (seg : List Byte) : KeepsOut σ (execDatagram port seg s) := by
  unfold execDatagram
  repeat' first
    | with_reducible apply keepsOut_next
    | with_reducible assumption
    | with_reducible apply keeps_beatTaken
    | with_reducible apply keeps_segBad
    | with_reducible apply keeps_segFor
    | with_reducible apply keeps_ite
    | dsimp only
    | split
    | refine keeps_of_pair2 (by assumption) ?_

theorem keeps_takeMsg {σ s : State} (H : Keeps σ s) (k : Nat) (msg : List Byte) : KeepsOpt σ (s.takeMsg k msg) := by
  unfold State.takeMsg
  dsimp only
  split
  · exact keepsOpt_none
  · exact keepsOpt_map fun a => keeps_modSess H _ _

theorem keeps_msgBad {σ s : State} (H : Keeps σ s) (k : Nat) (msg : List Byte) : Keeps σ (State.msgBad s k msg) := by
  unfold State.msgBad
  repeat' first
    | with_reducible assumption
    | with_reducible apply keeps_freeze
    | with_reducible apply keeps_modSess
    | with_reducible apply keeps_segBad
    | with_reducible apply keeps_ite

theorem keeps_onMsg {σ s : State} {k type : Nat} {msg : List Byte} {ok : State → Bool} {f : State → State} (H : Keeps σ s)
    (hf : ∀ t, Keeps σ t → Keeps σ (f t)) : Keeps σ (s.onMsg k type msg ok f) := by
  unfold State.onMsg
  split
  · exact H
  · split
    · exact H
    · rename_i e
      have h := keeps_takeMsg H k msg _ e
      split
      · exact hf _ h
      · exact keeps_msgBad h _ _

theorem keeps_mirror {σ s : State} (H : Keeps σ s) (f : Frag) (kind : Nat) (d : Delta) : Keeps σ (State.mirror s f kind d) := by
  unfold State.mirror
  repeat' first
    | with_reducible assumption
    | with_reducible apply keeps_send
    | with_reducible apply keeps_foldl
    | intro _
    | with_reducible apply keeps_ite
    | dsimp only
    | split

theorem keeps_formFragment {σ s : State} (H : Keeps σ s) (frag r : Nat) (again : Bool) : Keeps σ (State.formFragment s frag r again) := by
  unfold State.formFragment
  repeat' first
    | with_reducible assumption
    | with_reducible apply keeps_dropStale
    | with_reducible apply keeps_mirror
    | with_reducible apply keeps_modDie
    | with_reducible apply keeps_modFrag
    | with_reducible apply keeps_outerSend
    | with_reducible apply keeps_foldl
    | intro _
    | with_reducible apply keeps_ite
    | dsimp only
    | split

theorem keeps_execFragmentDeltaRead {σ s : State} (H : Keeps σ s) (frag : Nat) : KeepsOut σ (execFragmentDeltaRead frag s) := by
  unfold execFragmentDeltaRead
  repeat' first
    | with_reducible apply keepsOut_next
    | with_reducible assumption
    | with_reducible apply keeps_formFragment
    | with_reducible apply keeps_ite

theorem keeps_dropFrag {σ s : State} (H : Keeps σ s) (d : Delta) : Keeps σ (State.dropFrag s d) := by
  unfold State.dropFrag
  repeat' first
    | with_reducible assumption
    | with_reducible apply keeps_countRefusal
    | with_reducible apply keeps_modFrag
    | with_reducible apply keeps_modSess

theorem keeps_takeDelta {σ s : State} (H : Keeps σ s) (session : Nat) (msg : List Byte) : Keeps σ (State.takeDelta s session msg) := by
  unfold State.takeDelta
  repeat' first
    | with_reducible assumption
    | with_reducible apply keeps_dropFrag
    | with_reducible apply keeps_modFrag
    | with_reducible apply keeps_ite

theorem keeps_execOuterDelta {σ s : State} (H : Keeps σ s) (session : Nat) (msg : List Byte) : KeepsOut σ (execOuterDelta session msg s) := by
  unfold execOuterDelta
  repeat' first
    | with_reducible apply keepsOut_next
    | with_reducible assumption
    | with_reducible apply keeps_onMsg
    | with_reducible apply keeps_takeDelta
    | intro _

theorem keeps_noteClose {σ s : State} (H : Keeps σ s) (session : Nat) (msg : List Byte) : Keeps σ (State.noteClose s session msg) := by
  unfold State.noteClose
  repeat' first
    | with_reducible assumption
    | with_reducible apply keeps_modSess
    | with_reducible apply keeps_foldl
    | intro _

theorem keeps_execRoundClose {σ s : State} (H : Keeps σ s) (session : Nat) (msg : List Byte) : KeepsOut σ (execRoundClose session msg s) := by
  unfold execRoundClose
  repeat' first
    | with_reducible apply keepsOut_next
    | with_reducible assumption
    | with_reducible apply keeps_noteClose
    | with_reducible apply keeps_onMsg
    | intro _

theorem keeps_beginOuter {σ s : State} (H : Keeps σ s) (frag k flags : Nat) : Keeps σ (State.beginOuter s frag k flags) := by
  unfold State.beginOuter
  repeat' first
    | with_reducible assumption
    | with_reducible apply keeps_modDie
    | with_reducible apply keeps_modSess
    | with_reducible apply keeps_foldl
    | intro _

theorem keeps_roundCloseSend {σ s : State} (H : Keeps σ s) (frag k : Nat) : Keeps σ (State.roundCloseSend s frag k) := by
  unfold State.roundCloseSend
  repeat' first
    | with_reducible assumption
    | with_reducible apply keeps_modFrag
    | with_reducible apply keeps_outerSend
    | with_reducible apply keeps_foldl
    | intro _

theorem keeps_endOuter {σ s : State} (H : Keeps σ s) (frag : Nat) (c : Consume) : Keeps σ (State.endOuter s frag c) := by
  unfold State.endOuter
  repeat' first
    | with_reducible assumption
    | with_reducible apply keeps_finishCons
    | with_reducible apply keeps_modJob
    | with_reducible apply keeps_roundCloseSend
    | with_reducible apply keeps_wcEncode
    | with_reducible apply keeps_foldl
    | intro _
    | with_reducible apply keeps_ite
    | split

theorem keeps_closeFragment {σ s : State} (H : Keeps σ s) (frag k : Nat) (own : Delta) : Keeps σ (State.closeFragment s frag k own) := by
  unfold State.closeFragment
  repeat' first
    | with_reducible assumption
    | with_reducible apply keeps_beginOuter
    | with_reducible apply keeps_dropFrag
    | with_reducible apply keeps_dropStale
    | with_reducible apply keeps_endOuter
    | with_reducible apply keeps_mirror
    | with_reducible apply keeps_modFrag
    | with_reducible apply keeps_modSess
    | with_reducible apply keeps_foldl
    | intro _
    | with_reducible apply keeps_ite
    | dsimp only
    | split

theorem keeps_execRoundClosing {σ s : State} (H : Keeps σ s) (frag : Nat) : KeepsOut σ (execRoundClosing frag s) := by
  unfold execRoundClosing
  repeat' first
    | with_reducible apply keepsOut_next
    | with_reducible assumption
    | with_reducible apply keeps_anchorAsk
    | with_reducible apply keeps_closeFragment
    | with_reducible apply keeps_ite
    | split

theorem keeps_outerBlock {σ s : State} (H : Keeps σ s) (frag block : Nat) (c : Consume) (copy : Nat) (a : Rec) (wc : Option Nat) : Keeps σ (State.outerBlock s frag block c copy a wc) := by
  unfold State.outerBlock
  repeat' first
    | with_reducible assumption
    | with_reducible apply keeps_endOuter
    | with_reducible apply keeps_modCons
    | with_reducible apply keeps_wcWrite
    | with_reducible apply keeps_wrAnchor
    | with_reducible apply keeps_wrCopy
    | exact .same rfl rfl rfl
    | exact ⟨rfl, rfl, rfl, rfl, fun _ h => h⟩
    | intro _
    | with_reducible apply wrBytes_wf
    | with_reducible apply keeps_ite
    | dsimp only
    | split
    | with_reducible refine Keeps.mk' ?_ ?_ ?_ ?_

theorem keeps_execOuterUpdate {σ s : State} (H : Keeps σ s) (frag block : Nat) : KeepsOut σ (execOuterUpdate frag block s) := by
  unfold execOuterUpdate
  repeat' first
    | with_reducible apply keepsOut_next
    | with_reducible assumption
    | with_reducible apply keeps_outerBlock
    | with_reducible apply keeps_wcOpen
    | with_reducible apply keeps_ite
    | dsimp only
    | split

theorem keeps_outerPiece {σ s : State} (H : Keeps σ s) (die : Nat) (m : SpanMsg) : Keeps σ (State.outerPiece s die m).1 := by
  unfold State.outerPiece
  repeat' first
    | with_reducible assumption
    | with_reducible apply keeps_beginOuter
    | with_reducible apply keeps_discardMsg
    | with_reducible apply keeps_endOuter
    | with_reducible apply keeps_modFrag
    | exact .same rfl rfl rfl
    | exact ⟨rfl, rfl, rfl, rfl, fun _ h => h⟩
    | with_reducible exact id
    | with_reducible apply keeps_ite
    | dsimp only
    | split
    | with_reducible refine Keeps.mk' ?_ ?_ ?_ ?_

theorem keeps_execOuterInput {σ s : State} (H : Keeps σ s) (die : Nat) (m : SpanMsg) : KeepsOut σ (execOuterInput die m s) := by
  unfold execOuterInput
  repeat' first
    | with_reducible apply keepsOut_next
    | with_reducible assumption
    | with_reducible apply keeps_id
    | with_reducible apply keeps_outerPiece
    | with_reducible apply keeps_recv
    | intro _

theorem keeps_sendAnchors {σ s : State} (H : Keeps σ s) (session : Nat) (msg : List Byte) : Keeps σ (State.sendAnchors s session msg) := by
  unfold State.sendAnchors
  repeat' first
    | with_reducible assumption
    | with_reducible apply keeps_outerSend
    | with_reducible apply keeps_foldl
    | intro _

theorem keeps_execAnchorReq {σ s : State} (H : Keeps σ s) (session : Nat) (msg : List Byte) : KeepsOut σ (execAnchorReq session msg s) := by
  unfold execAnchorReq
  repeat' first
    | with_reducible apply keepsOut_next
    | with_reducible assumption
    | with_reducible apply keeps_onMsg
    | with_reducible apply keeps_sendAnchors
    | intro _

theorem keeps_installBlock {σ s : State} (H : Keeps σ s) (f : Frag) (r hint i : Nat) (bs : List Byte) : Keeps σ (State.installBlock s f r hint i bs) := by
  unfold State.installBlock
  repeat' first
    | with_reducible assumption
    | with_reducible apply keeps_modDie
    | with_reducible apply keeps_wrAnchor
    | with_reducible apply keeps_wrCopy

theorem keeps_takeAnchors {σ s : State} (H : Keeps σ s) (msg : List Byte) : Keeps σ (State.takeAnchors s msg) := by
  unfold State.takeAnchors
  repeat' first
    | with_reducible assumption
    | with_reducible apply keeps_installBlock
    | with_reducible apply keeps_modFrag
    | with_reducible apply keeps_modJob
    | with_reducible apply keeps_foldl
    | intro _
    | with_reducible apply keeps_ite

theorem keeps_execAnchorData {σ s : State} (H : Keeps σ s) (session : Nat) (msg : List Byte) : KeepsOut σ (execAnchorData session msg s) := by
  unfold execAnchorData
  repeat' first
    | with_reducible apply keepsOut_next
    | with_reducible assumption
    | with_reducible apply keeps_onMsg
    | with_reducible apply keeps_takeAnchors
    | intro _

end Sys2Proof.Laws
end

