-- ==== Sys2Proof/Laws/KeptVobin.lean ====
section
/-! SUPPORT. What the operations of Machine/Vobin.lean keep: one lemma for each. -/

namespace Sys2Proof.Laws

open Sys2Proof Sys2Proof.Machine

theorem keeps_keepWork {σ s : State} (H : Keeps σ s) (c : Cmd) : Keeps σ (State.keepWork s c) := by
  unfold State.keepWork
  repeat' first
    | with_reducible assumption
    | with_reducible apply keeps_modDie

theorem keeps_execute {σ s : State} {c : Cmd} {r : CmdRow} {retry : Nat} {f : State → Cmd → Nat → Exe CmdOut} (H : Keeps σ s)
    (hf : ∀ t x n, Keeps σ t → KeepsExe σ (f t x n)) : Keeps σ (s.execute c r retry f) := by
  unfold State.execute
  split
  · exact keeps_respond H _ _ _ _ _
  · split
    · exact keeps_respond H _ _ _ _ _
    · have hg : KeepsExe σ (do
          s.authority c r
          okRef (!r.defers || decide ((s.die c.die).deferred.length < 64)) 0
          f s c retry) := keepsExe_bind fun _ => keepsExe_bind fun _ => hf s c retry H
      dsimp only
      split
      · rename_i e
        rw [e] at hg
        have ho := hg
        split
        · exact ho
        · split
          · exact keeps_modDie ho _ _
          · exact keeps_respond ho _ _ _ _ _
      · split
        · exact keeps_refuse H _ _
        · split
          · exact keeps_respond (keeps_countRefusal H _ _ _ _) _ _ _ _ _
          · exact keeps_respond H _ _ _ _ _

theorem keeps_taken {σ s : State} (H : Keeps σ s) (x : CmdRef) (c : Cmd) : Keeps σ (State.taken s x c) := by
  unfold State.taken
  repeat' first
    | with_reducible assumption
    | with_reducible apply keeps_modDie

theorem keeps_command {σ s : State} {x : CmdRef} {g n : Nat} {f : State → Cmd → Nat → Exe CmdOut} {t : Cmd → Bool} (H : Keeps σ s)
    (hf : ∀ t x n, Keeps σ t → KeepsExe σ (f t x n)) : Keeps σ (s.command x g n f t) := by
  unfold State.command
  repeat' first
    | with_reducible assumption
    | (with_reducible refine keeps_execute ?_ hf)
    | (with_reducible apply keeps_taken)
    | split

theorem keeps_execDevInfo {σ s : State} (H : Keeps σ s) (c : CmdRef) : KeepsOut σ (execDevInfo c s) := by
  unfold execDevInfo
  repeat' first
    | with_reducible apply keepsOut_next
    | with_reducible assumption
    | with_reducible apply keeps_command
    | with_reducible apply keepsExe_bind
    | with_reducible apply keepsExe_pure
    | intro _

theorem keeps_execDevBays {σ s : State} (H : Keeps σ s) (c : CmdRef) : KeepsOut σ (execDevBays c s) := by
  unfold execDevBays
  repeat' first
    | with_reducible apply keepsOut_next
    | with_reducible assumption
    | with_reducible apply keeps_command
    | with_reducible apply keepsExe_bind
    | with_reducible apply keepsExe_pure
    | intro _

theorem keeps_execDevProbes {σ s : State} (H : Keeps σ s) (c : CmdRef) : KeepsOut σ (execDevProbes c s) := by
  unfold execDevProbes
  repeat' first
    | with_reducible apply keepsOut_next
    | with_reducible assumption
    | with_reducible apply keeps_command
    | with_reducible apply keepsExe_bind
    | with_reducible apply keepsExe_pure
    | intro _

theorem keeps_execDevNode {σ s : State} (H : Keeps σ s) (c : CmdRef) : KeepsOut σ (execDevNode c s) := by
  unfold execDevNode
  repeat' first
    | with_reducible apply keepsOut_next
    | with_reducible assumption
    | with_reducible apply keeps_command
    | with_reducible apply keepsExe_bind
    | with_reducible apply keepsExe_pure
    | exact .same rfl rfl rfl
    | exact ⟨rfl, rfl, rfl, rfl, fun _ h => h⟩
    | with_reducible exact id
    | intro _
    | dsimp only
    | with_reducible refine Keeps.mk' ?_ ?_ ?_ ?_

theorem keeps_execMemWindow {σ s : State} (H : Keeps σ s) (c : CmdRef) : KeepsOut σ (execMemWindow c s) := by
  unfold execMemWindow
  repeat' first
    | with_reducible apply keepsOut_next
    | with_reducible assumption
    | with_reducible apply keeps_command
    | with_reducible apply keeps_modHost
    | with_reducible apply keepsExe_bind
    | with_reducible apply keepsExe_pure
    | intro _

theorem keeps_execMemDry {σ s : State} (H : Keeps σ s) (c : CmdRef) : KeepsOut σ (execMemDry c s) := by
  unfold execMemDry
  repeat' first
    | with_reducible apply keepsOut_next
    | with_reducible assumption
    | with_reducible apply keeps_command
    | with_reducible apply keeps_modBay
    | with_reducible apply keepsExe_bind
    | with_reducible apply keepsExe_pure
    | intro _

theorem keeps_execMemFree {σ s : State} (H : Keeps σ s) (c : CmdRef) : KeepsOut σ (execMemFree c s) := by
  unfold execMemFree
  repeat' first
    | with_reducible apply keepsOut_next
    | with_reducible assumption
    | with_reducible apply keeps_command
    | with_reducible apply keeps_modBay
    | with_reducible apply keepsExe_bind
    | with_reducible apply keepsExe_pure
    | intro _

theorem keeps_bayGiven {σ s : State} (H : Keeps σ s) (job : Nat) (gs : List Grant) : Keeps σ (State.bayGiven s job gs) := by
  unfold State.bayGiven
  repeat' first
    | with_reducible assumption
    | with_reducible apply keeps_modBay
    | with_reducible apply keeps_foldl
    | exact .same rfl rfl rfl
    | exact ⟨rfl, rfl, rfl, rfl, fun _ h => h⟩
    | intro _
    | with_reducible apply clrBytes_wf
    | with_reducible apply keeps_ite
    | with_reducible refine Keeps.mk' ?_ ?_ ?_ ?_

theorem keeps_execJobCreate {σ s : State} (H : Keeps σ s) (c : CmdRef) : KeepsOut σ (execJobCreate c s) := by
  unfold execJobCreate
  repeat' first
    | with_reducible apply keepsOut_next
    | with_reducible assumption
    | with_reducible apply keeps_bayGiven
    | with_reducible apply keeps_command
    | with_reducible apply keepsExe_bind
    | with_reducible apply keepsExe_pure
    | exact .same rfl rfl rfl
    | exact ⟨rfl, rfl, rfl, rfl, fun _ h => h⟩
    | with_reducible exact id
    | intro _
    | dsimp only
    | with_reducible refine Keeps.mk' ?_ ?_ ?_ ?_

theorem keeps_execJobGrant {σ s : State} (H : Keeps σ s) (c : CmdRef) : KeepsOut σ (execJobGrant c s) := by
  unfold execJobGrant
  repeat' first
    | with_reducible apply keepsOut_next
    | with_reducible assumption
    | with_reducible apply keeps_bayGiven
    | with_reducible apply keeps_command
    | with_reducible apply keeps_modJob
    | with_reducible apply keepsExe_bind
    | with_reducible apply keepsExe_pure
    | intro _

theorem keeps_ungrant {σ s : State} (H : Keeps σ s) (job : Nat) (gs : List Grant) : Keeps σ (State.ungrant s job gs) := by
  unfold State.ungrant
  repeat' first
    | with_reducible assumption
    | with_reducible apply keeps_modJob

theorem keeps_execJobRevoke {σ s : State} (H : Keeps σ s) (c : CmdRef) : KeepsOut σ (execJobRevoke c s) := by
  unfold execJobRevoke
  repeat' first
    | with_reducible apply keepsOut_next
    | with_reducible assumption
    | with_reducible apply keeps_command
    | with_reducible apply keeps_ungrant
    | with_reducible apply keepsExe_bind
    | with_reducible apply keepsExe_pure
    | intro _
    | with_reducible apply keepsExe_ite

theorem keeps_stopRun {σ s : State} (H : Keeps σ s) (die r : Nat) : Keeps σ (State.stopRun s die r) := by
  unfold State.stopRun
  repeat' first
    | with_reducible assumption
    | with_reducible apply keeps_modRun
    | with_reducible apply keeps_ite

theorem keeps_closeSession {σ s : State} (H : Keeps σ s) (k : Nat) : Keeps σ (State.closeSession s k) := by
  unfold State.closeSession
  repeat' first
    | with_reducible assumption
    | with_reducible apply keeps_closeSend
    | with_reducible apply keeps_modSess
    | with_reducible apply keeps_ite

theorem keeps_freeSlotOf {σ s : State} (H : Keeps σ s) (die n : Nat) : Keeps σ (State.freeSlotOf s die n) := by
  unfold State.freeSlotOf
  repeat' first
    | with_reducible assumption
    | with_reducible apply keeps_freeBuffer
    | with_reducible apply keeps_modDie
    | with_reducible apply keeps_modSlot
    | with_reducible apply keeps_untouch

theorem keeps_destroyJob {σ s : State} (H : Keeps σ s) (job : Nat) : Keeps σ (State.destroyJob s job) := by
  unfold State.destroyJob
  repeat' first
    | with_reducible assumption
    | with_reducible apply keeps_freeSlotOf
    | with_reducible apply keeps_modDie
    | with_reducible apply keeps_foldl
    | exact .same rfl rfl rfl
    | exact ⟨rfl, rfl, rfl, rfl, fun _ h => h⟩
    | with_reducible exact id
    | intro _
    | dsimp only
    | with_reducible refine Keeps.mk' ?_ ?_ ?_ ?_

theorem keeps_endJob {σ s : State} (H : Keeps σ s) (job : Nat) : Keeps σ (State.endJob s job) := by
  unfold State.endJob
  repeat' first
    | with_reducible assumption
    | with_reducible apply keeps_closeSession
    | with_reducible apply keeps_modDie
    | with_reducible apply keeps_modJob
    | with_reducible apply keeps_stopRun
    | with_reducible apply keeps_foldl
    | intro _

theorem keeps_execJobDestroy {σ s : State} (H : Keeps σ s) (c : CmdRef) : KeepsOut σ (execJobDestroy c s) := by
  unfold execJobDestroy
  repeat' first
    | with_reducible apply keepsOut_next
    | with_reducible assumption
    | with_reducible apply keeps_command
    | with_reducible apply keeps_destroyJob
    | with_reducible apply keeps_endJob
    | with_reducible apply keepsExe_bind
    | with_reducible apply keepsExe_pure
    | intro _
    | with_reducible apply keepsExe_ite

theorem keeps_execJobStatus {σ s : State} (H : Keeps σ s) (c : CmdRef) : KeepsOut σ (execJobStatus c s) := by
  unfold execJobStatus
  repeat' first
    | with_reducible apply keepsOut_next
    | with_reducible assumption
    | with_reducible apply keeps_command
    | with_reducible apply keepsExe_bind
    | with_reducible apply keepsExe_pure
    | intro _

theorem keeps_settleWork {σ s : State} (H : Keeps σ s) (c : Cmd) : Keeps σ (s.settleWork c) := by
  unfold State.settleWork
  split
  · rename_i e
    refine keeps_finishWork ?_ _ _ _ _
    unfold State.workEnd at e
    split at e <;> (try dsimp only at e) <;> (try split at e) <;> simp only [Option.some.injEq, Prod.mk.injEq, reduceCtorEq] at e
    all_goals obtain ⟨rfl, -⟩ := e
    · exact H
    · exact keeps_ungrant H _ _
    · exact keeps_destroyJob H _
    · exact H
  · exact H

theorem keeps_execMailboxResponse {σ s : State} (H : Keeps σ s) (p m : Nat) (hostOk : Bool) : KeepsOut σ (execMailboxResponse p m hostOk s) := by
  unfold execMailboxResponse
  repeat' first
    | with_reducible apply keepsOut_next
    | with_reducible assumption
    | with_reducible apply keeps_modHost
    | with_reducible apply keeps_settleWork
    | with_reducible apply keeps_writeResponse
    | with_reducible apply keeps_ite
    | dsimp only
    | split

theorem keeps_execDeferralTimeout {σ s : State} (H : Keeps σ s) (p m token : Nat) : KeepsOut σ (execDeferralTimeout p m token s) := by
  unfold execDeferralTimeout
  repeat' first
    | with_reducible apply keepsOut_next
    | with_reducible assumption
    | with_reducible apply keeps_modDie
    | with_reducible apply keeps_respond
    | with_reducible apply keeps_ite
    | dsimp only
    | split

theorem keeps_cmdDone {σ s : State} (H : Keeps σ s) (die token : Nat) (e : Deferred) : Keeps σ (State.cmdDone s die token e) := by
  unfold State.cmdDone
  repeat' first
    | with_reducible assumption
    | with_reducible apply keeps_eventAt
    | with_reducible apply keeps_modDie

theorem keeps_execDeferredCommandEnd {σ s : State} (H : Keeps σ s) (die token : Nat) : KeepsOut σ (execDeferredCommandEnd die token s) := by
  unfold execDeferredCommandEnd
  repeat' first
    | with_reducible apply keepsOut_next
    | with_reducible assumption
    | with_reducible apply keeps_cmdDone
    | with_reducible apply keeps_settleWork
    | with_reducible apply keeps_ite
    | dsimp only
    | split

end Sys2Proof.Laws
end

