-- ==== Sys2Proof/Laws/KeptPrograms.lean ====
section
/-! SUPPORT. What the operations of Machine/Programs.lean keep: one lemma for each. -/

namespace Sys2Proof.Laws

open Sys2Proof Sys2Proof.Machine

theorem keeps_execPrgStroke {σ s : State} (H : Keeps σ s) (c : CmdRef) (id : Nat) : KeepsOut σ (execPrgStroke c id s) := by
  unfold execPrgStroke
  repeat' first
    | with_reducible apply keepsOut_next
    | with_reducible assumption
    | with_reducible apply keeps_command
    | with_reducible apply keeps_modDie
    | with_reducible apply keepsExe_bind
    | with_reducible apply keepsExe_pure
    | intro _

theorem keeps_execPrgGraph {σ s : State} (H : Keeps σ s) (c : CmdRef) (id : Nat) : KeepsOut σ (execPrgGraph c id s) := by
  unfold execPrgGraph
  repeat' first
    | with_reducible apply keepsOut_next
    | with_reducible assumption
    | with_reducible apply keeps_command
    | with_reducible apply keeps_modDie
    | with_reducible apply keepsExe_bind
    | with_reducible apply keepsExe_pure
    | intro _

theorem keeps_execPrgUnload {σ s : State} (H : Keeps σ s) (c : CmdRef) : KeepsOut σ (execPrgUnload c s) := by
  unfold execPrgUnload
  repeat' first
    | with_reducible apply keepsOut_next
    | with_reducible assumption
    | with_reducible apply keeps_command
    | with_reducible apply keeps_modDie
    | with_reducible apply keepsExe_bind
    | with_reducible apply keepsExe_pure
    | intro _
    | with_reducible apply keepsExe_ite

theorem keeps_execRunStart {σ s : State} (H : Keeps σ s) (c : CmdRef) (id : Nat) : KeepsOut σ (execRunStart c id s) := by
  unfold execRunStart
  repeat' first
    | with_reducible apply keepsOut_next
    | with_reducible assumption
    | with_reducible apply keeps_command
    | with_reducible apply keeps_modDie
    | with_reducible apply keepsExe_bind
    | with_reducible apply keepsExe_pure
    | intro _

theorem keeps_execRunStop {σ s : State} (H : Keeps σ s) (c : CmdRef) : KeepsOut σ (execRunStop c s) := by
  unfold execRunStop
  repeat' first
    | with_reducible apply keepsOut_next
    | with_reducible assumption
    | with_reducible apply keeps_command
    | with_reducible apply keeps_stopRun
    | with_reducible apply keepsExe_bind
    | with_reducible apply keepsExe_pure
    | intro _

theorem keeps_execRunStatus {σ s : State} (H : Keeps σ s) (c : CmdRef) : KeepsOut σ (execRunStatus c s) := by
  unfold execRunStatus
  repeat' first
    | with_reducible apply keepsOut_next
    | with_reducible assumption
    | with_reducible apply keeps_command
    | with_reducible apply keepsExe_bind
    | with_reducible apply keepsExe_pure
    | intro _

theorem keeps_execRunRecord {σ s : State} (H : Keeps σ s) (c : CmdRef) : KeepsOut σ (execRunRecord c s) := by
  unfold execRunRecord
  repeat' first
    | with_reducible apply keepsOut_next
    | with_reducible assumption
    | with_reducible apply keeps_command
    | with_reducible apply keepsExe_bind
    | with_reducible apply keepsExe_pure
    | intro _

theorem keeps_execRunNotify {σ s : State} (H : Keeps σ s) (c : CmdRef) : KeepsOut σ (execRunNotify c s) := by
  unfold execRunNotify
  repeat' first
    | with_reducible apply keepsOut_next
    | with_reducible assumption
    | with_reducible apply keeps_command
    | with_reducible apply keeps_notify
    | with_reducible apply keepsExe_bind
    | with_reducible apply keepsExe_pure
    | intro _

theorem keeps_execAtlStream {σ s : State} (H : Keeps σ s) (c : CmdRef) : KeepsOut σ (execAtlStream c s) := by
  unfold execAtlStream
  repeat' first
    | with_reducible apply keepsOut_next
    | with_reducible assumption
    | with_reducible apply keeps_command
    | with_reducible apply keeps_modDie
    | with_reducible apply keepsExe_bind
    | with_reducible apply keepsExe_pure
    | intro _
    | dsimp only
    | split

theorem keeps_execAtlSubmit {σ s : State} (H : Keeps σ s) (c : CmdRef) (hostData : Option (List Byte)) : KeepsOut σ (execAtlSubmit c hostData s) := by
  unfold execAtlSubmit
  repeat' first
    | with_reducible apply keepsOut_next
    | with_reducible assumption
    | with_reducible apply keeps_command
    | with_reducible apply keeps_modStream
    | with_reducible apply keepsExe_bind
    | with_reducible apply keepsExe_pure
    | with_reducible exact keepsExe_error
    | intro _
    | split

theorem keeps_execAtlPool {σ s : State} (H : Keeps σ s) (c : CmdRef) : KeepsOut σ (execAtlPool c s) := by
  unfold execAtlPool
  repeat' first
    | with_reducible apply keepsOut_next
    | with_reducible assumption
    | with_reducible apply keeps_command
    | with_reducible apply keeps_modDie
    | with_reducible apply keepsExe_bind
    | with_reducible apply keepsExe_pure
    | intro _

theorem keeps_execAtlAudio {σ s : State} (H : Keeps σ s) (c : CmdRef) : KeepsOut σ (execAtlAudio c s) := by
  unfold execAtlAudio
  repeat' first
    | with_reducible apply keepsOut_next
    | with_reducible assumption
    | with_reducible apply keeps_command
    | with_reducible apply keeps_modStream
    | with_reducible apply keepsExe_bind
    | with_reducible apply keepsExe_pure
    | intro _

theorem keeps_execAtlClose {σ s : State} (H : Keeps σ s) (c : CmdRef) : KeepsOut σ (execAtlClose c s) := by
  unfold execAtlClose
  repeat' first
    | with_reducible apply keepsOut_next
    | with_reducible assumption
    | with_reducible apply keeps_command
    | with_reducible apply keeps_modDie
    | with_reducible apply keepsExe_bind
    | with_reducible apply keepsExe_pure
    | intro _
    | with_reducible apply keepsExe_ite

theorem keeps_execAtlStatus {σ s : State} (H : Keeps σ s) (c : CmdRef) : KeepsOut σ (execAtlStatus c s) := by
  unfold execAtlStatus
  repeat' first
    | with_reducible apply keepsOut_next
    | with_reducible assumption
    | with_reducible apply keeps_command
    | with_reducible apply keepsExe_bind
    | with_reducible apply keepsExe_pure
    | intro _

end Sys2Proof.Laws
end

