-- ==== Sys2Proof/Laws/KeptCollective.lean ====
section
/-! SUPPORT. What the operations of Machine/Collective.lean keep: one lemma for each. -/

namespace Sys2Proof.Laws

open Sys2Proof Sys2Proof.Machine

theorem keeps_execColSlot {σ s : State} (H : Keeps σ s) (c : CmdRef) : KeepsOut σ (execColSlot c s) := by
  unfold execColSlot
  repeat' first
    | with_reducible apply keepsOut_next
    | with_reducible assumption
    | with_reducible apply keeps_command
    | with_reducible apply keeps_modSlot
    | with_reducible apply keeps_openSlot
    | with_reducible apply keepsExe_bind
    | with_reducible apply keepsExe_pure
    | intro _
    | dsimp only
    | split

theorem keeps_execColRead {σ s : State} (H : Keeps σ s) (c : CmdRef) : KeepsOut σ (execColRead c s) := by
  unfold execColRead
  repeat' first
    | with_reducible apply keepsOut_next
    | with_reducible assumption
    | with_reducible apply keeps_command
    | with_reducible apply keepsExe_bind
    | with_reducible apply keepsExe_pure
    | intro _

theorem keeps_execColFree {σ s : State} (H : Keeps σ s) (c : CmdRef) : KeepsOut σ (execColFree c s) := by
  unfold execColFree
  repeat' first
    | with_reducible apply keepsOut_next
    | with_reducible assumption
    | with_reducible apply keeps_command
    | with_reducible apply keeps_freeSlotOf
    | with_reducible apply keepsExe_bind
    | with_reducible apply keepsExe_pure
    | intro _

theorem keeps_setRoutes {σ s : State} (H : Keeps σ s) (a : Nat) (es : List Nat) : Keeps σ (State.setRoutes s a es) := by
  unfold State.setRoutes
  repeat' first
    | with_reducible assumption
    | exact .same rfl rfl rfl
    | exact ⟨rfl, rfl, rfl, rfl, fun _ h => h⟩
    | with_reducible exact id
    | dsimp only
    | with_reducible refine Keeps.mk' ?_ ?_ ?_ ?_

theorem keeps_execColRoute {σ s : State} (H : Keeps σ s) (c : CmdRef) : KeepsOut σ (execColRoute c s) := by
  unfold execColRoute
  repeat' first
    | with_reducible apply keepsOut_next
    | with_reducible assumption
    | with_reducible apply keeps_command
    | with_reducible apply keeps_setRoutes
    | with_reducible apply keepsExe_bind
    | with_reducible apply keepsExe_pure
    | intro _

theorem keeps_execColMcast {σ s : State} (H : Keeps σ s) (c : CmdRef) : KeepsOut σ (execColMcast c s) := by
  unfold execColMcast
  repeat' first
    | with_reducible apply keepsOut_next
    | with_reducible assumption
    | with_reducible apply keeps_command
    | with_reducible apply keepsExe_bind
    | with_reducible apply keepsExe_pure
    | exact .same rfl rfl rfl
    | exact ⟨rfl, rfl, rfl, rfl, fun _ h => h⟩
    | with_reducible exact id
    | intro _
    | dsimp only
    | with_reducible refine Keeps.mk' ?_ ?_ ?_ ?_

theorem keeps_execColGather {σ s : State} (H : Keeps σ s) (c : CmdRef) : KeepsOut σ (execColGather c s) := by
  unfold execColGather
  repeat' first
    | with_reducible apply keepsOut_next
    | with_reducible assumption
    | with_reducible apply keeps_command
    | with_reducible apply keepsExe_bind
    | with_reducible apply keepsExe_pure
    | exact .same rfl rfl rfl
    | exact ⟨rfl, rfl, rfl, rfl, fun _ h => h⟩
    | with_reducible exact id
    | intro _
    | dsimp only
    | with_reducible refine Keeps.mk' ?_ ?_ ?_ ?_

theorem keeps_execColLimit {σ s : State} (H : Keeps σ s) (c : CmdRef) : KeepsOut σ (execColLimit c s) := by
  unfold execColLimit
  repeat' first
    | with_reducible apply keepsOut_next
    | with_reducible assumption
    | with_reducible apply keeps_command
    | with_reducible apply keeps_modDie
    | with_reducible apply keepsExe_bind
    | with_reducible apply keepsExe_pure
    | intro _

theorem keeps_execVarShard {σ s : State} (H : Keeps σ s) (c : CmdRef) : KeepsOut σ (execVarShard c s) := by
  unfold execVarShard
  repeat' first
    | with_reducible apply keepsOut_next
    | with_reducible assumption
    | with_reducible apply keeps_command
    | with_reducible apply keeps_modDie
    | with_reducible apply keepsExe_bind
    | with_reducible apply keepsExe_pure
    | intro _

theorem keeps_initBlock {σ s : State} (H : Keeps σ s) (h : Shard) (j hint : Nat) (ws : List Word) : Keeps σ (State.initBlock s h j hint ws) := by
  unfold State.initBlock
  repeat' first
    | with_reducible assumption
    | with_reducible apply keeps_wrAnchor
    | with_reducible apply keeps_wrCopy

theorem keeps_initBlocks {σ s : State} (H : Keeps σ s) (h : Shard) (a n hint : Nat) (bs : List Byte) : Keeps σ (State.initBlocks s h a n hint bs) := by
  unfold State.initBlocks
  repeat' first
    | with_reducible assumption
    | with_reducible apply keeps_initBlock
    | with_reducible apply keeps_foldl
    | intro _

theorem keeps_execVarInit {σ s : State} (H : Keeps σ s) (c : CmdRef) (hostData : Option (List Byte)) : KeepsOut σ (execVarInit c hostData s) := by
  unfold execVarInit
  repeat' first
    | with_reducible apply keepsOut_next
    | with_reducible assumption
    | with_reducible apply keeps_command
    | with_reducible apply keeps_initBlocks
    | with_reducible apply keeps_modDie
    | with_reducible apply keepsExe_bind
    | with_reducible apply keepsExe_pure
    | with_reducible exact keepsExe_error
    | intro _
    | dsimp only
    | split

theorem keeps_bindSlot {σ s : State} (H : Keeps σ s) (die n : Nat) (sl : Slot) (bound : Option Desc) : Keeps σ (State.bindSlot s die n sl bound) := by
  unfold State.bindSlot
  repeat' first
    | with_reducible assumption
    | with_reducible apply keeps_modDie

theorem keeps_execVarBind {σ s : State} (H : Keeps σ s) (c : CmdRef) : KeepsOut σ (execVarBind c s) := by
  unfold execVarBind
  repeat' first
    | with_reducible apply keepsOut_next
    | with_reducible assumption
    | with_reducible apply keeps_bindSlot
    | with_reducible apply keeps_command
    | with_reducible apply keepsExe_bind
    | with_reducible apply keepsExe_pure
    | intro _

theorem keeps_execVarSchedule {σ s : State} (H : Keeps σ s) (c : CmdRef) : KeepsOut σ (execVarSchedule c s) := by
  unfold execVarSchedule
  repeat' first
    | with_reducible apply keepsOut_next
    | with_reducible assumption
    | with_reducible apply keeps_command
    | with_reducible apply keeps_modDie
    | with_reducible apply keepsExe_bind
    | with_reducible apply keepsExe_pure
    | intro _

theorem keeps_execVarNorm {σ s : State} (H : Keeps σ s) (c : CmdRef) : KeepsOut σ (execVarNorm c s) := by
  unfold execVarNorm
  repeat' first
    | with_reducible apply keepsOut_next
    | with_reducible assumption
    | with_reducible apply keeps_command
    | with_reducible apply keeps_modJob
    | with_reducible apply keepsExe_bind
    | with_reducible apply keepsExe_pure
    | intro _

theorem keeps_execVarTotals {σ s : State} (H : Keeps σ s) (c : CmdRef) : KeepsOut σ (execVarTotals c s) := by
  unfold execVarTotals
  repeat' first
    | with_reducible apply keepsOut_next
    | with_reducible assumption
    | with_reducible apply keeps_command
    | with_reducible apply keepsExe_bind
    | with_reducible apply keepsExe_pure
    | intro _

theorem keeps_execVarReport {σ s : State} (H : Keeps σ s) (c : CmdRef) : KeepsOut σ (execVarReport c s) := by
  unfold execVarReport
  repeat' first
    | with_reducible apply keepsOut_next
    | with_reducible assumption
    | with_reducible apply keeps_command
    | with_reducible apply keepsExe_bind
    | with_reducible apply keepsExe_pure
    | intro _

theorem keeps_execVarRollback {σ s : State} (H : Keeps σ s) (c : CmdRef) : KeepsOut σ (execVarRollback c s) := by
  unfold execVarRollback
  repeat' first
    | with_reducible apply keepsOut_next
    | with_reducible assumption
    | with_reducible apply keeps_command
    | with_reducible apply keeps_rollback
    | with_reducible apply keepsExe_bind
    | with_reducible apply keepsExe_pure
    | intro _

theorem keeps_sendCopy {σ s : State} (H : Keeps σ s) (die key : Nat) (c : Consume) (n : Nat) : Keeps σ (State.sendCopy s die key c n) := by
  unfold State.sendCopy
  repeat' first
    | with_reducible assumption
    | with_reducible apply keeps_peerSend
    | with_reducible apply keeps_foldl
    | intro _

theorem keeps_adoptOwn {σ s : State} (H : Keeps σ s) (die key : Nat) (c : Consume) : Keeps σ (State.adoptOwn s die key c) := by
  unfold State.adoptOwn
  repeat' first
    | with_reducible assumption
    | with_reducible apply keeps_agreeCons
    | with_reducible apply keeps_agreeSend
    | with_reducible apply keeps_peerSend
    | with_reducible apply keeps_sendCopy
    | with_reducible apply keeps_foldl
    | intro _

theorem keeps_execVarResolve {σ s : State} (H : Keeps σ s) (c : CmdRef) : KeepsOut σ (execVarResolve c s) := by
  unfold execVarResolve
  repeat' first
    | with_reducible apply keepsOut_next
    | with_reducible assumption
    | with_reducible apply keeps_adoptOwn
    | with_reducible apply keeps_agreeSend
    | with_reducible apply keeps_command
    | with_reducible apply keeps_rollHalted
    | with_reducible apply keepsExe_bind
    | with_reducible apply keepsExe_pure
    | intro _
    | with_reducible apply keepsExe_ite

theorem keeps_execVarCounters {σ s : State} (H : Keeps σ s) (c : CmdRef) : KeepsOut σ (execVarCounters c s) := by
  unfold execVarCounters
  repeat' first
    | with_reducible apply keepsOut_next
    | with_reducible assumption
    | with_reducible apply keeps_command
    | with_reducible apply keepsExe_bind
    | with_reducible apply keepsExe_pure
    | intro _

end Sys2Proof.Laws
end

