-- ==== Sys2Proof/Laws/KeptLink.lean ====
section
/-! SUPPORT. What the operations of Machine/Link.lean keep: one lemma for each. -/

namespace Sys2Proof.Laws

open Sys2Proof Sys2Proof.Machine

theorem keeps_resendFlits {σ s : State} (H : Keeps σ s) (k : Nat) : Keeps σ (State.resendFlits s k) := by
  unfold State.resendFlits
  repeat' first
    | with_reducible assumption
    | with_reducible apply keeps_modPort
    | exact .same rfl rfl rfl
    | exact ⟨rfl, rfl, rfl, rfl, fun _ h => h⟩
    | with_reducible exact id
    | with_reducible apply keeps_ite
    | dsimp only
    | with_reducible refine Keeps.mk' ?_ ?_ ?_ ?_

theorem keeps_sendIdle {σ s : State} (H : Keeps σ s) (k : Nat) (nack : Bool) (credit : Nat) : Keeps σ (State.sendIdle s k nack credit) := by
  unfold State.sendIdle
  repeat' first
    | with_reducible assumption
    | exact .same rfl rfl rfl
    | exact ⟨rfl, rfl, rfl, rfl, fun _ h => h⟩
    | with_reducible exact id
    | dsimp only
    | with_reducible refine Keeps.mk' ?_ ?_ ?_ ?_

theorem keeps_flitHead {σ s : State} (H : Keeps σ s) (k : Nat) (f : List Byte) : Keeps σ (State.flitHead s k f) := by
  unfold State.flitHead
  repeat' first
    | with_reducible assumption
    | with_reducible apply keeps_modPort
    | with_reducible apply keeps_pumpPort
    | with_reducible apply keeps_resendFlits
    | with_reducible apply keeps_ite

theorem keeps_flitTaken {σ s : State} (H : Keeps σ s) (k ctl seq : Nat) (payload : List Byte) : Keeps σ (State.flitTaken s k ctl seq payload) := by
  unfold State.flitTaken
  repeat' first
    | with_reducible assumption
    | with_reducible apply keeps_modPort
    | with_reducible apply keeps_sendIdle

theorem keeps_execFlitReceive {σ s : State} (H : Keeps σ s) (port : PortRef) (codewordOk : Bool) (flit : List Byte) : KeepsOut σ (execFlitReceive port codewordOk flit s) := by
  unfold execFlitReceive
  repeat' first
    | with_reducible apply keepsOut_next
    | with_reducible assumption
    | with_reducible apply keeps_flitHead
    | with_reducible apply keeps_flitTaken
    | with_reducible apply keeps_modPort
    | with_reducible apply keeps_sendIdle
    | with_reducible apply keeps_ite

theorem keeps_execLinkAckTimeout {σ s : State} (H : Keeps σ s) (port : PortRef) : KeepsOut σ (execLinkAckTimeout port s) := by
  unfold execLinkAckTimeout
  repeat' first
    | with_reducible apply keepsOut_next
    | with_reducible assumption
    | with_reducible apply keeps_resendFlits
    | with_reducible apply keeps_ite

theorem keeps_execReplayExhausted {σ s : State} (H : Keeps σ s) (port : PortRef) : KeepsOut σ (execReplayExhausted port s) := by
  unfold execReplayExhausted
  repeat' first
    | with_reducible apply keepsOut_next
    | with_reducible assumption
    | with_reducible apply keeps_fault
    | with_reducible apply keeps_modPort
    | with_reducible apply keeps_ite

theorem keeps_execLaneRemove {σ s : State} (H : Keeps σ s) (port : PortRef) (lane : Nat) : KeepsOut σ (execLaneRemove port lane s) := by
  unfold execLaneRemove
  repeat' first
    | with_reducible apply keepsOut_next
    | with_reducible assumption
    | with_reducible apply keeps_modPort
    | with_reducible apply keeps_portDown
    | with_reducible apply keeps_ite

theorem keeps_sendProbe {σ s : State} (H : Keeps σ s) (k : Nat) : Keeps σ (State.sendProbe s k) := by
  unfold State.sendProbe
  repeat' first
    | with_reducible assumption
    | with_reducible apply keeps_transmit
    | with_reducible apply keeps_ite

theorem keeps_execPortRetrainDone {σ s : State} (H : Keeps σ s) (port : PortRef) (retrained : Bool) : KeepsOut σ (execPortRetrainDone port retrained s) := by
  unfold execPortRetrainDone
  repeat' first
    | with_reducible apply keepsOut_next
    | with_reducible assumption
    | with_reducible apply keeps_modPort
    | with_reducible apply keeps_portDown
    | with_reducible apply keeps_resendFlits
    | with_reducible apply keeps_sendProbe
    | with_reducible apply keeps_ite

theorem keeps_execProbeTimer {σ s : State} (H : Keeps σ s) (port : PortRef) : KeepsOut σ (execProbeTimer port s) := by
  unfold execProbeTimer
  repeat' first
    | with_reducible apply keepsOut_next
    | with_reducible assumption
    | with_reducible apply keeps_sendProbe
    | with_reducible apply keeps_ite

theorem keeps_execProbe {σ s : State} (H : Keeps σ s) (port : PortRef) (m : SpanMsg) : KeepsOut σ (execProbe port m s) := by
  unfold execProbe
  repeat' first
    | with_reducible apply keepsOut_next
    | with_reducible assumption
    | with_reducible apply keeps_discardOn
    | with_reducible apply keeps_modPort
    | with_reducible apply keeps_ite

theorem keeps_multicast {σ s : State} (H : Keeps σ s) (group kind flags src hops seq : Nat) (body : List Byte) : Keeps σ (State.multicast s group kind flags src hops seq body) := by
  unfold State.multicast
  repeat' first
    | with_reducible assumption
    | with_reducible apply keeps_discardOn
    | with_reducible apply keeps_transmit
    | with_reducible apply keeps_foldl
    | intro _
    | with_reducible apply keeps_ite

theorem keeps_execMessageForward {σ s : State} (H : Keeps σ s) (port : PortRef) (cls : Nat) (m : SpanMsg) : KeepsOut σ (execMessageForward port cls m s) := by
  unfold execMessageForward
  repeat' first
    | with_reducible apply keepsOut_next
    | with_reducible assumption
    | with_reducible apply keeps_answer
    | with_reducible apply keeps_discardOn
    | with_reducible apply keeps_multicast
    | with_reducible apply keeps_transmit
    | with_reducible apply keeps_ite
    | split

theorem keeps_execFenced {σ s : State} (H : Keeps σ s) (port : PortRef) (m : SpanMsg) : KeepsOut σ (execFenced port m s) := by
  unfold execFenced
  repeat' first
    | with_reducible apply keepsOut_next
    | with_reducible assumption
    | with_reducible apply keeps_discardOn
    | with_reducible apply keeps_failStop
    | with_reducible apply keeps_floodFenced
    | with_reducible apply keeps_recordFenced
    | with_reducible apply keeps_ite

theorem keeps_execHeartbeat {σ s : State} (H : Keeps σ s) (port : PortRef) (m : SpanMsg) : KeepsOut σ (execHeartbeat port m s) := by
  unfold execHeartbeat
  repeat' first
    | with_reducible apply keepsOut_next
    | with_reducible assumption
    | with_reducible apply keeps_discardOn
    | exact .same rfl rfl rfl
    | exact ⟨rfl, rfl, rfl, rfl, fun _ h => h⟩
    | with_reducible exact id
    | with_reducible apply keeps_ite
    | dsimp only
    | with_reducible refine Keeps.mk' ?_ ?_ ?_ ?_

theorem keeps_execHeartbeatSend {σ s : State} (H : Keeps σ s)  : KeepsOut σ (execHeartbeatSend s) := by
  unfold execHeartbeatSend
  repeat' first
    | with_reducible apply keepsOut_next
    | with_reducible assumption
    | with_reducible apply keeps_send
    | exact .same rfl rfl rfl
    | exact ⟨rfl, rfl, rfl, rfl, fun _ h => h⟩
    | with_reducible exact id
    | with_reducible apply keeps_ite
    | dsimp only
    | split
    | with_reducible refine Keeps.mk' ?_ ?_ ?_ ?_

theorem keeps_execHeartbeatMiss {σ s : State} (H : Keeps σ s)  : KeepsOut σ (execHeartbeatMiss s) := by
  unfold execHeartbeatMiss
  repeat' first
    | with_reducible apply keepsOut_next
    | with_reducible assumption
    | with_reducible apply keeps_floodFenced
    | with_reducible apply keeps_takeOver
    | exact .same rfl rfl rfl
    | exact ⟨rfl, rfl, rfl, rfl, fun _ h => h⟩
    | with_reducible exact id
    | with_reducible apply keeps_ite
    | dsimp only
    | split
    | with_reducible refine Keeps.mk' ?_ ?_ ?_ ?_

theorem keeps_execTakeover {σ s : State} (H : Keeps σ s) (port : PortRef) (m : SpanMsg) : KeepsOut σ (execTakeover port m s) := by
  unfold execTakeover
  repeat' first
    | with_reducible apply keepsOut_next
    | with_reducible assumption
    | with_reducible apply keeps_discardOn
    | with_reducible apply keeps_takeOver
    | with_reducible apply keeps_ite

end Sys2Proof.Laws
end

