-- ==== Sys2Proof/Laws/KeptManage.lean ====
section
/-! SUPPORT. What the operations of Machine/Manage.lean keep: one lemma for each. -/

namespace Sys2Proof.Laws

open Sys2Proof Sys2Proof.Machine

theorem keeps_modFlash {σ s : State} (H : Keeps σ s) {f : Flash → Flash} (hf : KeepsFlash s.ks.flash (f s.ks.flash)) : Keeps σ (s.modFlash f) :=
  H.trans ⟨rfl, .same rfl rfl rfl, hf, id⟩

theorem keeps_useNonce {σ s : State} (H : Keeps σ s) (n : List Byte) : Keeps σ (State.useNonce s n) := by
  unfold State.useNonce
  repeat' first
    | with_reducible assumption
    | exact .same rfl rfl rfl
    | exact ⟨rfl, rfl, rfl, rfl, fun _ h => h⟩
    | with_reducible exact id
    | dsimp only
    | with_reducible refine Keeps.mk' ?_ ?_ ?_ ?_

theorem keeps_mgmtOpen {σ s : State} {m : MgmtMsg} {code : Nat} {f : State → MgmtOut} (H : Keeps σ s)
    (hf : ∀ t, Keeps σ t → Keeps σ (f t).1) : Keeps σ (s.mgmtOpen m code f) := by
  unfold State.mgmtOpen
  have h := hf s H
  split
  · exact H
  · split
    · rename_i e; rw [e] at h; exact keeps_mgmtReply h _ _ _ _
    · rename_i e; rw [e] at h; exact h

theorem keeps_mgmtSigned {σ s : State} {m : MgmtMsg} {code : Nat} {ok : Bool} {f : State → MgmtOut} (H : Keeps σ s)
    (hf : ∀ t, Keeps σ t → Keeps σ (f t).1) : Keeps σ (s.mgmtSigned m code ok f) := by
  unfold State.mgmtSigned
  split
  · exact H
  · refine keeps_mgmtOpen H fun t ht => ?_
    split
    · exact ht
    · exact hf _ (keeps_useNonce ht _)

theorem keeps_mgmtDone {σ s : State} (H : Keeps σ s) (st : Nat) : Keeps σ (mgmtDone s st).1 := by
  unfold mgmtDone
  repeat' first
    | with_reducible assumption

theorem keeps_mgmtInterrupt {σ s : State} (H : Keeps σ s)  : Keeps σ (State.mgmtInterrupt s) := by
  unfold State.mgmtInterrupt
  repeat' first
    | with_reducible assumption
    | with_reducible apply keeps_mgmtReply
    | with_reducible apply keeps_foldl
    | exact .same rfl rfl rfl
    | exact ⟨rfl, rfl, rfl, rfl, fun _ h => h⟩
    | with_reducible exact id
    | intro _
    | dsimp only
    | split
    | with_reducible refine Keeps.mk' ?_ ?_ ?_ ?_

theorem keeps_execNonce {σ s : State} (H : Keeps σ s) (m : MgmtMsg) (fresh : List Byte) : KeepsOut σ (execNonce m fresh s) := by
  unfold execNonce
  repeat' first
    | with_reducible apply keepsOut_next
    | with_reducible assumption
    | with_reducible apply keeps_mgmtOpen
    | exact .same rfl rfl rfl
    | exact ⟨rfl, rfl, rfl, rfl, fun _ h => h⟩
    | with_reducible exact id
    | intro _
    | dsimp only
    | with_reducible refine Keeps.mk' ?_ ?_ ?_ ?_

theorem keeps_execMgmtStatus {σ s : State} (H : Keeps σ s) (m : MgmtMsg) : KeepsOut σ (execMgmtStatus m s) := by
  unfold execMgmtStatus
  repeat' first
    | with_reducible apply keepsOut_next
    | with_reducible assumption
    | with_reducible apply keeps_mgmtOpen
    | with_reducible exact id
    | intro _

theorem keeps_execThawHost {σ s : State} (H : Keeps σ s) (m : MgmtMsg) : KeepsOut σ (execThawHost m s) := by
  unfold execThawHost
  repeat' first
    | with_reducible apply keepsOut_next
    | with_reducible assumption
    | with_reducible apply keeps_mgmtDone
    | with_reducible apply keeps_mgmtSigned
    | with_reducible apply keeps_modHost
    | exact .same rfl rfl rfl
    | exact ⟨rfl, rfl, rfl, rfl, fun _ h => h⟩
    | with_reducible exact id
    | intro _
    | dsimp only
    | split
    | with_reducible refine Keeps.mk' ?_ ?_ ?_ ?_

theorem keeps_execSetPrimary {σ s : State} (H : Keeps σ s) (m : MgmtMsg) : KeepsOut σ (execSetPrimary m s) := by
  unfold execSetPrimary
  repeat' first
    | with_reducible apply keepsOut_next
    | with_reducible assumption
    | with_reducible apply keeps_event
    | with_reducible apply keeps_mgmtDone
    | with_reducible apply keeps_mgmtSigned
    | exact .same rfl rfl rfl
    | exact ⟨rfl, rfl, rfl, rfl, fun _ h => h⟩
    | with_reducible exact id
    | intro _
    | dsimp only
    | split
    | with_reducible refine Keeps.mk' ?_ ?_ ?_ ?_

theorem keeps_execFailStop {σ s : State} (H : Keeps σ s) (m : MgmtMsg) : KeepsOut σ (execFailStop m s) := by
  unfold execFailStop
  repeat' first
    | with_reducible apply keepsOut_next
    | with_reducible assumption
    | with_reducible apply keeps_failStop
    | with_reducible apply keeps_mgmtDone
    | with_reducible apply keeps_mgmtInterrupt
    | with_reducible apply keeps_mgmtSigned
    | intro _
    | split

theorem keeps_execFieldTest {σ s : State} (H : Keeps σ s) (m : MgmtMsg) : KeepsOut σ (execFieldTest m s) := by
  unfold execFieldTest
  repeat' first
    | with_reducible apply keepsOut_next
    | with_reducible assumption
    | with_reducible apply keeps_mgmtDone
    | with_reducible apply keeps_mgmtSigned
    | with_reducible apply keeps_startTest
    | intro _
    | dsimp only
    | split

theorem keeps_execSetCak {σ s : State} (H : Keeps σ s) (m : MgmtMsg) (cakOk : Bool) : KeepsOut σ (execSetCak m cakOk s) := by
  unfold execSetCak
  repeat' first
    | with_reducible apply keepsOut_next
    | with_reducible assumption
    | with_reducible apply keeps_mgmtDone
    | with_reducible apply keeps_mgmtSigned
    | with_reducible apply keeps_modItf
    | intro _
    | dsimp only
    | split

theorem keeps_execSetTai {σ s : State} (H : Keeps σ s) (m : MgmtMsg) : KeepsOut σ (execSetTai m s) := by
  unfold execSetTai
  repeat' first
    | with_reducible apply keepsOut_next
    | with_reducible assumption
    | with_reducible apply keeps_mgmtDone
    | with_reducible apply keeps_mgmtSigned
    | exact .same rfl rfl rfl
    | exact ⟨rfl, rfl, rfl, rfl, fun _ h => h⟩
    | with_reducible exact id
    | intro _
    | dsimp only
    | split
    | with_reducible refine Keeps.mk' ?_ ?_ ?_ ?_

theorem keeps_execUpdateChunk {σ s : State} (H : Keeps σ s) (m : MgmtMsg) : KeepsOut σ (execUpdateChunk m s) := by
  unfold execUpdateChunk
  repeat' first
    | with_reducible apply keepsOut_next
    | with_reducible assumption
    | with_reducible apply keeps_mgmtDone
    | with_reducible apply keeps_mgmtOpen
    | with_reducible apply keeps_modFlash
    | exact ⟨rfl, rfl, rfl, rfl, fun _ h => h⟩
    | intro _
    | dsimp only
    | split

theorem keeps_execUpdateCommit {σ s : State} (H : Keeps σ s) (m : MgmtMsg) (ks es : SignedHdr) : KeepsOut σ (execUpdateCommit m ks es s) := by
  unfold execUpdateCommit
  repeat' first
    | with_reducible apply keepsOut_next
    | with_reducible assumption
    | with_reducible apply keeps_mgmtDone
    | with_reducible apply keeps_mgmtSigned
    | with_reducible apply keeps_modFlash
    | exact ⟨rfl, rfl, rfl, rfl, fun _ h => h⟩
    | intro _
    | dsimp only
    | split

theorem keeps_execFaultLogFlush {σ s : State} (H : Keeps σ s) : KeepsOut σ (execFaultLogFlush s) := by
  unfold execFaultLogFlush
  refine keepsOut_next ?_
  split
  · exact H
  · exact H.trans ⟨rfl, .same rfl rfl rfl, .logged _ _ _, id⟩

end Sys2Proof.Laws
end

