-- ==== Sys2Proof/Laws/KeptMessage.lean ====
section
/-! SUPPORT. What the operations of Machine/Message.lean keep: one lemma for each. -/

namespace Sys2Proof.Laws

open Sys2Proof Sys2Proof.Machine

theorem keeps_resendFrom {σ s : State} (H : Keeps σ s) (dst chan : Nat) (t : Unacked → Bool) : Keeps σ (State.resendFrom s dst chan t) := by
  unfold State.resendFrom
  repeat' first
    | with_reducible assumption
    | with_reducible apply keeps_emit
    | with_reducible apply keeps_foldl
    | intro _

theorem keeps_execMsgResendTimeout {σ s : State} (H : Keeps σ s) (dst chan : Nat) : KeepsOut σ (execMsgResendTimeout dst chan s) := by
  unfold execMsgResendTimeout
  repeat' first
    | with_reducible apply keepsOut_next
    | with_reducible assumption
    | with_reducible apply keeps_resendFrom
    | with_reducible apply keeps_ite

theorem keeps_execDeferredResend {σ s : State} (H : Keeps σ s) (dst chan seq : Nat) : KeepsOut σ (execDeferredResend dst chan seq s) := by
  unfold execDeferredResend
  repeat' first
    | with_reducible apply keepsOut_next
    | with_reducible assumption
    | with_reducible apply keeps_resendFrom
    | exact .same rfl rfl rfl
    | exact ⟨rfl, rfl, rfl, rfl, fun _ h => h⟩
    | with_reducible exact id
    | with_reducible apply keeps_ite
    | dsimp only
    | with_reducible refine Keeps.mk' ?_ ?_ ?_ ?_

theorem keeps_answered {σ s : State} (H : Keeps σ s) (m : SpanMsg) : Keeps σ (State.answered s m) := by
  unfold State.answered
  repeat' first
    | with_reducible assumption
    | with_reducible apply keeps_acked

theorem keeps_execPutAck {σ s : State} (H : Keeps σ s) (die : Nat) (m : SpanMsg) : KeepsOut σ (execPutAck die m s) := by
  unfold execPutAck
  repeat' first
    | with_reducible apply keepsOut_next
    | with_reducible assumption
    | with_reducible apply keeps_id
    | with_reducible apply keeps_answered
    | with_reducible apply keeps_recv
    | with_reducible apply keeps_srcSettle
    | intro _
    | split

theorem keeps_execGetData {σ s : State} (H : Keeps σ s) (die : Nat) (m : SpanMsg) : KeepsOut σ (execGetData die m s) := by
  unfold execGetData
  repeat' first
    | with_reducible apply keepsOut_next
    | with_reducible assumption
    | with_reducible apply keeps_id
    | with_reducible apply keeps_answered
    | with_reducible apply keeps_discardMsg
    | with_reducible apply keeps_recv
    | exact .same rfl rfl rfl
    | exact ⟨rfl, rfl, rfl, rfl, fun _ h => h⟩
    | intro _
    | with_reducible apply store_wf
    | dsimp only
    | split
    | with_reducible refine Keeps.mk' ?_ ?_ ?_ ?_

theorem keeps_slotGoesOn {σ s : State} (H : Keeps σ s) (die n : Nat) : Keeps σ (State.slotGoesOn s die n) := by
  unfold State.slotGoesOn
  repeat' first
    | with_reducible assumption
    | with_reducible apply keeps_pump
    | with_reducible apply keeps_tryRetract
    | with_reducible apply keeps_trySeal

theorem keeps_refused {σ s : State} (H : Keeps σ s) (u : Unacked) (st : Nat) : Keeps σ (State.refused s u st) := by
  unfold State.refused
  repeat' first
    | with_reducible assumption
    | with_reducible apply keeps_freezeBayAt
    | with_reducible apply keeps_slotGoesOn
    | with_reducible apply keeps_srcSettle
    | with_reducible apply keeps_ite
    | dsimp only
    | split

theorem keeps_execNak {σ s : State} (H : Keeps σ s) (die : Nat) (m : SpanMsg) : KeepsOut σ (execNak die m s) := by
  unfold execNak
  repeat' first
    | with_reducible apply keepsOut_next
    | with_reducible assumption
    | with_reducible apply keeps_id
    | with_reducible apply keeps_answered
    | with_reducible apply keeps_recv
    | with_reducible apply keeps_refused
    | exact .same rfl rfl rfl
    | exact ⟨rfl, rfl, rfl, rfl, fun _ h => h⟩
    | with_reducible exact id
    | intro _
    | dsimp only
    | split
    | with_reducible refine Keeps.mk' ?_ ?_ ?_ ?_

theorem keeps_accepted {σ s : State} (H : Keeps σ s) (m : SpanMsg) (c : List Nat) : Keeps σ (State.accepted s m c) := by
  unfold State.accepted
  repeat' first
    | with_reducible assumption
    | with_reducible apply keeps_modSlot
    | with_reducible apply keeps_slotGoesOn
    | with_reducible apply keeps_ite
    | dsimp only
    | split

theorem keeps_execMsgAck {σ s : State} (H : Keeps σ s) (die : Nat) (m : SpanMsg) : KeepsOut σ (execMsgAck die m s) := by
  unfold execMsgAck
  repeat' first
    | with_reducible apply keepsOut_next
    | with_reducible assumption
    | with_reducible apply keeps_id
    | with_reducible apply keeps_accepted
    | with_reducible apply keeps_answered
    | with_reducible apply keeps_recv
    | intro _
    | split

theorem keeps_spanRefuse {σ s : State} (H : Keeps σ s) (m : SpanMsg) (st : Nat) : Keeps σ (State.spanRefuse s m st).1 := by
  unfold State.spanRefuse
  repeat' first
    | with_reducible assumption
    | with_reducible apply keeps_freeze
    | split

theorem keeps_reqRecv {σ s : State} {die kind : Nat} {m : SpanMsg} {ok : Bool} {f : State → State × Answer} {dup : State → State} (H : Keeps σ s)
    (hf : ∀ t, Keeps σ t → Keeps σ (f t).1) (hd : ∀ t, Keeps σ t → Keeps σ (dup t)) : Keeps σ (s.reqRecv die kind m ok f dup) := by
  unfold State.reqRecv
  split
  · exact H
  · exact keeps_recv H hf hd

theorem keeps_putBegin {σ s : State} (H : Keeps σ s) (die : Nat) (m : SpanMsg) (rs : List (Nat × Nat × Nat × Nat)) : Keeps σ (State.putBegin s die m rs) := by
  unfold State.putBegin
  repeat' first
    | with_reducible assumption
    | with_reducible apply keeps_modBay
    | with_reducible apply keeps_modDie
    | with_reducible apply keeps_foldl
    | intro _

theorem keeps_putStore {σ s : State} (H : Keeps σ s) (die : Nat) (m : SpanMsg) (d : Desc) : Keeps σ (State.putStore s die m d) := by
  unfold State.putStore
  repeat' first
    | with_reducible assumption
    | with_reducible apply keeps_modSealsDie
    | exact .same rfl rfl rfl
    | exact ⟨rfl, rfl, rfl, rfl, fun _ h => h⟩
    | intro _
    | with_reducible apply store_wf
    | with_reducible apply keeps_ite
    | with_reducible refine Keeps.mk' ?_ ?_ ?_ ?_

theorem keeps_execPut {σ s : State} (H : Keeps σ s) (die : Nat) (m : SpanMsg) : KeepsOut σ (execPut die m s) := by
  unfold execPut
  repeat' first
    | with_reducible apply keepsOut_next
    | with_reducible assumption
    | with_reducible apply keeps_id
    | with_reducible apply keeps_putBegin
    | with_reducible apply keeps_putStore
    | with_reducible apply keeps_reqRecv
    | with_reducible apply keeps_spanRefuse
    | intro _
    | with_reducible apply keeps_ite
    | dsimp only
    | split

theorem keeps_endTargets {σ s : State} (H : Keeps σ s) (die : Nat) (m : SpanMsg) (f : SealEnt → SealEnt) : Keeps σ (State.endTargets s die m f) := by
  unfold State.endTargets
  repeat' first
    | with_reducible assumption
    | with_reducible apply keeps_modDie
    | with_reducible apply keeps_modSealsDie
    | with_reducible apply keeps_foldl
    | intro _

theorem keeps_execSrcSeal {σ s : State} (H : Keeps σ s) (die : Nat) (m : SpanMsg) : KeepsOut σ (execSrcSeal die m s) := by
  unfold execSrcSeal
  repeat' first
    | with_reducible apply keepsOut_next
    | with_reducible assumption
    | with_reducible apply keeps_id
    | with_reducible apply keeps_endTargets
    | with_reducible apply keeps_reqRecv
    | intro _

theorem keeps_execSrcRetract {σ s : State} (H : Keeps σ s) (die : Nat) (m : SpanMsg) : KeepsOut σ (execSrcRetract die m s) := by
  unfold execSrcRetract
  repeat' first
    | with_reducible apply keepsOut_next
    | with_reducible assumption
    | with_reducible apply keeps_id
    | with_reducible apply keeps_endTargets
    | with_reducible apply keeps_reqRecv
    | intro _

theorem keeps_serveGet {σ s : State} (H : Keeps σ s) (m : SpanMsg) : Keeps σ (State.serveGet s m) := by
  unfold State.serveGet
  repeat' first
    | with_reducible assumption
    | with_reducible apply keeps_emit

theorem keeps_execGet {σ s : State} (H : Keeps σ s) (die : Nat) (m : SpanMsg) : KeepsOut σ (execGet die m s) := by
  unfold execGet
  repeat' first
    | with_reducible apply keepsOut_next
    | with_reducible assumption
    | with_reducible apply keeps_modDie
    | with_reducible apply keeps_reqRecv
    | with_reducible apply keeps_serveGet
    | with_reducible apply keeps_spanRefuse
    | intro _
    | split

theorem keeps_gatherServe {σ s : State} (H : Keeps σ s) (die idx : Nat) (to_ : Option Nat) (seq : Nat) : Keeps σ (State.gatherServe s die idx to_ seq) := by
  unfold State.gatherServe
  repeat' first
    | with_reducible assumption
    | with_reducible apply keeps_emit
    | with_reducible apply keeps_multicast
    | with_reducible apply keeps_foldl
    | intro _
    | dsimp only
    | split

theorem keeps_execGatherReq {σ s : State} (H : Keeps σ s) (die : Nat) (m : SpanMsg) : KeepsOut σ (execGatherReq die m s) := by
  unfold execGatherReq
  repeat' first
    | with_reducible apply keepsOut_next
    | with_reducible assumption
    | with_reducible apply keeps_answer
    | with_reducible apply keeps_gatherServe
    | with_reducible apply keeps_modDie
    | with_reducible apply keeps_recv
    | intro _
    | split

theorem keeps_heldServed {σ s : State} (H : Keeps σ s) (m : SpanMsg) : Keeps σ (State.heldServed s m) := by
  unfold State.heldServed
  repeat' first
    | with_reducible assumption
    | exact .same rfl rfl rfl
    | exact ⟨rfl, rfl, rfl, rfl, fun _ h => h⟩
    | with_reducible exact id
    | dsimp only
    | with_reducible refine Keeps.mk' ?_ ?_ ?_ ?_

theorem keeps_execHeldGetResume {σ s : State} (H : Keeps σ s) (die held : Nat) : KeepsOut σ (execHeldGetResume die held s) := by
  unfold execHeldGetResume
  repeat' first
    | with_reducible apply keepsOut_next
    | with_reducible assumption
    | with_reducible apply keeps_gatherServe
    | with_reducible apply keeps_heldServed
    | with_reducible apply keeps_modDie
    | with_reducible apply keeps_serveGet
    | with_reducible apply keeps_foldl
    | intro _
    | with_reducible apply keeps_ite
    | split

theorem keeps_gatherTaken {σ s : State} (H : Keeps σ s) (e step : Nat) (g : Gather) (d : Desc) (p n : Nat) (incl data : List Byte) : Keeps σ (State.gatherTaken s e step g d p n incl data) := by
  unfold State.gatherTaken
  repeat' first
    | with_reducible assumption
    | with_reducible apply keeps_acked
    | with_reducible apply keeps_modSealsDie
    | with_reducible apply keeps_foldl
    | exact .same rfl rfl rfl
    | exact ⟨rfl, rfl, rfl, rfl, fun _ h => h⟩
    | intro _
    | with_reducible apply wrByte_wf
    | with_reducible apply store_wf
    | with_reducible apply foldl_wf
    | with_reducible apply keeps_ite
    | dsimp only
    | split
    | with_reducible refine Keeps.mk' ?_ ?_ ?_ ?_

theorem keeps_execGatherData {σ s : State} (H : Keeps σ s) (die : Nat) (m : SpanMsg) : KeepsOut σ (execGatherData die m s) := by
  unfold execGatherData
  repeat' first
    | with_reducible apply keepsOut_next
    | with_reducible assumption
    | with_reducible apply keeps_id
    | with_reducible apply keeps_gatherTaken
    | with_reducible apply keeps_recv
    | intro _
    | dsimp only
    | split

theorem keeps_execReplicaDigest {σ s : State} (H : Keeps σ s) (die : Nat) (m : SpanMsg) : KeepsOut σ (execReplicaDigest die m s) := by
  unfold execReplicaDigest
  repeat' first
    | with_reducible apply keepsOut_next
    | with_reducible assumption
    | with_reducible apply keeps_id
    | with_reducible apply keeps_event
    | with_reducible apply keeps_recv
    | with_reducible apply keeps_send
    | intro _
    | dsimp only
    | split

theorem keeps_refetchCopy {σ s : State} (H : Keeps σ s) (e step : Nat) (g : Gather) : Keeps σ (State.refetchCopy s e step g) := by
  unfold State.refetchCopy
  repeat' first
    | with_reducible assumption
    | with_reducible apply keeps_modBay
    | with_reducible apply keeps_refetch
    | with_reducible apply keeps_testBay
    | with_reducible apply keeps_foldl
    | intro _
    | with_reducible apply keeps_ite

theorem keeps_execRefetch {σ s : State} (H : Keeps σ s) (die : Nat) (m : SpanMsg) : KeepsOut σ (execRefetch die m s) := by
  unfold execRefetch
  repeat' first
    | with_reducible apply keepsOut_next
    | with_reducible assumption
    | with_reducible apply keeps_id
    | with_reducible apply keeps_recv
    | with_reducible apply keeps_refetchCopy
    | intro _
    | dsimp only
    | split

theorem keeps_execDigests {σ s : State} (H : Keeps σ s) (die : Nat) (m : SpanMsg) : KeepsOut σ (execDigests die m s) := by
  unfold execDigests
  repeat' first
    | with_reducible apply keepsOut_next
    | with_reducible assumption
    | with_reducible apply keeps_id
    | with_reducible apply keeps_discardMsg
    | with_reducible apply keeps_modDie
    | with_reducible apply keeps_recv
    | intro _
    | dsimp only
    | split

theorem keeps_agreeTaken {σ s : State} (H : Keeps σ s) (die key what : Nat) (c : Consume) (ownerA : List Byte) : Keeps σ (State.agreeTaken s die key what c ownerA) := by
  unfold State.agreeTaken
  repeat' first
    | with_reducible assumption
    | with_reducible apply keeps_agreeCons
    | with_reducible apply keeps_logStage
    | with_reducible apply keeps_peerSend
    | with_reducible apply keeps_rollHalted
    | with_reducible apply keeps_takeRecomputed
    | with_reducible apply keeps_testVarnish
    | with_reducible apply keeps_unresolved
    | with_reducible apply keeps_ite
    | dsimp only
    | split

theorem keeps_execAgree {σ s : State} (H : Keeps σ s) (die : Nat) (m : SpanMsg) : KeepsOut σ (execAgree die m s) := by
  unfold execAgree
  repeat' first
    | with_reducible apply keepsOut_next
    | with_reducible assumption
    | with_reducible apply keeps_id
    | with_reducible apply keeps_agreeTaken
    | with_reducible apply keeps_discardMsg
    | with_reducible apply keeps_recv
    | intro _
    | dsimp only
    | split

theorem keeps_pairStore {σ s : State} (H : Keeps σ s) (h : Shard) (j : Nat) (b : List Byte) : Keeps σ (State.pairStore s h j b) := by
  unfold State.pairStore
  repeat' first
    | with_reducible assumption
    | with_reducible apply keeps_wrAnchor
    | with_reducible apply keeps_wrCopy

theorem keeps_execRecordPair {σ s : State} (H : Keeps σ s) (die : Nat) (m : SpanMsg) : KeepsOut σ (execRecordPair die m s) := by
  unfold execRecordPair
  repeat' first
    | with_reducible apply keepsOut_next
    | with_reducible assumption
    | with_reducible apply keeps_id
    | with_reducible apply keeps_discardMsg
    | with_reducible apply keeps_modDie
    | with_reducible apply keeps_pairStore
    | with_reducible apply keeps_recv
    | intro _
    | dsimp only
    | split

theorem keeps_wcStore {σ s : State} (H : Keeps σ s) (die n : Nat) (d : Desc) (body : List Byte) : Keeps σ (State.wcStore s die n d body) := by
  unfold State.wcStore
  repeat' first
    | with_reducible assumption
    | with_reducible apply keeps_wcEncode
    | with_reducible apply keeps_wcWrite
    | with_reducible apply keeps_foldl
    | intro _
    | with_reducible apply keeps_ite

theorem keeps_execWcBlocks {σ s : State} (H : Keeps σ s) (die : Nat) (m : SpanMsg) : KeepsOut σ (execWcBlocks die m s) := by
  unfold execWcBlocks
  repeat' first
    | with_reducible apply keepsOut_next
    | with_reducible assumption
    | with_reducible apply keeps_id
    | with_reducible apply keeps_discardMsg
    | with_reducible apply keeps_recv
    | with_reducible apply keeps_wcStore
    | intro _
    | split

end Sys2Proof.Laws
end

