-- ==== Sys2Proof/Laws/KeptNetwork.lean ====
section
/-! SUPPORT. What the operations of Machine/Network.lean keep: one lemma for each. -/

namespace Sys2Proof.Laws

open Sys2Proof Sys2Proof.Machine

theorem keeps_execViaPort {σ s : State} (H : Keeps σ s) (c : CmdRef) : KeepsOut σ (execViaPort c s) := by
  unfold execViaPort
  repeat' first
    | with_reducible apply keepsOut_next
    | with_reducible assumption
    | with_reducible apply keeps_command
    | with_reducible apply keeps_modVport
    | with_reducible apply keepsExe_bind
    | with_reducible apply keepsExe_pure
    | intro _

theorem keeps_execViaSessionLoad {σ s : State} (H : Keeps σ s) (c : CmdRef) : KeepsOut σ (execViaSessionLoad c s) := by
  unfold execViaSessionLoad
  repeat' first
    | with_reducible apply keepsOut_next
    | with_reducible assumption
    | with_reducible apply keeps_command
    | with_reducible apply keepsExe_bind
    | with_reducible apply keepsExe_pure
    | exact .same rfl rfl rfl
    | exact ⟨rfl, rfl, rfl, rfl, fun _ h => h⟩
    | with_reducible exact id
    | intro _
    | dsimp only
    | with_reducible refine Keeps.mk' ?_ ?_ ?_ ?_

theorem keeps_execViaSessionOpen {σ s : State} (H : Keeps σ s) (c : CmdRef) : KeepsOut σ (execViaSessionOpen c s) := by
  unfold execViaSessionOpen
  repeat' first
    | with_reducible apply keepsOut_next
    | with_reducible assumption
    | with_reducible apply keeps_command
    | with_reducible apply keeps_modSess
    | with_reducible apply keeps_openSend
    | with_reducible apply keepsExe_bind
    | with_reducible apply keepsExe_pure
    | intro _

theorem keeps_execViaSessionClose {σ s : State} (H : Keeps σ s) (c : CmdRef) : KeepsOut σ (execViaSessionClose c s) := by
  unfold execViaSessionClose
  repeat' first
    | with_reducible apply keepsOut_next
    | with_reducible assumption
    | with_reducible apply keeps_closeSession
    | with_reducible apply keeps_command
    | with_reducible apply keepsExe_bind
    | with_reducible apply keepsExe_pure
    | intro _

theorem keeps_execViaOuter {σ s : State} (H : Keeps σ s) (c : CmdRef) : KeepsOut σ (execViaOuter c s) := by
  unfold execViaOuter
  repeat' first
    | with_reducible apply keepsOut_next
    | with_reducible assumption
    | with_reducible apply keeps_command
    | with_reducible apply keeps_modJob
    | with_reducible apply keepsExe_bind
    | with_reducible apply keepsExe_pure
    | intro _

theorem keeps_setFrags {σ s : State} (H : Keeps σ s) (a : Nat) (fs : List Frag) : Keeps σ (State.setFrags s a fs) := by
  unfold State.setFrags
  repeat' first
    | with_reducible assumption
    | exact .same rfl rfl rfl
    | exact ⟨rfl, rfl, rfl, rfl, fun _ h => h⟩
    | with_reducible exact id
    | dsimp only
    | with_reducible refine Keeps.mk' ?_ ?_ ?_ ?_

theorem keeps_execViaFragments {σ s : State} (H : Keeps σ s) (c : CmdRef) : KeepsOut σ (execViaFragments c s) := by
  unfold execViaFragments
  repeat' first
    | with_reducible apply keepsOut_next
    | with_reducible assumption
    | with_reducible apply keeps_command
    | with_reducible apply keeps_setFrags
    | with_reducible apply keepsExe_bind
    | with_reducible apply keepsExe_pure
    | intro _

theorem keeps_execViaLog {σ s : State} (H : Keeps σ s) (c : CmdRef) : KeepsOut σ (execViaLog c s) := by
  unfold execViaLog
  repeat' first
    | with_reducible apply keepsOut_next
    | with_reducible assumption
    | with_reducible apply keeps_command
    | with_reducible apply keepsExe_bind
    | with_reducible apply keepsExe_pure
    | intro _

theorem keeps_execViaTime {σ s : State} (H : Keeps σ s) (c : CmdRef) : KeepsOut σ (execViaTime c s) := by
  unfold execViaTime
  repeat' first
    | with_reducible apply keepsOut_next
    | with_reducible assumption
    | with_reducible apply keeps_command
    | with_reducible apply keeps_modTime
    | with_reducible apply keepsExe_bind
    | with_reducible apply keepsExe_pure
    | intro _

theorem keeps_execViaStatus {σ s : State} (H : Keeps σ s) (c : CmdRef) : KeepsOut σ (execViaStatus c s) := by
  unfold execViaStatus
  repeat' first
    | with_reducible apply keepsOut_next
    | with_reducible assumption
    | with_reducible apply keeps_command
    | with_reducible apply keepsExe_bind
    | with_reducible apply keepsExe_pure
    | intro _

end Sys2Proof.Laws
end

