-- ==== Sys2Proof/Laws/KeptPower.lean ====
section
/-! SUPPORT. What the operations of Machine/Power.lean keep: one lemma for each. -/

namespace Sys2Proof.Laws

open Sys2Proof Sys2Proof.Machine

/-- A reset with POR_N high. -/
theorem keeps_afterReset {σ s : State} (H : Keeps σ s) (r : Bool) : Keeps σ (s.afterReset true r) :=
  H.trans ⟨rfl, ⟨rfl, rfl, fun h => h⟩, .same rfl, fun _ => wf_nil⟩

theorem keeps_execPorNRise {σ s : State} (H : Keeps σ s)  : KeepsOut σ (execPorNRise s) := by
  unfold execPorNRise
  repeat' first
    | with_reducible apply keepsOut_next
    | with_reducible assumption
    | exact .same rfl rfl rfl
    | exact ⟨rfl, rfl, rfl, rfl, fun _ h => h⟩
    | with_reducible exact id
    | with_reducible apply keeps_ite
    | dsimp only
    | with_reducible refine Keeps.mk' ?_ ?_ ?_ ?_

theorem keeps_execDevReset {σ s : State} (H : Keeps σ s) (c : CmdRef) : KeepsOut σ (execDevReset c s) := by
  unfold execDevReset
  repeat' first
    | with_reducible apply keepsOut_next
    | with_reducible assumption
    | with_reducible apply keeps_afterReset
    | with_reducible apply keeps_command
    | with_reducible apply keeps_writeResponse
    | with_reducible apply keepsExe_bind
    | with_reducible apply keepsExe_pure
    | intro _
    | with_reducible apply keeps_ite

theorem keeps_logBoot {σ s : State} (H : Keeps σ s) (level action die status unit : Nat) : Keeps σ (State.logBoot s level action die status unit) := by
  unfold State.logBoot
  repeat' first
    | with_reducible assumption
    | with_reducible apply keeps_logFault

theorem keeps_bootFail {σ s : State} (H : Keeps σ s) (status : Nat) : Keeps σ (State.bootFail s status) := by
  unfold State.bootFail
  repeat' first
    | with_reducible assumption
    | exact .same rfl rfl rfl
    | exact ⟨rfl, rfl, rfl, rfl, fun _ h => h⟩
    | with_reducible exact id
    | dsimp only
    | with_reducible refine Keeps.mk' ?_ ?_ ?_ ?_

theorem keeps_nextStage {σ s : State} (H : Keeps σ s)  : Keeps σ (State.nextStage s) := by
  unfold State.nextStage
  repeat' first
    | with_reducible assumption
    | exact .same rfl rfl rfl
    | exact ⟨rfl, rfl, rfl, rfl, fun _ h => h⟩
    | with_reducible exact id
    | dsimp only
    | with_reducible refine Keeps.mk' ?_ ?_ ?_ ?_

theorem keeps_setDom {σ s : State} (H : Keeps σ s) (die idx : Nat) (x : DomState) : Keeps σ (State.setDom s die idx x) := by
  unfold State.setDom
  repeat' first
    | with_reducible assumption
    | exact .same rfl rfl rfl
    | exact ⟨rfl, rfl, rfl, rfl, fun _ h => h⟩
    | with_reducible exact id
    | dsimp only
    | with_reducible refine Keeps.mk' ?_ ?_ ?_ ?_

theorem keeps_settlePlls {σ s : State} (H : Keeps σ s)  : Keeps σ (State.settlePlls s) := by
  unfold State.settlePlls
  repeat' first
    | with_reducible assumption
    | exact .same rfl rfl rfl
    | exact ⟨rfl, rfl, rfl, rfl, fun _ h => h⟩
    | with_reducible exact id
    | dsimp only
    | with_reducible refine Keeps.mk' ?_ ?_ ?_ ?_

theorem keeps_powerOn {σ s : State} (H : Keeps σ s) (is : List Nat) : Keeps σ (State.powerOn s is) := by
  unfold State.powerOn
  repeat' first
    | with_reducible assumption
    | with_reducible apply keeps_setDom
    | with_reducible apply keeps_settlePlls
    | with_reducible apply keeps_foldl
    | intro _

theorem keeps_tryBoot {σ s : State} (H : Keeps σ s) (low : Bool) (cs : List Candidate) : Keeps σ (s.tryBoot low cs) := by
  induction cs generalizing s low with
  | nil => exact keeps_bootFail H _
  | cons c cs ih =>
    unfold State.tryBoot
    split
    · exact ih (keeps_logBoot H _ _ _ _ _) _
    · split
      · exact ih (keeps_logBoot H _ _ _ _ _) _
      · exact keeps_nextStage (H.trans ⟨rfl, .same rfl rfl rfl, .same rfl, id⟩)

theorem keeps_stageRom {σ s : State} (H : Keeps σ s) (selfTest avsOk : List Bool) (cool : Bool) (state0 state1 : Nat) (h0 h1 : SignedHdr) : Keeps σ (State.stageRom s selfTest avsOk cool state0 state1 h0 h1) := by
  unfold State.stageRom
  repeat' first
    | with_reducible assumption
    | with_reducible apply keeps_bootFail
    | with_reducible apply keeps_logBoot
    | with_reducible apply keeps_modFlash
    | with_reducible apply keeps_powerOn
    | with_reducible apply keeps_tryBoot
    | exact .same rfl rfl rfl
    | exact ⟨rfl, rfl, rfl, rfl, fun _ h => h⟩
    | with_reducible exact id
    | with_reducible apply keeps_ite
    | dsimp only
    | split
    | with_reducible refine Keeps.mk' ?_ ?_ ?_ ?_

theorem keeps_stageConfig {σ s : State} (H : Keeps σ s) (h : SignedHdr) (r : ConfigRecord) (easel : SignedHdr) (clusterOk : List Bool) : Keeps σ (State.stageConfig s h r easel clusterOk) := by
  unfold State.stageConfig
  repeat' first
    | with_reducible assumption
    | with_reducible apply keeps_bootFail
    | with_reducible apply keeps_nextStage
    | exact .same rfl rfl rfl
    | exact ⟨rfl, rfl, rfl, rfl, fun _ h => h⟩
    | with_reducible exact id
    | with_reducible apply keeps_ite
    | dsimp only
    | with_reducible refine Keeps.mk' ?_ ?_ ?_ ?_

theorem keeps_stagePuf {σ s : State} (H : Keeps σ s) (unwrapped hashOk debugOpens : Bool) : Keeps σ (State.stagePuf s unwrapped hashOk debugOpens) := by
  unfold State.stagePuf
  repeat' first
    | with_reducible assumption
    | with_reducible apply keeps_bootFail
    | with_reducible apply keeps_mgmtRelease
    | with_reducible apply keeps_nextStage
    | exact .same rfl rfl rfl
    | exact ⟨rfl, rfl, rfl, rfl, fun _ h => h⟩
    | with_reducible exact id
    | with_reducible apply keeps_ite
    | dsimp only
    | split
    | with_reducible refine Keeps.mk' ?_ ?_ ?_ ?_

theorem keeps_stageLinks {σ s : State} (H : Keeps σ s) (linkOk sliceOk : List Bool) : Keeps σ (State.stageLinks s linkOk sliceOk) := by
  unfold State.stageLinks
  repeat' first
    | with_reducible assumption
    | with_reducible apply keeps_bootFail
    | with_reducible apply keeps_nextStage
    | with_reducible apply keeps_powerOn
    | with_reducible apply keeps_ite

theorem keeps_stageMemory {σ s : State} (H : Keeps σ s) (gb : List Nat) : Keeps σ (State.stageMemory s gb) := by
  unfold State.stageMemory
  repeat' first
    | with_reducible assumption
    | with_reducible apply keeps_bootFail
    | with_reducible apply keeps_nextStage
    | with_reducible apply keeps_powerOn
    | exact .same rfl rfl rfl
    | exact ⟨rfl, rfl, rfl, rfl, fun _ h => h⟩
    | intro _
    | with_reducible exact wf_nil
    | with_reducible apply keeps_ite
    | dsimp only
    | with_reducible refine Keeps.mk' ?_ ?_ ?_ ?_

theorem keeps_bootDie {σ s : State} (H : Keeps σ s) (die : Nat) : Keeps σ (State.bootDie s die) := by
  unfold State.bootDie
  repeat' first
    | with_reducible assumption
    | with_reducible apply keeps_modDie
    | with_reducible apply keeps_setBay
    | with_reducible apply keeps_foldl
    | intro _

theorem keeps_bootRetire {σ s : State} (H : Keeps σ s) (k : Nat) : Keeps σ (State.bootRetire s k) := by
  unfold State.bootRetire
  repeat' first
    | with_reducible assumption
    | with_reducible apply keeps_bootFail
    | with_reducible apply keeps_logBoot
    | with_reducible apply keeps_modBay
    | with_reducible apply keeps_modDie
    | dsimp only
    | split

theorem keeps_stagePorts {σ s : State} (H : Keeps σ s) (span pier : List Nat) : Keeps σ (State.stagePorts s span pier) := by
  unfold State.stagePorts
  repeat' first
    | with_reducible assumption
    | with_reducible apply keeps_event
    | with_reducible apply keeps_modPort
    | with_reducible apply keeps_nextStage
    | with_reducible apply keeps_foldl
    | intro _
    | with_reducible apply keeps_ite

theorem keeps_gate {σ s : State} (H : Keeps σ s) (die dom : Nat) : Keeps σ (State.gate s die dom) := by
  unfold State.gate
  repeat' first
    | with_reducible assumption
    | with_reducible apply keeps_setDom
    | with_reducible apply keeps_settlePlls
    | exact .same rfl rfl rfl
    | exact ⟨rfl, rfl, rfl, rfl, fun _ h => h⟩
    | with_reducible exact id
    | dsimp only
    | split
    | with_reducible refine Keeps.mk' ?_ ?_ ?_ ?_

theorem keeps_gateAll {σ s : State} (H : Keeps σ s)  : Keeps σ (State.gateAll s) := by
  unfold State.gateAll
  repeat' first
    | with_reducible assumption
    | with_reducible apply keeps_gate
    | with_reducible apply keeps_foldl
    | intro _

theorem keeps_stageReady {σ s : State} (H : Keeps σ s)  : Keeps σ (State.stageReady s) := by
  unfold State.stageReady
  repeat' first
    | with_reducible assumption
    | with_reducible apply keeps_gateAll
    | exact .same rfl rfl rfl
    | exact ⟨rfl, rfl, rfl, rfl, fun _ h => h⟩
    | with_reducible exact id
    | dsimp only
    | split
    | with_reducible refine Keeps.mk' ?_ ?_ ?_ ?_

theorem keeps_execRailsOkLow {σ s : State} (H : Keeps σ s)  : KeepsOut σ (execRailsOkLow s) := by
  unfold execRailsOkLow
  repeat' first
    | with_reducible apply keepsOut_next
    | with_reducible assumption
    | with_reducible apply keeps_failStop
    | with_reducible apply keeps_mgmtInterrupt
    | exact .same rfl rfl rfl
    | exact ⟨rfl, rfl, rfl, rfl, fun _ h => h⟩
    | with_reducible exact id
    | with_reducible apply keeps_ite
    | dsimp only
    | with_reducible refine Keeps.mk' ?_ ?_ ?_ ?_

theorem keeps_execReferenceLoss {σ s : State} (H : Keeps σ s) (die : Nat) : KeepsOut σ (execReferenceLoss die s) := by
  unfold execReferenceLoss
  repeat' first
    | with_reducible apply keepsOut_next
    | with_reducible assumption
    | with_reducible apply keeps_failStop
    | with_reducible apply keeps_mgmtInterrupt
    | with_reducible apply keeps_ite

theorem keeps_execDomainIdleGate {σ s : State} (H : Keeps σ s) (die dom : Nat) : KeepsOut σ (execDomainIdleGate die dom s) := by
  unfold execDomainIdleGate
  repeat' first
    | with_reducible apply keepsOut_next
    | with_reducible assumption
    | with_reducible apply keeps_gate
    | with_reducible apply keeps_ite

theorem keeps_execDomainWake {σ s : State} (H : Keeps σ s) (die dom : Nat) : KeepsOut σ (execDomainWake die dom s) := by
  unfold execDomainWake
  repeat' first
    | with_reducible apply keepsOut_next
    | with_reducible assumption
    | with_reducible apply keeps_setDom
    | with_reducible apply keeps_settlePlls
    | exact .same rfl rfl rfl
    | exact ⟨rfl, rfl, rfl, rfl, fun _ h => h⟩
    | with_reducible exact id
    | with_reducible apply keeps_ite
    | dsimp only
    | split
    | with_reducible refine Keeps.mk' ?_ ?_ ?_ ?_

theorem keeps_execDomainWakeDone {σ s : State} (H : Keeps σ s) (die dom : Nat) : KeepsOut σ (execDomainWakeDone die dom s) := by
  unfold execDomainWakeDone
  repeat' first
    | with_reducible apply keepsOut_next
    | with_reducible assumption
    | with_reducible apply keeps_setDom
    | exact .same rfl rfl rfl
    | exact ⟨rfl, rfl, rfl, rfl, fun _ h => h⟩
    | with_reducible exact id
    | with_reducible apply keeps_ite
    | dsimp only
    | with_reducible refine Keeps.mk' ?_ ?_ ?_ ?_

theorem keeps_execClockGate {σ s : State} (H : Keeps σ s) (die dom : Nat) : KeepsOut σ (execClockGate die dom s) := by
  unfold execClockGate
  repeat' first
    | with_reducible apply keepsOut_next
    | with_reducible assumption
    | exact .same rfl rfl rfl
    | exact ⟨rfl, rfl, rfl, rfl, fun _ h => h⟩
    | with_reducible exact id
    | with_reducible apply keeps_ite
    | dsimp only
    | with_reducible refine Keeps.mk' ?_ ?_ ?_ ?_

theorem keeps_thermalTrip {σ s : State} (H : Keeps σ s) : Keeps σ s.thermalTrip := by
  unfold State.thermalTrip
  dsimp only
  refine Keeps.mk' (keeps_gateAll (keeps_failStop (keeps_mgmtInterrupt (keeps_event ?_ _ _ _ _ _)) _ _)) ⟨rfl, rfl, fun _ => rfl⟩ (.same rfl) id
  exact H.trans ⟨rfl, .same rfl rfl rfl, .same rfl, id⟩

theorem keeps_execThermalEval {σ s : State} (H : Keeps σ s) (sensors : List Nat) (powerMw : Nat) (dieMw : List Nat) : KeepsOut σ (execThermalEval sensors powerMw dieMw s) := by
  unfold execThermalEval
  repeat' first
    | with_reducible apply keepsOut_next
    | with_reducible assumption
    | with_reducible apply keeps_event
    | with_reducible apply keeps_thermalTrip
    | exact .same rfl rfl rfl
    | exact ⟨rfl, rfl, rfl, rfl, fun _ h => h⟩
    | with_reducible exact id
    | with_reducible apply keeps_ite
    | dsimp only
    | split
    | with_reducible refine Keeps.mk' ?_ ?_ ?_ ?_

theorem keeps_execAvsEval {σ s : State} (H : Keeps σ s) (die : Nat) (margin : Int) : KeepsOut σ (execAvsEval die margin s) := by
  unfold execAvsEval
  repeat' first
    | with_reducible apply keepsOut_next
    | with_reducible assumption
    | with_reducible apply keeps_fault
    | exact .same rfl rfl rfl
    | exact ⟨rfl, rfl, rfl, rfl, fun _ h => h⟩
    | with_reducible exact id
    | with_reducible apply keeps_ite
    | dsimp only
    | split
    | with_reducible refine Keeps.mk' ?_ ?_ ?_ ?_

end Sys2Proof.Laws
end

