-- ==== Sys2Proof/Laws/KeptService.lean ====
section
/-! SUPPORT. What the operations of Machine/Service.lean keep: one lemma for each. -/

namespace Sys2Proof.Laws

open Sys2Proof Sys2Proof.Machine

theorem keeps_execChkTest {σ s : State} (H : Keeps σ s) (c : CmdRef) : KeepsOut σ (execChkTest c s) := by
  unfold execChkTest
  repeat' first
    | with_reducible apply keepsOut_next
    | with_reducible assumption
    | with_reducible apply keeps_command
    | with_reducible apply keeps_startTest
    | with_reducible apply keepsExe_bind
    | with_reducible apply keepsExe_pure
    | intro _

theorem keeps_thawBay {σ s : State} (H : Keeps σ s) (b : BayRef) : Keeps σ (State.thawBay s b) := by
  unfold State.thawBay
  repeat' first
    | with_reducible assumption
    | with_reducible apply keeps_closeInst
    | with_reducible apply keeps_discardStroke
    | with_reducible apply keeps_modBay
    | dsimp only
    | split

theorem keeps_thaw {σ s : State} (H : Keeps σ s) (w : Nat) : Keeps σ (State.thaw s w) := by
  unfold State.thaw
  repeat' first
    | with_reducible assumption
    | with_reducible apply keeps_dropMv
    | with_reducible apply keeps_thawBay
    | exact .same rfl rfl rfl
    | exact ⟨rfl, rfl, rfl, rfl, fun _ h => h⟩
    | with_reducible exact id
    | dsimp only
    | split
    | with_reducible refine Keeps.mk' ?_ ?_ ?_ ?_

theorem keeps_execChkThaw {σ s : State} (H : Keeps σ s) (c : CmdRef) : KeepsOut σ (execChkThaw c s) := by
  unfold execChkThaw
  repeat' first
    | with_reducible apply keepsOut_next
    | with_reducible assumption
    | with_reducible apply keeps_command
    | with_reducible apply keeps_thaw
    | with_reducible apply keepsExe_bind
    | with_reducible apply keepsExe_pure
    | intro _

theorem keeps_execChkSeal {σ s : State} (H : Keeps σ s) (c : CmdRef) : KeepsOut σ (execChkSeal c s) := by
  unfold execChkSeal
  repeat' first
    | with_reducible apply keepsOut_next
    | with_reducible assumption
    | with_reducible apply keeps_command
    | with_reducible apply keepsExe_bind
    | with_reducible apply keepsExe_pure
    | intro _

theorem keeps_execChkFreeze {σ s : State} (H : Keeps σ s) (c : CmdRef) : KeepsOut σ (execChkFreeze c s) := by
  unfold execChkFreeze
  repeat' first
    | with_reducible apply keepsOut_next
    | with_reducible assumption
    | with_reducible apply keeps_command
    | with_reducible apply keepsExe_bind
    | with_reducible apply keepsExe_pure
    | intro _

theorem keeps_execChkFaults {σ s : State} (H : Keeps σ s) (c : CmdRef) : KeepsOut σ (execChkFaults c s) := by
  unfold execChkFaults
  repeat' first
    | with_reducible apply keepsOut_next
    | with_reducible assumption
    | with_reducible apply keeps_command
    | with_reducible apply keepsExe_bind
    | with_reducible apply keepsExe_pure
    | intro _

theorem keeps_execTelRead {σ s : State} (H : Keeps σ s) (c : CmdRef) : KeepsOut σ (execTelRead c s) := by
  unfold execTelRead
  repeat' first
    | with_reducible apply keepsOut_next
    | with_reducible assumption
    | with_reducible apply keeps_command
    | with_reducible apply keepsExe_bind
    | with_reducible apply keepsExe_pure
    | intro _

theorem keeps_eventsTaken {σ s : State} (H : Keeps σ s) (p n : Nat) : Keeps σ (State.eventsTaken s p n) := by
  unfold State.eventsTaken
  repeat' first
    | with_reducible assumption
    | with_reducible apply keeps_modHost
    | with_reducible apply keeps_vector
    | with_reducible apply keeps_ite

theorem keeps_execEvtRead {σ s : State} (H : Keeps σ s) (c : CmdRef) : KeepsOut σ (execEvtRead c s) := by
  unfold execEvtRead
  repeat' first
    | with_reducible apply keepsOut_next
    | with_reducible assumption
    | with_reducible apply keeps_command
    | with_reducible apply keeps_eventsTaken
    | with_reducible apply keepsExe_bind
    | with_reducible apply keepsExe_pure
    | intro _

end Sys2Proof.Laws
end

