-- ==== Sys2Proof/Laws/KeptVector.lean ====
section
/-! SUPPORT. What the operations of Machine/Vector.lean keep: one lemma for each. -/

namespace Sys2Proof.Laws

open Sys2Proof Sys2Proof.Machine

theorem keeps_execVadd {σ s : State} (H : Keeps σ s) (b : BayRef) (f : Fields) : KeepsOut σ (execVadd b f s) := by
  unfold execVadd
  repeat' first
    | with_reducible apply keepsOut_next
    | with_reducible assumption
    | with_reducible apply keeps_strokeStep
    | with_reducible apply keepsEff_done
    | intro _

theorem keeps_execVsub {σ s : State} (H : Keeps σ s) (b : BayRef) (f : Fields) : KeepsOut σ (execVsub b f s) := by
  unfold execVsub
  repeat' first
    | with_reducible apply keepsOut_next
    | with_reducible assumption
    | with_reducible apply keeps_strokeStep
    | with_reducible apply keepsEff_done
    | intro _

theorem keeps_execVmul {σ s : State} (H : Keeps σ s) (b : BayRef) (f : Fields) : KeepsOut σ (execVmul b f s) := by
  unfold execVmul
  repeat' first
    | with_reducible apply keepsOut_next
    | with_reducible assumption
    | with_reducible apply keeps_strokeStep
    | with_reducible apply keepsEff_done
    | intro _

theorem keeps_execVfma {σ s : State} (H : Keeps σ s) (b : BayRef) (f : Fields) : KeepsOut σ (execVfma b f s) := by
  unfold execVfma
  repeat' first
    | with_reducible apply keepsOut_next
    | with_reducible assumption
    | with_reducible apply keeps_strokeStep
    | with_reducible apply keepsEff_done
    | intro _

theorem keeps_execVfnma {σ s : State} (H : Keeps σ s) (b : BayRef) (f : Fields) : KeepsOut σ (execVfnma b f s) := by
  unfold execVfnma
  repeat' first
    | with_reducible apply keepsOut_next
    | with_reducible assumption
    | with_reducible apply keeps_strokeStep
    | with_reducible apply keepsEff_done
    | intro _

theorem keeps_execVmin {σ s : State} (H : Keeps σ s) (b : BayRef) (f : Fields) : KeepsOut σ (execVmin b f s) := by
  unfold execVmin
  repeat' first
    | with_reducible apply keepsOut_next
    | with_reducible assumption
    | with_reducible apply keeps_strokeStep
    | with_reducible apply keepsEff_done
    | intro _

theorem keeps_execVmax {σ s : State} (H : Keeps σ s) (b : BayRef) (f : Fields) : KeepsOut σ (execVmax b f s) := by
  unfold execVmax
  repeat' first
    | with_reducible apply keepsOut_next
    | with_reducible assumption
    | with_reducible apply keeps_strokeStep
    | with_reducible apply keepsEff_done
    | intro _

theorem keeps_execVabs {σ s : State} (H : Keeps σ s) (b : BayRef) (f : Fields) : KeepsOut σ (execVabs b f s) := by
  unfold execVabs
  repeat' first
    | with_reducible apply keepsOut_next
    | with_reducible assumption
    | with_reducible apply keeps_strokeStep
    | with_reducible apply keepsEff_done
    | intro _

theorem keeps_execVneg {σ s : State} (H : Keeps σ s) (b : BayRef) (f : Fields) : KeepsOut σ (execVneg b f s) := by
  unfold execVneg
  repeat' first
    | with_reducible apply keepsOut_next
    | with_reducible assumption
    | with_reducible apply keeps_strokeStep
    | with_reducible apply keepsEff_done
    | intro _

theorem keeps_execVrcp {σ s : State} (H : Keeps σ s) (b : BayRef) (f : Fields) : KeepsOut σ (execVrcp b f s) := by
  unfold execVrcp
  repeat' first
    | with_reducible apply keepsOut_next
    | with_reducible assumption
    | with_reducible apply keeps_strokeStep
    | with_reducible apply keepsEff_done
    | intro _

theorem keeps_execVrsqrt {σ s : State} (H : Keeps σ s) (b : BayRef) (f : Fields) : KeepsOut σ (execVrsqrt b f s) := by
  unfold execVrsqrt
  repeat' first
    | with_reducible apply keepsOut_next
    | with_reducible assumption
    | with_reducible apply keeps_strokeStep
    | with_reducible apply keepsEff_done
    | intro _

theorem keeps_execVcmp {σ s : State} (H : Keeps σ s) (b : BayRef) (f : Fields) : KeepsOut σ (execVcmp b f s) := by
  unfold execVcmp
  repeat' first
    | with_reducible apply keepsOut_next
    | with_reducible assumption
    | with_reducible apply keeps_strokeStep
    | with_reducible apply keepsEff_done
    | intro _

theorem keeps_execVsel {σ s : State} (H : Keeps σ s) (b : BayRef) (f : Fields) : KeepsOut σ (execVsel b f s) := by
  unfold execVsel
  repeat' first
    | with_reducible apply keepsOut_next
    | with_reducible assumption
    | with_reducible apply keeps_strokeStep
    | with_reducible apply keepsEff_done
    | intro _

theorem keeps_execViadd {σ s : State} (H : Keeps σ s) (b : BayRef) (f : Fields) : KeepsOut σ (execViadd b f s) := by
  unfold execViadd
  repeat' first
    | with_reducible apply keepsOut_next
    | with_reducible assumption
    | with_reducible apply keeps_strokeStep
    | with_reducible apply keepsEff_done
    | intro _

theorem keeps_execVisub {σ s : State} (H : Keeps σ s) (b : BayRef) (f : Fields) : KeepsOut σ (execVisub b f s) := by
  unfold execVisub
  repeat' first
    | with_reducible apply keepsOut_next
    | with_reducible assumption
    | with_reducible apply keeps_strokeStep
    | with_reducible apply keepsEff_done
    | intro _

theorem keeps_execVimul {σ s : State} (H : Keeps σ s) (b : BayRef) (f : Fields) : KeepsOut σ (execVimul b f s) := by
  unfold execVimul
  repeat' first
    | with_reducible apply keepsOut_next
    | with_reducible assumption
    | with_reducible apply keeps_strokeStep
    | with_reducible apply keepsEff_done
    | intro _

theorem keeps_execViadds {σ s : State} (H : Keeps σ s) (b : BayRef) (f : Fields) : KeepsOut σ (execViadds b f s) := by
  unfold execViadds
  repeat' first
    | with_reducible apply keepsOut_next
    | with_reducible assumption
    | with_reducible apply keeps_strokeStep
    | with_reducible apply keepsEff_done
    | intro _

theorem keeps_execVisubs {σ s : State} (H : Keeps σ s) (b : BayRef) (f : Fields) : KeepsOut σ (execVisubs b f s) := by
  unfold execVisubs
  repeat' first
    | with_reducible apply keepsOut_next
    | with_reducible assumption
    | with_reducible apply keeps_strokeStep
    | with_reducible apply keepsEff_done
    | intro _

theorem keeps_execVimin {σ s : State} (H : Keeps σ s) (b : BayRef) (f : Fields) : KeepsOut σ (execVimin b f s) := by
  unfold execVimin
  repeat' first
    | with_reducible apply keepsOut_next
    | with_reducible assumption
    | with_reducible apply keeps_strokeStep
    | with_reducible apply keepsEff_done
    | intro _

theorem keeps_execVimax {σ s : State} (H : Keeps σ s) (b : BayRef) (f : Fields) : KeepsOut σ (execVimax b f s) := by
  unfold execVimax
  repeat' first
    | with_reducible apply keepsOut_next
    | with_reducible assumption
    | with_reducible apply keeps_strokeStep
    | with_reducible apply keepsEff_done
    | intro _

theorem keeps_execVand {σ s : State} (H : Keeps σ s) (b : BayRef) (f : Fields) : KeepsOut σ (execVand b f s) := by
  unfold execVand
  repeat' first
    | with_reducible apply keepsOut_next
    | with_reducible assumption
    | with_reducible apply keeps_strokeStep
    | with_reducible apply keepsEff_done
    | intro _

theorem keeps_execVor {σ s : State} (H : Keeps σ s) (b : BayRef) (f : Fields) : KeepsOut σ (execVor b f s) := by
  unfold execVor
  repeat' first
    | with_reducible apply keepsOut_next
    | with_reducible assumption
    | with_reducible apply keeps_strokeStep
    | with_reducible apply keepsEff_done
    | intro _

theorem keeps_execVxor {σ s : State} (H : Keeps σ s) (b : BayRef) (f : Fields) : KeepsOut σ (execVxor b f s) := by
  unfold execVxor
  repeat' first
    | with_reducible apply keepsOut_next
    | with_reducible assumption
    | with_reducible apply keeps_strokeStep
    | with_reducible apply keepsEff_done
    | intro _

theorem keeps_execVshl {σ s : State} (H : Keeps σ s) (b : BayRef) (f : Fields) : KeepsOut σ (execVshl b f s) := by
  unfold execVshl
  repeat' first
    | with_reducible apply keepsOut_next
    | with_reducible assumption
    | with_reducible apply keeps_strokeStep
    | with_reducible apply keepsEff_done
    | intro _

theorem keeps_execVshr {σ s : State} (H : Keeps σ s) (b : BayRef) (f : Fields) : KeepsOut σ (execVshr b f s) := by
  unfold execVshr
  repeat' first
    | with_reducible apply keepsOut_next
    | with_reducible assumption
    | with_reducible apply keeps_strokeStep
    | with_reducible apply keepsEff_done
    | intro _

theorem keeps_execVsra {σ s : State} (H : Keeps σ s) (b : BayRef) (f : Fields) : KeepsOut σ (execVsra b f s) := by
  unfold execVsra
  repeat' first
    | with_reducible apply keepsOut_next
    | with_reducible assumption
    | with_reducible apply keeps_strokeStep
    | with_reducible apply keepsEff_done
    | intro _

theorem keeps_execVicmp {σ s : State} (H : Keeps σ s) (b : BayRef) (f : Fields) : KeepsOut σ (execVicmp b f s) := by
  unfold execVicmp
  repeat' first
    | with_reducible apply keepsOut_next
    | with_reducible assumption
    | with_reducible apply keeps_strokeStep
    | with_reducible apply keepsEff_done
    | intro _

theorem keeps_execVbci {σ s : State} (H : Keeps σ s) (b : BayRef) (f : Fields) : KeepsOut σ (execVbci b f s) := by
  unfold execVbci
  repeat' first
    | with_reducible apply keepsOut_next
    | with_reducible assumption
    | with_reducible apply keeps_strokeStep
    | with_reducible apply keepsEff_done
    | intro _

theorem keeps_execVbcs {σ s : State} (H : Keeps σ s) (b : BayRef) (f : Fields) : KeepsOut σ (execVbcs b f s) := by
  unfold execVbcs
  repeat' first
    | with_reducible apply keepsOut_next
    | with_reducible assumption
    | with_reducible apply keeps_strokeStep
    | with_reducible apply keepsEff_done
    | intro _

theorem keeps_execSmovi {σ s : State} (H : Keeps σ s) (b : BayRef) (f : Fields) : KeepsOut σ (execSmovi b f s) := by
  unfold execSmovi
  repeat' first
    | with_reducible apply keepsOut_next
    | with_reducible assumption
    | with_reducible apply keeps_strokeStep
    | with_reducible apply keepsEff_done
    | intro _

theorem keeps_execSaddi {σ s : State} (H : Keeps σ s) (b : BayRef) (f : Fields) : KeepsOut σ (execSaddi b f s) := by
  unfold execSaddi
  repeat' first
    | with_reducible apply keepsOut_next
    | with_reducible assumption
    | with_reducible apply keeps_strokeStep
    | with_reducible apply keepsEff_done
    | intro _

theorem keeps_execSadd {σ s : State} (H : Keeps σ s) (b : BayRef) (f : Fields) : KeepsOut σ (execSadd b f s) := by
  unfold execSadd
  repeat' first
    | with_reducible apply keepsOut_next
    | with_reducible assumption
    | with_reducible apply keeps_strokeStep
    | with_reducible apply keepsEff_done
    | intro _

theorem keeps_execSsub {σ s : State} (H : Keeps σ s) (b : BayRef) (f : Fields) : KeepsOut σ (execSsub b f s) := by
  unfold execSsub
  repeat' first
    | with_reducible apply keepsOut_next
    | with_reducible assumption
    | with_reducible apply keeps_strokeStep
    | with_reducible apply keepsEff_done
    | intro _

theorem keeps_execSmul {σ s : State} (H : Keeps σ s) (b : BayRef) (f : Fields) : KeepsOut σ (execSmul b f s) := by
  unfold execSmul
  repeat' first
    | with_reducible apply keepsOut_next
    | with_reducible assumption
    | with_reducible apply keeps_strokeStep
    | with_reducible apply keepsEff_done
    | intro _

theorem keeps_execSand {σ s : State} (H : Keeps σ s) (b : BayRef) (f : Fields) : KeepsOut σ (execSand b f s) := by
  unfold execSand
  repeat' first
    | with_reducible apply keepsOut_next
    | with_reducible assumption
    | with_reducible apply keeps_strokeStep
    | with_reducible apply keepsEff_done
    | intro _

theorem keeps_execSor {σ s : State} (H : Keeps σ s) (b : BayRef) (f : Fields) : KeepsOut σ (execSor b f s) := by
  unfold execSor
  repeat' first
    | with_reducible apply keepsOut_next
    | with_reducible assumption
    | with_reducible apply keeps_strokeStep
    | with_reducible apply keepsEff_done
    | intro _

theorem keeps_execSxor {σ s : State} (H : Keeps σ s) (b : BayRef) (f : Fields) : KeepsOut σ (execSxor b f s) := by
  unfold execSxor
  repeat' first
    | with_reducible apply keepsOut_next
    | with_reducible assumption
    | with_reducible apply keeps_strokeStep
    | with_reducible apply keepsEff_done
    | intro _

theorem keeps_execSshl {σ s : State} (H : Keeps σ s) (b : BayRef) (f : Fields) : KeepsOut σ (execSshl b f s) := by
  unfold execSshl
  repeat' first
    | with_reducible apply keepsOut_next
    | with_reducible assumption
    | with_reducible apply keeps_strokeStep
    | with_reducible apply keepsEff_done
    | intro _

theorem keeps_execSshr {σ s : State} (H : Keeps σ s) (b : BayRef) (f : Fields) : KeepsOut σ (execSshr b f s) := by
  unfold execSshr
  repeat' first
    | with_reducible apply keepsOut_next
    | with_reducible assumption
    | with_reducible apply keeps_strokeStep
    | with_reducible apply keepsEff_done
    | intro _

theorem keeps_execSfadd {σ s : State} (H : Keeps σ s) (b : BayRef) (f : Fields) : KeepsOut σ (execSfadd b f s) := by
  unfold execSfadd
  repeat' first
    | with_reducible apply keepsOut_next
    | with_reducible assumption
    | with_reducible apply keeps_strokeStep
    | with_reducible apply keepsEff_done
    | intro _

theorem keeps_execSfmul {σ s : State} (H : Keeps σ s) (b : BayRef) (f : Fields) : KeepsOut σ (execSfmul b f s) := by
  unfold execSfmul
  repeat' first
    | with_reducible apply keepsOut_next
    | with_reducible assumption
    | with_reducible apply keeps_strokeStep
    | with_reducible apply keepsEff_done
    | intro _

theorem keeps_execSffma {σ s : State} (H : Keeps σ s) (b : BayRef) (f : Fields) : KeepsOut σ (execSffma b f s) := by
  unfold execSffma
  repeat' first
    | with_reducible apply keepsOut_next
    | with_reducible assumption
    | with_reducible apply keeps_strokeStep
    | with_reducible apply keepsEff_done
    | intro _

theorem keeps_execSfmin {σ s : State} (H : Keeps σ s) (b : BayRef) (f : Fields) : KeepsOut σ (execSfmin b f s) := by
  unfold execSfmin
  repeat' first
    | with_reducible apply keepsOut_next
    | with_reducible assumption
    | with_reducible apply keeps_strokeStep
    | with_reducible apply keepsEff_done
    | intro _

theorem keeps_execSfmax {σ s : State} (H : Keeps σ s) (b : BayRef) (f : Fields) : KeepsOut σ (execSfmax b f s) := by
  unfold execSfmax
  repeat' first
    | with_reducible apply keepsOut_next
    | with_reducible assumption
    | with_reducible apply keeps_strokeStep
    | with_reducible apply keepsEff_done
    | intro _

theorem keeps_execVext {σ s : State} (H : Keeps σ s) (b : BayRef) (f : Fields) : KeepsOut σ (execVext b f s) := by
  unfold execVext
  repeat' first
    | with_reducible apply keepsOut_next
    | with_reducible assumption
    | with_reducible apply keeps_strokeStep
    | with_reducible apply keepsEff_done
    | intro _

theorem keeps_execVrsum {σ s : State} (H : Keeps σ s) (b : BayRef) (f : Fields) : KeepsOut σ (execVrsum b f s) := by
  unfold execVrsum
  repeat' first
    | with_reducible apply keepsOut_next
    | with_reducible assumption
    | with_reducible apply keeps_strokeStep
    | with_reducible apply keepsEff_done
    | intro _

theorem keeps_execVrmax {σ s : State} (H : Keeps σ s) (b : BayRef) (f : Fields) : KeepsOut σ (execVrmax b f s) := by
  unfold execVrmax
  repeat' first
    | with_reducible apply keepsOut_next
    | with_reducible assumption
    | with_reducible apply keeps_strokeStep
    | with_reducible apply keepsEff_done
    | intro _

theorem keeps_execVrmin {σ s : State} (H : Keeps σ s) (b : BayRef) (f : Fields) : KeepsOut σ (execVrmin b f s) := by
  unfold execVrmin
  repeat' first
    | with_reducible apply keepsOut_next
    | with_reducible assumption
    | with_reducible apply keeps_strokeStep
    | with_reducible apply keepsEff_done
    | intro _

theorem keeps_execVramax {σ s : State} (H : Keeps σ s) (b : BayRef) (f : Fields) : KeepsOut σ (execVramax b f s) := by
  unfold execVramax
  repeat' first
    | with_reducible apply keepsOut_next
    | with_reducible assumption
    | with_reducible apply keeps_strokeStep
    | with_reducible apply keepsEff_done
    | intro _

theorem keeps_execVrisum {σ s : State} (H : Keeps σ s) (b : BayRef) (f : Fields) : KeepsOut σ (execVrisum b f s) := by
  unfold execVrisum
  repeat' first
    | with_reducible apply keepsOut_next
    | with_reducible assumption
    | with_reducible apply keeps_strokeStep
    | with_reducible apply keepsEff_done
    | intro _

theorem keeps_execVperm {σ s : State} (H : Keeps σ s) (b : BayRef) (f : Fields) : KeepsOut σ (execVperm b f s) := by
  unfold execVperm
  repeat' first
    | with_reducible apply keepsOut_next
    | with_reducible assumption
    | with_reducible apply keeps_strokeStep
    | with_reducible apply keepsEff_done
    | intro _

theorem keeps_execVrot {σ s : State} (H : Keeps σ s) (b : BayRef) (f : Fields) : KeepsOut σ (execVrot b f s) := by
  unfold execVrot
  repeat' first
    | with_reducible apply keepsOut_next
    | with_reducible assumption
    | with_reducible apply keeps_strokeStep
    | with_reducible apply keepsEff_done
    | intro _

theorem keeps_execPlogic {σ s : State} (H : Keeps σ s) (b : BayRef) (f : Fields) : KeepsOut σ (execPlogic b f s) := by
  unfold execPlogic
  repeat' first
    | with_reducible apply keepsOut_next
    | with_reducible assumption
    | with_reducible apply keeps_strokeStep
    | with_reducible apply keepsEff_done
    | intro _

theorem keeps_execPrange {σ s : State} (H : Keeps σ s) (b : BayRef) (f : Fields) : KeepsOut σ (execPrange b f s) := by
  unfold execPrange
  repeat' first
    | with_reducible apply keepsOut_next
    | with_reducible assumption
    | with_reducible apply keeps_strokeStep
    | with_reducible apply keepsEff_done
    | intro _

theorem keeps_execPcount {σ s : State} (H : Keeps σ s) (b : BayRef) (f : Fields) : KeepsOut σ (execPcount b f s) := by
  unfold execPcount
  repeat' first
    | with_reducible apply keepsOut_next
    | with_reducible assumption
    | with_reducible apply keeps_strokeStep
    | with_reducible apply keepsEff_done
    | intro _

theorem keeps_execRng {σ s : State} (H : Keeps σ s) (b : BayRef) (f : Fields) : KeepsOut σ (execRng b f s) := by
  unfold execRng
  repeat' first
    | with_reducible apply keepsOut_next
    | with_reducible assumption
    | with_reducible apply keeps_strokeStep
    | with_reducible apply keepsEff_done
    | intro _

theorem keeps_execRngU {σ s : State} (H : Keeps σ s) (b : BayRef) (f : Fields) : KeepsOut σ (execRngU b f s) := by
  unfold execRngU
  repeat' first
    | with_reducible apply keepsOut_next
    | with_reducible assumption
    | with_reducible apply keeps_strokeStep
    | with_reducible apply keepsEff_done
    | intro _

end Sys2Proof.Laws
end

