-- ==== Sys2Proof/Laws/Exec.lean ====
section
/-! SUPPORT. Everything a command can do to the queue, what the part is, the flash's records and the form of the stores. -/

namespace Sys2Proof.Laws

open Sys2Proof Sys2Proof.Machine

theorem keepsOut_iff {σ t : State} {o : Outcome} (h : o = .next t) (H : KeepsOut σ o) : Keeps σ t := by subst h; exact H

/-- A state that differs only in nonces before the same change of the flash. -/
theorem keeps_useNonce_modFlash (s : State) (n : List Byte) (g : Flash → Flash) : Keeps (s.modFlash g) ((s.useNonce n).modFlash g) :=
  ⟨rfl, .same rfl rfl rfl, .same rfl, id⟩

theorem mgmtOpen_from {s t : State} {m : MgmtMsg} {code : Nat} {f : State → MgmtOut} (h : s.mgmtOpen m code f = t) :
    Keeps s t ∨ Keeps (f s).1 t := by
  subst h
  unfold State.mgmtOpen
  split
  · exact .inl (.refl s)
  · refine .inr ?_
    split
    · rename_i e; rw [e]; exact keeps_mgmtReply (.refl _) _ _ _ _
    · rename_i e; rw [e]; exact .refl _

theorem mgmtSigned_from {s t : State} {m : MgmtMsg} {code : Nat} {ok : Bool} {f : State → MgmtOut} (h : s.mgmtSigned m code ok f = t) :
    Keeps s t ∨ (ok = true ∧ s.nonceCurrent m.nonce = true ∧ Keeps (f (s.useNonce m.nonce)).1 t) := by
  unfold State.mgmtSigned at h
  split at h
  · subst h; exact .inl (.refl s)
  · rcases mgmtOpen_from h with k | k
    · exact .inl k
    · by_cases h : (!ok || !s.nonceCurrent m.nonce) = true
      · rw [if_pos h] at k; exact .inl k
      · rw [if_neg h] at k
        simp only [Bool.or_eq_true, Bool.not_eq_true', not_or, Bool.not_eq_false] at h
        exact .inr ⟨h.1, h.2, k⟩

/-- What the commands that change the flash's records do to them, and what POR_N does. -/
def Changes (c : Instr) (s t : State) : Prop :=
  match c with
  | .advanceFloor m => s.ownerSigned m = true ∧ s.nonceCurrent m.nonce = true ∧
      ((fld m.body 0 1 = 0 ∧ s.ks.flash.fwFloor ≤ fld m.body 4 4 ∧ fld m.body 4 4 ≤ s.ks.fwVersion ∧
          Keeps (s.modFlash fun f => { f with fwFloor := fld m.body 4 4 }) t) ∨
        (fld m.body 0 1 = 1 ∧ s.ks.flash.recFloor ≤ fld m.body 4 4 ∧ fld m.body 4 4 ≤ s.ks.recVersion ∧
          Keeps (s.modFlash fun f => { f with recFloor := fld m.body 4 4 }) t))
  | .setNetwork m => s.ownerSigned m = true ∧ s.nonceCurrent m.nonce = true ∧ Keeps (s.modFlash fun f => { f with network := m.body }) t
  | .clearRetirement m => s.ownerSigned m = true ∧ s.nonceCurrent m.nonce = true ∧
      Keeps (s.modFlash fun f => { f with retired := f.retired.filter (· != bayKey (fld m.body 0 1) (fld m.body 1 1)) }) t
  | .enrollOwner m => ((s.ks.flash.owner = none ∧ m.mctp = true) ∨ (m.ownerSigOk = true ∧ s.nonceCurrent m.nonce = true)) ∧
      Keeps (s.modFlash fun f => { f with owner := some m.body, network := [] }) t
  | .resetOwner m => m.luotteSigOk = true ∧ s.nonceCurrent m.nonce = true ∧
      Keeps (s.modFlash fun f => { f with owner := none, network := [] }) t
  | .gessoStageEnd _ => s.ks.flash.retiredOk = false ∧ Keeps (s.modFlash fun f => { f with retired := [], retiredOk := true }) t
  | .porNFall => s.part.porN = true ∧ t = s.afterReset false s.part.railsOk
  | _ => False

theorem keeps_useNonce_self (s : State) (n : List Byte) : Keeps s (s.useNonce n) := keeps_useNonce (.refl s) n

theorem advanceFloor_from {m : MgmtMsg} {s t : State} (h : exec (.advanceFloor m) s = .next t) :
    Keeps s t ∨ Changes (.advanceFloor m) s t := by
  rcases mgmtSigned_from (Host.Outcome.next.inj h) with k | ⟨h1, h2, k⟩
  · exact .inl k
  · dsimp only at k
    split at k
    · exact .inl ((keeps_useNonce_self s _).trans k)
    split at k
    · exact .inl ((keeps_useNonce_self s _).trans k)
    rename_i hb hc
    by_cases h0 : fld m.body 0 1 = 0
    · simp only [h0, if_true] at k
      split at k
      · exact .inl ((keeps_useNonce_self s _).trans k)
      · rename_i hv
        simp only [State.useNonce] at hv
        exact .inr ⟨h1, h2, .inl ⟨h0, by omega, by omega, (keeps_useNonce_modFlash s _ _).trans k⟩⟩
    · simp only [h0, if_false] at k
      split at k
      · exact .inl ((keeps_useNonce_self s _).trans k)
      · rename_i hv
        simp only [State.useNonce] at hv
        exact .inr ⟨h1, h2, .inr ⟨by omega, by omega, by omega, (keeps_useNonce_modFlash s _ _).trans k⟩⟩

theorem setNetwork_from {m : MgmtMsg} {s t : State} (h : exec (.setNetwork m) s = .next t) : Keeps s t ∨ Changes (.setNetwork m) s t := by
  rcases mgmtSigned_from (Host.Outcome.next.inj h) with k | ⟨h1, h2, k⟩
  · exact .inl k
  · split at k
    · exact .inl ((keeps_useNonce_self s _).trans k)
    · exact .inr ⟨h1, h2, (keeps_useNonce_modFlash s _ _).trans k⟩

theorem clearRetirement_from {m : MgmtMsg} {s t : State} (h : exec (.clearRetirement m) s = .next t) :
    Keeps s t ∨ Changes (.clearRetirement m) s t := by
  rcases mgmtSigned_from (Host.Outcome.next.inj h) with k | ⟨h1, h2, k⟩
  · exact .inl k
  · dsimp only at k
    split_ifs at k
    · exact .inl ((keeps_useNonce_self s _).trans k)
    · exact .inl ((keeps_useNonce_self s _).trans k)
    · exact .inl ((keeps_useNonce_self s _).trans k)
    · exact .inr ⟨h1, h2, (keeps_useNonce_modFlash s _ _).trans k⟩

theorem resetOwner_from {m : MgmtMsg} {s t : State} (h : exec (.resetOwner m) s = .next t) : Keeps s t ∨ Changes (.resetOwner m) s t := by
  rcases mgmtSigned_from (Host.Outcome.next.inj h) with k | ⟨h1, h2, k⟩
  · exact .inl k
  · split_ifs at k
    · exact .inl ((keeps_useNonce_self s _).trans k)
    · exact .inr ⟨h1, h2, (keeps_useNonce_modFlash s _ _).trans k⟩

theorem enrollOwner_from {m : MgmtMsg} {s t : State} (h : exec (.enrollOwner m) s = .next t) : Keeps s t ∨ Changes (.enrollOwner m) s t := by
  have h : (if s.ks.flash.owner.isNone then s.mgmtOpen m 0x18 fun s => if m.mctp then s.enrolled m else mgmtDone s stRefused
    else s.mgmtSigned m 0x18 m.ownerSigOk fun s => s.enrolled m) = t := Host.Outcome.next.inj h
  split at h
  · rename_i ho
    rcases mgmtOpen_from h with k | k
    · exact .inl k
    · dsimp only [State.enrolled] at k
      split_ifs at k
      · exact .inl k
      · rename_i hm hl
        exact .inr ⟨.inl ⟨by simpa using ho, hm⟩, k⟩
      · exact .inl k
  · rcases mgmtSigned_from h with k | ⟨h1, h2, k⟩
    · exact .inl k
    · dsimp only [State.enrolled] at k
      split_ifs at k
      · exact .inl ((keeps_useNonce_self s _).trans k)
      · exact .inr ⟨.inr ⟨h1, h2⟩, (keeps_useNonce_modFlash s _ _).trans k⟩

theorem porNFall_from {s t : State} (h : exec .porNFall s = .next t) : Keeps s t ∨ Changes .porNFall s t := by
  have h : (if s.part.porN then s.afterReset false s.part.railsOk else s) = t := Host.Outcome.next.inj h
  split at h
  · rename_i hp; exact .inr ⟨hp, h.symm⟩
  · subst h; exact .inl (.refl _)

theorem keeps_stageStores_rest {σ s : State} (H : Keeps σ s) (bad : List Nat) :
    Keeps σ (let s := (List.range s.dieCount).foldl State.bootDie s
      let listed := s.ks.flash.retired
      let fresh := ((bad.filter fun x => decide (x / 256 < s.dieCount ∧ x % 256 < 132)).map fun x => bayKey (x / 256) (x % 256)).dedup.filter
        fun k => !listed.contains k
      let s := s.modFlash fun f => { f with retired := f.retired ++ fresh }
      let s := (listed ++ fresh).foldl State.bootRetire s
      if s.part.state = 4 then s else (s.powerOn [1, 2, 3, 4, 5, 6, 7, 8, 9]).nextStage) := by
  dsimp only
  refine keeps_ite ?_ (keeps_nextStage (keeps_powerOn ?_ _)) <;>
    exact keeps_foldl (keeps_modFlash (keeps_foldl H fun t x h => keeps_bootDie h x)
      ⟨rfl, rfl, rfl, rfl, fun k hk => List.mem_append_left _ hk⟩) fun t x h => keeps_bootRetire h x

theorem stageStores_from (s : State) (bad : List Nat) :
    Keeps s (s.stageStores bad) ∨ (s.ks.flash.retiredOk = false ∧
      Keeps (s.modFlash fun f => { f with retired := [], retiredOk := true }) (s.stageStores bad)) := by
  have h0 : Keeps s ({ s with mem := [] } : State) := ⟨rfl, .same rfl rfl rfl, .same rfl, fun _ => wf_nil⟩
  by_cases hr : s.ks.flash.retiredOk = true
  · refine .inl ?_
    have key := keeps_stageStores_rest h0 bad
    unfold State.stageStores
    simp only [hr, if_true] at key ⊢
    exact key
  · refine .inr ⟨by simpa using hr, ?_⟩
    have h1 : Keeps (s.modFlash fun f => { f with retired := [], retiredOk := true })
        ((({ s with mem := [] } : State).modFlash fun f => { f with retired := [], retiredOk := true }).logBoot 4 7 s.ks.leader
          (Config.faultStatus 0x21) 0) :=
      keeps_logBoot (σ := s.modFlash fun f => { f with retired := [], retiredOk := true })
        (s := ({ s with mem := [] } : State).modFlash fun f => { f with retired := [], retiredOk := true })
        ⟨rfl, .same rfl rfl rfl, .same rfl, fun _ => wf_nil⟩ _ _ _ _ _
    have key := keeps_stageStores_rest h1 bad
    unfold State.stageStores
    simp only [hr] at key ⊢
    exact key

theorem gessoStageEnd_from {g : GessoObs} {s t : State} (h : exec (.gessoStageEnd g) s = .next t) :
    Keeps s t ∨ Changes (.gessoStageEnd g) s t := by
  obtain rfl := Host.Outcome.next.inj h
  split
  · exact .inl (.refl s)
  split
  · exact .inl (keeps_stageRom (.refl s) ..)
  · exact .inl (keeps_stageConfig (.refl s) ..)
  · exact .inl (keeps_stagePuf (.refl s) ..)
  · exact .inl (keeps_stageLinks (.refl s) ..)
  · exact .inl (keeps_stageMemory (.refl s) ..)
  · exact stageStores_from s _
  · exact .inl (keeps_stagePorts (.refl s) ..)
  · exact .inl (keeps_stageReady (.refl s))
  · exact .inl (.refl s)

/-- A command keeps the queue, the part, the flash's records and the stores' form, or is one of seven that change one of them. -/
theorem exec_from {c : Instr} {s t : State} (h : exec c s = .next t) : Keeps s t ∨ Changes c s t := by
  match c, h with
  | .nop b f, h => exact .inl (keepsOut_iff h (keeps_execNop (.refl s) b f))
  | .seal b f, h => exact .inl (keepsOut_iff h (keeps_execSeal (.refl s) b f))
  | .mxtNn b f, h => exact .inl (keepsOut_iff h (keeps_execMxtNn (.refl s) b f))
  | .mxtNt b f, h => exact .inl (keepsOut_iff h (keeps_execMxtNt (.refl s) b f))
  | .mxtTn b f, h => exact .inl (keepsOut_iff h (keeps_execMxtTn (.refl s) b f))
  | .mxtTt b f, h => exact .inl (keepsOut_iff h (keeps_execMxtTt (.refl s) b f))
  | .mxtNnAcc b f, h => exact .inl (keepsOut_iff h (keeps_execMxtNnAcc (.refl s) b f))
  | .mxtNtAcc b f, h => exact .inl (keepsOut_iff h (keeps_execMxtNtAcc (.refl s) b f))
  | .mxtTnAcc b f, h => exact .inl (keepsOut_iff h (keeps_execMxtTnAcc (.refl s) b f))
  | .mxtTtAcc b f, h => exact .inl (keepsOut_iff h (keeps_execMxtTtAcc (.refl s) b f))
  | .tileProductPassStart b, h => exact .inl (keepsOut_iff h (keeps_execTileProductPassStart (.refl s) b))
  | .tileProductPassEnd b agree, h => exact .inl (keepsOut_iff h (keeps_execTileProductPassEnd (.refl s) b agree))
  | .tileRetire b, h => exact .inl (keepsOut_iff h (keeps_execTileRetire (.refl s) b))
  | .ld b f, h => exact .inl (keepsOut_iff h (keeps_execLd (.refl s) b f))
  | .ldS b f, h => exact .inl (keepsOut_iff h (keeps_execLdS (.refl s) b f))
  | .ldArg b f, h => exact .inl (keepsOut_iff h (keeps_execLdArg (.refl s) b f))
  | .st b f, h => exact .inl (keepsOut_iff h (keeps_execSt (.refl s) b f))
  | .stS b f, h => exact .inl (keepsOut_iff h (keeps_execStS (.refl s) b f))
  | .mvCopy b f mv, h => exact .inl (keepsOut_iff h (keeps_execMvCopy (.refl s) b f mv))
  | .mvGather b f mv, h => exact .inl (keepsOut_iff h (keeps_execMvGather (.refl s) b f mv))
  | .mvScatter b f mv, h => exact .inl (keepsOut_iff h (keeps_execMvScatter (.refl s) b f mv))
  | .mvScadd b f mv, h => exact .inl (keepsOut_iff h (keeps_execMvScadd (.refl s) b f mv))
  | .mvSegsum b f mv, h => exact .inl (keepsOut_iff h (keeps_execMvSegsum (.refl s) b f mv))
  | .mvSegmax b f mv, h => exact .inl (keepsOut_iff h (keeps_execMvSegmax (.refl s) b f mv))
  | .mvSketch b f mv, h => exact .inl (keepsOut_iff h (keeps_execMvSketch (.refl s) b f mv))
  | .bounceBufferTake die mover, h => exact .inl (keepsOut_iff h (keeps_execBounceBufferTake (.refl s) die mover))
  | .scaddRound die mover, h => exact .inl (keepsOut_iff h (keeps_execScaddRound (.refl s) die mover))
  | .moverRequestDone die mover, h => exact .inl (keepsOut_iff h (keeps_execMoverRequestDone (.refl s) die mover))
  | .spPut b f transfer, h => exact .inl (keepsOut_iff h (keeps_execSpPut (.refl s) b f transfer))
  | .spGet b f transfer, h => exact .inl (keepsOut_iff h (keeps_execSpGet (.refl s) b f transfer))
  | .spAcc b f, h => exact .inl (keepsOut_iff h (keeps_execSpAcc (.refl s) b f))
  | .bxaV b f, h => exact .inl (keepsOut_iff h (keeps_execBxaV (.refl s) b f))
  | .bxaT b f, h => exact .inl (keepsOut_iff h (keeps_execBxaT (.refl s) b f))
  | .sum b f, h => exact .inl (keepsOut_iff h (keeps_execSum (.refl s) b f))
  | .sumH b f, h => exact .inl (keepsOut_iff h (keeps_execSumH (.refl s) b f))
  | .sumX b f, h => exact .inl (keepsOut_iff h (keeps_execSumX (.refl s) b f))
  | .vadd b f, h => exact .inl (keepsOut_iff h (keeps_execVadd (.refl s) b f))
  | .vsub b f, h => exact .inl (keepsOut_iff h (keeps_execVsub (.refl s) b f))
  | .vmul b f, h => exact .inl (keepsOut_iff h (keeps_execVmul (.refl s) b f))
  | .vfma b f, h => exact .inl (keepsOut_iff h (keeps_execVfma (.refl s) b f))
  | .vfnma b f, h => exact .inl (keepsOut_iff h (keeps_execVfnma (.refl s) b f))
  | .vmin b f, h => exact .inl (keepsOut_iff h (keeps_execVmin (.refl s) b f))
  | .vmax b f, h => exact .inl (keepsOut_iff h (keeps_execVmax (.refl s) b f))
  | .vabs b f, h => exact .inl (keepsOut_iff h (keeps_execVabs (.refl s) b f))
  | .vneg b f, h => exact .inl (keepsOut_iff h (keeps_execVneg (.refl s) b f))
  | .vrcp b f, h => exact .inl (keepsOut_iff h (keeps_execVrcp (.refl s) b f))
  | .vrsqrt b f, h => exact .inl (keepsOut_iff h (keeps_execVrsqrt (.refl s) b f))
  | .vcmp b f, h => exact .inl (keepsOut_iff h (keeps_execVcmp (.refl s) b f))
  | .vsel b f, h => exact .inl (keepsOut_iff h (keeps_execVsel (.refl s) b f))
  | .viadd b f, h => exact .inl (keepsOut_iff h (keeps_execViadd (.refl s) b f))
  | .visub b f, h => exact .inl (keepsOut_iff h (keeps_execVisub (.refl s) b f))
  | .vimul b f, h => exact .inl (keepsOut_iff h (keeps_execVimul (.refl s) b f))
  | .viadds b f, h => exact .inl (keepsOut_iff h (keeps_execViadds (.refl s) b f))
  | .visubs b f, h => exact .inl (keepsOut_iff h (keeps_execVisubs (.refl s) b f))
  | .vimin b f, h => exact .inl (keepsOut_iff h (keeps_execVimin (.refl s) b f))
  | .vimax b f, h => exact .inl (keepsOut_iff h (keeps_execVimax (.refl s) b f))
  | .vand b f, h => exact .inl (keepsOut_iff h (keeps_execVand (.refl s) b f))
  | .vor b f, h => exact .inl (keepsOut_iff h (keeps_execVor (.refl s) b f))
  | .vxor b f, h => exact .inl (keepsOut_iff h (keeps_execVxor (.refl s) b f))
  | .vshl b f, h => exact .inl (keepsOut_iff h (keeps_execVshl (.refl s) b f))
  | .vshr b f, h => exact .inl (keepsOut_iff h (keeps_execVshr (.refl s) b f))
  | .vsra b f, h => exact .inl (keepsOut_iff h (keeps_execVsra (.refl s) b f))
  | .vicmp b f, h => exact .inl (keepsOut_iff h (keeps_execVicmp (.refl s) b f))
  | .vbci b f, h => exact .inl (keepsOut_iff h (keeps_execVbci (.refl s) b f))
  | .vbcs b f, h => exact .inl (keepsOut_iff h (keeps_execVbcs (.refl s) b f))
  | .smovi b f, h => exact .inl (keepsOut_iff h (keeps_execSmovi (.refl s) b f))
  | .saddi b f, h => exact .inl (keepsOut_iff h (keeps_execSaddi (.refl s) b f))
  | .sadd b f, h => exact .inl (keepsOut_iff h (keeps_execSadd (.refl s) b f))
  | .ssub b f, h => exact .inl (keepsOut_iff h (keeps_execSsub (.refl s) b f))
  | .smul b f, h => exact .inl (keepsOut_iff h (keeps_execSmul (.refl s) b f))
  | .sand b f, h => exact .inl (keepsOut_iff h (keeps_execSand (.refl s) b f))
  | .sor b f, h => exact .inl (keepsOut_iff h (keeps_execSor (.refl s) b f))
  | .sxor b f, h => exact .inl (keepsOut_iff h (keeps_execSxor (.refl s) b f))
  | .sshl b f, h => exact .inl (keepsOut_iff h (keeps_execSshl (.refl s) b f))
  | .sshr b f, h => exact .inl (keepsOut_iff h (keeps_execSshr (.refl s) b f))
  | .sfadd b f, h => exact .inl (keepsOut_iff h (keeps_execSfadd (.refl s) b f))
  | .sfmul b f, h => exact .inl (keepsOut_iff h (keeps_execSfmul (.refl s) b f))
  | .sffma b f, h => exact .inl (keepsOut_iff h (keeps_execSffma (.refl s) b f))
  | .sfmin b f, h => exact .inl (keepsOut_iff h (keeps_execSfmin (.refl s) b f))
  | .sfmax b f, h => exact .inl (keepsOut_iff h (keeps_execSfmax (.refl s) b f))
  | .vext b f, h => exact .inl (keepsOut_iff h (keeps_execVext (.refl s) b f))
  | .vrsum b f, h => exact .inl (keepsOut_iff h (keeps_execVrsum (.refl s) b f))
  | .vrmax b f, h => exact .inl (keepsOut_iff h (keeps_execVrmax (.refl s) b f))
  | .vrmin b f, h => exact .inl (keepsOut_iff h (keeps_execVrmin (.refl s) b f))
  | .vramax b f, h => exact .inl (keepsOut_iff h (keeps_execVramax (.refl s) b f))
  | .vrisum b f, h => exact .inl (keepsOut_iff h (keeps_execVrisum (.refl s) b f))
  | .vperm b f, h => exact .inl (keepsOut_iff h (keeps_execVperm (.refl s) b f))
  | .vrot b f, h => exact .inl (keepsOut_iff h (keeps_execVrot (.refl s) b f))
  | .plogic b f, h => exact .inl (keepsOut_iff h (keeps_execPlogic (.refl s) b f))
  | .prange b f, h => exact .inl (keepsOut_iff h (keeps_execPrange (.refl s) b f))
  | .pcount b f, h => exact .inl (keepsOut_iff h (keeps_execPcount (.refl s) b f))
  | .rng b f, h => exact .inl (keepsOut_iff h (keeps_execRng (.refl s) b f))
  | .rngU b f, h => exact .inl (keepsOut_iff h (keeps_execRngU (.refl s) b f))
  | .cvt b f, h => exact .inl (keepsOut_iff h (keeps_execCvt (.refl s) b f))
  | .xcvt b f, h => exact .inl (keepsOut_iff h (keeps_execXcvt (.refl s) b f))
  | .xside b f, h => exact .inl (keepsOut_iff h (keeps_execXside (.refl s) b f))
  | .tscSet b f, h => exact .inl (keepsOut_iff h (keeps_execTscSet (.refl s) b f))
  | .tscale b f, h => exact .inl (keepsOut_iff h (keeps_execTscale (.refl s) b f))
  | .tscaleH b f, h => exact .inl (keepsOut_iff h (keeps_execTscaleH (.refl s) b f))
  | .vsketch b f, h => exact .inl (keepsOut_iff h (keeps_execVsketch (.refl s) b f))
  | .lutExp2 b f, h => exact .inl (keepsOut_iff h (keeps_execLutExp2 (.refl s) b f))
  | .lutLog2 b f, h => exact .inl (keepsOut_iff h (keeps_execLutLog2 (.refl s) b f))
  | .lutRcp b f, h => exact .inl (keepsOut_iff h (keeps_execLutRcp (.refl s) b f))
  | .lutSig b f, h => exact .inl (keepsOut_iff h (keeps_execLutSig (.refl s) b f))
  | .lutTanh b f, h => exact .inl (keepsOut_iff h (keeps_execLutTanh (.refl s) b f))
  | .lutLd b f, h => exact .inl (keepsOut_iff h (keeps_execLutLd (.refl s) b f))
  | .lutUsr b f, h => exact .inl (keepsOut_iff h (keeps_execLutUsr (.refl s) b f))
  | .reBind b f, h => exact .inl (keepsOut_iff h (keeps_execReBind (.refl s) b f))
  | .reParm b f, h => exact .inl (keepsOut_iff h (keeps_execReParm (.refl s) b f))
  | .reLnF b f, h => exact .inl (keepsOut_iff h (keeps_execReLnF (.refl s) b f))
  | .reLnB b f, h => exact .inl (keepsOut_iff h (keeps_execReLnB (.refl s) b f))
  | .reRmsF b f, h => exact .inl (keepsOut_iff h (keeps_execReRmsF (.refl s) b f))
  | .reRmsB b f, h => exact .inl (keepsOut_iff h (keeps_execReRmsB (.refl s) b f))
  | .reSmxF b f, h => exact .inl (keepsOut_iff h (keeps_execReSmxF (.refl s) b f))
  | .reSmxB b f, h => exact .inl (keepsOut_iff h (keeps_execReSmxB (.refl s) b f))
  | .reXent b f, h => exact .inl (keepsOut_iff h (keeps_execReXent (.refl s) b f))
  | .reActF b f, h => exact .inl (keepsOut_iff h (keeps_execReActF (.refl s) b f))
  | .reActB b f, h => exact .inl (keepsOut_iff h (keeps_execReActB (.refl s) b f))
  | .rePoolF b f, h => exact .inl (keepsOut_iff h (keeps_execRePoolF (.refl s) b f))
  | .rePoolB b f, h => exact .inl (keepsOut_iff h (keeps_execRePoolB (.refl s) b f))
  | .rePst b f, h => exact .inl (keepsOut_iff h (keeps_execRePst (.refl s) b f))
  | .rePld b f, h => exact .inl (keepsOut_iff h (keeps_execRePld (.refl s) b f))
  | .reLsum b f, h => exact .inl (keepsOut_iff h (keeps_execReLsum (.refl s) b f))
  | .strokeIssue b, h => exact .inl (keepsOut_iff h (keeps_execStrokeIssue (.refl s) b))
  | .strokeSeal b cycles, h => exact .inl (keepsOut_iff h (keeps_execStrokeSeal (.refl s) b cycles))
  | .paletteFillStart b slot, h => exact .inl (keepsOut_iff h (keeps_execPaletteFillStart (.refl s) b slot))
  | .paletteFillDone b slot, h => exact .inl (keepsOut_iff h (keeps_execPaletteFillDone (.refl s) b slot))
  | .sealEntryRelease b start, h => exact .inl (keepsOut_iff h (keeps_execSealEntryRelease (.refl s) b start))
  | .wcReopen die slot, h => exact .inl (keepsOut_iff h (keeps_execWcReopen (.refl s) die slot))
  | .graphStroke die run, h => exact .inl (keepsOut_iff h (keeps_execGraphStroke (.refl s) die run))
  | .graphLoop die run, h => exact .inl (keepsOut_iff h (keeps_execGraphLoop (.refl s) die run))
  | .graphEndLoop die run, h => exact .inl (keepsOut_iff h (keeps_execGraphEndLoop (.refl s) die run))
  | .graphBranch die run, h => exact .inl (keepsOut_iff h (keeps_execGraphBranch (.refl s) die run))
  | .graphSet die run, h => exact .inl (keepsOut_iff h (keeps_execGraphSet (.refl s) die run))
  | .graphWait die run, h => exact .inl (keepsOut_iff h (keeps_execGraphWait (.refl s) die run))
  | .waitEventMet die run, h => exact .inl (keepsOut_iff h (keeps_execWaitEventMet (.refl s) die run))
  | .graphNotify die run, h => exact .inl (keepsOut_iff h (keeps_execGraphNotify (.refl s) die run))
  | .graphStep die run, h => exact .inl (keepsOut_iff h (keeps_execGraphStep (.refl s) die run))
  | .graphRelease die run, h => exact .inl (keepsOut_iff h (keeps_execGraphRelease (.refl s) die run))
  | .slotReleaseEffect die slot, h => exact .inl (keepsOut_iff h (keeps_execSlotReleaseEffect (.refl s) die slot))
  | .graphFree die run, h => exact .inl (keepsOut_iff h (keeps_execGraphFree (.refl s) die run))
  | .graphEnd die run, h => exact .inl (keepsOut_iff h (keeps_execGraphEnd (.refl s) die run))
  | .openReq die m, h => exact .inl (keepsOut_iff h (keeps_execOpenReq (.refl s) die m))
  | .grant die m, h => exact .inl (keepsOut_iff h (keeps_execGrant (.refl s) die m))
  | .lateDrop die m, h => exact .inl (keepsOut_iff h (keeps_execLateDrop (.refl s) die m))
  | .contrib die m, h => exact .inl (keepsOut_iff h (keeps_execContrib (.refl s) die m))
  | .reductionSeal die m, h => exact .inl (keepsOut_iff h (keeps_execReductionSeal (.refl s) die m))
  | .retract die m, h => exact .inl (keepsOut_iff h (keeps_execRetract (.refl s) die m))
  | .withdraw die m, h => exact .inl (keepsOut_iff h (keeps_execWithdraw (.refl s) die m))
  | .replayReq die m, h => exact .inl (keepsOut_iff h (keeps_execReplayReq (.refl s) die m))
  | .sliceDone die m, h => exact .inl (keepsOut_iff h (keeps_execSliceDone (.refl s) die m))
  | .grantNote die m, h => exact .inl (keepsOut_iff h (keeps_execGrantNote (.refl s) die m))
  | .setFixed die m, h => exact .inl (keepsOut_iff h (keeps_execSetFixed (.refl s) die m))
  | .resetNote die m, h => exact .inl (keepsOut_iff h (keeps_execResetNote (.refl s) die m))
  | .deadlineExpiry die slot, h => exact .inl (keepsOut_iff h (keeps_execDeadlineExpiry (.refl s) die slot))
  | .heldRequestRelease die slot, h => exact .inl (keepsOut_iff h (keeps_execHeldRequestRelease (.refl s) die slot))
  | .varnishNormPassDone die slot, h => exact .inl (keepsOut_iff h (keeps_execVarnishNormPassDone (.refl s) die slot))
  | .updatingWaitEnd die slot, h => exact .inl (keepsOut_iff h (keeps_execUpdatingWaitEnd (.refl s) die slot))
  | .recordPrefetch die slot block, h => exact .inl (keepsOut_iff h (keeps_execRecordPrefetch (.refl s) die slot block))
  | .varnishBlockUpdate die slot block, h => exact .inl (keepsOut_iff h (keeps_execVarnishBlockUpdate (.refl s) die slot block))
  | .wcEncode die slot, h => exact .inl (keepsOut_iff h (keeps_execWcEncode (.refl s) die slot))
  | .varnishSliceDone die slot, h => exact .inl (keepsOut_iff h (keeps_execVarnishSliceDone (.refl s) die slot))
  | .wholeLayerOrtho die slot, h => exact .inl (keepsOut_iff h (keeps_execWholeLayerOrtho (.refl s) die slot))
  | .digestCompare die slot obs, h => exact .inl (keepsOut_iff h (keeps_execDigestCompare (.refl s) die slot obs))
  | .fragmentDeltaRead frag, h => exact .inl (keepsOut_iff h (keeps_execFragmentDeltaRead (.refl s) frag))
  | .roundClosing frag, h => exact .inl (keepsOut_iff h (keeps_execRoundClosing (.refl s) frag))
  | .outerUpdate frag block, h => exact .inl (keepsOut_iff h (keeps_execOuterUpdate (.refl s) frag block))
  | .faultDetect x, h => exact .inl (keepsOut_iff h (keeps_execFaultDetect (.refl s) x))
  | .replayIssue b, h => exact .inl (keepsOut_iff h (keeps_execReplayIssue (.refl s) b))
  | .spareWakeDone b, h => exact .inl (keepsOut_iff h (keeps_execSpareWakeDone (.refl s) b))
  | .arbitrationDone b arbEqHeld arbEqSums arbOwnOk, h => exact .inl (keepsOut_iff h (keeps_execArbitrationDone (.refl s) b arbEqHeld arbEqSums arbOwnOk))
  | .damagedDataRecovery x, h => exact .inl (keepsOut_iff h (keeps_execDamagedDataRecovery (.refl s) x))
  | .queuedFaultServe, h => exact .inl (keepsOut_iff h (keeps_execQueuedFaultServe (.refl s)))
  | .watchdogCheck die heartbeat sliceOk, h => exact .inl (keepsOut_iff h (keeps_execWatchdogCheck (.refl s) die heartbeat sliceOk))
  | .leaderContactLoss die, h => exact .inl (keepsOut_iff h (keeps_execLeaderContactLoss (.refl s) die))
  | .partFailStop reason, h => exact .inl (keepsOut_iff h (keeps_execPartFailStop (.refl s) reason))
  | .fieldTestDone unit die index pass pattern, h => exact .inl (keepsOut_iff h (keeps_execFieldTestDone (.refl s) unit die index pass pattern))
  | .replicaDigestCompute entry, h => exact .inl (keepsOut_iff h (keeps_execReplicaDigestCompute (.refl s) entry))
  | .flitReceive port codewordOk flit, h => exact .inl (keepsOut_iff h (keeps_execFlitReceive (.refl s) port codewordOk flit))
  | .linkAckTimeout port, h => exact .inl (keepsOut_iff h (keeps_execLinkAckTimeout (.refl s) port))
  | .replayExhausted port, h => exact .inl (keepsOut_iff h (keeps_execReplayExhausted (.refl s) port))
  | .laneRemove port lane, h => exact .inl (keepsOut_iff h (keeps_execLaneRemove (.refl s) port lane))
  | .portRetrainDone port retrained, h => exact .inl (keepsOut_iff h (keeps_execPortRetrainDone (.refl s) port retrained))
  | .probeTimer port, h => exact .inl (keepsOut_iff h (keeps_execProbeTimer (.refl s) port))
  | .messageForward port cls m, h => exact .inl (keepsOut_iff h (keeps_execMessageForward (.refl s) port cls m))
  | .msgResendTimeout dst chan, h => exact .inl (keepsOut_iff h (keeps_execMsgResendTimeout (.refl s) dst chan))
  | .deferredResend dst chan seq, h => exact .inl (keepsOut_iff h (keeps_execDeferredResend (.refl s) dst chan seq))
  | .put die m, h => exact .inl (keepsOut_iff h (keeps_execPut (.refl s) die m))
  | .putAck die m, h => exact .inl (keepsOut_iff h (keeps_execPutAck (.refl s) die m))
  | .get die m, h => exact .inl (keepsOut_iff h (keeps_execGet (.refl s) die m))
  | .getData die m, h => exact .inl (keepsOut_iff h (keeps_execGetData (.refl s) die m))
  | .heldGetResume die held, h => exact .inl (keepsOut_iff h (keeps_execHeldGetResume (.refl s) die held))
  | .srcSeal die m, h => exact .inl (keepsOut_iff h (keeps_execSrcSeal (.refl s) die m))
  | .srcRetract die m, h => exact .inl (keepsOut_iff h (keeps_execSrcRetract (.refl s) die m))
  | .nak die m, h => exact .inl (keepsOut_iff h (keeps_execNak (.refl s) die m))
  | .gatherReq die m, h => exact .inl (keepsOut_iff h (keeps_execGatherReq (.refl s) die m))
  | .gatherData die m, h => exact .inl (keepsOut_iff h (keeps_execGatherData (.refl s) die m))
  | .msgAck die m, h => exact .inl (keepsOut_iff h (keeps_execMsgAck (.refl s) die m))
  | .probe port m, h => exact .inl (keepsOut_iff h (keeps_execProbe (.refl s) port m))
  | .fenced port m, h => exact .inl (keepsOut_iff h (keeps_execFenced (.refl s) port m))
  | .replicaDigest die m, h => exact .inl (keepsOut_iff h (keeps_execReplicaDigest (.refl s) die m))
  | .refetch die m, h => exact .inl (keepsOut_iff h (keeps_execRefetch (.refl s) die m))
  | .heartbeat port m, h => exact .inl (keepsOut_iff h (keeps_execHeartbeat (.refl s) port m))
  | .heartbeatSend, h => exact .inl (keepsOut_iff h (keeps_execHeartbeatSend (.refl s)))
  | .heartbeatMiss, h => exact .inl (keepsOut_iff h (keeps_execHeartbeatMiss (.refl s)))
  | .takeover port m, h => exact .inl (keepsOut_iff h (keeps_execTakeover (.refl s) port m))
  | .digests die m, h => exact .inl (keepsOut_iff h (keeps_execDigests (.refl s) die m))
  | .agree die m, h => exact .inl (keepsOut_iff h (keeps_execAgree (.refl s) die m))
  | .outerInput die m, h => exact .inl (keepsOut_iff h (keeps_execOuterInput (.refl s) die m))
  | .recordPair die m, h => exact .inl (keepsOut_iff h (keeps_execRecordPair (.refl s) die m))
  | .wcBlocks die m, h => exact .inl (keepsOut_iff h (keeps_execWcBlocks (.refl s) die m))
  | .ethernetFrameReceive port itf x, h => exact .inl (keepsOut_iff h (keeps_execEthernetFrameReceive (.refl s) port itf x))
  | .neighborSolicitation port itf target, h => exact .inl (keepsOut_iff h (keeps_execNeighborSolicitation (.refl s) port itf target))
  | .echoRequest port itf dst, h => exact .inl (keepsOut_iff h (keeps_execEchoRequest (.refl s) port itf dst))
  | .packetTooBig port itf mtu, h => exact .inl (keepsOut_iff h (keeps_execPacketTooBig (.refl s) port itf mtu))
  | .mkaHello port itf peers, h => exact .inl (keepsOut_iff h (keeps_execMkaHello (.refl s) port itf peers))
  | .sakRotation port itf keyServer, h => exact .inl (keepsOut_iff h (keeps_execSakRotation (.refl s) port itf keyServer))
  | .receiveSaRetire port itf an, h => exact .inl (keepsOut_iff h (keeps_execReceiveSaRetire (.refl s) port itf an))
  | .dataSeg port seg, h => exact .inl (keepsOut_iff h (keeps_execDataSeg (.refl s) port seg))
  | .ackSeg port seg, h => exact .inl (keepsOut_iff h (keeps_execAckSeg (.refl s) port seg))
  | .datagram port seg, h => exact .inl (keepsOut_iff h (keeps_execDatagram (.refl s) port seg))
  | .openSeg port seg, h => exact .inl (keepsOut_iff h (keeps_execOpenSeg (.refl s) port seg))
  | .openAck port seg, h => exact .inl (keepsOut_iff h (keeps_execOpenAck (.refl s) port seg))
  | .closeSeg port seg, h => exact .inl (keepsOut_iff h (keeps_execCloseSeg (.refl s) port seg))
  | .openRetry session, h => exact .inl (keepsOut_iff h (keeps_execOpenRetry (.refl s) session))
  | .heartbeatTimer session, h => exact .inl (keepsOut_iff h (keeps_execHeartbeatTimer (.refl s) session))
  | .heartbeatLoss session, h => exact .inl (keepsOut_iff h (keeps_execHeartbeatLoss (.refl s) session))
  | .retransmitTimer session seq, h => exact .inl (keepsOut_iff h (keeps_execRetransmitTimer (.refl s) session seq))
  | .ackTimer session, h => exact .inl (keepsOut_iff h (keeps_execAckTimer (.refl s) session))
  | .outerDelta session msg, h => exact .inl (keepsOut_iff h (keeps_execOuterDelta (.refl s) session msg))
  | .roundClose session msg, h => exact .inl (keepsOut_iff h (keeps_execRoundClose (.refl s) session msg))
  | .anchorReq session msg, h => exact .inl (keepsOut_iff h (keeps_execAnchorReq (.refl s) session msg))
  | .anchorData session msg, h => exact .inl (keepsOut_iff h (keeps_execAnchorData (.refl s) session msg))
  | .ppsEdge edge, h => exact .inl (keepsOut_iff h (keeps_execPpsEdge (.refl s) edge))
  | .zdaSentence sentence afterMs, h => exact .inl (keepsOut_iff h (keeps_execZdaSentence (.refl s) sentence afterMs))
  | .ppsMissing, h => exact .inl (keepsOut_iff h (keeps_execPpsMissing (.refl s)))
  | .tsPacket die stream, h => exact .inl (keepsOut_iff h (keeps_execTsPacket (.refl s) die stream))
  | .segmentRead die stream data, h => exact .inl (keepsOut_iff h (keeps_execSegmentRead (.refl s) die stream data))
  | .pictureDecode die stream pic, h => exact .inl (keepsOut_iff h (keeps_execPictureDecode (.refl s) die stream pic))
  | .clipComplete die pool stream, h => exact .inl (keepsOut_iff h (keeps_execClipComplete (.refl s) die pool stream))
  | .bankReady die pool, h => exact .inl (keepsOut_iff h (keeps_execBankReady (.refl s) die pool))
  | .bankRelease die pool pass, h => exact .inl (keepsOut_iff h (keeps_execBankRelease (.refl s) die pool pass))
  | .streamEnd die stream, h => exact .inl (keepsOut_iff h (keeps_execStreamEnd (.refl s) die stream))
  | .engineFault die engine, h => exact .inl (keepsOut_iff h (keeps_execEngineFault (.refl s) die engine))
  | .mbxPost p value hostBody, h => exact .inl (keepsOut_iff h (keeps_execMbxPost (.refl s) p value hostBody))
  | .mailboxRequestWrite p off data, h => exact .inl (keepsOut_iff h (keeps_execMailboxRequestWrite (.refl s) p off data))
  | .mailboxResponse p m hostOk, h => exact .inl (keepsOut_iff h (keeps_execMailboxResponse (.refl s) p m hostOk))
  | .mbxDone p value, h => exact .inl (keepsOut_iff h (keeps_execMbxDone (.refl s) p value))
  | .hifCtrl p value, h => exact .inl (keepsOut_iff h (keeps_execHifCtrl (.refl s) p value))
  | .registerWrite p off size value, h => exact .inl (keepsOut_iff h (keeps_execRegisterWrite (.refl s) p off size value))
  | .bar0BadSize p off size isWrite, h => exact .inl (keepsOut_iff h (keeps_execBar0BadSize (.refl s) p off size isWrite))
  | .bar4Read p off size, h => exact .inl (keepsOut_iff h (keeps_execBar4Read (.refl s) p off size))
  | .bar4Write p off data, h => exact .inl (keepsOut_iff h (keeps_execBar4Write (.refl s) p off data))
  | .functionLevelReset p, h => exact .inl (keepsOut_iff h (keeps_execFunctionLevelReset (.refl s) p))
  | .linkDown p why, h => exact .inl (keepsOut_iff h (keeps_execLinkDown (.refl s) p why))
  | .completionTimeout p req, h => exact .inl (keepsOut_iff h (keeps_execCompletionTimeout (.refl s) p req))
  | .primaryFailover, h => exact .inl (keepsOut_iff h (keeps_execPrimaryFailover (.refl s)))
  | .doeObject p x, h => exact .inl (keepsOut_iff h (keeps_execDoeObject (.refl s) p x))
  | .ideIntegrityFail p stream, h => exact .inl (keepsOut_iff h (keeps_execIdeIntegrityFail (.refl s) p stream))
  | .commandAdmit p m, h => exact .inl (keepsOut_iff h (keeps_execCommandAdmit (.refl s) p m))
  | .deferralTimeout p m token, h => exact .inl (keepsOut_iff h (keeps_execDeferralTimeout (.refl s) p m token))
  | .deferredCommandEnd die token, h => exact .inl (keepsOut_iff h (keeps_execDeferredCommandEnd (.refl s) die token))
  | .devInfo c, h => exact .inl (keepsOut_iff h (keeps_execDevInfo (.refl s) c))
  | .devBays c, h => exact .inl (keepsOut_iff h (keeps_execDevBays (.refl s) c))
  | .devProbes c, h => exact .inl (keepsOut_iff h (keeps_execDevProbes (.refl s) c))
  | .devNode c, h => exact .inl (keepsOut_iff h (keeps_execDevNode (.refl s) c))
  | .devReset c, h => exact .inl (keepsOut_iff h (keeps_execDevReset (.refl s) c))
  | .memWindow c, h => exact .inl (keepsOut_iff h (keeps_execMemWindow (.refl s) c))
  | .memDry c, h => exact .inl (keepsOut_iff h (keeps_execMemDry (.refl s) c))
  | .memFree c, h => exact .inl (keepsOut_iff h (keeps_execMemFree (.refl s) c))
  | .jobCreate c, h => exact .inl (keepsOut_iff h (keeps_execJobCreate (.refl s) c))
  | .jobGrant c, h => exact .inl (keepsOut_iff h (keeps_execJobGrant (.refl s) c))
  | .jobRevoke c, h => exact .inl (keepsOut_iff h (keeps_execJobRevoke (.refl s) c))
  | .jobDestroy c, h => exact .inl (keepsOut_iff h (keeps_execJobDestroy (.refl s) c))
  | .jobStatus c, h => exact .inl (keepsOut_iff h (keeps_execJobStatus (.refl s) c))
  | .prgStroke c id, h => exact .inl (keepsOut_iff h (keeps_execPrgStroke (.refl s) c id))
  | .prgGraph c id, h => exact .inl (keepsOut_iff h (keeps_execPrgGraph (.refl s) c id))
  | .prgUnload c, h => exact .inl (keepsOut_iff h (keeps_execPrgUnload (.refl s) c))
  | .runStart c id, h => exact .inl (keepsOut_iff h (keeps_execRunStart (.refl s) c id))
  | .runStop c, h => exact .inl (keepsOut_iff h (keeps_execRunStop (.refl s) c))
  | .runStatus c, h => exact .inl (keepsOut_iff h (keeps_execRunStatus (.refl s) c))
  | .runRecord c, h => exact .inl (keepsOut_iff h (keeps_execRunRecord (.refl s) c))
  | .runNotify c, h => exact .inl (keepsOut_iff h (keeps_execRunNotify (.refl s) c))
  | .atlStream c, h => exact .inl (keepsOut_iff h (keeps_execAtlStream (.refl s) c))
  | .atlSubmit c hostData, h => exact .inl (keepsOut_iff h (keeps_execAtlSubmit (.refl s) c hostData))
  | .atlPool c, h => exact .inl (keepsOut_iff h (keeps_execAtlPool (.refl s) c))
  | .atlAudio c, h => exact .inl (keepsOut_iff h (keeps_execAtlAudio (.refl s) c))
  | .atlClose c, h => exact .inl (keepsOut_iff h (keeps_execAtlClose (.refl s) c))
  | .atlStatus c, h => exact .inl (keepsOut_iff h (keeps_execAtlStatus (.refl s) c))
  | .colSlot c, h => exact .inl (keepsOut_iff h (keeps_execColSlot (.refl s) c))
  | .colRead c, h => exact .inl (keepsOut_iff h (keeps_execColRead (.refl s) c))
  | .colFree c, h => exact .inl (keepsOut_iff h (keeps_execColFree (.refl s) c))
  | .colRoute c, h => exact .inl (keepsOut_iff h (keeps_execColRoute (.refl s) c))
  | .colMcast c, h => exact .inl (keepsOut_iff h (keeps_execColMcast (.refl s) c))
  | .colGather c, h => exact .inl (keepsOut_iff h (keeps_execColGather (.refl s) c))
  | .colLimit c, h => exact .inl (keepsOut_iff h (keeps_execColLimit (.refl s) c))
  | .varShard c, h => exact .inl (keepsOut_iff h (keeps_execVarShard (.refl s) c))
  | .varInit c hostData, h => exact .inl (keepsOut_iff h (keeps_execVarInit (.refl s) c hostData))
  | .varBind c, h => exact .inl (keepsOut_iff h (keeps_execVarBind (.refl s) c))
  | .varSchedule c, h => exact .inl (keepsOut_iff h (keeps_execVarSchedule (.refl s) c))
  | .varNorm c, h => exact .inl (keepsOut_iff h (keeps_execVarNorm (.refl s) c))
  | .varTotals c, h => exact .inl (keepsOut_iff h (keeps_execVarTotals (.refl s) c))
  | .varReport c, h => exact .inl (keepsOut_iff h (keeps_execVarReport (.refl s) c))
  | .varRollback c, h => exact .inl (keepsOut_iff h (keeps_execVarRollback (.refl s) c))
  | .varResolve c, h => exact .inl (keepsOut_iff h (keeps_execVarResolve (.refl s) c))
  | .varCounters c, h => exact .inl (keepsOut_iff h (keeps_execVarCounters (.refl s) c))
  | .viaPort c, h => exact .inl (keepsOut_iff h (keeps_execViaPort (.refl s) c))
  | .viaSessionLoad c, h => exact .inl (keepsOut_iff h (keeps_execViaSessionLoad (.refl s) c))
  | .viaSessionOpen c, h => exact .inl (keepsOut_iff h (keeps_execViaSessionOpen (.refl s) c))
  | .viaSessionClose c, h => exact .inl (keepsOut_iff h (keeps_execViaSessionClose (.refl s) c))
  | .viaOuter c, h => exact .inl (keepsOut_iff h (keeps_execViaOuter (.refl s) c))
  | .viaFragments c, h => exact .inl (keepsOut_iff h (keeps_execViaFragments (.refl s) c))
  | .viaLog c, h => exact .inl (keepsOut_iff h (keeps_execViaLog (.refl s) c))
  | .viaTime c, h => exact .inl (keepsOut_iff h (keeps_execViaTime (.refl s) c))
  | .viaStatus c, h => exact .inl (keepsOut_iff h (keeps_execViaStatus (.refl s) c))
  | .chkTest c, h => exact .inl (keepsOut_iff h (keeps_execChkTest (.refl s) c))
  | .chkThaw c, h => exact .inl (keepsOut_iff h (keeps_execChkThaw (.refl s) c))
  | .chkSeal c, h => exact .inl (keepsOut_iff h (keeps_execChkSeal (.refl s) c))
  | .chkFreeze c, h => exact .inl (keepsOut_iff h (keeps_execChkFreeze (.refl s) c))
  | .chkFaults c, h => exact .inl (keepsOut_iff h (keeps_execChkFaults (.refl s) c))
  | .telRead c, h => exact .inl (keepsOut_iff h (keeps_execTelRead (.refl s) c))
  | .evtRead c, h => exact .inl (keepsOut_iff h (keeps_execEvtRead (.refl s) c))
  | .nonce m fresh, h => exact .inl (keepsOut_iff h (keeps_execNonce (.refl s) m fresh))
  | .mgmtStatus m, h => exact .inl (keepsOut_iff h (keeps_execMgmtStatus (.refl s) m))
  | .thawHost m, h => exact .inl (keepsOut_iff h (keeps_execThawHost (.refl s) m))
  | .setPrimary m, h => exact .inl (keepsOut_iff h (keeps_execSetPrimary (.refl s) m))
  | .failStop m, h => exact .inl (keepsOut_iff h (keeps_execFailStop (.refl s) m))
  | .fieldTest m, h => exact .inl (keepsOut_iff h (keeps_execFieldTest (.refl s) m))
  | .setCak m cakOk, h => exact .inl (keepsOut_iff h (keeps_execSetCak (.refl s) m cakOk))
  | .setTai m, h => exact .inl (keepsOut_iff h (keeps_execSetTai (.refl s) m))
  | .setNetwork m, h => exact setNetwork_from h
  | .clearRetirement m, h => exact clearRetirement_from h
  | .enrollOwner m, h => exact enrollOwner_from h
  | .resetOwner m, h => exact resetOwner_from h
  | .updateChunk m, h => exact .inl (keepsOut_iff h (keeps_execUpdateChunk (.refl s) m))
  | .updateCommit m ks es, h => exact .inl (keepsOut_iff h (keeps_execUpdateCommit (.refl s) m ks es))
  | .advanceFloor m, h => exact advanceFloor_from h
  | .faultLogFlush, h => exact .inl (keepsOut_iff h (keeps_execFaultLogFlush (.refl s)))
  | .porNRise, h => exact .inl (keepsOut_iff h (keeps_execPorNRise (.refl s)))
  | .gessoStageEnd g, h => exact gessoStageEnd_from h
  | .porNFall, h => exact porNFall_from h
  | .railsOkLow, h => exact .inl (keepsOut_iff h (keeps_execRailsOkLow (.refl s)))
  | .referenceLoss die, h => exact .inl (keepsOut_iff h (keeps_execReferenceLoss (.refl s) die))
  | .domainIdleGate die dom, h => exact .inl (keepsOut_iff h (keeps_execDomainIdleGate (.refl s) die dom))
  | .domainWake die dom, h => exact .inl (keepsOut_iff h (keeps_execDomainWake (.refl s) die dom))
  | .domainWakeDone die dom, h => exact .inl (keepsOut_iff h (keeps_execDomainWakeDone (.refl s) die dom))
  | .clockGate die dom, h => exact .inl (keepsOut_iff h (keeps_execClockGate (.refl s) die dom))
  | .thermalEval sensors powerMw dieMw, h => exact .inl (keepsOut_iff h (keeps_execThermalEval (.refl s) sensors powerMw dieMw))
  | .avsEval die margin, h => exact .inl (keepsOut_iff h (keeps_execAvsEval (.refl s) die margin))
  | .hostLinkUp p rate width flit msix bar4, h => exact .inl (keepsOut_iff h (keeps_execHostLinkUp (.refl s) p rate width flit msix bar4))
  | .msixVectorUnmask p vector, h => exact .inl (keepsOut_iff h (keeps_execMsixVectorUnmask (.refl s) p vector))
  | .bar0LowHalfRead p off, h => exact .inl (keepsOut_iff h (keeps_execBar0LowHalfRead (.refl s) p off))
  | .timeErrorLimitExceeded, h => exact .inl (keepsOut_iff h (keeps_execTimeErrorLimitExceeded (.refl s)))
  | .taiUtcOffsetChange, h => exact .inl (keepsOut_iff h (keeps_execTaiUtcOffsetChange (.refl s)))
  | .mctpControlMessage x, h => exact .inl (keepsOut_iff h (keeps_execMctpControlMessage (.refl s) x))
  | .mctpSpdmMessage x, h => exact .inl (keepsOut_iff h (keeps_execMctpSpdmMessage (.refl s) x))
  | .slotOpenDone die slot, h => exact .inl (keepsOut_iff h (keeps_execSlotOpenDone (.refl s) die slot))

end Sys2Proof.Laws
end

