-- ==== Sys2Proof/Laws/State.lean ====
section
/-! SUPPORT. What each update of the state leaves of every field: true by unfolding. -/

namespace Sys2Proof.Laws

open Sys2Proof Sys2Proof.Machine

@[simp] theorem setBay_part (s : State) (d b : Nat) (x : Bay) : (s.setBay d b x).part = s.part := rfl
@[simp] theorem setBay_time (s : State) (d b : Nat) (x : Bay) : (s.setBay d b x).time = s.time := rfl
@[simp] theorem setBay_ks (s : State) (d b : Nat) (x : Bay) : (s.setBay d b x).ks = s.ks := rfl
@[simp] theorem setBay_power (s : State) (d b : Nat) (x : Bay) : (s.setBay d b x).power = s.power := rfl
@[simp] theorem setBay_mem (s : State) (d b : Nat) (x : Bay) : (s.setBay d b x).mem = s.mem := rfl
@[simp] theorem setBay_bays (s : State) (d b : Nat) (x : Bay) : (s.setBay d b x).bays = mset s.bays (bayKey d b) x := rfl
@[simp] theorem setBay_movers (s : State) (d b : Nat) (x : Bay) : (s.setBay d b x).movers = s.movers := rfl
@[simp] theorem setBay_dies (s : State) (d b : Nat) (x : Bay) : (s.setBay d b x).dies = s.dies := rfl
@[simp] theorem setBay_jobs (s : State) (d b : Nat) (x : Bay) : (s.setBay d b x).jobs = s.jobs := rfl
@[simp] theorem setBay_span (s : State) (d b : Nat) (x : Bay) : (s.setBay d b x).span = s.span := rfl
@[simp] theorem setBay_via (s : State) (d b : Nat) (x : Bay) : (s.setBay d b x).via = s.via := rfl
@[simp] theorem setBay_hosts (s : State) (d b : Nat) (x : Bay) : (s.setBay d b x).hosts = s.hosts := rfl
@[simp] theorem setBay_out (s : State) (d b : Nat) (x : Bay) : (s.setBay d b x).out = s.out := rfl
@[simp] theorem setBay_pending (s : State) (d b : Nat) (x : Bay) : (s.setBay d b x).pending = s.pending := rfl

@[simp] theorem modBay_part (s : State) (d b : Nat) (f : Bay → Bay) : (s.modBay d b f).part = s.part := rfl
@[simp] theorem modBay_time (s : State) (d b : Nat) (f : Bay → Bay) : (s.modBay d b f).time = s.time := rfl
@[simp] theorem modBay_ks (s : State) (d b : Nat) (f : Bay → Bay) : (s.modBay d b f).ks = s.ks := rfl
@[simp] theorem modBay_power (s : State) (d b : Nat) (f : Bay → Bay) : (s.modBay d b f).power = s.power := rfl
@[simp] theorem modBay_mem (s : State) (d b : Nat) (f : Bay → Bay) : (s.modBay d b f).mem = s.mem := rfl
@[simp] theorem modBay_bays (s : State) (d b : Nat) (f : Bay → Bay) : (s.modBay d b f).bays = mset s.bays (bayKey d b) (f (s.bay d b)) := rfl
@[simp] theorem modBay_movers (s : State) (d b : Nat) (f : Bay → Bay) : (s.modBay d b f).movers = s.movers := rfl
@[simp] theorem modBay_dies (s : State) (d b : Nat) (f : Bay → Bay) : (s.modBay d b f).dies = s.dies := rfl
@[simp] theorem modBay_jobs (s : State) (d b : Nat) (f : Bay → Bay) : (s.modBay d b f).jobs = s.jobs := rfl
@[simp] theorem modBay_span (s : State) (d b : Nat) (f : Bay → Bay) : (s.modBay d b f).span = s.span := rfl
@[simp] theorem modBay_via (s : State) (d b : Nat) (f : Bay → Bay) : (s.modBay d b f).via = s.via := rfl
@[simp] theorem modBay_hosts (s : State) (d b : Nat) (f : Bay → Bay) : (s.modBay d b f).hosts = s.hosts := rfl
@[simp] theorem modBay_out (s : State) (d b : Nat) (f : Bay → Bay) : (s.modBay d b f).out = s.out := rfl
@[simp] theorem modBay_pending (s : State) (d b : Nat) (f : Bay → Bay) : (s.modBay d b f).pending = s.pending := rfl

@[simp] theorem setDie_part (s : State) (d : Nat) (x : Die) : (s.setDie d x).part = s.part := rfl
@[simp] theorem setDie_time (s : State) (d : Nat) (x : Die) : (s.setDie d x).time = s.time := rfl
@[simp] theorem setDie_ks (s : State) (d : Nat) (x : Die) : (s.setDie d x).ks = s.ks := rfl
@[simp] theorem setDie_power (s : State) (d : Nat) (x : Die) : (s.setDie d x).power = s.power := rfl
@[simp] theorem setDie_mem (s : State) (d : Nat) (x : Die) : (s.setDie d x).mem = s.mem := rfl
@[simp] theorem setDie_bays (s : State) (d : Nat) (x : Die) : (s.setDie d x).bays = s.bays := rfl
@[simp] theorem setDie_movers (s : State) (d : Nat) (x : Die) : (s.setDie d x).movers = s.movers := rfl
@[simp] theorem setDie_dies (s : State) (d : Nat) (x : Die) : (s.setDie d x).dies = mset s.dies d x := rfl
@[simp] theorem setDie_jobs (s : State) (d : Nat) (x : Die) : (s.setDie d x).jobs = s.jobs := rfl
@[simp] theorem setDie_span (s : State) (d : Nat) (x : Die) : (s.setDie d x).span = s.span := rfl
@[simp] theorem setDie_via (s : State) (d : Nat) (x : Die) : (s.setDie d x).via = s.via := rfl
@[simp] theorem setDie_hosts (s : State) (d : Nat) (x : Die) : (s.setDie d x).hosts = s.hosts := rfl
@[simp] theorem setDie_out (s : State) (d : Nat) (x : Die) : (s.setDie d x).out = s.out := rfl
@[simp] theorem setDie_pending (s : State) (d : Nat) (x : Die) : (s.setDie d x).pending = s.pending := rfl

@[simp] theorem modDie_part (s : State) (d : Nat) (f : Die → Die) : (s.modDie d f).part = s.part := rfl
@[simp] theorem modDie_time (s : State) (d : Nat) (f : Die → Die) : (s.modDie d f).time = s.time := rfl
@[simp] theorem modDie_ks (s : State) (d : Nat) (f : Die → Die) : (s.modDie d f).ks = s.ks := rfl
@[simp] theorem modDie_power (s : State) (d : Nat) (f : Die → Die) : (s.modDie d f).power = s.power := rfl
@[simp] theorem modDie_mem (s : State) (d : Nat) (f : Die → Die) : (s.modDie d f).mem = s.mem := rfl
@[simp] theorem modDie_bays (s : State) (d : Nat) (f : Die → Die) : (s.modDie d f).bays = s.bays := rfl
@[simp] theorem modDie_movers (s : State) (d : Nat) (f : Die → Die) : (s.modDie d f).movers = s.movers := rfl
@[simp] theorem modDie_dies (s : State) (d : Nat) (f : Die → Die) : (s.modDie d f).dies = mset s.dies d (f (s.die d)) := rfl
@[simp] theorem modDie_jobs (s : State) (d : Nat) (f : Die → Die) : (s.modDie d f).jobs = s.jobs := rfl
@[simp] theorem modDie_span (s : State) (d : Nat) (f : Die → Die) : (s.modDie d f).span = s.span := rfl
@[simp] theorem modDie_via (s : State) (d : Nat) (f : Die → Die) : (s.modDie d f).via = s.via := rfl
@[simp] theorem modDie_hosts (s : State) (d : Nat) (f : Die → Die) : (s.modDie d f).hosts = s.hosts := rfl
@[simp] theorem modDie_out (s : State) (d : Nat) (f : Die → Die) : (s.modDie d f).out = s.out := rfl
@[simp] theorem modDie_pending (s : State) (d : Nat) (f : Die → Die) : (s.modDie d f).pending = s.pending := rfl

@[simp] theorem modMover_part (s : State) (d m : Nat) (f : Mover → Mover) : (s.modMover d m f).part = s.part := rfl
@[simp] theorem modMover_time (s : State) (d m : Nat) (f : Mover → Mover) : (s.modMover d m f).time = s.time := rfl
@[simp] theorem modMover_ks (s : State) (d m : Nat) (f : Mover → Mover) : (s.modMover d m f).ks = s.ks := rfl
@[simp] theorem modMover_power (s : State) (d m : Nat) (f : Mover → Mover) : (s.modMover d m f).power = s.power := rfl
@[simp] theorem modMover_mem (s : State) (d m : Nat) (f : Mover → Mover) : (s.modMover d m f).mem = s.mem := rfl
@[simp] theorem modMover_bays (s : State) (d m : Nat) (f : Mover → Mover) : (s.modMover d m f).bays = s.bays := rfl
@[simp] theorem modMover_movers (s : State) (d m : Nat) (f : Mover → Mover) : (s.modMover d m f).movers = mset s.movers (d * 16 + m) (f (s.mover d m)) := rfl
@[simp] theorem modMover_dies (s : State) (d m : Nat) (f : Mover → Mover) : (s.modMover d m f).dies = s.dies := rfl
@[simp] theorem modMover_jobs (s : State) (d m : Nat) (f : Mover → Mover) : (s.modMover d m f).jobs = s.jobs := rfl
@[simp] theorem modMover_span (s : State) (d m : Nat) (f : Mover → Mover) : (s.modMover d m f).span = s.span := rfl
@[simp] theorem modMover_via (s : State) (d m : Nat) (f : Mover → Mover) : (s.modMover d m f).via = s.via := rfl
@[simp] theorem modMover_hosts (s : State) (d m : Nat) (f : Mover → Mover) : (s.modMover d m f).hosts = s.hosts := rfl
@[simp] theorem modMover_out (s : State) (d m : Nat) (f : Mover → Mover) : (s.modMover d m f).out = s.out := rfl
@[simp] theorem modMover_pending (s : State) (d m : Nat) (f : Mover → Mover) : (s.modMover d m f).pending = s.pending := rfl

@[simp] theorem modHost_part (s : State) (p : Nat) (f : HostPort → HostPort) : (s.modHost p f).part = s.part := rfl
@[simp] theorem modHost_time (s : State) (p : Nat) (f : HostPort → HostPort) : (s.modHost p f).time = s.time := rfl
@[simp] theorem modHost_ks (s : State) (p : Nat) (f : HostPort → HostPort) : (s.modHost p f).ks = s.ks := rfl
@[simp] theorem modHost_power (s : State) (p : Nat) (f : HostPort → HostPort) : (s.modHost p f).power = s.power := rfl
@[simp] theorem modHost_mem (s : State) (p : Nat) (f : HostPort → HostPort) : (s.modHost p f).mem = s.mem := rfl
@[simp] theorem modHost_bays (s : State) (p : Nat) (f : HostPort → HostPort) : (s.modHost p f).bays = s.bays := rfl
@[simp] theorem modHost_movers (s : State) (p : Nat) (f : HostPort → HostPort) : (s.modHost p f).movers = s.movers := rfl
@[simp] theorem modHost_dies (s : State) (p : Nat) (f : HostPort → HostPort) : (s.modHost p f).dies = s.dies := rfl
@[simp] theorem modHost_jobs (s : State) (p : Nat) (f : HostPort → HostPort) : (s.modHost p f).jobs = s.jobs := rfl
@[simp] theorem modHost_span (s : State) (p : Nat) (f : HostPort → HostPort) : (s.modHost p f).span = s.span := rfl
@[simp] theorem modHost_via (s : State) (p : Nat) (f : HostPort → HostPort) : (s.modHost p f).via = s.via := rfl
@[simp] theorem modHost_hosts (s : State) (p : Nat) (f : HostPort → HostPort) : (s.modHost p f).hosts = setAt s.hosts p (f (s.host p)) := rfl
@[simp] theorem modHost_out (s : State) (p : Nat) (f : HostPort → HostPort) : (s.modHost p f).out = s.out := rfl
@[simp] theorem modHost_pending (s : State) (p : Nat) (f : HostPort → HostPort) : (s.modHost p f).pending = s.pending := rfl

@[simp] theorem modJob_part (s : State) (j : Nat) (f : Job → Job) : (s.modJob j f).part = s.part := rfl
@[simp] theorem modJob_time (s : State) (j : Nat) (f : Job → Job) : (s.modJob j f).time = s.time := rfl
@[simp] theorem modJob_ks (s : State) (j : Nat) (f : Job → Job) : (s.modJob j f).ks = s.ks := rfl
@[simp] theorem modJob_power (s : State) (j : Nat) (f : Job → Job) : (s.modJob j f).power = s.power := rfl
@[simp] theorem modJob_mem (s : State) (j : Nat) (f : Job → Job) : (s.modJob j f).mem = s.mem := rfl
@[simp] theorem modJob_bays (s : State) (j : Nat) (f : Job → Job) : (s.modJob j f).bays = s.bays := rfl
@[simp] theorem modJob_movers (s : State) (j : Nat) (f : Job → Job) : (s.modJob j f).movers = s.movers := rfl
@[simp] theorem modJob_dies (s : State) (j : Nat) (f : Job → Job) : (s.modJob j f).dies = s.dies := rfl
@[simp] theorem modJob_jobs (s : State) (j : Nat) (f : Job → Job) : (s.modJob j f).jobs = mmod s.jobs j f := rfl
@[simp] theorem modJob_span (s : State) (j : Nat) (f : Job → Job) : (s.modJob j f).span = s.span := rfl
@[simp] theorem modJob_via (s : State) (j : Nat) (f : Job → Job) : (s.modJob j f).via = s.via := rfl
@[simp] theorem modJob_hosts (s : State) (j : Nat) (f : Job → Job) : (s.modJob j f).hosts = s.hosts := rfl
@[simp] theorem modJob_out (s : State) (j : Nat) (f : Job → Job) : (s.modJob j f).out = s.out := rfl
@[simp] theorem modJob_pending (s : State) (j : Nat) (f : Job → Job) : (s.modJob j f).pending = s.pending := rfl

@[simp] theorem modPort_part (s : State) (k : Nat) (f : Port → Port) : (s.modPort k f).part = s.part := rfl
@[simp] theorem modPort_time (s : State) (k : Nat) (f : Port → Port) : (s.modPort k f).time = s.time := rfl
@[simp] theorem modPort_ks (s : State) (k : Nat) (f : Port → Port) : (s.modPort k f).ks = s.ks := rfl
@[simp] theorem modPort_power (s : State) (k : Nat) (f : Port → Port) : (s.modPort k f).power = s.power := rfl
@[simp] theorem modPort_mem (s : State) (k : Nat) (f : Port → Port) : (s.modPort k f).mem = s.mem := rfl
@[simp] theorem modPort_bays (s : State) (k : Nat) (f : Port → Port) : (s.modPort k f).bays = s.bays := rfl
@[simp] theorem modPort_movers (s : State) (k : Nat) (f : Port → Port) : (s.modPort k f).movers = s.movers := rfl
@[simp] theorem modPort_dies (s : State) (k : Nat) (f : Port → Port) : (s.modPort k f).dies = s.dies := rfl
@[simp] theorem modPort_jobs (s : State) (k : Nat) (f : Port → Port) : (s.modPort k f).jobs = s.jobs := rfl
@[simp] theorem modPort_span (s : State) (k : Nat) (f : Port → Port) : (s.modPort k f).span = { s.span with ports := mset s.span.ports k (f (s.port k)) } := rfl
@[simp] theorem modPort_via (s : State) (k : Nat) (f : Port → Port) : (s.modPort k f).via = s.via := rfl
@[simp] theorem modPort_hosts (s : State) (k : Nat) (f : Port → Port) : (s.modPort k f).hosts = s.hosts := rfl
@[simp] theorem modPort_out (s : State) (k : Nat) (f : Port → Port) : (s.modPort k f).out = s.out := rfl
@[simp] theorem modPort_pending (s : State) (k : Nat) (f : Port → Port) : (s.modPort k f).pending = s.pending := rfl

@[simp] theorem modSlot_part (s : State) (d n : Nat) (f : Slot → Slot) : (s.modSlot d n f).part = s.part := rfl
@[simp] theorem modSlot_time (s : State) (d n : Nat) (f : Slot → Slot) : (s.modSlot d n f).time = s.time := rfl
@[simp] theorem modSlot_ks (s : State) (d n : Nat) (f : Slot → Slot) : (s.modSlot d n f).ks = s.ks := rfl
@[simp] theorem modSlot_power (s : State) (d n : Nat) (f : Slot → Slot) : (s.modSlot d n f).power = s.power := rfl
@[simp] theorem modSlot_mem (s : State) (d n : Nat) (f : Slot → Slot) : (s.modSlot d n f).mem = s.mem := rfl
@[simp] theorem modSlot_bays (s : State) (d n : Nat) (f : Slot → Slot) : (s.modSlot d n f).bays = s.bays := rfl
@[simp] theorem modSlot_movers (s : State) (d n : Nat) (f : Slot → Slot) : (s.modSlot d n f).movers = s.movers := rfl
@[simp] theorem modSlot_dies (s : State) (d n : Nat) (f : Slot → Slot) : (s.modSlot d n f).dies = mset s.dies d { s.die d with slots := mset (s.die d).slots n (f (mgetD {} (s.die d).slots n)) } := rfl
@[simp] theorem modSlot_jobs (s : State) (d n : Nat) (f : Slot → Slot) : (s.modSlot d n f).jobs = s.jobs := rfl
@[simp] theorem modSlot_span (s : State) (d n : Nat) (f : Slot → Slot) : (s.modSlot d n f).span = s.span := rfl
@[simp] theorem modSlot_via (s : State) (d n : Nat) (f : Slot → Slot) : (s.modSlot d n f).via = s.via := rfl
@[simp] theorem modSlot_hosts (s : State) (d n : Nat) (f : Slot → Slot) : (s.modSlot d n f).hosts = s.hosts := rfl
@[simp] theorem modSlot_out (s : State) (d n : Nat) (f : Slot → Slot) : (s.modSlot d n f).out = s.out := rfl
@[simp] theorem modSlot_pending (s : State) (d n : Nat) (f : Slot → Slot) : (s.modSlot d n f).pending = s.pending := rfl

@[simp] theorem modTime_part (s : State) (f : Time → Time) : (s.modTime f).part = s.part := rfl
@[simp] theorem modTime_time (s : State) (f : Time → Time) : (s.modTime f).time = f s.time := rfl
@[simp] theorem modTime_ks (s : State) (f : Time → Time) : (s.modTime f).ks = s.ks := rfl
@[simp] theorem modTime_power (s : State) (f : Time → Time) : (s.modTime f).power = s.power := rfl
@[simp] theorem modTime_mem (s : State) (f : Time → Time) : (s.modTime f).mem = s.mem := rfl
@[simp] theorem modTime_bays (s : State) (f : Time → Time) : (s.modTime f).bays = s.bays := rfl
@[simp] theorem modTime_movers (s : State) (f : Time → Time) : (s.modTime f).movers = s.movers := rfl
@[simp] theorem modTime_dies (s : State) (f : Time → Time) : (s.modTime f).dies = s.dies := rfl
@[simp] theorem modTime_jobs (s : State) (f : Time → Time) : (s.modTime f).jobs = s.jobs := rfl
@[simp] theorem modTime_span (s : State) (f : Time → Time) : (s.modTime f).span = s.span := rfl
@[simp] theorem modTime_via (s : State) (f : Time → Time) : (s.modTime f).via = s.via := rfl
@[simp] theorem modTime_hosts (s : State) (f : Time → Time) : (s.modTime f).hosts = s.hosts := rfl
@[simp] theorem modTime_out (s : State) (f : Time → Time) : (s.modTime f).out = s.out := rfl
@[simp] theorem modTime_pending (s : State) (f : Time → Time) : (s.modTime f).pending = s.pending := rfl

@[simp] theorem modFlash_part (s : State) (f : Flash → Flash) : (s.modFlash f).part = s.part := rfl
@[simp] theorem modFlash_time (s : State) (f : Flash → Flash) : (s.modFlash f).time = s.time := rfl
@[simp] theorem modFlash_ks (s : State) (f : Flash → Flash) : (s.modFlash f).ks = { s.ks with flash := f s.ks.flash } := rfl
@[simp] theorem modFlash_power (s : State) (f : Flash → Flash) : (s.modFlash f).power = s.power := rfl
@[simp] theorem modFlash_mem (s : State) (f : Flash → Flash) : (s.modFlash f).mem = s.mem := rfl
@[simp] theorem modFlash_bays (s : State) (f : Flash → Flash) : (s.modFlash f).bays = s.bays := rfl
@[simp] theorem modFlash_movers (s : State) (f : Flash → Flash) : (s.modFlash f).movers = s.movers := rfl
@[simp] theorem modFlash_dies (s : State) (f : Flash → Flash) : (s.modFlash f).dies = s.dies := rfl
@[simp] theorem modFlash_jobs (s : State) (f : Flash → Flash) : (s.modFlash f).jobs = s.jobs := rfl
@[simp] theorem modFlash_span (s : State) (f : Flash → Flash) : (s.modFlash f).span = s.span := rfl
@[simp] theorem modFlash_via (s : State) (f : Flash → Flash) : (s.modFlash f).via = s.via := rfl
@[simp] theorem modFlash_hosts (s : State) (f : Flash → Flash) : (s.modFlash f).hosts = s.hosts := rfl
@[simp] theorem modFlash_out (s : State) (f : Flash → Flash) : (s.modFlash f).out = s.out := rfl
@[simp] theorem modFlash_pending (s : State) (f : Flash → Flash) : (s.modFlash f).pending = s.pending := rfl

@[simp] theorem setDom_part (s : State) (d i : Nat) (x : DomState) : (s.setDom d i x).part = s.part := rfl
@[simp] theorem setDom_time (s : State) (d i : Nat) (x : DomState) : (s.setDom d i x).time = s.time := rfl
@[simp] theorem setDom_ks (s : State) (d i : Nat) (x : DomState) : (s.setDom d i x).ks = s.ks := rfl
@[simp] theorem setDom_power (s : State) (d i : Nat) (x : DomState) : (s.setDom d i x).power = { s.power with doms := mset s.power.doms (domKey d i) x } := rfl
@[simp] theorem setDom_mem (s : State) (d i : Nat) (x : DomState) : (s.setDom d i x).mem = s.mem := rfl
@[simp] theorem setDom_bays (s : State) (d i : Nat) (x : DomState) : (s.setDom d i x).bays = s.bays := rfl
@[simp] theorem setDom_movers (s : State) (d i : Nat) (x : DomState) : (s.setDom d i x).movers = s.movers := rfl
@[simp] theorem setDom_dies (s : State) (d i : Nat) (x : DomState) : (s.setDom d i x).dies = s.dies := rfl
@[simp] theorem setDom_jobs (s : State) (d i : Nat) (x : DomState) : (s.setDom d i x).jobs = s.jobs := rfl
@[simp] theorem setDom_span (s : State) (d i : Nat) (x : DomState) : (s.setDom d i x).span = s.span := rfl
@[simp] theorem setDom_via (s : State) (d i : Nat) (x : DomState) : (s.setDom d i x).via = s.via := rfl
@[simp] theorem setDom_hosts (s : State) (d i : Nat) (x : DomState) : (s.setDom d i x).hosts = s.hosts := rfl
@[simp] theorem setDom_out (s : State) (d i : Nat) (x : DomState) : (s.setDom d i x).out = s.out := rfl
@[simp] theorem setDom_pending (s : State) (d i : Nat) (x : DomState) : (s.setDom d i x).pending = s.pending := rfl

@[simp] theorem putRunning_part (s : State) (b : BayRef) (r : Running) : (s.putRunning b r).part = s.part := rfl
@[simp] theorem putRunning_time (s : State) (b : BayRef) (r : Running) : (s.putRunning b r).time = s.time := rfl
@[simp] theorem putRunning_ks (s : State) (b : BayRef) (r : Running) : (s.putRunning b r).ks = s.ks := rfl
@[simp] theorem putRunning_power (s : State) (b : BayRef) (r : Running) : (s.putRunning b r).power = s.power := rfl
@[simp] theorem putRunning_mem (s : State) (b : BayRef) (r : Running) : (s.putRunning b r).mem = s.mem := rfl
@[simp] theorem putRunning_bays (s : State) (b : BayRef) (r : Running) : (s.putRunning b r).bays = mset s.bays (bayKey b.die b.bay) ((s.bay b.die b.bay).putRunning r) := rfl
@[simp] theorem putRunning_movers (s : State) (b : BayRef) (r : Running) : (s.putRunning b r).movers = s.movers := rfl
@[simp] theorem putRunning_dies (s : State) (b : BayRef) (r : Running) : (s.putRunning b r).dies = s.dies := rfl
@[simp] theorem putRunning_jobs (s : State) (b : BayRef) (r : Running) : (s.putRunning b r).jobs = s.jobs := rfl
@[simp] theorem putRunning_span (s : State) (b : BayRef) (r : Running) : (s.putRunning b r).span = s.span := rfl
@[simp] theorem putRunning_via (s : State) (b : BayRef) (r : Running) : (s.putRunning b r).via = s.via := rfl
@[simp] theorem putRunning_hosts (s : State) (b : BayRef) (r : Running) : (s.putRunning b r).hosts = s.hosts := rfl
@[simp] theorem putRunning_out (s : State) (b : BayRef) (r : Running) : (s.putRunning b r).out = s.out := rfl
@[simp] theorem putRunning_pending (s : State) (b : BayRef) (r : Running) : (s.putRunning b r).pending = s.pending := rfl

@[simp] theorem hostWrite_part (s : State) (p a : Nat) (bs : List Byte) : (s.hostWrite p a bs).part = s.part := rfl
@[simp] theorem hostWrite_time (s : State) (p a : Nat) (bs : List Byte) : (s.hostWrite p a bs).time = s.time := rfl
@[simp] theorem hostWrite_ks (s : State) (p a : Nat) (bs : List Byte) : (s.hostWrite p a bs).ks = s.ks := rfl
@[simp] theorem hostWrite_power (s : State) (p a : Nat) (bs : List Byte) : (s.hostWrite p a bs).power = s.power := rfl
@[simp] theorem hostWrite_mem (s : State) (p a : Nat) (bs : List Byte) : (s.hostWrite p a bs).mem = s.mem := rfl
@[simp] theorem hostWrite_bays (s : State) (p a : Nat) (bs : List Byte) : (s.hostWrite p a bs).bays = s.bays := rfl
@[simp] theorem hostWrite_movers (s : State) (p a : Nat) (bs : List Byte) : (s.hostWrite p a bs).movers = s.movers := rfl
@[simp] theorem hostWrite_dies (s : State) (p a : Nat) (bs : List Byte) : (s.hostWrite p a bs).dies = s.dies := rfl
@[simp] theorem hostWrite_jobs (s : State) (p a : Nat) (bs : List Byte) : (s.hostWrite p a bs).jobs = s.jobs := rfl
@[simp] theorem hostWrite_span (s : State) (p a : Nat) (bs : List Byte) : (s.hostWrite p a bs).span = s.span := rfl
@[simp] theorem hostWrite_via (s : State) (p a : Nat) (bs : List Byte) : (s.hostWrite p a bs).via = s.via := rfl
@[simp] theorem hostWrite_hosts (s : State) (p a : Nat) (bs : List Byte) : (s.hostWrite p a bs).hosts = s.hosts := rfl
@[simp] theorem hostWrite_out (s : State) (p a : Nat) (bs : List Byte) : (s.hostWrite p a bs).out = { s.out with hostWr := s.out.hostWr ++ [(p, a, bs)] } := rfl
@[simp] theorem hostWrite_pending (s : State) (p a : Nat) (bs : List Byte) : (s.hostWrite p a bs).pending = s.pending := rfl

@[simp] theorem modVport_part (s : State) (p : Nat) (f : VPort → VPort) : (s.modVport p f).part = s.part := rfl
@[simp] theorem modVport_time (s : State) (p : Nat) (f : VPort → VPort) : (s.modVport p f).time = s.time := rfl
@[simp] theorem modVport_ks (s : State) (p : Nat) (f : VPort → VPort) : (s.modVport p f).ks = s.ks := rfl
@[simp] theorem modVport_power (s : State) (p : Nat) (f : VPort → VPort) : (s.modVport p f).power = s.power := rfl
@[simp] theorem modVport_mem (s : State) (p : Nat) (f : VPort → VPort) : (s.modVport p f).mem = s.mem := rfl
@[simp] theorem modVport_bays (s : State) (p : Nat) (f : VPort → VPort) : (s.modVport p f).bays = s.bays := rfl
@[simp] theorem modVport_movers (s : State) (p : Nat) (f : VPort → VPort) : (s.modVport p f).movers = s.movers := rfl
@[simp] theorem modVport_dies (s : State) (p : Nat) (f : VPort → VPort) : (s.modVport p f).dies = s.dies := rfl
@[simp] theorem modVport_jobs (s : State) (p : Nat) (f : VPort → VPort) : (s.modVport p f).jobs = s.jobs := rfl
@[simp] theorem modVport_span (s : State) (p : Nat) (f : VPort → VPort) : (s.modVport p f).span = s.span := rfl
@[simp] theorem modVport_hosts (s : State) (p : Nat) (f : VPort → VPort) : (s.modVport p f).hosts = s.hosts := rfl
@[simp] theorem modVport_out (s : State) (p : Nat) (f : VPort → VPort) : (s.modVport p f).out = s.out := rfl
@[simp] theorem modVport_pending (s : State) (p : Nat) (f : VPort → VPort) : (s.modVport p f).pending = s.pending := rfl

end Sys2Proof.Laws
end

