-- ==== Sys2Proof/Laws/Frames.lean ====
section
/-! SUPPORT. Events, fault records, freezes and messages leave the stores as they are; a bit-field written leaves the bytes outside it. -/

namespace Sys2Proof.Laws

open Sys2Proof Sys2Proof.Machine

/-- A fold of states that each leave the stores leaves them. -/
theorem foldl_mem {α : Type} {f : State → α → State} (hf : ∀ t x, (f t x).mem = t.mem) (xs : List α) (s : State) :
    (xs.foldl f s).mem = s.mem := by
  induction xs generalizing s with
  | nil => rfl
  | cons x xs ih => exact (ih (f s x)).trans (hf s x)

@[simp] theorem countHost_mem (s : State) (p f : Nat) : (s.countHost p f).mem = s.mem := rfl

@[simp] theorem vector_mem (s : State) (p v : Nat) : (s.vector p v).mem = s.mem := by unfold State.vector; dsimp only; split_ifs <;> rfl

@[simp] theorem eventAt_mem (s : State) (p code job die status : Nat) (data : List Byte) :
    (s.eventAt p code job die status data).mem = s.mem := by
  unfold State.eventAt; dsimp only; split_ifs <;> simp

@[simp] theorem eventPorts_mem (s : State) (ps : List Nat) (code job die status : Nat) (data : List Byte) :
    (s.eventPorts ps code job die status data).mem = s.mem := foldl_mem (fun _ _ => eventAt_mem ..) ps s

@[simp] theorem event_mem (s : State) (code job die status : Nat) (data : List Byte) : (s.event code job die status data).mem = s.mem :=
  eventPorts_mem ..

@[simp] theorem mgmtSend_mem (s : State) (code status : Nat) (nonce body : List Byte) : (s.mgmtSend code status nonce body).mem = s.mem := by
  unfold State.mgmtSend; split <;> rfl

@[simp] theorem logFault_mem (s : State) (r : FaultRec) : (s.logFault r).mem = s.mem := by
  unfold State.logFault; dsimp only; split_ifs <;> simp

@[simp] theorem freeze_mem (s : State) (f : Freeze) : (s.freeze f).mem = s.mem := by
  unfold State.freeze; dsimp only; split_ifs <;> simp

@[simp] theorem wrote_mem (s : State) (a n : Nat) : (s.wrote a n).mem = s.mem := by
  unfold State.wrote; split <;> rfl

@[simp] theorem memWake_mem (s : State) (a : Nat) : (s.memWake a).mem = s.mem := by
  unfold State.memWake; split <;> rfl

/-- No host-tier shard on a port runs. -/
def NoTier (s : State) (p : Nat) : Prop := ∀ die h, h ∈ (s.die die).shards → (h.2.hostTier && h.2.port == p && !h.2.stopped) = false

theorem stopTier_of_noTier {s : State} {p : Nat} (h : NoTier s p) : s.stopTier p = s := by
  unfold State.stopTier
  split
  · rfl
  · have e : ∀ die, mkeys ((s.die die).shards.filter fun h => h.2.hostTier && h.2.port == p && !h.2.stopped) = [] := fun die => by
      rw [List.filter_eq_nil_iff.2 fun x hx => by simp [h die x hx]]; rfl
    generalize List.range s.dieCount = l
    induction l with
    | nil => rfl
    | cons d l ih => rw [List.foldl_cons, e d]; exact ih

@[simp] theorem countHost_dies (s : State) (p f : Nat) : (s.countHost p f).dies = s.dies := rfl

@[simp] theorem vector_dies (s : State) (p v : Nat) : (s.vector p v).dies = s.dies := by unfold State.vector; dsimp only; split_ifs <;> rfl

@[simp] theorem eventAt_dies (s : State) (p code job die status : Nat) (data : List Byte) :
    (s.eventAt p code job die status data).dies = s.dies := by
  unfold State.eventAt; dsimp only; split_ifs <;> simp

@[simp] theorem event_dies (s : State) (code job die status : Nat) (data : List Byte) : (s.event code job die status data).dies = s.dies := by
  have e : ∀ (ps : List Nat) (s : State), (s.eventPorts ps code job die status data).dies = s.dies := fun ps => by
    induction ps with
    | nil => exact fun _ => rfl
    | cons x xs ih => exact fun s => (ih _).trans (eventAt_dies ..)
  exact e _ _

@[simp] theorem mgmtSend_dies (s : State) (code status : Nat) (nonce body : List Byte) : (s.mgmtSend code status nonce body).dies = s.dies := by
  unfold State.mgmtSend; split <;> rfl

@[simp] theorem logFault_dies (s : State) (r : FaultRec) : (s.logFault r).dies = s.dies := by
  unfold State.logFault; dsimp only; split_ifs <;> simp

@[simp] theorem freeze_dies (s : State) (f : Freeze) : (s.freeze f).dies = s.dies := by
  unfold State.freeze; dsimp only; split_ifs <;> simp

/-- A freeze of a host function leaves the stores; where host-tier shards on it stop, their faults are handled on their own (11 R296). -/
theorem freezeHost_mem {s : State} {p : Nat} (h : NoTier s p) (reason address : Nat) (request : List Byte) :
    (s.freezeHost p reason address request).mem = s.mem := by
  unfold State.freezeHost
  rw [stopTier_of_noTier fun die x hx => h die x (by simpa [State.die] using hx)]
  exact freeze_mem ..

@[simp] theorem pumpPort_mem (s : State) (k : Nat) : (s.pumpPort k).mem = s.mem := by
  unfold State.pumpPort; dsimp only; split <;> rfl

@[simp] theorem transmit_mem (s : State) (w : Wire) : (s.transmit w).mem = s.mem := by unfold State.transmit; dsimp only; split <;> simp

@[simp] theorem unsent_mem (s : State) (kind seq status : Nat) (body : List Byte) : (s.unsent kind seq status body).mem = s.mem := by
  unfold State.unsent; dsimp only; split <;> simp

@[simp] theorem emit_mem (s : State) (kind flags dst seq : Nat) (body : List Byte) : (s.emit kind flags dst seq body).mem = s.mem := by
  unfold State.emit; split_ifs
  · rfl
  · simp
  · split <;> simp

@[simp] theorem send_mem (s : State) (kind dst die : Nat) (body : List Byte) (ctx : List Nat) : (s.send kind dst die body ctx).mem = s.mem := by
  unfold State.send; dsimp only; split_ifs <;> simp

@[simp] theorem redSend_mem (s : State) (die n node kind flags c r token : Nat) (payload : List Byte) (ctx : List Nat) :
    (s.redSend die n node kind flags c r token payload ctx).mem = s.mem := by
  unfold State.redSend; simp

@[simp] theorem sendPiece_mem (s : State) (die n : Nat) (q : List Nat) : (s.sendPiece die n q).mem = s.mem := by
  unfold State.sendPiece; split <;> simp

@[simp] theorem pump_mem (s : State) (die n : Nat) : (s.pump die n).mem = s.mem :=
  foldl_mem (fun t q => by dsimp only; split <;> simp) _ s

@[simp] theorem tryRetract_mem (s : State) (die n : Nat) : (s.tryRetract die n).mem = s.mem := by
  unfold State.tryRetract; dsimp only
  split_ifs
  · simp
  · exact foldl_mem (fun _ _ => redSend_mem ..) _ s
  · rfl

@[simp] theorem retractToken_mem (s : State) (die token : Nat) (w : Bool) : (s.retractToken die token w).mem = s.mem :=
  foldl_mem (fun _ _ => by simp) _ s

/-- A violation freezes the bay and leaves the stores (12 R328). -/
@[simp] theorem freezeBay_mem (s : State) (b : BayRef) (r : Running) (reason addr : Nat) (d : Option Desc) :
    (s.freezeBay b r reason addr d).mem = s.mem := by
  unfold State.freezeBay State.freezeBayAt; simp

/-- What an instruction of a stroke leaves in the stores: what its effect leaves, or all of them. -/
theorem strokeStep_mem {s : State} {b : BayRef} {op : Nat} {f : Fields} {g : State → Running → Eff} {r : Running}
    (h : s.atStroke b op f = some r) :
    (∃ u q, g s r = .done u q ∧ (s.strokeStep b op f g).mem = u.mem) ∨ (s.strokeStep b op f g).mem = s.mem := by
  unfold State.strokeStep; rw [h]
  dsimp only
  split
  · rename_i e; exact .inl ⟨_, _, e, rfl⟩
  · exact .inr rfl
  · exact .inr (freezeBay_mem ..)

theorem rdByte_wrBytes_other {m : Mem} (a c : Nat) (bs : List Byte) (h : Mem.wf m = true) (hc : c < a ∨ a + bs.length ≤ c) :
    rdByte (wrBytes m a bs) c = rdByte m c := by
  induction bs generalizing m a with
  | nil => rfl
  | cons b bs ih =>
    simp only [List.length_cons] at hc
    refine (ih (a + 1) (wrByte_wf a b h) (by omega)).trans (rdByte_wrByte_other a c b h (by omega))

theorem length_natLe (n v : Nat) : (natLe n v).length = n := by
  induction n generalizing v with
  | zero => rfl
  | succ n ih => simp [natLe, ih]

/-- A bit-field written leaves every byte outside it. -/
theorem rdByte_wrBits_other {m : Mem} (ba w v a : Nat) (h : Mem.wf m = true) (ha : a < ba / 8 ∨ (ba + w + 7) / 8 ≤ a) :
    rdByte (wrBits m ba w v) a = rdByte m a := by
  refine rdByte_wrBytes_other _ _ _ h ?_
  rw [length_natLe]
  unfold cdiv
  omega

end Sys2Proof.Laws
end

