-- ==== Sys2Proof/Laws/Tables.lean ====
section
/-! SUPPORT. Reading a sparse table after it was written, and the bays, movers, dies and hosts that lie in such tables. -/

namespace Sys2Proof.Laws

open Sys2Proof Sys2Proof.Machine

variable {α : Type}

@[simp] theorem mget_mset_self (m : SMap α) (k : Nat) (a : α) : mget (mset m k a) k = some a := by
  induction m with
  | nil => simp [mset, mget]
  | cons p m ih =>
    obtain ⟨x, b⟩ := p
    unfold mset
    split
    · simp [mget]
    · split
      · simp [mget, *]
      · simp [mget, *]

theorem mget_mset_other (m : SMap α) {k j : Nat} (a : α) (h : j ≠ k) : mget (mset m k a) j = mget m j := by
  induction m with
  | nil => simp [mset, mget, h]
  | cons p m ih =>
    obtain ⟨x, b⟩ := p
    unfold mset
    split
    · simp [mget, h]
    · split
      · rename_i e; simp [mget, ← e, h]
      · simp only [mget, ih]

@[simp] theorem mgetD_mset_self (d : α) (m : SMap α) (k : Nat) (a : α) : mgetD d (mset m k a) k = a := by simp [mgetD]

theorem mgetD_mset_other (d : α) (m : SMap α) {k j : Nat} (a : α) (h : j ≠ k) : mgetD d (mset m k a) j = mgetD d m j := by
  simp [mgetD, mget_mset_other m a h]

@[simp] theorem bay_modBay_self (s : State) (d b : Nat) (g : Bay → Bay) : (s.modBay d b g).bay d b = g (s.bay d b) := by
  simp [State.modBay, State.setBay, State.bay]

theorem bay_modBay_other (s : State) {d b d' b' : Nat} (g : Bay → Bay) (h : bayKey d' b' ≠ bayKey d b) :
    (s.modBay d b g).bay d' b' = s.bay d' b' := by
  simp only [State.modBay, State.setBay, State.bay]
  exact mgetD_mset_other _ _ _ h

@[simp] theorem die_modDie_self (s : State) (d : Nat) (g : Die → Die) : (s.modDie d g).die d = g (s.die d) := by
  simp [State.modDie, State.setDie, State.die]

theorem die_modDie_other (s : State) {d d' : Nat} (g : Die → Die) (h : d' ≠ d) : (s.modDie d g).die d' = s.die d' := by
  simp only [State.modDie, State.setDie, State.die]
  exact mgetD_mset_other _ _ _ h

@[simp] theorem mover_modMover_self (s : State) (d m : Nat) (g : Mover → Mover) : (s.modMover d m g).mover d m = g (s.mover d m) := by
  simp [State.modMover, State.mover]

@[simp] theorem port_modPort_self (s : State) (k : Nat) (g : Port → Port) : (s.modPort k g).port k = g (s.port k) := by
  simp [State.modPort, State.port]

@[simp] theorem slot_modSlot_self (s : State) (d n : Nat) (g : Slot → Slot) : (s.modSlot d n g).slot d n = g (s.slot d n) := by
  simp [State.modSlot, State.slot]

end Sys2Proof.Laws
end

