-- ==== Sys2Proof/Tests/Slice0.lean ====
section
/-! SUPPORT. Tests: ill-formed instructions refused, the spec's own worked examples, and for every statement with hypotheses a
concrete state and operands that meet them. -/

namespace Sys2Proof.Tests

set_option Elab.async false

open Sys2Proof Sys2Proof.Machine

/-- A part in the ready state. -/
def live : State :=
  { ({} : State) with
      part := { ({} : Part) with porN := true, railsOk := true, state := 2, stage := 8 }
      power := { ({} : Power) with doms := (List.range 12).map fun i => (i, .on) } }

/-- The bay of the tests. -/
def b0 : BayRef := ⟨0, 0⟩

/-- Fields with given register numbers and immediate. -/
def fl (d a b c i : Nat) : Fields := ⟨BitVec.ofNat 6 d, BitVec.ofNat 6 a, BitVec.ofNat 6 b, BitVec.ofNat 6 c, BitVec.ofNat 32 i⟩

/-- A dense FP32 tensor of one row at byte `a` of the bay's SRAM. -/
def tF (a n : Nat) : Desc := { base := sramDpa 0 0 a, fmt := 0, shape := [n], stride := [1] }

/-- A dense BX64 tensor at byte 4096 with its anchors at byte 8192. -/
def tB (n : Nat) : Desc := { base := sramDpa 0 0 4096, fmt := 10, shape := [n], stride := [1], sideBase := sramDpa 0 0 8192, sideStride := 1 }

/-- A stroke that runs one instruction. -/
def run1 (op : Nat) (f : Fields) (ds : List Desc) (r : Running) : Running :=
  { r with inst := { r.inst with img := { r.inst.img with instrs := [encodeWord op f], descs := ds } }, descs := ds }

/-- A ready part whose bay 0 of die 0 holds one stroke about to issue one instruction. -/
def at1 (op : Nat) (f : Fields) (ds : List Desc) (r : Running) : State := { live with bays := [(0, { ({} : Bay) with slots := [run1 op f ds r] })] }

/-- Registers with some s registers set. -/
def sregs (xs : List Nat) : Running := { ({} : Running) with s := (xs.map (BitVec.ofNat 32)) ++ List.replicate (32 - xs.length) 0#32 }

/-- The instructions whose only condition is that they are the next one. -/
theorem test_next_instruction_witness : ∀ op ∈ [0x20, 0x21, 0x22, 0x23, 0x24, 0x25, 0x26, 0x27, 0x28, 0x29, 0x2A, 0x30, 0x31, 0x32, 0x33, 0x34, 0x35,
    0x36, 0x37, 0x38, 0x39, 0x3A, 0x3B, 0x3C, 0x3E, 0x3F, 0x2B, 0x2C, 0x3D, 0x58, 0x59, 0x57, 0x40, 0x41, 0x42, 0x43, 0x44, 0x45, 0x46, 0x47, 0x48, 0x49,
    0x4A, 0x4B, 0x4C, 0x4D, 0x4E, 0x4F, 0x50, 0x51, 0x52, 0x53, 0x54, 0x55, 0x56, 0x5C, 0x5D, 0x00, 0x0F, 0x95, 0xC8, 0x60, 0x61, 0x62, 0x63, 0x64,
    0x70, 0x72, 0x80], (at1 op (fl 1 2 3 0 0) [] {}).atStroke b0 op (fl 1 2 3 0 0) = some (run1 op (fl 1 2 3 0 0) [] {}) := by
  decide +kernel

/-- A part whose slot 0 of die 0 is open, bytes 4096 to 40959 of bay 0 its buffer. -/
def redAt (s : State) : State :=
  { s with dies := [(0, { ({} : Die) with slots := [(0, { ({} : Slot) with state := .opened })] })], bays := [(0, { s.bay 0 0 with seals := [{ start := 4096, bytes := 36864, state := .wet, owner := .slot 0 }] })] }

/-- Some user table of one interval. -/
def lut1 : LutBank := ⟨1, true, false, 0#32, 0x3F800000#32, [0#32, 0x3F800000#32]⟩

/-- The hypotheses of LoadsComplete can be met, clause by clause. -/
theorem test_LoadsComplete_witness :
    (∃ (b : BayRef) (f : Fields) (s : State) (r : Running), s.atStroke b 0x90 f = some r ∧
      f.imm.toNat.testBit 8 = false ∧
      (r.desc (f.imm.toNat % 256)).moveFault (r.sreg f.src1).toNat = none ∧
      s.free b r (accessOf false ((r.desc (f.imm.toNat % 256)).access ((r.sreg f.src1).toNat + (elemsOf (r.desc (f.imm.toNat % 256)).fmt (r.moved (modOf false f) (r.desc (f.imm.toNat % 256)).fmt)).1) ((elemsOf (r.desc (f.imm.toNat % 256)).fmt (r.moved (modOf false f) (r.desc (f.imm.toNat % 256)).fmt)).2 - (elemsOf (r.desc (f.imm.toNat % 256)).fmt (r.moved (modOf false f) (r.desc (f.imm.toNat % 256)).fmt)).1))) = true) ∧
    (∃ (b : BayRef) (f : Fields) (s : State) (r : Running), s.atStroke b 0x90 f = some r ∧
      f.imm.toNat.testBit 8 = true ∧
      (∀ l ∈ r.sideLanes (modOf false f), (r.sreg f.src1).toNat / 32 + l < (r.desc (f.imm.toNat % 256)).blocks) ∧
      s.free b r (accessOf false (hull ((r.sideLanes (modOf false f)).map fun l => ((r.desc (f.imm.toNat % 256)).sideAddr ((r.sreg f.src1).toNat / 32 + l), 1)))) = true) ∧
    (∃ (b : BayRef) (f : Fields) (s : State) (r : Running), s.atStroke b 0x91 f = some r ∧
      (r.desc (f.imm.toNat % 256)).wordFault (r.sreg f.src1).toNat = none ∧
      s.free b r (accessOf false ((r.desc (f.imm.toNat % 256)).access (r.sreg f.src1).toNat 1)) = true) :=
  ⟨⟨b0, fl 1 0 0 0 0, at1 0x90 (fl 1 0 0 0 0) [tF 0 256] (sregs [64]), run1 0x90 (fl 1 0 0 0 0) [tF 0 256] (sregs [64]), by decide +kernel⟩,
   ⟨b0, fl 1 0 0 0 0x100, at1 0x90 (fl 1 0 0 0 0x100) [tB 2048] (sregs [0]), run1 0x90 (fl 1 0 0 0 0x100) [tB 2048] (sregs [0]), by decide +kernel⟩,
   ⟨b0, fl 1 0 0 0 0, at1 0x91 (fl 1 0 0 0 0) [tF 0 256] (sregs [255]), run1 0x91 (fl 1 0 0 0 0) [tF 0 256] (sregs [255]), by decide +kernel⟩⟩

/-- The hypotheses of StoresComplete can be met, clause by clause. -/
theorem test_StoresComplete_witness :
    (∃ (b : BayRef) (f : Fields) (s : State) (r : Running), s.atStroke b 0x98 f = some r ∧
      f.imm.toNat.testBit 8 = false ∧
      (r.desc (f.imm.toNat % 256)).moveFault (r.sreg f.src2).toNat = none ∧
      s.free b r (accessOf true ((r.desc (f.imm.toNat % 256)).access ((r.sreg f.src2).toNat + (elemsOf (r.desc (f.imm.toNat % 256)).fmt (r.moved (modOf false f) (r.desc (f.imm.toNat % 256)).fmt)).1) ((elemsOf (r.desc (f.imm.toNat % 256)).fmt (r.moved (modOf false f) (r.desc (f.imm.toNat % 256)).fmt)).2 - (elemsOf (r.desc (f.imm.toNat % 256)).fmt (r.moved (modOf false f) (r.desc (f.imm.toNat % 256)).fmt)).1))) = true) ∧
    (∃ (b : BayRef) (f : Fields) (s : State) (r : Running), s.atStroke b 0x98 f = some r ∧
      f.imm.toNat.testBit 8 = true ∧
      (∀ l ∈ r.sideLanes (modOf false f), (r.sreg f.src2).toNat / 32 + l < (r.desc (f.imm.toNat % 256)).blocks) ∧
      s.free b r (accessOf true (hull ((r.sideLanes (modOf false f)).map fun l => ((r.desc (f.imm.toNat % 256)).sideAddr ((r.sreg f.src2).toNat / 32 + l), 1)))) = true) ∧
    (∃ (b : BayRef) (f : Fields) (s : State) (r : Running), s.atStroke b 0x99 f = some r ∧
      (r.desc (f.imm.toNat % 256)).wordFault (r.sreg f.src2).toNat = none ∧
      s.free b r (accessOf true ((r.desc (f.imm.toNat % 256)).access (r.sreg f.src2).toNat 1)) = true) :=
  ⟨⟨b0, fl 0 1 0 0 0, at1 0x98 (fl 0 1 0 0 0) [tF 0 256] (sregs [192]), run1 0x98 (fl 0 1 0 0 0) [tF 0 256] (sregs [192]), by decide +kernel⟩,
   ⟨b0, fl 0 1 0 0 0x100, at1 0x98 (fl 0 1 0 0 0x100) [tB 2048] (sregs [0]), run1 0x98 (fl 0 1 0 0 0x100) [tB 2048] (sregs [0]), by decide +kernel⟩,
   ⟨b0, fl 0 1 0 0 0, at1 0x99 (fl 0 1 0 0 0) [tF 0 256] (sregs [255, 7]), run1 0x99 (fl 0 1 0 0 0) [tF 0 256] (sregs [255, 7]), by decide +kernel⟩⟩

/-- The hypotheses of BlockAccumulateStoresComplete can be met, clause by clause. -/
theorem test_BlockAccumulateStoresComplete_witness :
    (∃ (b : BayRef) (f : Fields) (s : State) (r : Running), s.atStroke b 0xC0 f = some r ∧
      s.accFault b.die r.inst.step (r.desc (f.imm.toNat % 256)) (r.sreg f.src2).toNat 64 = none ∧
      s.free b r (accessOf true ((r.desc (f.imm.toNat % 256)).access (r.sreg f.src2).toNat 64)) = true ∧
      r.already = false) ∧
    (∃ (b : BayRef) (f : Fields) (s : State) (r : Running), s.atStroke b 0xC0 f = some r ∧
      r.already = true) ∧
    (∃ (b : BayRef) (f : Fields) (s : State) (r : Running), s.atStroke b 0xC1 f = some r ∧
      (r.sreg f.src1).toNat + (r.sreg f.src2).toNat ≤ (r.desc (f.imm.toNat >>> 8 % 256)).count ∧
      s.accFault b.die r.inst.step (r.desc (f.imm.toNat % 256)) (r.sreg f.src1).toNat (r.sreg f.src2).toNat = none ∧
      s.free b r (accessOf true ((r.desc (f.imm.toNat % 256)).access (r.sreg f.src1).toNat (r.sreg f.src2).toNat) ++ accessOf false ((r.desc (f.imm.toNat >>> 8 % 256)).access (r.sreg f.src1).toNat (r.sreg f.src2).toNat)) = true ∧
      r.already = false) ∧
    (∃ (b : BayRef) (f : Fields) (s : State) (r : Running), s.atStroke b 0xC1 f = some r ∧
      r.already = true) :=
  ⟨⟨b0, fl 0 1 0 0 0, redAt ({ at1 0xC0 (fl 0 1 0 0 0) [tB 64] (sregs [0]) with mem := [(sramDpa 0 0 8192, 127#8), (sramDpa 0 0 8193, 127#8)] }), run1 0xC0 (fl 0 1 0 0 0) [tB 64] (sregs [0]), by decide +kernel⟩,
   ⟨b0, fl 0 1 0 0 0, redAt ({ at1 0xC0 (fl 0 1 0 0 0) [tB 64] ({ sregs [0, 64] with accDone := [0] }) with mem := [(sramDpa 0 0 8192, 127#8), (sramDpa 0 0 8193, 127#8)] }), run1 0xC0 (fl 0 1 0 0 0) [tB 64] ({ sregs [0, 64] with accDone := [0] }), by decide +kernel⟩,
   ⟨b0, fl 0 0 1 0 0x100, redAt ({ at1 0xC1 (fl 0 0 1 0 0x100) [tB 64, tF 0 64] (sregs [0, 64]) with mem := [(sramDpa 0 0 8192, 127#8), (sramDpa 0 0 8193, 127#8)] }), run1 0xC1 (fl 0 0 1 0 0x100) [tB 64, tF 0 64] (sregs [0, 64]), by decide +kernel⟩,
   ⟨b0, fl 0 0 1 0 0x100, redAt ({ at1 0xC1 (fl 0 0 1 0 0x100) [tB 64, tF 0 64] ({ sregs [0, 64] with accDone := [0] }) with mem := [(sramDpa 0 0 8192, 127#8), (sramDpa 0 0 8193, 127#8)] }), run1 0xC1 (fl 0 0 1 0 0x100) [tB 64, tF 0 64] ({ sregs [0, 64] with accDone := [0] }), by decide +kernel⟩⟩

/-- The hypotheses of LookUpInstructionsComplete can be met, clause by clause. -/
theorem test_LookUpInstructionsComplete_witness :
    (∃ (b : BayRef) (f : Fields) (s : State) (r : Running), s.atStroke b 0x60 f = some r) ∧
    (∃ (b : BayRef) (f : Fields) (s : State) (r : Running), s.atStroke b 0x61 f = some r) ∧
    (∃ (b : BayRef) (f : Fields) (s : State) (r : Running), s.atStroke b 0x62 f = some r) ∧
    (∃ (b : BayRef) (f : Fields) (s : State) (r : Running), s.atStroke b 0x63 f = some r) ∧
    (∃ (b : BayRef) (f : Fields) (s : State) (r : Running), s.atStroke b 0x64 f = some r) ∧
    (∃ (b : BayRef) (f : Fields) (s : State) (r : Running), s.atStroke b 0x68 f = some r ∧
      s.free b r (accessOf false ((r.desc (f.imm.toNat >>> 16 % 256)).access 0 (f.imm.toNat >>> 4 % 512 + (if f.imm.toNat.testBit 2 then 2 else 1)))) = true) ∧
    (∃ (b : BayRef) (f : Fields) (s : State) (r : Running), ∃ t, s.atStroke b 0x69 f = some r ∧ at' none r.luts (f.imm.toNat % 4) = some t) :=
  ⟨⟨b0, fl 1 2 3 0 0, at1 0x60 (fl 1 2 3 0 0) [] ({}), run1 0x60 (fl 1 2 3 0 0) [] ({}), by decide +kernel⟩,
   ⟨b0, fl 1 2 3 0 0, at1 0x61 (fl 1 2 3 0 0) [] ({}), run1 0x61 (fl 1 2 3 0 0) [] ({}), by decide +kernel⟩,
   ⟨b0, fl 1 2 3 0 0, at1 0x62 (fl 1 2 3 0 0) [] ({}), run1 0x62 (fl 1 2 3 0 0) [] ({}), by decide +kernel⟩,
   ⟨b0, fl 1 2 3 0 0, at1 0x63 (fl 1 2 3 0 0) [] ({}), run1 0x63 (fl 1 2 3 0 0) [] ({}), by decide +kernel⟩,
   ⟨b0, fl 1 2 3 0 0, at1 0x64 (fl 1 2 3 0 0) [] ({}), run1 0x64 (fl 1 2 3 0 0) [] ({}), by decide +kernel⟩,
   ⟨b0, fl 0 0 0 0 0x10, at1 0x68 (fl 0 0 0 0 0x10) [tF 0 256] ({}), run1 0x68 (fl 0 0 0 0 0x10) [tF 0 256] ({}), by decide +kernel⟩,
   ⟨b0, fl 1 2 0 0 0, at1 0x69 (fl 1 2 0 0 0) [] ({ ({} : Running) with luts := [some lut1, none, none, none] }), run1 0x69 (fl 1 2 0 0 0) [] ({ ({} : Running) with luts := [some lut1, none, none, none] }), lut1, by decide +kernel⟩⟩

/-- The hypotheses of ConversionsComplete can be met, clause by clause. -/
theorem test_ConversionsComplete_witness :
    (∃ (b : BayRef) (f : Fields) (s : State) (r : Running), s.atStroke b 0x70 f = some r) ∧
    (∃ (b : BayRef) (f : Fields) (s : State) (r : Running), s.atStroke b 0x71 f = some r ∧
      (∀ y ∈ ((r.xsource f).zipIdx.map fun (v, k) => xblockOf (f.imm.toNat % 16) ((r.lane f.src3 (f.imm.toNat >>> 26 + k)).toNat % 256) r.tdst v), y.2.2 = false)) ∧
    (∃ (b : BayRef) (f : Fields) (s : State) (r : Running), s.atStroke b 0x72 f = some r) ∧
    (∃ (b : BayRef) (f : Fields) (s : State) (r : Running), (s.atStroke b 0x73 f = some r ∧
      (r.sreg f.src1 = 0#32 ∨ tsOk (r.sreg f.src1) = true))) ∧
    (∃ (b : BayRef) (f : Fields) (s : State) (r : Running), s.atStroke b 0x74 f = some r ∧
      isNaN (fabs (r.sreg f.src1)) = false ∧
      isInf (fabs (r.sreg f.src1)) = false) ∧
    (∃ (b : BayRef) (f : Fields) (s : State) (r : Running), s.atStroke b 0x75 f = some r ∧
      s.settled b r (r.desc (f.imm.toNat % 256)) = true) ∧
    (∃ (b : BayRef) (f : Fields) (s : State) (r : Running), s.atStroke b 0x76 f = some r ∧
      s.free b r (accessOf false (r.desc (f.imm.toNat >>> 8 % 256)).spans ++ accessOf true (r.desc (f.imm.toNat % 256)).spans) = true) :=
  ⟨⟨b0, fl 1 2 0 0 0x01, at1 0x70 (fl 1 2 0 0 0x01) [] ({}), run1 0x70 (fl 1 2 0 0 0x01) [] ({}), by decide +kernel⟩,
   ⟨b0, fl 1 2 0 3 0x03, at1 0x71 (fl 1 2 0 3 0x03) [] ({}), run1 0x71 (fl 1 2 0 3 0x03) [] ({}), by decide +kernel⟩,
   ⟨b0, fl 1 2 0 0 0x03, at1 0x72 (fl 1 2 0 0 0x03) [] ({}), run1 0x72 (fl 1 2 0 0 0x03) [] ({}), by decide +kernel⟩,
   ⟨b0, fl 0 1 0 0 1, at1 0x73 (fl 0 1 0 0 1) [] (sregs [0, 0x3F800000]), run1 0x73 (fl 0 1 0 0 1) [] (sregs [0, 0x3F800000]), by decide +kernel⟩,
   ⟨b0, fl 2 1 0 0 0, at1 0x74 (fl 2 1 0 0 0) [] (sregs [0, 0x3F800000]), run1 0x74 (fl 2 1 0 0 0) [] (sregs [0, 0x3F800000]), by decide +kernel⟩,
   ⟨b0, fl 2 0 0 0 0, at1 0x75 (fl 2 0 0 0 0) [tF 0 256] ({}), run1 0x75 (fl 2 0 0 0 0) [tF 0 256] ({}), by decide +kernel⟩,
   ⟨b0, fl 0 0 0 0 0x1, at1 0x76 (fl 0 0 0 0 0x1) [tF 0 256, tF 4096 4096] ({}), run1 0x76 (fl 0 0 0 0 0x1) [tF 0 256, tF 4096 4096] ({}), by decide +kernel⟩⟩

/-- The hypotheses of SequencerInstructionsComplete can be met, clause by clause. -/
theorem test_SequencerInstructionsComplete_witness :
    (∃ (b : BayRef) (f : Fields) (s : State) (r : Running), s.atStroke b 0x00 f = some r) ∧
    (∃ (b : BayRef) (f : Fields) (s : State) (r : Running), s.atStroke b 0x0F f = some r) ∧
    (∃ (b : BayRef) (f : Fields) (s : State) (r : Running), s.atStroke b 0x95 f = some r) ∧
    (∃ (b : BayRef) (f : Fields) (s : State) (r : Running), s.atStroke b 0xC8 f = some r) ∧
    (∃ (b : BayRef) (f : Fields) (s : State) (r : Running), s.atStroke b 0xC9 f = some r ∧ s.settled b r (r.desc (f.imm.toNat >>> 8 % 256)) = true) ∧
    (∃ (b : BayRef) (f : Fields) (s : State) (r : Running), s.atStroke b 0xCA f = some r ∧ s.drained b r = true) :=
  ⟨⟨b0, fl 1 2 3 0 0, at1 0x00 (fl 1 2 3 0 0) [] ({}), run1 0x00 (fl 1 2 3 0 0) [] ({}), by decide +kernel⟩,
   ⟨b0, fl 1 2 3 0 0, at1 0x0F (fl 1 2 3 0 0) [] ({}), run1 0x0F (fl 1 2 3 0 0) [] ({}), by decide +kernel⟩,
   ⟨b0, fl 1 2 3 0 0, at1 0x95 (fl 1 2 3 0 0) [] ({}), run1 0x95 (fl 1 2 3 0 0) [] ({}), by decide +kernel⟩,
   ⟨b0, fl 1 2 3 0 0, at1 0xC8 (fl 1 2 3 0 0) [] ({}), run1 0xC8 (fl 1 2 3 0 0) [] ({}), by decide +kernel⟩,
   ⟨b0, fl 0 0 0 0 0x100, at1 0xC9 (fl 0 0 0 0 0x100) [tF 0 256] ({}), run1 0xC9 (fl 0 0 0 0 0x100) [tF 0 256] ({}), by decide +kernel⟩,
   ⟨b0, fl 0 0 0 0 0, at1 0xCA (fl 0 0 0 0 0) [] ({}), run1 0xCA (fl 0 0 0 0 0) [] ({}), by decide +kernel⟩⟩

/-- The hypotheses of SpanRequestInstructionsComplete can be met, clause by clause. -/
theorem test_SpanRequestInstructionsComplete_witness :
    (∃ (b : BayRef) (f : Fields) (s : State) (r : Running), s.atStroke b 0xB0 f = some r ∧ spFault (r.desc (f.imm.toNat >>> 24)) (r.desc (f.imm.toNat >>> 16 % 256)) (r.sreg f.src1).toNat (r.sreg f.src2).toNat (r.sreg f.src3).toNat = none ∧
      s.free b r (accessOf false ((r.desc (f.imm.toNat >>> 24)).access (r.sreg f.src1).toNat (r.sreg f.src3).toNat)) = true) ∧
    (∃ (b : BayRef) (f : Fields) (s : State) (r : Running), s.atStroke b 0xB1 f = some r ∧ spFault (r.desc (f.imm.toNat >>> 24)) (r.desc (f.imm.toNat >>> 16 % 256)) (r.sreg f.src1).toNat (r.sreg f.src2).toNat (r.sreg f.src3).toNat = none ∧
      s.free b r (accessOf true ((r.desc (f.imm.toNat >>> 24)).access (r.sreg f.src1).toNat (r.sreg f.src3).toNat)) = true) ∧
    (∃ (b : BayRef) (f : Fields) (s : State) (r : Running), ∃ t, s.atStroke b 0xB2 f = some r ∧ s.accReqFault b r (r.desc (f.imm.toNat >>> 24)) (r.desc (f.imm.toNat >>> 16 % 256)) (f.imm.toNat % 4096) (r.sreg f.src1).toNat (r.sreg f.src2).toNat (r.sreg f.src3).toNat = none ∧
      s.free b r (accessOf false ((r.desc (f.imm.toNat >>> 24)).access (r.sreg f.src1).toNat (r.sreg f.src3).toNat)) = true ∧
      t = (s.modSlot b.die (r.desc (f.imm.toNat >>> 24)).slot fun sl =>
        { sl with token := some (strokeToken b.die b.bay r.seq), state := .released, ranges := sl.ranges ++ [((r.sreg f.src1).toNat / 32, (r.sreg f.src2).toNat / 32, (r.sreg f.src3).toNat / 32)] }).modBay
          b.die b.bay (·.modJournal r.seq fun e => { e with contribs := e.contribs ++
            [((r.desc (f.imm.toNat >>> 24)).slot, strokeToken b.die b.bay r.seq, [((r.sreg f.src1).toNat / 32, (r.sreg f.src2).toNat / 32, (r.sreg f.src3).toNat / 32)])] })) :=
  ⟨⟨b0, fl 0 0 1 2 0x00010000, at1 0xB0 (fl 0 0 1 2 0x00010000) [tF 0 256, tF 4096 256] (sregs [0, 64, 192]), run1 0xB0 (fl 0 0 1 2 0x00010000) [tF 0 256, tF 4096 256] (sregs [0, 64, 192]), by decide +kernel⟩,
   ⟨b0, fl 0 0 1 2 0x00010000, at1 0xB1 (fl 0 0 1 2 0x00010000) [tF 0 256, tF 4096 256] (sregs [0, 64, 192]), run1 0xB1 (fl 0 0 1 2 0x00010000) [tF 0 256, tF 4096 256] (sregs [0, 64, 192]), by decide +kernel⟩,
   ⟨b0, fl 0 0 1 2 0x00010005, { at1 0xB2 (fl 0 0 1 2 0x00010005) [tB 64, tB 64] (sregs [0, 0, 64]) with dies := [(0, { ({} : Die) with slots := [(0, { ({} : Slot) with role := .contributor, state := .opened, remoteSlot := 5, blocks := 2 })] })] }, run1 0xB2 (fl 0 0 1 2 0x00010005) [tB 64, tB 64] (sregs [0, 0, 64]), _, by decide +kernel, by decide +kernel, by decide +kernel, rfl⟩⟩

/-- A dense matrix at byte `a` of the bay's SRAM, its side bytes at byte 8192. -/
def tM (a fmt n m : Nat) : Desc :=
  { base := sramDpa 0 0 a, fmt := fmt, rank := 2, shape := [n, m], stride := [1, n], sideBase := sramDpa 0 0 8192, sideStride := 1 }

/-- One job that holds the bay. -/
def jobs1 : SMap Job := [(1, { ({} : Job) with mask := 1, grants := [⟨1, 0, 0, 1, 0⟩] })]

/-- A die of which bay 0 is logical bay 0 of logical group 0. -/
def die1 : Die := { ({} : Die) with lmap := [0], lgroup := [0] }

/-- A part whose slot 0 of die 0 is open, bytes 8192 to 8255 and from 32768 of bay 0 its buffer. -/
def redAt2 (s : State) : State :=
  { s with dies := [(0, { ({} : Die) with slots := [(0, { ({} : Slot) with state := .opened })] })],
           bays := [(0, { s.bay 0 0 with seals := [{ start := 8192, bytes := 256, state := .wet, owner := .slot 0 }, { start := 32768, bytes := 8192, state := .wet, owner := .slot 0 }] })] }

/-- A tile of one product in a phase. -/
def tile1 (ph : TilePhase) : Tile := { ({} : Tile) with a := 0, b := 1, c := 2, phase := ph }

/-- A part whose bay has one tile in a phase. -/
def tileAt (ph : TilePhase) : State :=
  { live with bays := [(0, { ({} : Bay) with slots := [run1 0x10 (fl 3 0 1 2 0x00010200) [tM 0 0 32 32, tM 4096 0 32 32, tM 8192 0 32 32] {}], tiles := [tile1 ph] })] }

/-- The stroke of that tile. -/
def tileRun : Running := run1 0x10 (fl 3 0 1 2 0x00010200) [tM 0 0 32 32, tM 4096 0 32 32, tM 8192 0 32 32] {}

/-- A part with one request at the front of mover 1 of die 0. -/
def mover1 (q : MvReq) : State := { live with movers := [(1, { ({} : Mover) with queue := [q] })], jobs := jobs1, dies := [(0, die1)] }

/-- The hypotheses of RowEngineStateInstructionsComplete can be met, clause by clause. -/
theorem test_RowEngineStateInstructionsComplete_witness :
    (∃ (b : BayRef) (f : Fields) (s : State) (r : Running), s.atStroke b 0x80 f = some r) ∧
    (∃ (b : BayRef) (f : Fields) (s : State) (r : Running), s.atStroke b 0x81 f = some r ∧
      parmOk (f.imm.toNat % 8) (r.sreg f.src1) = true) ∧
    (∃ (b : BayRef) (f : Fields) (s : State) (r : Running), s.atStroke b 0x8D f = some r ∧
      (r.desc (f.imm.toNat % 256)).pairFault (r.sreg f.src2).toNat = none ∧
      s.free b r (accessOf true ((r.desc (f.imm.toNat % 256)).access (r.sreg f.src2).toNat 2)) = true) ∧
    (∃ (b : BayRef) (f : Fields) (s : State) (r : Running), s.atStroke b 0x8E f = some r ∧
      (r.desc (f.imm.toNat % 256)).pairFault (r.sreg f.src1).toNat = none ∧
      s.free b r (accessOf false ((r.desc (f.imm.toNat % 256)).access (r.sreg f.src1).toNat 2)) = true) ∧
    (∃ (b : BayRef) (f : Fields) (s : State) (r : Running), s.atStroke b 0x8F f = some r ∧
      f.imm.toNat.testBit 1 = false) ∧
    (∃ (b : BayRef) (f : Fields) (s : State) (r : Running), s.atStroke b 0x8F f = some r ∧
      f.imm.toNat.testBit 1 = true) :=
  ⟨⟨b0, fl 1 2 3 0 0, at1 0x80 (fl 1 2 3 0 0) [] ({}), run1 0x80 (fl 1 2 3 0 0) [] ({}), by decide +kernel⟩,
   ⟨b0, fl 0 1 0 0 3, at1 0x81 (fl 0 1 0 0 3) [] (sregs [0, 0x3F800000]), run1 0x81 (fl 0 1 0 0 3) [] (sregs [0, 0x3F800000]), by decide +kernel⟩,
   ⟨b0, fl 0 1 2 0 0, at1 0x8D (fl 0 1 2 0 0) [tF 0 256] (sregs [0, 0, 254]), run1 0x8D (fl 0 1 2 0 0) [tF 0 256] (sregs [0, 0, 254]), by decide +kernel⟩,
   ⟨b0, fl 1 2 0 0 0, at1 0x8E (fl 1 2 0 0 0) [tF 0 256] (sregs [0, 0, 254]), run1 0x8E (fl 1 2 0 0 0) [tF 0 256] (sregs [0, 0, 254]), by decide +kernel⟩,
   ⟨b0, fl 1 0 0 0 1, at1 0x8F (fl 1 0 0 0 1) [] ({}), run1 0x8F (fl 1 0 0 0 1) [] ({}), by decide +kernel⟩,
   ⟨b0, fl 1 0 0 0 2, at1 0x8F (fl 1 0 0 0 2) [] ({}), run1 0x8F (fl 1 0 0 0 2) [] ({}), by decide +kernel⟩⟩

/-- The hypotheses of TileInstructionsIssueTiles can be met, clause by clause. -/
theorem test_TileInstructionsIssueTiles_witness :
    (∃ (b : BayRef) (f : Fields) (s : State) (r : Running), s.atStroke b 0x10 f = some r ∧ TileReady s b r (r.tileOf f false false false)) ∧
    (∃ (b : BayRef) (f : Fields) (s : State) (r : Running), s.atStroke b 0x11 f = some r ∧ TileReady s b r (r.tileOf f false true false)) ∧
    (∃ (b : BayRef) (f : Fields) (s : State) (r : Running), s.atStroke b 0x12 f = some r ∧ TileReady s b r (r.tileOf f true false false)) ∧
    (∃ (b : BayRef) (f : Fields) (s : State) (r : Running), s.atStroke b 0x13 f = some r ∧ TileReady s b r (r.tileOf f true true false)) ∧
    (∃ (b : BayRef) (f : Fields) (s : State) (r : Running), s.atStroke b 0x14 f = some r ∧ TileReady s b r (r.tileOf f false false true)) ∧
    (∃ (b : BayRef) (f : Fields) (s : State) (r : Running), s.atStroke b 0x15 f = some r ∧ TileReady s b r (r.tileOf f false true true)) ∧
    (∃ (b : BayRef) (f : Fields) (s : State) (r : Running), s.atStroke b 0x16 f = some r ∧ TileReady s b r (r.tileOf f true false true)) ∧
    (∃ (b : BayRef) (f : Fields) (s : State) (r : Running), s.atStroke b 0x17 f = some r ∧ TileReady s b r (r.tileOf f true true true)) :=
  ⟨⟨b0, fl 3 0 1 2 0x00010200, at1 0x10 (fl 3 0 1 2 0x00010200) [tM 0 0 32 32, tM 4096 0 32 32, tM 8192 0 32 32] (sregs [31, 31, 31]), run1 0x10 (fl 3 0 1 2 0x00010200) [tM 0 0 32 32, tM 4096 0 32 32, tM 8192 0 32 32] (sregs [31, 31, 31]), by unfold TileReady; decide +kernel⟩,
   ⟨b0, fl 3 0 1 2 0x00010200, at1 0x11 (fl 3 0 1 2 0x00010200) [tM 0 0 32 32, tM 4096 0 32 32, tM 8192 0 32 32] (sregs [31, 31, 31]), run1 0x11 (fl 3 0 1 2 0x00010200) [tM 0 0 32 32, tM 4096 0 32 32, tM 8192 0 32 32] (sregs [31, 31, 31]), by unfold TileReady; decide +kernel⟩,
   ⟨b0, fl 3 0 1 2 0x00010200, at1 0x12 (fl 3 0 1 2 0x00010200) [tM 0 0 32 32, tM 4096 0 32 32, tM 8192 0 32 32] (sregs [31, 31, 31]), run1 0x12 (fl 3 0 1 2 0x00010200) [tM 0 0 32 32, tM 4096 0 32 32, tM 8192 0 32 32] (sregs [31, 31, 31]), by unfold TileReady; decide +kernel⟩,
   ⟨b0, fl 3 0 1 2 0x00010200, at1 0x13 (fl 3 0 1 2 0x00010200) [tM 0 0 32 32, tM 4096 0 32 32, tM 8192 0 32 32] (sregs [31, 31, 31]), run1 0x13 (fl 3 0 1 2 0x00010200) [tM 0 0 32 32, tM 4096 0 32 32, tM 8192 0 32 32] (sregs [31, 31, 31]), by unfold TileReady; decide +kernel⟩,
   ⟨b0, fl 3 0 1 2 0x00010200, redAt2 ({ at1 0x14 (fl 3 0 1 2 0x00010200) [tM 0 0 32 32, tM 16384 0 32 32, tM 32768 10 32 32] (sregs [0, 0, 0, 0x01F00000]) with mem := [(sramDpa 0 0 8192, 127#8)] }), run1 0x14 (fl 3 0 1 2 0x00010200) [tM 0 0 32 32, tM 16384 0 32 32, tM 32768 10 32 32] (sregs [0, 0, 0, 0x01F00000]), by unfold TileReady; decide +kernel⟩,
   ⟨b0, fl 3 0 1 2 0x00010200, redAt2 ({ at1 0x15 (fl 3 0 1 2 0x00010200) [tM 0 0 32 32, tM 16384 0 32 32, tM 32768 10 32 32] (sregs [0, 0, 0, 0x01F00000]) with mem := [(sramDpa 0 0 8192, 127#8)] }), run1 0x15 (fl 3 0 1 2 0x00010200) [tM 0 0 32 32, tM 16384 0 32 32, tM 32768 10 32 32] (sregs [0, 0, 0, 0x01F00000]), by unfold TileReady; decide +kernel⟩,
   ⟨b0, fl 3 0 1 2 0x00010200, redAt2 ({ at1 0x16 (fl 3 0 1 2 0x00010200) [tM 0 0 32 32, tM 16384 0 32 32, tM 32768 10 32 32] (sregs [0, 0, 0, 0x01F00000]) with mem := [(sramDpa 0 0 8192, 127#8)] }), run1 0x16 (fl 3 0 1 2 0x00010200) [tM 0 0 32 32, tM 16384 0 32 32, tM 32768 10 32 32] (sregs [0, 0, 0, 0x01F00000]), by unfold TileReady; decide +kernel⟩,
   ⟨b0, fl 3 0 1 2 0x00010200, redAt2 ({ at1 0x17 (fl 3 0 1 2 0x00010200) [tM 0 0 32 32, tM 16384 0 32 32, tM 32768 10 32 32] (sregs [0, 0, 0, 0x01F00000]) with mem := [(sramDpa 0 0 8192, 127#8)] }), run1 0x17 (fl 3 0 1 2 0x00010200) [tM 0 0 32 32, tM 16384 0 32 32, tM 32768 10 32 32] (sregs [0, 0, 0, 0x01F00000]), by unfold TileReady; decide +kernel⟩⟩

/-- The hypotheses of TileCourseCompletes can be met, clause by clause. -/
theorem test_TileCourseCompletes_witness :
    (∃ (b : BayRef) (s : State) (r : Running) (t : Tile), (s.bay b.die b.bay).tiles.find? (·.phase == .waiting) = some t ∧ s.bayLive b = true ∧
      (s.bay b.die b.bay).tiles.all (·.phase != .pass) = true ∧ ((s.bay b.die b.bay).tiles.filter (·.phase != .waiting)).length < 2 ∧
      (s.bay b.die b.bay).strokeOf t = some r ∧ s.expanderCheck b r t = none) ∧
    (∃ (b : BayRef) (s : State) (r : Running) (t : Tile), ∃ accs unchecked invalid, (s.bay b.die b.bay).tiles.find? (·.phase == .pass) = some t ∧ (s.bay b.die b.bay).strokeOf t = some r ∧
      s.tileCompute b r t = .ok (accs, unchecked, invalid)) ∧
    (∃ (b : BayRef) (s : State) (r : Running) (t : Tile), (s.bay b.die b.bay).tiles.head? = some t ∧ t.phase = .drain ∧ (s.bay b.die b.bay).strokeOf t = some r) :=
  ⟨⟨b0, tileAt .waiting, tileRun, tile1 .waiting, by decide +kernel⟩,
   ⟨b0, tileAt .pass, tileRun, tile1 .pass, _, _, _, by decide +kernel, by decide +kernel, rfl⟩,
   ⟨b0, tileAt .drain, tileRun, tile1 .drain, by decide +kernel⟩⟩

/-- The hypotheses of MoverInstructionsQueueRequests can be met, clause by clause. -/
theorem test_MoverInstructionsQueueRequests_witness :
    (∃ (b : BayRef) (f : Fields) (mv : Nat) (s : State) (r : Running), s.atStroke b 0xA0 f = some r ∧ MvReady s b r mv (r.mvReq b 0xA0 f) ∧ ((r.mvReq b 0xA0 f).ready s.mem).identity = false) ∧
    (∃ (b : BayRef) (f : Fields) (mv : Nat) (s : State) (r : Running), s.atStroke b 0xA1 f = some r ∧ MvReady s b r mv (r.mvReq b 0xA1 f)) ∧
    (∃ (b : BayRef) (f : Fields) (mv : Nat) (s : State) (r : Running), s.atStroke b 0xA2 f = some r ∧ MvReady s b r mv (r.mvReq b 0xA2 f)) ∧
    (∃ (b : BayRef) (f : Fields) (mv : Nat) (s : State) (r : Running), s.atStroke b 0xA3 f = some r ∧ MvReady s b r mv (r.mvReq b 0xA3 f)) ∧
    (∃ (b : BayRef) (f : Fields) (mv : Nat) (s : State) (r : Running), s.atStroke b 0xA4 f = some r ∧ MvReady s b r mv (r.mvReq b 0xA4 f)) ∧
    (∃ (b : BayRef) (f : Fields) (mv : Nat) (s : State) (r : Running), s.atStroke b 0xA5 f = some r ∧ MvReady s b r mv (r.mvReq b 0xA5 f)) ∧
    (∃ (b : BayRef) (f : Fields) (mv : Nat) (s : State) (r : Running), s.atStroke b 0xA6 f = some r ∧ MvReady s b r mv (r.mvReq b 0xA6 f)) ∧
    (∃ (b : BayRef) (f : Fields) (mv : Nat) (s : State) (r : Running), s.atStroke b 0xA0 f = some r ∧ MvReady s b r mv (r.mvReq b 0xA0 f) ∧ ((r.mvReq b 0xA0 f).ready s.mem).identity = true) :=
  ⟨⟨b0, fl 0 0 1 2 0x00010000, 1, { at1 0xA0 (fl 0 0 1 2 0x00010000) [tF 0 256, tF 4096 256] ({ sregs [0, 0, 256] with inst := { ({} : Inst) with job := 1 } }) with jobs := jobs1, dies := [(0, die1)] }, run1 0xA0 (fl 0 0 1 2 0x00010000) [tF 0 256, tF 4096 256] ({ sregs [0, 0, 256] with inst := { ({} : Inst) with job := 1 } }), by unfold MvReady; decide +kernel⟩,
   ⟨b0, fl 0 0 1 2 0x00010201, 1, { at1 0xA1 (fl 0 0 1 2 0x00010201) [tM 0 0 8 2, tM 4096 0 8 4, { tM 8192 9 3 1 with rank := 1, shape := [3], stride := [1] }] ({ sregs [0, 0, 2] with inst := { ({} : Inst) with job := 1 } }) with jobs := jobs1, dies := [(0, die1)] }, run1 0xA1 (fl 0 0 1 2 0x00010201) [tM 0 0 8 2, tM 4096 0 8 4, { tM 8192 9 3 1 with rank := 1, shape := [3], stride := [1] }] ({ sregs [0, 0, 2] with inst := { ({} : Inst) with job := 1 } }), by unfold MvReady; decide +kernel⟩,
   ⟨b0, fl 0 0 1 2 0x00010201, 1, { at1 0xA2 (fl 0 0 1 2 0x00010201) [tM 0 0 8 4, tM 4096 0 8 2, { tM 8192 9 3 1 with rank := 1, shape := [3], stride := [1] }] ({ sregs [0, 0, 2] with inst := { ({} : Inst) with job := 1 } }) with jobs := jobs1, dies := [(0, die1)] }, run1 0xA2 (fl 0 0 1 2 0x00010201) [tM 0 0 8 4, tM 4096 0 8 2, { tM 8192 9 3 1 with rank := 1, shape := [3], stride := [1] }] ({ sregs [0, 0, 2] with inst := { ({} : Inst) with job := 1 } }), by unfold MvReady; decide +kernel⟩,
   ⟨b0, fl 0 0 1 2 0x00010201, 1, { at1 0xA3 (fl 0 0 1 2 0x00010201) [tM 0 0 8 4, tM 4096 0 8 2, { tM 8192 9 3 1 with rank := 1, shape := [3], stride := [1] }] ({ sregs [0, 0, 2] with inst := { ({} : Inst) with job := 1 } }) with jobs := jobs1, dies := [(0, die1)] }, run1 0xA3 (fl 0 0 1 2 0x00010201) [tM 0 0 8 4, tM 4096 0 8 2, { tM 8192 9 3 1 with rank := 1, shape := [3], stride := [1] }] ({ sregs [0, 0, 2] with inst := { ({} : Inst) with job := 1 } }), by unfold MvReady; decide +kernel⟩,
   ⟨b0, fl 0 0 1 2 0x00010201, 1, { at1 0xA4 (fl 0 0 1 2 0x00010201) [tM 0 0 8 2, tM 4096 0 8 4, { tM 8192 9 3 1 with rank := 1, shape := [3], stride := [1] }] ({ sregs [0, 0, 2] with inst := { ({} : Inst) with job := 1 } }) with jobs := jobs1, dies := [(0, die1)] }, run1 0xA4 (fl 0 0 1 2 0x00010201) [tM 0 0 8 2, tM 4096 0 8 4, { tM 8192 9 3 1 with rank := 1, shape := [3], stride := [1] }] ({ sregs [0, 0, 2] with inst := { ({} : Inst) with job := 1 } }), by unfold MvReady; decide +kernel⟩,
   ⟨b0, fl 0 0 1 2 0x00010201, 1, { at1 0xA5 (fl 0 0 1 2 0x00010201) [tM 0 0 8 2, tM 4096 0 8 4, { tM 8192 9 3 1 with rank := 1, shape := [3], stride := [1] }] ({ sregs [0, 0, 2] with inst := { ({} : Inst) with job := 1 } }) with jobs := jobs1, dies := [(0, die1)] }, run1 0xA5 (fl 0 0 1 2 0x00010201) [tM 0 0 8 2, tM 4096 0 8 4, { tM 8192 9 3 1 with rank := 1, shape := [3], stride := [1] }] ({ sregs [0, 0, 2] with inst := { ({} : Inst) with job := 1 } }), by unfold MvReady; decide +kernel⟩,
   ⟨b0, fl 0 0 1 2 0x00010000, 1, { at1 0xA6 (fl 0 0 1 2 0x00010000) [tF 8192 72, tF 0 64] ({ sregs [] with inst := { ({} : Inst) with job := 1 } }) with jobs := jobs1, dies := [(0, die1)] }, run1 0xA6 (fl 0 0 1 2 0x00010000) [tF 8192 72, tF 0 64] ({ sregs [] with inst := { ({} : Inst) with job := 1 } }), by unfold MvReady; decide +kernel⟩,
   ⟨b0, fl 0 0 1 2 0, 1, { at1 0xA0 (fl 0 0 1 2 0) [tF 0 256] ({ sregs [0, 0, 256] with inst := { ({} : Inst) with job := 1 } }) with jobs := jobs1, dies := [(0, die1)] }, run1 0xA0 (fl 0 0 1 2 0) [tF 0 256] ({ sregs [0, 0, 256] with inst := { ({} : Inst) with job := 1 } }), by unfold MvReady; decide +kernel⟩⟩

/-- The hypotheses of MoverStepsComplete can be met, clause by clause. -/
theorem test_MoverStepsComplete_witness :
    (∃ (die : Nat) (mv : Nat) (s : State) (q : MvReq), ∃ p a, (s.mover die mv).queue.head? = some q ∧ s.live = true ∧ s.isFrozen (masterWord 2 die mv) = false ∧
      q.needBounce ≠ 0 ∧ q.bounce = none ∧ s.bouncePlace die q = some (p, a)) ∧
    (∃ (die : Nat) (mv : Nat) (s : State) (q : MvReq), (s.mover die mv).queue.head? = some q ∧ s.live = true ∧ s.isFrozen (masterWord 2 die mv) = false ∧
      q.op = 0xA3 ∧ q.dst.fmt = 0 ∧ q.rounds < q.ranges.length) ∧
    (∃ (die : Nat) (mv : Nat) (s : State) (q : MvReq), (s.mover die mv).queue.head? = some q ∧ s.live = true ∧ s.isFrozen (masterWord 2 die mv) = false ∧
      (s.domOn die (bgDom (mv / 2)) = true ∧ s.mvMemOn q = true ∧ (q.needBounce = 0 ∨ q.bounce.isSome = true) ∧
      (q.op = 0xA3 ∧ q.dst.fmt = 0 → q.ranges.length ≤ q.rounds))) :=
  ⟨⟨0, 1, mover1 { ({} : MvReq) with op := 0xA0, job := 1, dst := tF 0 256, src := tF 256 256, count := 256, needBounce := 768, overlapAt := sramDpa 0 0 256 }, { ({} : MvReq) with op := 0xA0, job := 1, dst := tF 0 256, src := tF 256 256, count := 256, needBounce := 768, overlapAt := sramDpa 0 0 256 }, 0, 0, by decide +kernel⟩,
   ⟨0, 1, mover1 { ({} : MvReq) with op := 0xA3, job := 1, dst := tM 0 0 8 4, src := tM 4096 0 8 2, count := 1, resolved := [some 0] }, { ({} : MvReq) with op := 0xA3, job := 1, dst := tM 0 0 8 4, src := tM 4096 0 8 2, count := 1, resolved := [some 0] }, by decide +kernel⟩,
   ⟨0, 1, mover1 { ({} : MvReq) with op := 0xA0, job := 1, dst := tF 0 256, src := tF 4096 256, count := 256 }, { ({} : MvReq) with op := 0xA0, job := 1, dst := tF 0 256, src := tF 4096 256, count := 256 }, by decide +kernel⟩⟩

/-- Six tensors of two rows, and two labels. -/
def rows6 : List Desc := [tM 0 0 4 2, tM 4096 0 4 2, tM 8192 0 4 2, tM 12288 0 4 2, tM 16384 0 4 2, { tM 20480 9 2 1 with rank := 1, shape := [2], stride := [1] }]

/-- Registers of a row instruction of two rows from row 0, with the data, result, gradient, second gradient, other input and label roles bound. -/
def rowRegs : Running := { sregs [0, 0, 0, 2] with roles := [some 0, some 1, none, some 2, some 3, some 4, none, none, none, none, none, some 5] }

/-- An instance of job 1 without a tensor. -/
def inst1 : Inst := { ({} : Inst) with job := 1, img := { ({} : Image) with instrs := [0#64] } }

/-- A ready part with one bay. -/
def bayAt (x : Bay) : State := { live with bays := [(0, x)], dies := [(0, die1)], jobs := jobs1 }

/-- A graph of one node of a kind, with constants 1 and 2. -/
def graph1 (k : Nat) (p0 p1 p2 : Nat) (ops : List Nat) : Graph := { ({} : Graph) with nodes := [⟨k, 0, p0, p1, p2, ops⟩, ⟨0, 0, 0, 0, 0, []⟩], consts := [1, 2], job := 1 }

/-- A ready part whose die 0 has run 0 of a graph, in a state, with one bay and an image. -/
def runAt (g : Graph) (r : Run) : State :=
  { live with power := { ({} : Power) with doms := [(1, .on), (2, .on)] }, jobs := jobs1,
              dies := [(0, { die1 with graphs := [(0, g)], runs := [(0, { r with job := 1 })], images := [(0, inst1.img)] })] }

/-- An instance that reduces into slot 3. -/
def red3 : Inst := { inst1 with img := { inst1.img with descs := [{ ({} : Desc) with flags := 8, slot := 3 }] } }

/-- The hypotheses of RowInstructionsComplete can be met, clause by clause. -/
theorem test_RowInstructionsComplete_witness :
    (∃ (b : BayRef) (f : Fields) (s : State) (r : Running) (x : Desc), s.atStroke b 0x82 f = some r ∧ RowReady s b f r [0, 1] [0, 2, 6, 7] [1, 8] 1 [] x) ∧
    (∃ (b : BayRef) (f : Fields) (s : State) (r : Running) (x : Desc), s.atStroke b 0x84 f = some r ∧ RowReady s b f r [0, 1] [0, 2, 6, 7] [1, 8] 1 [] x) ∧
    (∃ (b : BayRef) (f : Fields) (s : State) (r : Running) (x : Desc), s.atStroke b 0x83 f = some r ∧ RowReady s b f r [0, 3, 4] [0, 2, 3, 6, 8] [4, 9, 10] 2 [1] x ∧
      r.accBad s b.die = none) ∧
    (∃ (b : BayRef) (f : Fields) (s : State) (r : Running) (x : Desc), s.atStroke b 0x85 f = some r ∧ RowReady s b f r [0, 3, 4] [0, 2, 3, 6, 8] [4, 9, 10] 2 [2] x ∧
      r.accBad s b.die = none) ∧
    (∃ (b : BayRef) (f : Fields) (s : State) (r : Running) (x : Desc), s.atStroke b 0x86 f = some r ∧ RowReady s b f r [0, 1] [0, 2] [1, 8] 1 [] x) ∧
    (∃ (b : BayRef) (f : Fields) (s : State) (r : Running) (x : Desc), s.atStroke b 0x87 f = some r ∧ RowReady s b f r [0, 3, 4] [0, 2, 3, 8] [4] 2 [3, 4] x) ∧
    (∃ (b : BayRef) (f : Fields) (s : State) (r : Running) (x : Desc), s.atStroke b 0x88 f = some r ∧ RowReady s b f r [0, 1, 4, 11] [0, 2, 11] [1, 4, 8] 1 [] x ∧
      r.labelFault s (r.sreg f.src1).toNat (r.sreg f.src2).toNat = none) ∧
    (∃ (b : BayRef) (f : Fields) (s : State) (r : Running) (x : Desc), s.atStroke b 0x89 f = some r ∧ RowReady s b f r [0, 1, 5] (if f.imm.toNat % 8 = 3 then [0, 5] else [0]) (if f.imm.toNat % 8 = 3 then [1] else [1, 5]) 0 [] x ∧
      f.imm.toNat % 8 ≤ 3) ∧
    (∃ (b : BayRef) (f : Fields) (s : State) (r : Running) (x : Desc), s.atStroke b 0x8A f = some r ∧ RowReady s b f r [3, 4, 5] [3, 5] [4] 0 [] x ∧
      f.imm.toNat % 8 ≤ 3) ∧
    (∃ (b : BayRef) (f : Fields) (s : State) (r : Running) (x : Desc), s.atStroke b 0x8B f = some r ∧ RowReady s b f r [0, 1, 5] [0] [1, 5] 0 [] x) ∧
    (∃ (b : BayRef) (f : Fields) (s : State) (r : Running) (x : Desc), s.atStroke b 0x8C f = some r ∧ RowReady s b f r [3, 4, 5] [3, 5] [4] 0 [] x) :=
  ⟨⟨b0, fl 1 2 3 0 0, at1 0x82 (fl 1 2 3 0 0) rows6 (rowRegs), run1 0x82 (fl 1 2 3 0 0) rows6 (rowRegs), rows6[0], by unfold RowReady; decide +kernel⟩,
   ⟨b0, fl 1 2 3 0 0, at1 0x84 (fl 1 2 3 0 0) rows6 (rowRegs), run1 0x84 (fl 1 2 3 0 0) rows6 (rowRegs), rows6[0], by unfold RowReady; decide +kernel⟩,
   ⟨b0, fl 1 2 3 0 0, { at1 0x83 (fl 1 2 3 0 0) rows6 (rowRegs) with mem := [(bayDpa 1 0 0 0 + 0x10003, 8#8), (bayDpa 1 0 0 0 + 0x10007, 8#8)] }, run1 0x83 (fl 1 2 3 0 0) rows6 (rowRegs), rows6[0], by unfold RowReady; decide +kernel⟩,
   ⟨b0, fl 1 2 3 0 0, { at1 0x85 (fl 1 2 3 0 0) rows6 (rowRegs) with mem := [(bayDpa 1 0 0 0 + 0x10003, 16#8), (bayDpa 1 0 0 0 + 0x10007, 16#8)] }, run1 0x85 (fl 1 2 3 0 0) rows6 (rowRegs), rows6[0], by unfold RowReady; decide +kernel⟩,
   ⟨b0, fl 1 2 3 0 0, at1 0x86 (fl 1 2 3 0 0) rows6 (rowRegs), run1 0x86 (fl 1 2 3 0 0) rows6 (rowRegs), rows6[0], by unfold RowReady; decide +kernel⟩,
   ⟨b0, fl 1 2 3 0 0, { at1 0x87 (fl 1 2 3 0 0) rows6 (rowRegs) with mem := [(bayDpa 1 0 0 0 + 0x10003, 24#8), (bayDpa 1 0 0 0 + 0x10007, 24#8)] }, run1 0x87 (fl 1 2 3 0 0) rows6 (rowRegs), rows6[0], by unfold RowReady; decide +kernel⟩,
   ⟨b0, fl 1 2 3 0 0, at1 0x88 (fl 1 2 3 0 0) rows6 (rowRegs), run1 0x88 (fl 1 2 3 0 0) rows6 (rowRegs), rows6[0], by unfold RowReady; decide +kernel⟩,
   ⟨b0, fl 1 2 3 0 3, at1 0x89 (fl 1 2 3 0 3) rows6 (rowRegs), run1 0x89 (fl 1 2 3 0 3) rows6 (rowRegs), rows6[0], by unfold RowReady; decide +kernel⟩,
   ⟨b0, fl 1 2 3 0 3, at1 0x8A (fl 1 2 3 0 3) rows6 (rowRegs), run1 0x8A (fl 1 2 3 0 3) rows6 (rowRegs), rows6[0], by unfold RowReady; decide +kernel⟩,
   ⟨b0, fl 1 2 3 0 0, at1 0x8B (fl 1 2 3 0 0) rows6 (rowRegs), run1 0x8B (fl 1 2 3 0 0) rows6 (rowRegs), rows6[0], by unfold RowReady; decide +kernel⟩,
   ⟨b0, fl 1 2 3 0 0, at1 0x8C (fl 1 2 3 0 0) rows6 (rowRegs), run1 0x8C (fl 1 2 3 0 0) rows6 (rowRegs), rows6[0], by unfold RowReady; decide +kernel⟩⟩

/-- The hypotheses of StrokeEventsComplete can be met, clause by clause. -/
theorem test_StrokeEventsComplete_witness :
    (∃ (b : BayRef) (s : State), ∃ i rest fills, s.bayLive b = true ∧ (s.bay b.die b.bay).queue = i :: rest ∧ s.slotFree b = true ∧
      (s.bay b.die b.bay).replays = [] ∧ (s.logical b.die b.bay).isSome = true ∧ s.issueCheck b.die b.bay i = .go fills) ∧
    (∃ (b : BayRef) (s : State), ∃ r, s.bayLive b = true ∧ (s.bay b.die b.bay).slots.find? (s.sealable b) = some r) ∧
    (∃ (b : BayRef) (s : State), ∃ n w, s.bayLive b = true ∧ n < 4 ∧ (at' {} (s.bay b.die b.bay).pal n).wants.head? = some w ∧
      (at' {} (s.bay b.die b.bay).pal n).filling = false ∧ (at' {} (s.bay b.die b.bay).pal n).refcount = 0 ∧
      (((s.bay b.die b.bay).slots.takeWhile (·.seq != w.1)).any fun r => r.names n && !r.issued) = false) ∧
    (∃ (b : BayRef) (s : State), ∃ n w, s.bayLive b = true ∧ (at' {} (s.bay b.die b.bay).pal n).wants.head? = some w ∧
      (at' {} (s.bay b.die b.bay).pal n).filling = true) ∧
    (∃ (s : State), s.live = true) :=
  ⟨⟨b0, { bayAt { ({} : Bay) with queue := [inst1] } with power := { ({} : Power) with doms := [(2, .on)] } }, inst1, [], [], by decide +kernel⟩,
   ⟨b0, bayAt { ({} : Bay) with slots := [{ ({} : Running) with issued := true }] }, { ({} : Running) with issued := true }, by decide +kernel⟩,
   ⟨b0, bayAt { ({} : Bay) with pal := [{ ({} : PalSlot) with wants := [(0, [])] }, {}, {}, {}] }, 0, (0, []), by decide +kernel⟩,
   ⟨b0, bayAt { ({} : Bay) with pal := [{ ({} : PalSlot) with wants := [(0, [])], filling := true }, {}, {}, {}] }, 0, (0, []), by decide +kernel⟩,
   ⟨live, by decide +kernel⟩⟩

/-- The hypotheses of GraphNodesComplete can be met, clause by clause. -/
theorem test_GraphNodesComplete_witness :
    (∃ (die : Nat) (run : Nat) (s : State), ∃ img argss, (NodeReady s die run 1 ∧ mget (s.die die).images (s.node die run).range.1 = some img ∧ s.strokeArgs die run (s.node die run).ops (s.node die run).range.2.2 = .ok argss ∧ (∀ a ∈ argss, img.argsOk a = true) ∧
      (∀ k, k < (s.node die run).range.2.2 → (s.bay die (s.phys die ((s.node die run).range.2.1 + k))).queue.length < 16))) ∧
    (∃ (die : Nat) (run : Nat) (s : State), ∃ c, NodeReady s die run 2 ∧ s.op die run 0 = .ok c) ∧
    (∃ (die : Nat) (run : Nat) (s : State), ∃ l, NodeReady s die run 3 ∧ (s.run die run).loops.find? (·.node == (s.node die run).p0) = some l) ∧
    (∃ (die : Nat) (run : Nat) (s : State), ∃ a b, NodeReady s die run 4 ∧ (s.node die run).p0 % 8 < 6 ∧ s.op die run 0 = .ok a ∧ s.op die run 1 = .ok b) ∧
    (∃ (die : Nat) (run : Nat) (s : State), NodeReady s die run 4 ∧ (s.node die run).p0 % 8 = 6) ∧
    (∃ (die : Nat) (run : Nat) (s : State), ∃ a, NodeReady s die run 4 ∧ (s.node die run).p0 % 8 = 7 ∧ s.op die run 0 = .ok a) ∧
    (∃ (die : Nat) (run : Nat) (s : State), NodeReady s die run 3 ∧ (s.run die run).loops.find? (·.node == (s.node die run).p0) = none) ∧
    (∃ (die : Nat) (run : Nat) (s : State), ∃ a b, NodeReady s die run 5 ∧ s.op die run 0 = .ok a ∧ s.op die run 1 = .ok b) ∧
    (∃ (die : Nat) (run : Nat) (s : State), NodeReady s die run 8) ∧
    (∃ (die : Nat) (run : Nat) (s : State), NodeReady s die run 10) ∧
    (∃ (die : Nat) (run : Nat) (s : State), NodeReady s die run 2 ∧ s.op die run 0 = .error none) :=
  ⟨⟨0, 0, runAt (graph1 1 0 0 0 []) ({}), inst1.img, [[]], by unfold NodeReady; decide +kernel⟩,
   ⟨0, 0, runAt (graph1 2 0 0 0 [0x10000000, 0x10000001]) ({}), 1, by unfold NodeReady; decide +kernel⟩,
   ⟨0, 0, runAt (graph1 3 0 0 0 [0x10000000, 0x10000001]) ({ ({} : Run) with loops := [⟨0, 2, 0⟩] }), ⟨0, 2, 0⟩, by unfold NodeReady; decide +kernel⟩,
   ⟨0, 0, runAt (graph1 4 517 0 0 [0x10000000, 0x10000001]) ({}), 1, 2, by unfold NodeReady; decide +kernel⟩,
   ⟨0, 0, runAt (graph1 4 6 0 0 [0x10000000, 0x10000001]) ({}), by unfold NodeReady; decide +kernel⟩,
   ⟨0, 0, runAt (graph1 4 519 0 0 [0x10000000, 0x10000001]) ({}), 1, by unfold NodeReady; decide +kernel⟩,
   ⟨0, 0, runAt (graph1 3 0 0 0 [0x10000000, 0x10000001]) ({}), by unfold NodeReady; decide +kernel⟩,
   ⟨0, 0, runAt (graph1 5 0 0 0 [0x10000000, 0x10000001]) ({}), 1, 2, by unfold NodeReady; decide +kernel⟩,
   ⟨0, 0, runAt (graph1 8 0 0 0 [0x10000000, 0x10000001]) ({}), by unfold NodeReady; decide +kernel⟩,
   ⟨0, 0, runAt (graph1 10 0 0 0 [0x10000000, 0x10000001]) ({}), by unfold NodeReady; decide +kernel⟩,
   ⟨0, 0, runAt (graph1 2 0 0 0 [0x50000000]) ({ ({} : Run) with issues := [(0, [(0, 5)])] }), by unfold NodeReady; decide +kernel⟩⟩

/-- The hypotheses of GraphWaitsAndReleasesComplete can be met, clause by clause. -/
theorem test_GraphWaitsAndReleasesComplete_witness :
    (∃ (die : Nat) (run : Nat) (s : State), ∃ t, (NodeReady s die run 6 ∧ ((s.node die run).p0 ≠ 1 ∨ (mget (s.run die run).issues (at' 0 (s.node die run).ops 0)).isSome = true) ∧ t = s.modRun die run (fun g =>
        { g with waitSlot := if (s.node die run).p0 = 2 then some ((s.node die run).p1, (s.slot die (s.node die run).p1).step) else none }))) ∧
    (∃ (die : Nat) (run : Nat) (s : State), s.live = true ∧ (s.run die run).active = true ∧ (s.run die run).held = true ∧ s.waitMet die run = true) ∧
    (∃ (die : Nat) (run : Nat) (s : State), ∃ vals, NodeReady s die run 7 ∧ ((s.node die run).ops.take 4).mapM (fun w => s.operand die run w 0) = .ok vals ∧ (s.node die run).p0 = 0) ∧
    (∃ (die : Nat) (run : Nat) (s : State), ∃ vals, (NodeReady s die run 7 ∧ ((s.node die run).ops.take 4).mapM (fun w => s.operand die run w 0) = .ok vals ∧ (s.node die run).p0 ≠ 0 ∧
      ((s.poolOfTag (s.node die run).p2 (s.run die run).job (s.node die run).p1).isNone = true →
        s.notifyRoom (s.node die run).p2 (s.run die run).job = true))) ∧
    (∃ (die : Nat) (run : Nat) (s : State), ∃ n, NodeReady s die run 9 ∧ n = (s.node die run).p0 ∧ ((s.openOf die run).filter (·.namesSlot n)) = [] ∧ (s.slot die n).opening = none) ∧
    (∃ (die : Nat) (run : Nat) (s : State), ∃ n, NodeReady s die run 9 ∧ n = (s.node die run).p0 ∧ ((s.openOf die run).filter (·.namesSlot n)) ≠ []) ∧
    (∃ (die : Nat) (s : State), ∃ n x, s.live = true ∧ ((s.die die).runs.find? fun x => x.2.releases.contains (n, [])) = some x ∧ (s.slot die n).opening = none) ∧
    (∃ (die : Nat) (run : Nat) (s : State), ∃ t, NodeReady s die run 15 ∧ (s.run die run).openInsts = [] ∧ t = s.modRun die run (fun g => { g with state := .done })) :=
  ⟨⟨0, 0, runAt (graph1 6 2 3 0 []) {}, _, by unfold NodeReady; decide +kernel, by decide +kernel, rfl⟩,
   ⟨0, 0, runAt (graph1 6 0 0 0 [0x10000000, 0x10000001]) ({ ({} : Run) with held := true }), by decide +kernel⟩,
   ⟨0, 0, runAt (graph1 7 0 5 0 [0x10000000, 0x10000001]) ({}), [1, 2], by unfold NodeReady; decide +kernel⟩,
   ⟨0, 0, runAt (graph1 7 1 5 1 [0x10000000, 0x10000001]) ({}), [1, 2], by unfold NodeReady; decide +kernel⟩,
   ⟨0, 0, runAt (graph1 9 3 0 0 [0x10000000, 0x10000001]) ({}), 3, by unfold NodeReady; decide +kernel⟩,
   ⟨0, 0, { runAt (graph1 9 3 0 0 []) {} with bays := [(0, { ({} : Bay) with queue := [red3] })] }, 3, by unfold NodeReady; decide +kernel⟩,
   ⟨0, runAt (graph1 9 3 0 0 []) { ({} : Run) with releases := [(3, [])] }, 3, (0, { ({} : Run) with releases := [(3, [])], job := 1 }), by decide +kernel⟩,
   ⟨0, 0, runAt (graph1 15 0 0 0 []) {}, _, by unfold NodeReady; decide +kernel, by decide +kernel, rfl⟩⟩

/-- A reduction message of job 1, slot 3 from node 2, contributor 1. -/
def redMsg (kind step count : Nat) (rest : List Byte) : SpanMsg :=
  { kind := kind, flags := 0, dst := 0, src := 2, hops := 0, seq := 0, ecrcOk := true,
    body := pack [(1, kind), (1, 0), (2, 2), (2, 1), (2, 3), (4, step), (2, 1), (2, count), (4, 0), (4, 0), (8, 0x10000)] ++ rest }

/-- A ready part whose die 0 has one reduction slot 3 of job 1. -/
def slotAt (sl : Slot) : State :=
  { live with part := { live.part with node := some 0, tai := 1000000 }, jobs := jobs1, dies := [(0, { die1 with slots := [(3, { sl with job := 1 })] })] }

/-- A slot of two blocks whose member 1 has been granted. -/
def granted (rl : Role) (st : SlotState) : Slot :=
  { ({} : Slot) with role := rl, state := st, expected := 2, blocks := 2, members := [{ index := 1, granted := true }] }

/-- A contributor's slot as contributor 1 toward slot 3 of node 2. -/
def contrib (st : SlotState) : Slot := { ({} : Slot) with state := st, expected := 1, blocks := 2, ownerNode := 2, sendSlot := 3 }

/-- The hypotheses of ReductionMessagesAtReceiversComplete can be met, clause by clause. -/
theorem test_ReductionMessagesAtReceiversComplete_witness :
    (∃ (die : Nat) (m : SpanMsg) (s : State), ∃ d, (MsgReady s die 0x01 m (redOk m) ∧ ((s.slot die m.redSlot).expected ≠ 0 → (s.slot die m.redSlot).role ≠ .contributor ∧ (s.slot die m.redSlot).job = m.redJob ∧ m.redWho < (s.slot die m.redSlot).expected) ∧ s.asked die m.redSlot m = none ∧ ((s.slot die m.redSlot).role = .twin → s.part.takenOver = true) ∧ s.verdict die m.redSlot m.redStep = d ∧ d ≠ .hold)) ∧
    (∃ (die : Nat) (m : SpanMsg) (s : State), (MsgReady s die 0x01 m (redOk m) ∧ ((s.slot die m.redSlot).expected ≠ 0 → (s.slot die m.redSlot).role ≠ .contributor ∧ (s.slot die m.redSlot).job = m.redJob ∧ m.redWho < (s.slot die m.redSlot).expected) ∧ s.asked die m.redSlot m = none ∧
      ((s.slot die m.redSlot).role = .twin ∧ s.part.takenOver = false ∨ s.verdict die m.redSlot m.redStep = .hold))) ∧
    (∃ (die : Nat) (m : SpanMsg) (s : State), ∃ k, (MsgReady s die 0x01 m (redOk m) ∧ ((s.slot die m.redSlot).expected ≠ 0 → (s.slot die m.redSlot).role ≠ .contributor ∧ (s.slot die m.redSlot).job = m.redJob ∧ m.redWho < (s.slot die m.redSlot).expected) ∧ s.asked die m.redSlot m = some k ∧ (s.slot die m.redSlot).role = .twin ∧ k.2.node = 0xFFF)) ∧
    (∃ (die : Nat) (m : SpanMsg) (s : State), ∃ k, (MsgReady s die 0x01 m (redOk m) ∧ ((s.slot die m.redSlot).expected ≠ 0 → (s.slot die m.redSlot).role ≠ .contributor ∧ (s.slot die m.redSlot).job = m.redJob ∧ m.redWho < (s.slot die m.redSlot).expected) ∧ s.asked die m.redSlot m = some k ∧ ((s.slot die m.redSlot).role = .twin → k.2.node ≠ 0xFFF) ∧ s.actsOwner die m.redSlot = true)) ∧
    (∃ (die : Nat) (m : SpanMsg) (s : State), ∃ k, (MsgReady s die 0x01 m (redOk m) ∧ ((s.slot die m.redSlot).expected ≠ 0 → (s.slot die m.redSlot).role ≠ .contributor ∧ (s.slot die m.redSlot).job = m.redJob ∧ m.redWho < (s.slot die m.redSlot).expected) ∧ s.asked die m.redSlot m = some k ∧ ((s.slot die m.redSlot).role = .twin → k.2.node ≠ 0xFFF) ∧ s.actsOwner die m.redSlot = false)) ∧
    (∃ (die : Nat) (m : SpanMsg) (s : State), MsgReady s die 0x0A m (redOk m) ∧ (s.slot die m.redSlot).role = .twin ∧ (s.slot die m.redSlot).job = m.redJob) ∧
    (∃ (die : Nat) (m : SpanMsg) (s : State), MsgReady s die 0x0B m (redOk m) ∧ (s.slot die m.redSlot).role = .twin ∧ (s.slot die m.redSlot).job = m.redJob ∧
      (s.slot die m.redSlot).step = fld (m.body.drop 32) 0 4) ∧
    (∃ (die : Nat) (m : SpanMsg) (s : State), ∃ x, MsgReady s die 0x04 m (redOk m) ∧ (s.slot die m.redSlot).sender m = some x ∧ (s.slot die m.redSlot).role ≠ .contributor ∧ (s.slot die m.redSlot).job = m.redJob ∧
      m.redFirst + m.redCount ≤ (s.slot die m.redSlot).blocks ∧ (s.slot die m.redSlot).takes m = true ∧ s.unanchored die m.redSlot m.redFirst m.redCount = false) ∧
    (∃ (die : Nat) (m : SpanMsg) (s : State), ∃ x, MsgReady s die 0x04 m (redOk m) ∧ (s.slot die m.redSlot).sender m = some x ∧ (s.slot die m.redSlot).role ≠ .contributor ∧ (s.slot die m.redSlot).job = m.redJob ∧
      m.redFirst + m.redCount ≤ (s.slot die m.redSlot).blocks ∧ (s.slot die m.redSlot).takes m = false ∧ (s.slot die m.redSlot).state ≠ .resetting) ∧
    (∃ (die : Nat) (m : SpanMsg) (s : State), ∃ x, MsgReady s die 0x04 m (redOk m) ∧ (s.slot die m.redSlot).sender m = some x ∧ (s.slot die m.redSlot).role ≠ .contributor ∧ (s.slot die m.redSlot).job = m.redJob ∧
      m.redFirst + m.redCount ≤ (s.slot die m.redSlot).blocks ∧ (s.slot die m.redSlot).takes m = false ∧ (s.slot die m.redSlot).state = .resetting) ∧
    (∃ (die : Nat) (m : SpanMsg) (s : State), MsgReady s die 0x04 m (redOk m) ∧ (s.slot die m.redSlot).sender m = none) ∧
    (∃ (die : Nat) (m : SpanMsg) (s : State), ∃ x, MsgReady s die 0x05 m (redOk m) ∧ (s.slot die m.redSlot).sender m = some x ∧ (s.slot die m.redSlot).role ≠ .contributor ∧ (s.slot die m.redSlot).job = m.redJob ∧ (s.slot die m.redSlot).takes m = true) ∧
    (∃ (die : Nat) (m : SpanMsg) (s : State), ∃ x, MsgReady s die 0x06 m (redOk m) ∧ (s.slot die m.redSlot).sender m = some x ∧ (s.slot die m.redSlot).role ≠ .contributor ∧ (s.slot die m.redSlot).job = m.redJob ∧
      m.redFirst + m.redCount ≤ (s.slot die m.redSlot).blocks ∧ (s.slot die m.redSlot).takes m = true) ∧
    (∃ (die : Nat) (m : SpanMsg) (s : State), MsgReady s die 0x07 m (redOk m) ∧ (s.slot die m.redSlot).role ≠ .contributor ∧ (s.slot die m.redSlot).job = m.redJob ∧ m.redWho < (s.slot die m.redSlot).expected ∧
      ((((s.slot die m.redSlot).member m.redWho m.redCarried m.redStep).map (·.isSealed)).getD false) = false ∧ m.withdrawFor = (s.slot die m.redSlot).step ∧ (s.slot die m.redSlot).opening = none ∧ (s.slot die m.redSlot).state ≠ .free) ∧
    (∃ (die : Nat) (m : SpanMsg) (s : State), MsgReady s die 0x07 m (redOk m) ∧ (s.slot die m.redSlot).role ≠ .contributor ∧ (s.slot die m.redSlot).job = m.redJob ∧ m.redWho < (s.slot die m.redSlot).expected ∧
      ((((s.slot die m.redSlot).member m.redWho m.redCarried m.redStep).map (·.isSealed)).getD false) = false ∧ (s.slot die m.redSlot).step < m.withdrawFor) ∧
    (∃ (die : Nat) (m : SpanMsg) (s : State), MsgReady s die 0x0C m (redOk m) ∧ (s.slot die m.redSlot).role = .twin ∧ (s.slot die m.redSlot).job = m.redJob ∧ (s.slot die m.redSlot).step = m.redStep) ∧
    (∃ (die : Nat) (m : SpanMsg) (s : State), MsgReady s die 0x0C m (redOk m) ∧ (s.slot die m.redSlot).role = .owner ∧ (s.slot die m.redSlot).job = m.redJob ∧ (s.slot die m.redSlot).step = m.redStep ∧ m.src = (s.slot die m.redSlot).twinNode) :=
  ⟨⟨0, redMsg 0x01 3 0 ([]), slotAt ({ granted .owner .opened with step := 5, members := [] }), .drop, by unfold MsgReady; decide +kernel⟩,
   ⟨0, redMsg 0x01 7 0 ([]), slotAt ({ granted .owner .opened with step := 5, members := [] }), by unfold MsgReady; decide +kernel⟩,
   ⟨0, redMsg 0x01 0 0 ([]), slotAt (granted .twin .opened), (3, { index := 1, granted := true }), by unfold MsgReady; decide +kernel⟩,
   ⟨0, redMsg 0x01 0 0 ([]), slotAt (granted .owner .opened), (3, { index := 1, granted := true }), by unfold MsgReady; decide +kernel⟩,
   ⟨0, redMsg 0x01 0 0 ([]), slotAt ({ granted .twin .opened with members := [{ index := 1, granted := true, node := 2 }] }), (3, { index := 1, granted := true, node := 2 }), by unfold MsgReady; decide +kernel⟩,
   ⟨0, redMsg 0x0A 0 0 ([]), slotAt (granted .twin .opened), by unfold MsgReady; decide +kernel⟩,
   ⟨0, redMsg 0x0B 0 0 (List.replicate 272 0), slotAt (granted .twin .opened), by unfold MsgReady; decide +kernel⟩,
   ⟨0, redMsg 0x04 0 1 (List.replicate 320 0), { slotAt (granted .owner .opened) with mem := [(sramDpa 0 0 0, 127#8)] }, { index := 1, granted := true }, by unfold MsgReady; decide +kernel⟩,
   ⟨0, redMsg 0x04 0 1 (List.replicate 320 0), { slotAt ({ granted .owner .opened with state := .updating }) with mem := [(sramDpa 0 0 0, 127#8)] }, { index := 1, granted := true }, by unfold MsgReady; decide +kernel⟩,
   ⟨0, redMsg 0x04 0 1 (List.replicate 320 0), { slotAt ({ granted .owner .opened with state := .resetting }) with mem := [(sramDpa 0 0 0, 127#8)] }, { index := 1, granted := true }, by unfold MsgReady; decide +kernel⟩,
   ⟨0, redMsg 0x04 0 1 (List.replicate 320 0), slotAt ({ granted .owner .opened with members := [] }), by unfold MsgReady; decide +kernel⟩,
   ⟨0, redMsg 0x05 0 0 ([]), slotAt (granted .owner .opened), { index := 1, granted := true }, by unfold MsgReady; decide +kernel⟩,
   ⟨0, redMsg 0x06 0 1 (List.replicate 320 0), slotAt (granted .owner .opened), { index := 1, granted := true }, by unfold MsgReady; decide +kernel⟩,
   ⟨0, redMsg 0x07 0 0 ([]), slotAt (granted .owner .opened), by unfold MsgReady; decide +kernel⟩,
   ⟨0, redMsg 0x07 3 0 ([]), slotAt (granted .owner .opened), by unfold MsgReady; decide +kernel⟩,
   ⟨0, redMsg 0x0C 0 0 ([]), slotAt (granted .twin .opened), by unfold MsgReady; decide +kernel⟩,
   ⟨0, redMsg 0x0C 0 0 ([]), slotAt ({ granted .owner .opened with twinNode := 2 }), by unfold MsgReady; decide +kernel⟩⟩

/-- The hypotheses of ReductionMessagesAtContributorsComplete can be met, clause by clause. -/
theorem test_ReductionMessagesAtContributorsComplete_witness :
    (∃ (die : Nat) (m : SpanMsg) (s : State) (n : Nat), ∃ t, MsgReady s die 0x02 m (redOk m) ∧ s.contribOf die m = some n ∧ (s.slot die n).state = .released ∧ t = s.modSlot die n (fun sl => { sl with
        grantedC := true, carriedC := m.redCarried, sendSlot := m.redSlot, credit := if sl.credit.contains m.src then sl.credit else sl.credit ++ [m.src] })) ∧
    (∃ (die : Nat) (m : SpanMsg) (s : State) (n : Nat), MsgReady s die 0x03 m (redOk m) ∧ s.contribOf die m = some n ∧ (s.slot die n).state = .released) ∧
    (∃ (die : Nat) (m : SpanMsg) (s : State) (n : Nat), ∃ k, k = (s.slot die n).token ∧ MsgReady s die 0x08 m (redOk m) ∧ s.contribOf die m = some n ∧ (s.slot die n).state = .lost) ∧
    (∃ (die : Nat) (m : SpanMsg) (s : State) (n : Nat), MsgReady s die 0x08 m (redOk m) ∧ s.contribOf die m = some n ∧ (s.slot die n).state ≠ .lost ∧ (s.slot die n).grantedC = true) ∧
    (∃ (die : Nat) (m : SpanMsg) (s : State) (n : Nat), ∃ t, (MsgReady s die 0x09 m (redOk m) ∧ s.contribOf die m = some n ∧ ((s.slot die n).state = .held ∨ (s.slot die n).state = .lost) ∧ t = (s.modSlot die n (fun sl =>
        { sl with state := .free, token := none, ranges := [] })).freeBuffer die n)) ∧
    (∃ (die : Nat) (s : State) (n : Nat), s.live = true ∧ s.actsOwner die n = true ∧ (s.slot die n).state = .opened ∧ (s.slot die n).deadline ≠ 0 ∧
      ((s.slot die n).members.any fun x => x.granted && !x.carried) = true ∧ (s.slot die n).tFirst + (s.slot die n).deadline * 1000 ≤ s.part.tai) ∧
    (∃ (die : Nat) (s : State) (n : Nat), ∃ q, s.live = true ∧ (s.slot die n).role ≠ .contributor ∧ (s.slot die n).heldMsgs.find? (s.heldReady die n) = some q) ∧
    (∃ (die : Nat) (s : State) (n : Nat), ∃ as, (s.live = true ∧ ((s.slot die n).opening = some as ∧ as ≠ [] ∨ (s.slot die n).opening = some [] ∧ s.slotHints die n = some as))) :=
  ⟨⟨0, redMsg 0x02 0 0 ([]), slotAt (contrib .released), 3, _, by unfold MsgReady; decide +kernel, by decide +kernel, by decide +kernel, rfl⟩,
   ⟨0, redMsg 0x03 0 0 ([]), slotAt (contrib .released), 3, by unfold MsgReady; decide +kernel⟩,
   ⟨0, redMsg 0x08 0 0 ([]), slotAt (contrib .lost), 3, none, by unfold MsgReady; decide +kernel⟩,
   ⟨0, redMsg 0x08 0 0 ([]), slotAt ({ contrib .held with grantedC := true }), 3, by unfold MsgReady; decide +kernel⟩,
   ⟨0, redMsg 0x09 0 0 (List.replicate 273 0), slotAt (contrib .held), 3, _, by unfold MsgReady; decide +kernel, by decide +kernel, by decide +kernel, rfl⟩,
   ⟨0, slotAt ({ granted .owner .opened with deadline := 1 }), 3, by decide +kernel⟩,
   ⟨0, slotAt ({ granted .owner .opened with step := 5, heldMsgs := [redMsg 1 3 0 []], heldSince := [7] }), 3, redMsg 1 3 0 [], by decide +kernel⟩,
   ⟨0, slotAt ({ granted .owner .free with opening := some [0, 0] }), 3, [0, 0], by decide +kernel⟩⟩

/-- A shard of job 1 with two blocks at byte 65536 of the die's LPDDR5X, and a rule byte. -/
def shard1 (rule : Nat) : Shard := { ({} : Shard) with raw := pack [(4, 0), (1, rule), (3, 0), (4, 2), (4, 0), (8, 0x10000)] ++ zeros 104, job := 1 }

/-- A ready part with slot 3 of a shard in a state, a consumption of it and staged blocks. -/
def consAt (rule : Nat) (st : SlotState) (cs : SMap Consume) (staged : List (Nat × Nat)) : State :=
  { live with part := { live.part with node := some 0, tai := 1000000 }, jobs := jobs1,
              mem := [(0x1000A, 1#8), (0x1034A, 1#8)],
              dies := [(0, { die1 with slots := [(3, { granted .owner st with job := 1 })], shards := [(0, shard1 rule)], cons := cs, staged := staged })] }

/-- A slot of a host-tier shard before its first read, and the port that serves it. -/
def consHost : State :=
  { consAt 16 .gated [] [] with hosts := [{ ({} : HostPort) with linkUp := true }] }

/-- A host-tier pair whose first copy is valid. -/
def hostPair1 : List Byte := zeros 10 ++ [1#8] ++ zeros 821

/-- A compressed working copy. -/
def wc1 : Desc := { tF 0 256 with compressed := true, chunkBase := sramDpa 0 0 16384 }

/-- A decided consumption of a kind. -/
def cons1 (kind : Nat) (todo : List Nat) : Consume := { ({} : Consume) with kind := kind, decided := true, todo := todo }

/-- A consumption of a whole layer whose two blocks' moments are formed. -/
def momC : Consume := { cons1 0 [] with moments := [(0, []), (1, [])] }

/-- The hypotheses of VarnishConsumptionCompletes can be met, clause by clause. -/
theorem test_VarnishConsumptionCompletes_witness :
    (∃ (die : Nat) (s : State), s.varnishRuns die = true) ∧
    (∃ (die : Nat) (slot : Nat) (s : State), (s.shardRuns die slot = true ∧ s.sliceWhole die (s.shard die (s.slot die slot).shard) (s.sliceSlots die slot) = true ∧
      (∀ n ∈ s.sliceSlots die slot, ∃ c, s.consOf die n = some c ∧ c.kind = 0 ∧ c.decided = false) ∧ s.sliceSlots die slot ≠ [])) ∧
    (∃ (die : Nat) (slot : Nat) (s : State) (x : RecordRead), ∃ block h t, (x.block = block ∧ h = s.shard die (s.slot die slot).shard ∧ s.shardRuns die slot = true ∧
      (s.slot die slot).role ≠ .contributor ∧ t = s.hostPair h ((s.slot die slot).first + block) x.data ∧ block < (s.slot die slot).blocks ∧ (s.slot die slot).first + block < h.blocks ∧ s.toStage die slot block = true ∧
      s.inFlight die (((s.slot die slot).first + block) % 4) < 30247 ∧
      ((s.die die).order.contains slot = true ∧ s.inOrder die slot ((s.slot die slot).first + block) = true ∨
        (s.die die).order.contains slot = false ∧ ((s.slot die slot).state = .gated ∨ (s.slot die slot).state = .resetting) ∨
        (s.slot die slot).state = .updating) ∧ (h.hostTier = true → (s.host h.port).usable s.ks.ideRequired = true ∧ x.data.length = 832) ∧
      (h.current t.mem ((s.slot die slot).first + block)).isSome = true)) ∧
    (∃ (die : Nat) (slot : Nat) (s : State), ∃ block c h copy a, (h = s.shard die (s.slot die slot).shard ∧ slot < 65536 ∧ s.consOf die slot = some c ∧ c.kind = 0 ∧
      h.current s.mem ((s.slot die slot).first + block) = some (copy, a) ∧ s.shardRuns die slot = true ∧ c.writes = true ∧
      c.todo.contains block = true ∧ s.outerPending die (s.slot die slot).shard slot ((s.slot die slot).first + block) = false ∧
      s.pairLost die (s.slot die slot).shard ((s.slot die slot).first + block) = false ∧ (s.die die).staged.contains (slot, block) = true ∧
      (h.whole = true → (mget c.ortho ((s.slot die slot).first + block)).isSome = true)) ∧
      (s.gradBlock die slot block).kind = .saturated) ∧
    (∃ (die : Nat) (slot : Nat) (s : State), ∃ block c h copy a, (h = s.shard die (s.slot die slot).shard ∧ slot < 65536 ∧ s.consOf die slot = some c ∧ c.kind = 0 ∧
      h.current s.mem ((s.slot die slot).first + block) = some (copy, a) ∧ s.shardRuns die slot = true ∧ c.writes = true ∧
      c.todo.contains block = true ∧ s.outerPending die (s.slot die slot).shard slot ((s.slot die slot).first + block) = false ∧
      s.pairLost die (s.slot die slot).shard ((s.slot die slot).first + block) = false ∧ (s.die die).staged.contains (slot, block) = true ∧
      (h.whole = true → (mget c.ortho ((s.slot die slot).first + block)).isSome = true)) ∧
      (s.gradBlock die slot block).kind ≠ .saturated ∧ s.wcPacked die slot = true) ∧
    (∃ (die : Nat) (slot : Nat) (s : State), ∃ block c h copy a, (h = s.shard die (s.slot die slot).shard ∧ slot < 65536 ∧ s.consOf die slot = some c ∧ c.kind = 0 ∧
      h.current s.mem ((s.slot die slot).first + block) = some (copy, a) ∧ s.shardRuns die slot = true ∧ c.writes = true ∧
      c.todo.contains block = true ∧ s.outerPending die (s.slot die slot).shard slot ((s.slot die slot).first + block) = false ∧
      s.pairLost die (s.slot die slot).shard ((s.slot die slot).first + block) = false ∧ (s.die die).staged.contains (slot, block) = true ∧
      (h.whole = true → (mget c.ortho ((s.slot die slot).first + block)).isSome = true)) ∧
      (s.gradBlock die slot block).kind ≠ .saturated ∧ s.wcPacked die slot = false ∧ (s.wcOpen die slot).wcPacked die slot = false ∧
        (s.wcOpen die slot).wcIsOpen die slot = true) ∧
    (∃ (die : Nat) (slot : Nat) (s : State), ∃ c, (s.consOf die slot = some c ∧ s.shardRuns die slot = true ∧ (s.shard die (s.slot die slot).shard).whole = true ∧ c.kind = 0 ∧
      c.writes = true ∧ c.ortho = [] ∧
      (∀ n ∈ s.sliceSlots die slot, ∃ d, s.consOf die n = some d ∧
        ∀ i, i < (s.slot die n).blocks → (mget d.moments ((s.slot die n).first + i)).isSome = true) ∧
      (∀ b ∈ (s.shard die (s.slot die slot).shard).bays, s.holds (s.shard die (s.slot die slot).shard).job 1 die b = true))) ∧
    (∃ (die : Nat) (slot : Nat) (s : State), ∃ c d, slot < 65536 ∧ s.consOf die slot = some c ∧ s.wcDesc die slot = some d ∧ s.varnishRuns die = true ∧ c.kind ≠ 1 ∧ c.writes = true ∧
      c.todo = [] ∧ c.wcDone = false ∧ d.compressed = true ∧ (s.wcOpen die slot).wcIsOpen die slot = true) ∧
    (∃ (die : Nat) (slot : Nat) (s : State), ∃ c, (slot < 65536 ∧ s.consOf die slot = some c ∧ s.shardRuns die slot = true ∧ c.kind ≠ 1 ∧ c.decided = true ∧ c.done = false ∧
      c.todo = [] ∧ (c.wcDone = true ∨ c.writes = false ∨ s.wcPacked die slot = false))) ∧
    (∃ (die : Nat) (slot : Nat) (s : State), s.varnishRuns die = true ∧ ((s.die die).cons.any fun c => (c.1 / 65536 == 1 || keySlot c.1 == slot) && c.2.writes) = true) :=
  ⟨⟨0, consAt 0 .updating [] [], by decide +kernel⟩,
   ⟨0, 3, consAt 4 .updating [(3, {})] [], by decide +kernel⟩,
   ⟨0, 3, consHost, { block := 0, data := hostPair1 }, 0, shard1 16, consHost.hostPair (shard1 16) 0 hostPair1, by decide +kernel⟩,
   ⟨0, 3, { { consAt 0 .updating [(3, cons1 0 [0])] [(3, 0)] with mem := [(0x1000A, 1#8), (sramDpa 0 0 0, 4#8), (sramDpa 0 0 4096, 255#8)] } with dies := [(0, { die1 with slots := [(3, { granted .owner .updating with job := 1, anchorOff := 4096 })], shards := [(0, shard1 0)], cons := [(3, cons1 0 [0])], staged := [(3, 0)] })] }, 0, cons1 0 [0], shard1 0, 0, (shard1 0).rd [(0x1000A, 1#8), (sramDpa 0 0 0, 4#8), (sramDpa 0 0 4096, 255#8)] 0 0, by decide +kernel⟩,
   ⟨0, 3, { consAt 0 .updating [] [] with dies := [(0, { die1 with slots := [(3, { granted .owner .updating with job := 1 })], shards := [(0, shard1 0)], cons := [(3, cons1 0 [0])], staged := [(3, 0)], bindings := [(3, some wc1)] })] }, 0, cons1 0 [0], shard1 0, 0, (shard1 0).rd [(0x1000A, 1#8), (0x1034A, 1#8)] 0 0, by decide +kernel⟩,
   ⟨0, 3, consAt 0 .updating [(3, cons1 0 [0])] [(3, 0)], 0, cons1 0 [0], shard1 0, 0, (shard1 0).rd [(0x1000A, 1#8), (0x1034A, 1#8)] 0 0, by decide +kernel⟩,
   ⟨0, 3, consAt 4 .updating [(3, momC)] [], momC, by decide +kernel⟩,
   ⟨0, 3, { consAt 0 .updating [] [] with dies := [(0, { die1 with slots := [(3, { granted .owner .updating with job := 1 })], shards := [(0, shard1 0)], cons := [(3, cons1 0 [])], bindings := [(3, some wc1)] })] }, cons1 0 [], wc1, by decide +kernel⟩,
   ⟨0, 3, consAt 0 .updating [(3, cons1 0 [])] [], cons1 0 [], by decide +kernel⟩,
   ⟨0, 3, consAt 0 .updating [(3, cons1 0 [])] [], by decide +kernel⟩⟩

/-- A ready part with a Keystone in some course. -/
def ksAt (k : Keystone) : State := { bayAt {} with ks := k }

/-- A detected fault of Easel's digest bus of bay 0. -/
def fault2 : FaultDesc := ⟨2, 0, 0, 0, false, []⟩

/-- An issued stroke with a held tile. -/
def heldBay : Bay := { ({} : Bay) with slots := [{}], tiles := [{ ({} : Tile) with phase := .held }], waking := true }

/-- A consumption that is done. -/
def cdone : Consume := { cons1 0 [] with done := true }

/-- A gather entry of job 1 whose step 16 has come. -/
def gat1 : Gather := { ({} : Gather) with job := 1, even := tF 0 256, odd := tF 0 256, last := some 16 }

/-- The hypotheses of FaultHandlingCompletes can be met, clause by clause. -/
theorem test_FaultHandlingCompletes_witness :
    (∃ (s : State) (x : FaultDesc), s.live = true ∧
      (1 ≤ x.detector ∧ x.detector ≤ 12 ∧ x.die < s.dieCount ∧ (x.detector ≤ 4 → x.unit < 132))) ∧
    (∃ (s : State), ∃ die beat slice, s.live = true ∧
      die < s.dieCount ∧ ¬ (beat = true ∧ slice = true)) ∧
    (∃ (s : State), ∃ t x rest, s.live = true ∧
      t = s.settleHandling ∧ t.ks.queue = x :: rest ∧ t.ks.handling = []) ∧
    (∃ (s : State), ∃ b i rest fills, s.live = true ∧
      s.bayLive b = true ∧ (s.bay b.die b.bay).replays = i :: rest ∧ s.slotFree b = true ∧
      (s.logical b.die b.bay).isSome = true ∧ s.issueCheck b.die b.bay i = .go fills) ∧
    (∃ (s : State) (b : BayRef), s.live = true ∧
      (s.bay b.die b.bay).waking = true) ∧
    (∃ (s : State) (b : BayRef), ∃ a t r, s.live = true ∧
      (s.ks.arbs.find? fun a => a.die == b.die && a.bay == b.bay && a.awake) = some a ∧
      (s.bay b.die b.bay).tiles.find? (·.phase == .held) = some t ∧ (s.bay b.die b.bay).strokeOf t = some r) ∧
    (∃ (s : State) (x : DamageDesc), s.live = true ∧
      x.die < s.dieCount) ∧
    (∃ (s : State), ∃ die, s.live = true ∧
      die < s.dieCount ∧ die ≠ s.ks.leader ∧ (s.die die).fenced = false) ∧
    (∃ (s : State), s.live = true) ∧
    (∃ (s : State), ∃ unit die index t, s.live = true ∧
      (s.ks.tests.find? fun t => t.unit == unit && t.die == die && t.index == index) = some t ∧ s.testMayEnd t = true) :=
  ⟨⟨live, fault2, by decide +kernel⟩,
   ⟨live, 0, true, false, by decide +kernel⟩,
   ⟨ksAt { ({} : Keystone) with queue := [fault2] }, ksAt { ({} : Keystone) with queue := [fault2] }, fault2, [], by decide +kernel⟩,
   ⟨{ bayAt { ({} : Bay) with replays := [inst1] } with power := { ({} : Power) with doms := [(2, .on)] } }, b0, inst1, [], [], by decide +kernel⟩,
   ⟨bayAt heldBay, b0, by decide +kernel⟩,
   ⟨{ bayAt heldBay with ks := { ({} : Keystone) with arbs := [⟨0, 0, 1, true, true, (0, 0)⟩] } }, b0, ⟨0, 0, 1, true, true, (0, 0)⟩, { ({} : Tile) with phase := .held }, {}, by decide +kernel⟩,
   ⟨live, ⟨0, 0, 0, 0, 1, 0⟩, by decide +kernel⟩,
   ⟨live, 1, by decide +kernel⟩,
   ⟨live, by decide +kernel⟩,
   ⟨ksAt { ({} : Keystone) with tests := [{ unit := 1, die := 0, index := 5 }] }, 1, 0, 5, { unit := 1, die := 0, index := 5 }, by decide +kernel⟩⟩

/-- The hypotheses of DigestComparisonsComplete can be met, clause by clause. -/
theorem test_DigestComparisonsComplete_witness :
    (∃ (s : State), ∃ die key c p, s.live = true ∧
      s.consOf die key = some c ∧ (s.die die).peers.find? (·.1 == key) = some p ∧ c.done = true ∧ s.consTwin die key c = false ∧
      (s.consId die key c).2.2 = p.2.1 ∧ c.stage ≠ 4 ∧ p.2.2.1 = c.gradDigest ∧ p.2.2.2 = c.updDigest) ∧
    (∃ (s : State), ∃ die key c p, s.live = true ∧
      (s.consOf die key = some c ∧ (s.die die).peers.find? (·.1 == key) = some p ∧ c.done = true ∧ s.consTwin die key c = false ∧
      (s.consId die key c).2.2 = p.2.1 ∧ c.stage ≠ 4 ∧ c.kind = 0 ∧ p.2.2.1 ≠ c.gradDigest ∧ (c.stage ≠ 0 ∨ (s.slot die key).disputed = true))) ∧
    (∃ (s : State), ∃ die key c p t c', s.live = true ∧
      s.consOf die key = some c ∧ (s.die die).peers.find? (·.1 == key) = some p ∧ c.done = true ∧ s.consTwin die key c = false ∧
      (s.consId die key c).2.2 = p.2.1 ∧ c.stage = 0 ∧ c.kind = 0 ∧ p.2.2.1 ≠ c.gradDigest ∧ (s.slot die key).disputed = false ∧
      (s.ks.queue.any fun x => x.detector == 10 && x.die == die && x.addr == key) = false ∧
      t = s.fault ⟨10, die, 0, key, false, sub c.gradDigest 0 24⟩ ∧ t.consOf die key = some c' ∧ t.live = true ∧ c'.stage ≠ 0) ∧
    (∃ (s : State), ∃ entry g step, s.live = true ∧
      mget s.span.gather entry = some g ∧ g.last = some step ∧ step % (mgetD {} s.jobs g.job).period = 0 ∧
      ((s.gatherRegs g step).all fun x => (s.bay g.die x.1).allAt .dry x.2.1 x.2.2) = true) :=
  ⟨⟨{ consAt 0 .updating [] [] with dies := [(0, { die1 with slots := [(3, { granted .owner .updating with job := 1 })], shards := [(0, shard1 0)], cons := [(3, cdone)], peers := [(3, 0, [], [])] })] }, 0, 3, cdone, (3, 0, [], []), by decide +kernel⟩,
   ⟨{ consAt 0 .updating [] [] with dies := [(0, { die1 with slots := [(3, { granted .owner .updating with job := 1 })], shards := [(0, shard1 0)], cons := [(3, { cdone with stage := 1 })], peers := [(3, 0, [1], [])] })] }, 0, 3, { cdone with stage := 1 }, (3, 0, [1], []), by decide +kernel⟩,
   ⟨{ consAt 0 .updating [] [] with dies := [(0, { die1 with slots := [(3, { granted .owner .updating with job := 1 })], shards := [(0, shard1 0)], cons := [(3, cdone)], peers := [(3, 0, [1], [])] })] }, 0, 3, cdone, (3, 0, [1], []), _, { cdone with stage := 1 }, by decide +kernel, by decide +kernel, by decide +kernel, by decide +kernel, by decide +kernel, by decide +kernel, by decide +kernel, by decide +kernel, by decide +kernel, by decide +kernel, by decide +kernel, rfl, by decide +kernel⟩,
   ⟨{ live with jobs := jobs1, dies := [(0, die1)], bays := [(0, { ({} : Bay) with seals := [{ start := 0, bytes := 1024, state := .dry }] })], span := { ({} : Span) with gather := [(2, gat1)] } }, 2, gat1, 16, by decide +kernel⟩⟩

/-- A job with an outer loop of period 1000 ms. -/
def jobsO : SMap Job := [(1, { ({} : Job) with mask := 1, grants := [⟨1, 0, 0, 1, 0⟩], outer := some { ({} : Outer) with period := 1000 } })]

/-- A session of job 1 between site 1 and site 2, with its receive area at byte 131072. -/
def sess1 : Session :=
  { ({} : Session) with job := 1, state := .running, raw := pack [(6, 0), (1, 1), (1, 2), (8, 0), (8, 0), (8, 0), (4, 4), (2, 0x1FF), (2, 0), (8, 0x20000), (4, 0x10000)] ++ zeros 12 }

/-- A fragment of one block in a course. -/
def frag1 : Frag := { ({} : Frag) with blocks := 1, sessions := [0], job := 1 }

/-- A ready part at TAI 10 s with a fragment and a session. -/
def outerAt (f : Frag) (x : Session) : State :=
  { live with part := { live.part with node := some 0, tai := 10000000000 }, jobs := jobsO, mem := [(0x1000A, 1#8), (0x1034A, 1#8)],
              dies := [(0, { die1 with shards := [(0, shard1 0)] })], via := { ({} : Viaduct) with frags := [(0, f)], sessions := [(0, x)] } }

/-- A message of a type from site 2 with a body. -/
def outMsg (type frag blocks : Nat) (body : List Byte) : List Byte :=
  packBe [(1, type), (1, 0), (2, 1), (4, 0), (8, 0), (1, 2), (1, 1), (2, frag), (4, blocks), (4, body.length), (8, 0), (4, 0)] ++ body

/-- The part when a message has come whole. -/
def msgAt (msg : List Byte) : State :=
  let s := outerAt frag1 { sess1 with rx := [{ id := 5, place := 0, len := msg.length, got := [(0, msg.length)] }] }
  { s with mem := wrBytes [] 0x20000 msg }

/-- The part when that message has been taken. -/
def msgTaken (msg : List Byte) : State :=
  { msgAt msg with via := { ({} : Viaduct) with frags := [(0, frag1)], sessions := [(0, sess1)] } }

/-- An OUTER-DELTA body of one block of zeros. -/
def delta0 : List Byte := encodeBody 1 [List.replicate 32 0#32]

/-- The hypotheses of OuterLoopCompletes can be met, clause by clause. -/
theorem test_OuterLoopCompletes_witness :
    (∃ (s : State), ∃ frag r again, ((mget s.via.frags frag).isSome = true ∧ s.varnishRuns (s.frag frag).die = true ∧ (s.outer (s.frag frag).job).period ≠ 0 ∧
      s.fragTwin (s.frag frag) = false ∧ s.fragQuiet (s.frag frag) = true ∧
      ((s.frag frag).formed = none ∧ r = s.round (s.frag frag).job ∧ again = false ∨
        (∃ p, (s.frag frag).formed = some p ∧ p ≠ s.round (s.frag frag).job ∧ r = p + 1 ∧ again = false ∧ (s.frag frag).closed = some p) ∨
        (s.frag frag).formed = some (s.round (s.frag frag).job) ∧ r = s.round (s.frag frag).job ∧ again = true ∧
          s.catchSessions (s.frag frag) r ≠ [] ∧ (∃ own, (s.frag frag).own = some own ∧ own.round = r ∧ own.catchup = false)) ∧
      (r * (s.outer (s.frag frag).job).period + (s.frag frag).off) * 10 ^ 6 ≤ s.part.tai ∧
      ((s.jobFrags (s.frag frag).job).any fun g => (s.frag g).needs) = false ∧ s.consOf (s.frag frag).die (fragKey frag) = none)) ∧
    (∃ (s : State), ∃ frag k own, ((mget s.via.frags frag).isSome = true ∧ s.varnishRuns (s.frag frag).die = true ∧ (s.outer (s.frag frag).job).period ≠ 0 ∧
      s.fragTwin (s.frag frag) = false ∧ (s.frag frag).needs = false ∧ (s.frag frag).own = some own ∧ own.round = k ∧
      ((s.frag frag).closed = none ∧ (s.frag frag).formed = some k ∨ ∃ c, (s.frag frag).closed = some c ∧ k = c + 1) ∧
      (k + 1) * (s.outer (s.frag frag).job).period * 10 ^ 6 ≤ s.part.tai ∧ s.consOf (s.frag frag).die (fragKey frag) = none)) ∧
    (∃ (s : State), ∃ frag, (mget s.via.frags frag).isSome = true ∧ s.varnishRuns (s.frag frag).die = true ∧ (s.outer (s.frag frag).job).period ≠ 0 ∧
      s.fragTwin (s.frag frag) = false ∧ (s.frag frag).needs = true) ∧
    (∃ (s : State), ∃ frag block c h copy a, h = s.shard (s.frag frag).die (s.frag frag).shard ∧ s.consOf (s.frag frag).die (fragKey frag) = some c ∧
      h.current s.mem ((s.frag frag).first + block) = some (copy, a) ∧ s.varnishRuns (s.frag frag).die = true ∧ h.stopped = false ∧
      c.todo.contains block = true ∧ s.outerBehind (s.frag frag) c block = false ∧
      s.pairLost (s.frag frag).die (s.frag frag).shard ((s.frag frag).first + block) = false ∧
      s.wcSlotOf (s.frag frag).die (s.frag frag).shard ((s.frag frag).first + block) = none) ∧
    (∃ (s : State), ∃ frag block c h copy a n, h = s.shard (s.frag frag).die (s.frag frag).shard ∧ s.consOf (s.frag frag).die (fragKey frag) = some c ∧
      h.current s.mem ((s.frag frag).first + block) = some (copy, a) ∧ s.varnishRuns (s.frag frag).die = true ∧ h.stopped = false ∧
      c.todo.contains block = true ∧ s.outerBehind (s.frag frag) c block = false ∧
      s.pairLost (s.frag frag).die (s.frag frag).shard ((s.frag frag).first + block) = false ∧
      s.wcSlotOf (s.frag frag).die (s.frag frag).shard ((s.frag frag).first + block) = some n ∧
        (s.wcOpen (s.frag frag).die n).wcIsOpen (s.frag frag).die n = true) ∧
    (∃ (s : State), ∃ die m, MsgReady s die 0x64 m (decide (32 ≤ m.body.length ∧ fld m.body 2 1 < 3 ∧ fld m.body 3 1 < 4 ∧ fld m.body 0x1C 4 ≤ 16384 ∧
        fld m.body 0x18 4 + fld m.body 0x1C 4 ≤ fld m.body 0x14 4) && m.body.length == 32 + fld m.body 0x1C 4)) ∧
    (∃ (s : State), ∃ k msg t, s.takeMsg k msg = some t ∧ t.msgOk k 1 msg = true ∧ t.fragOk k msg = true ∧ bodyOk (msg.drop 40) (fldBe msg 0x14 4) = true) ∧
    (∃ (s : State), ∃ k msg t, s.takeMsg k msg = some t ∧ t.msgOk k 2 msg = true ∧ t.fragOk k msg = true ∧ 48 ≤ msg.length ∧
      msg.length = 48 + 8 * fldBe msg 40 4) ∧
    (∃ (s : State), ∃ k msg t, (s.takeMsg k msg = some t ∧ t.msgOk k 3 msg = true ∧ msg.length = 40 ∧
      (fldBe msg 0x12 2 = 0xFFFF ∨ (t.frag (fldBe msg 0x12 2)).sessions.contains k = true))) ∧
    (∃ (s : State), ∃ k msg t, s.takeMsg k msg = some t ∧ t.msgOk k 4 msg = true ∧ t.fragOk k msg = true ∧ msg.length = 40 + 192 * fldBe msg 0x14 4) :=
  ⟨⟨outerAt { frag1 with formed := some 0, closed := some 0 } sess1, 0, 1, false, by decide +kernel⟩,
   ⟨outerAt { frag1 with closed := some 0, own := some ⟨0, 1, 1, 0, 0, false, false, 0, 0, []⟩ } sess1, 0, 1, ⟨0, 1, 1, 0, 0, false, false, 0, 0, []⟩, by decide +kernel⟩,
   ⟨outerAt { frag1 with needs := true } sess1, 0, by decide +kernel⟩,
   ⟨{ outerAt frag1 sess1 with dies := [(0, { die1 with shards := [(0, shard1 0)], cons := [(65536, cons1 1 [0])] })] }, 0, 0, cons1 1 [0], shard1 0, 0, (shard1 0).rd [(0x1000A, 1#8), (0x1034A, 1#8)] 0 0, by decide +kernel⟩,
   ⟨{ outerAt frag1 sess1 with dies := [(0, { die1 with shards := [(0, shard1 0)], slots := [(3, { granted .owner .opened with job := 1 })], bindings := [(3, some (tF 0 256))], cons := [(65536, cons1 1 [0])] })] }, 0, 0, cons1 1 [0], shard1 0, 0, (shard1 0).rd [(0x1000A, 1#8), (0x1034A, 1#8)] 0 0, 3, by decide +kernel⟩,
   ⟨outerAt frag1 sess1, 0, { kind := 0x64, flags := 0, dst := 0, src := 2, hops := 0, seq := 0, ecrcOk := true, body := pack [(2, 1), (1, 2)] ++ zeros 29 }, by unfold MsgReady; decide +kernel⟩,
   ⟨msgAt (outMsg 1 0 1 delta0), 0, outMsg 1 0 1 delta0, msgTaken (outMsg 1 0 1 delta0), by decide +kernel⟩,
   ⟨msgAt (outMsg 2 0 1 (zeros 8)), 0, outMsg 2 0 1 (zeros 8), msgTaken (outMsg 2 0 1 (zeros 8)), by decide +kernel⟩,
   ⟨msgAt (outMsg 3 0 0 []), 0, outMsg 3 0 0 [], msgTaken (outMsg 3 0 0 []), by decide +kernel⟩,
   ⟨msgAt (outMsg 4 0 1 (zeros 192)), 0, outMsg 4 0 1 (zeros 192), msgTaken (outMsg 4 0 1 (zeros 192)), by decide +kernel⟩⟩

/-- One byte of a CRC-32C, and of a CRC-32. -/
def crcStepC (c : Word) (b : Byte) : Word := (List.range 8).foldl (fun c _ => crcBitC c) (c ^^^ b.setWidth 32)
/-- One byte of a CRC-32. -/
def crcStepE (c : Word) (b : Byte) : Word := (List.range 8).foldl (fun c _ => crcBit c) (c ^^^ b.setWidth 32)

/-- A CRC byte by byte, each register value a numeral before the next byte. -/
def crcSteps (f : Word → Byte → Word) : List Byte → Nat → Nat
  | [], n => n
  | b :: bs, 0 => crcSteps f bs (f 0#32 b).toNat
  | b :: bs, n + 1 => crcSteps f bs (f (BitVec.ofNat 32 (n + 1)) b).toNat

theorem crcSteps_foldl (f : Word → Byte → Word) (bs : List Byte) (c : Word) : crcSteps f bs c.toNat = (bs.foldl f c).toNat := by
  induction bs generalizing c with
  | nil => simp [crcSteps]
  | cons b bs ih =>
    have e : crcSteps f (b :: bs) c.toNat = crcSteps f bs (f (BitVec.ofNat 32 c.toNat) b).toNat := by
      cases c.toNat <;> simp only [crcSteps]
    rw [e, ih, BitVec.ofNat_toNat, BitVec.setWidth_eq, List.foldl_cons]

theorem crc32c_steps (bs : List Byte) : crc32c bs = crcSteps crcStepC bs 0xFFFFFFFF ^^^ 0xFFFFFFFF := by
  have h := crcSteps_foldl crcStepC bs 0xFFFFFFFF#32
  simp only [crc32c, BitVec.toNat_xor]
  exact congrArg (· ^^^ _) h.symm

theorem crc32_steps (bs : List Byte) : crc32 bs = crcSteps crcStepE bs 0xFFFFFFFF ^^^ 0xFFFFFFFF := by
  have h := crcSteps_foldl crcStepE bs 0xFFFFFFFF#32
  simp only [crc32, BitVec.toNat_xor]
  exact congrArg (· ^^^ _) h.symm

/-- A segment of a type for session 0 of port 0, its CRC in place: sequence number, length of the message and payload. -/
def seg0 (type seq total : Nat) (body : List Byte) : List Byte :=
  let x := packBe [(1, 1), (1, type), (2, 0), (2, 0), (2, body.length), (6, seq), (2, 0), (8, 0), (8, 0), (4, 7), (4, 0), (4, 0), (4, total)] ++ body
  splice x 0x28 (natBe 4 (crcSteps crcStepC x 0xFFFFFFFF ^^^ 0xFFFFFFFF))

/-- The part of the tests of sessions, the session in a course. -/
def sessAt (x : Session) : State := outerAt frag1 x

/-- A heartbeat body. -/
def beat : List Byte := packBe [(1, 5), (1, 0), (2, 1), (4, 0), (8, 0), (1, 2), (1, 1), (2, 0), (4, 0), (4, 24), (8, 0), (4, 0)] ++ zeros 24

/-- The hypotheses of SessionSegmentsComplete can be met, clause by clause. -/
theorem test_SessionSegmentsComplete_witness :
    (∃ (port : Nat) (k : Nat) (seg : List Byte) (s : State), ∃ place, (s.segFor port 1 seg = (some k, s) ∧ fldBe seg 0x24 4 + fldBe seg 6 2 ≤ fldBe seg 0x2C 4 ∧
      ((s.sess k).rx.find? (·.id == fldBe seg 0x20 4) = none ∧ (s.sess k).room (fldBe seg 0x2C 4) = some place ∨
        ∃ m, (s.sess k).rx.find? (·.id == fldBe seg 0x20 4) = some m ∧ m.len = fldBe seg 0x2C 4 ∧ m.place = place) ∧
      after48 (fldBe seg 8 6) (s.sess k).cum = true ∧
      (s.sess k).bits.contains (fldBe seg 8 6) = false ∧ ahead48 (fldBe seg 8 6) (s.sess k).cum ≤ (s.sess k).quota)) ∧
    (∃ (port : Nat) (k : Nat) (seg : List Byte) (s : State), (s.segFor port 1 seg = (some k, s) ∧ fldBe seg 0x24 4 + fldBe seg 6 2 ≤ fldBe seg 0x2C 4 ∧
      (∀ m, (s.sess k).rx.find? (·.id == fldBe seg 0x20 4) = some m → m.len = fldBe seg 0x2C 4) ∧ after48 (fldBe seg 8 6) (s.sess k).cum = false)) ∧
    (∃ (port : Nat) (k : Nat) (seg : List Byte) (s : State), s.segFor port 2 seg = (some k, s) ∧ seg.length = 576 ∧ zeroAt seg 54 2 = true ∧ zeroAt seg 62 2 = true) ∧
    (∃ (port : Nat) (k : Nat) (seg : List Byte) (s : State), s.segFor port 3 seg = (some k, s) ∧ seg.length = 112 ∧ fldBe (seg.drop 48) 0 1 = 5 ∧ fldBe (seg.drop 48) 1 1 = 0 ∧
      fldBe (seg.drop 48) 2 2 = (s.sess k).job ∧ fldBe (seg.drop 48) 0x10 1 = (s.sess k).peer ∧ fldBe (seg.drop 48) 0x11 1 = (s.sess k).local_ ∧
      fldBe (seg.drop 48) 0x18 4 = 24 ∧ zeroAt (seg.drop 48) 0x1C 12 = true ∧ zeroAt (seg.drop 48) 43 1 = true ∧
      zeroAt (seg.drop 48) 52 4 = true) ∧
    (∃ (port : Nat) (k : Nat) (seg : List Byte) (s : State), s.segFor port 4 seg = (some k, s)) ∧
    (∃ (port : Nat) (k : Nat) (seg : List Byte) (s : State), s.segFor port 5 seg = (some k, s)) ∧
    (∃ (port : Nat) (k : Nat) (seg : List Byte) (s : State), s.segFor port 6 seg = (some k, s)) ∧
    (∃ (k : Nat) (s : State), s.live = true ∧ (s.sess k).state = .opening) ∧
    (∃ (k : Nat) (s : State), s.live = true ∧ (s.sess k).state ≠ .closed ∧ (s.sess k).state ≠ .opening) ∧
    (∃ (k : Nat) (s : State), s.live = true ∧ (s.sess k).state = .running ∧ (s.sess k).lastBeat + 500000000 ≤ s.part.tai) ∧
    (∃ (k : Nat) (s : State), ∃ q e, (s.sess k).table.find? (·.seq == q) = some e ∧ s.live = true ∧ (s.sess k).state = .running ∧ s.sessFrozen k = false ∧
      e.lastTx + (s.sess k).again ≤ s.part.tai) ∧
    (∃ (k : Nat) (s : State), s.live = true ∧ (s.sess k).due = true ∧ (s.sess k).state ≠ .closed) :=
  ⟨⟨0, 0, seg0 1 0 8 (zeros 8), sessAt (sess1), 0, by decide +kernel⟩,
   ⟨0, 0, seg0 1 0 8 (zeros 8), sessAt ({ sess1 with cum := 0 }), by decide +kernel⟩,
   ⟨0, 0, seg0 2 0 0 (zeros 528), sessAt (sess1), by unfold State.segFor; rw [crc32c_steps]; decide +kernel⟩,
   ⟨0, 0, seg0 3 0 0 beat, sessAt (sess1), by unfold State.segFor; rw [crc32c_steps]; decide +kernel⟩,
   ⟨0, 0, seg0 4 0 0 [], sessAt (sess1), by decide +kernel⟩,
   ⟨0, 0, seg0 5 0 0 [], sessAt (sess1), by decide +kernel⟩,
   ⟨0, 0, seg0 6 0 0 [], sessAt (sess1), by decide +kernel⟩,
   ⟨0, sessAt ({ sess1 with state := .opening }), by decide +kernel⟩,
   ⟨0, sessAt (sess1), by decide +kernel⟩,
   ⟨0, sessAt ({ sess1 with lastBeat := 0 }), by decide +kernel⟩,
   ⟨0, sessAt ({ sess1 with table := [{ seq := 3, round := none, slot := 0, msgId := 0, off := 0, len := 0, total := 0 }] }), 3, { seq := 3, round := none, slot := 0, msgId := 0, off := 0, len := 0, total := 0 }, by decide +kernel⟩,
   ⟨0, sessAt ({ sess1 with due := true }), by decide +kernel⟩⟩

/-- A ready part at TAI 10 s whose Viaduct port 0 is up, with an interface in some course. -/
def itfAt (x : Itf) : State :=
  { live with part := { live.part with tai := 10000000000 },
              via := { ({} : Viaduct) with ports := [(0, { ({} : VPort) with set := true, up := true, itfs := [{ x with mac := 5, linkLocal := 9 }, {}] })] } }

/-- A frame to the interface, secured under association number 1 with packet number 1. -/
def frame1 : Frame := ⟨100, 5, 0x86DD, true, 1, 1, true, false, 9, 17, false, 49812, true, []⟩

/-- An interface whose keys are in use. -/
def keyed : Itf := { ({} : Itf) with cakSet := true, txAn := some 1, rxAns := [1], retiring := some 0, peers := [7] }

/-- A part at TAI 10 s whose time is in some course. -/
def timeAt (t : Time) : State := { live with part := { live.part with tai := 10000000000 }, time := t }

/-- A ZDA sentence of 12:00:00 on 1 January 2025. -/
def zda1 : List Byte := [36, 71, 80, 90, 68, 65, 44, 49, 50, 48, 48, 48, 48, 46, 48, 48, 44, 48, 49, 44, 48, 49, 44, 50, 48, 50, 53, 44, 48, 48, 44,
  48, 48, 42, 54, 48, 13, 10]

/-- A flit with a sequence number and its CRC in place. -/
def flit0 (seq : Nat) : List Byte :=
  let x := pack [(1, 0), (3, seq), (4, 0)] ++ zeros 256
  x ++ natLe 4 (crcSteps crcStepE x 0xFFFFFFFF ^^^ 0xFFFFFFFF)

/-- A ready part whose port SP0 is in some course. -/
def portAt (p : Port) : State := { live with span := { ({} : Span) with ports := [(0, p)] } }

/-- A port that is up. -/
def upPort : Port := { ({} : Port) with up := true }

/-- The hypotheses of InterfaceEventsComplete can be met, clause by clause. -/
theorem test_InterfaceEventsComplete_witness :
    (∃ (port : Nat) (itf : Nat) (s : State) (x : Frame), s.itfUp port itf = true ∧
      x.macControl = true) ∧
    (∃ (port : Nat) (itf : Nat) (s : State) (x : Frame), s.itfUp port itf = true ∧
      x.macControl = false ∧ 4246 < x.len) ∧
    (∃ (port : Nat) (itf : Nat) (s : State) (x : Frame), s.itfUp port itf = true ∧
      (x.macControl = false ∧ x.len ≤ 4246 ∧ (s.itf port itf).accepts x.dstMac = true ∧ x.secured = true ∧
      ((s.itf port itf).rxAns.contains x.an = false ∨ x.icvOk = false ∨ x.pn + (s.vport port).window ≤ mgetD 0 (s.itf port itf).lastPn x.an))) ∧
    (∃ (port : Nat) (itf : Nat) (s : State) (x : Frame), s.itfUp port itf = true ∧
      x.macControl = false ∧ x.len ≤ 4246 ∧ (s.itf port itf).accepts x.dstMac = true ∧ x.secured = true ∧
      (s.itf port itf).rxAns.contains x.an = true ∧ x.icvOk = true ∧ mgetD 0 (s.itf port itf).lastPn x.an < x.pn + (s.vport port).window) ∧
    (∃ (port : Nat) (itf : Nat) (s : State), ∃ target, s.itfUp port itf = true ∧
      (s.itfCarries port itf = true ∧ target ≠ 0 ∧ (target = (s.itf port itf).linkLocal ∨ target = (s.itf port itf).addr))) ∧
    (∃ (port : Nat) (itf : Nat) (s : State), ∃ dst n, s.itfUp port itf = true ∧
      (s.itfCarries port itf = true ∧ dst ≠ 0 ∧ (dst = (s.itf port itf).linkLocal ∨ dst = (s.itf port itf).addr) ∧
      n = (if (s.itf port itf).echoSec = s.part.tai / 10 ^ 9 then (s.itf port itf).echoes else 0) ∧ n < 100)) ∧
    (∃ (port : Nat) (itf : Nat) (s : State), s.itfUp port itf = true) ∧
    (∃ (port : Nat) (itf : Nat) (s : State), s.itfUp port itf = true ∧
      (s.itf port itf).cakSet = true) ∧
    (∃ (port : Nat) (itf : Nat) (s : State), s.itfUp port itf = true ∧
      (s.itf port itf).cakSet = true) ∧
    (∃ (port : Nat) (itf : Nat) (s : State), s.itfUp port itf = true ∧
      (s.itf port itf).cakSet = true ∧ (s.itf port itf).peers ≠ []) ∧
    (∃ (port : Nat) (itf : Nat) (s : State), ∃ an, s.itfUp port itf = true ∧
      (s.itf port itf).retiring = some an) :=
  ⟨⟨0, 0, itfAt ({}), { frame1 with macControl := true }, by decide +kernel⟩,
   ⟨0, 0, itfAt ({}), { frame1 with len := 4247 }, by decide +kernel⟩,
   ⟨0, 0, itfAt ({}), frame1, by decide +kernel⟩,
   ⟨0, 0, itfAt (keyed), frame1, by decide +kernel⟩,
   ⟨0, 0, itfAt (keyed), 9, by decide +kernel⟩,
   ⟨0, 0, itfAt (keyed), 9, 0, by decide +kernel⟩,
   ⟨0, 0, itfAt ({}), by decide +kernel⟩,
   ⟨0, 0, itfAt (keyed), by decide +kernel⟩,
   ⟨0, 0, itfAt (keyed), by decide +kernel⟩,
   ⟨0, 0, itfAt (keyed), by decide +kernel⟩,
   ⟨0, 0, itfAt (keyed), 0, by decide +kernel⟩⟩

/-- The hypotheses of TimeEventsComplete can be met, clause by clause. -/
theorem test_TimeEventsComplete_witness :
    (∃ (s : State) (edge : Nat), ∃ l err, s.live = true ∧
      s.time.state = .locked ∧ s.time.label = some l ∧ err = ((l + 1 + s.time.missing : Nat) : Int) * 10 ^ 9 - edge) ∧
    (∃ (s : State), s.live = true ∧
      s.time.state ≠ .locked ∧ s.time.lastEdge = none) ∧
    (∃ (s : State), ∃ bs ms u e, s.live = true ∧
      zdaUtc bs = some u ∧ s.time.lastEdge = some e ∧ 100 ≤ ms ∧ ms ≤ 900 ∧ s.time.labelled = false ∧ s.time.state ≠ .locked) ∧
    (∃ (s : State), s.live = true ∧
      s.time.state = .locked ∧ s.time.missing < 2) ∧
    (∃ (s : State), ∃ t, s.live = true ∧
      s.time.state = .locked ∧ 2 ≤ s.time.missing ∧ t = s.modTime (fun t => { t with
        state := .holdover, holdStart := s.part.tai, missing := 0, good := 0, edgeOk := false, label := none, labelled := false, limited := false })) ∧
    (∃ (s : State), ∃ t, s.live = true ∧
      s.time.state = .holdover ∧ s.time.limited = false ∧ s.time.limit * 10 ^ 6 < s.timeError ∧
      t = s.modTime (fun t => { t with limited := true })) ∧
    (∃ (s : State), ∃ at_ o, s.live = true ∧
      s.time.change = some (at_, o) ∧ at_ ≤ s.part.tai) :=
  ⟨⟨timeAt ({ ({} : Time) with state := .locked, label := some 9, lastEdge := some 9000000000 }), 9999999990, 9, 10, by decide +kernel⟩,
   ⟨timeAt ({}), by decide +kernel⟩,
   ⟨timeAt ({ ({} : Time) with lastEdge := some 9000000000 }), zda1, 100, 1735732800, 9000000000, by decide +kernel⟩,
   ⟨timeAt ({ ({} : Time) with state := .locked, label := some 9, lastEdge := some 9000000000 }), by decide +kernel⟩,
   ⟨timeAt ({ ({} : Time) with state := .locked, missing := 2 }), _, by decide +kernel, by decide +kernel, by decide +kernel, rfl⟩,
   ⟨timeAt ({ ({} : Time) with state := .holdover, sigma := 2000000000 }), _, by decide +kernel, by decide +kernel, by decide +kernel, by decide +kernel, rfl⟩,
   ⟨timeAt ({ ({} : Time) with change := some (9, 38) }), 9, 38, by decide +kernel⟩⟩

/-- The hypotheses of LinkEventsComplete can be met, clause by clause. -/
theorem test_LinkEventsComplete_witness :
    (∃ (port : PortRef) (s : State), ∃ flit t, s.portExists port.key = true ∧
      (s.port port.key).up = true ∧ (s.port port.key).training = false ∧
      flitOk flit = true ∧ bitOf (fld flit 0 1) 3 = false ∧ t = s.flitHead port.key flit ∧
        fld flit 1 3 % 4096 = ((t.port port.key).lastRx + 1) % 4096) ∧
    (∃ (port : PortRef) (s : State), ∃ flit t, s.portExists port.key = true ∧
      (s.port port.key).up = true ∧ (s.port port.key).training = false ∧
      flitOk flit = true ∧ bitOf (fld flit 0 1) 3 = false ∧ t = s.flitHead port.key flit ∧
        fld flit 1 3 % 4096 ≠ ((t.port port.key).lastRx + 1) % 4096) ∧
    (∃ (port : PortRef) (s : State), ∃ ok flit, s.portExists port.key = true ∧
      (s.port port.key).up = true ∧ (s.port port.key).training = false ∧
      (ok = false ∨ flitOk flit = false)) ∧
    (∃ (port : PortRef) (s : State), s.portExists port.key = true ∧
      (s.port port.key).up = true ∧ (s.port port.key).training = false) ∧
    (∃ (port : PortRef) (s : State), ∃ t, s.portExists port.key = true ∧
      (s.port port.key).up = true ∧ (s.port port.key).training = false ∧
      (s.port port.key).replay ≠ [] ∧ s.live = true ∧
      t = s.modPort port.key (fun p => { p with training := true, resends := 0 }) ∧
      t.live = true) ∧
    (∃ (port : PortRef) (s : State), ∃ lane ls, s.portExists port.key = true ∧
      (s.port port.key).up = true ∧ (s.port port.key).training = false ∧
      lane < 4 ∧ at' false (s.port port.key).lanes lane = true ∧ ls = setAt (s.port port.key).lanes lane false ∧
        min (s.port port.key).width (laneWidth ls) ≠ 0) ∧
    (∃ (port : PortRef) (s : State), s.portExists port.key = true ∧
      (s.port port.key).up = true ∧ (s.port port.key).training = false ∧
      s.live = true) ∧
    (∃ (port : PortRef) (s : State), s.portExists port.key = true ∧
      (s.port port.key).training = true) ∧
    (∃ (port : PortRef) (s : State), ∃ t, s.portExists port.key = true ∧
      (s.port port.key).training = true ∧
      t = s.modPort port.key (fun p => { p with up := true, training := false, nackDue := false })) ∧
    (∃ (port : PortRef) (s : State) (m : SpanMsg), s.portExists port.key = true ∧
      s.live = true ∧
      m.kind = 0x40 ∧ m.ecrcOk = true ∧ m.flags < 4 ∧ m.body.length = 12) :=
  ⟨⟨.sp 0, portAt (upPort), flit0 0, (portAt upPort).flitHead 0 (flit0 0), by unfold flitOk; rw [crc32_steps]; decide +kernel⟩,
   ⟨.sp 0, portAt (upPort), flit0 1, (portAt upPort).flitHead 0 (flit0 1), by unfold flitOk; rw [crc32_steps]; decide +kernel⟩,
   ⟨.sp 0, portAt (upPort), false, [], by decide +kernel⟩,
   ⟨.sp 0, portAt (upPort), by decide +kernel⟩,
   ⟨.sp 0, portAt ({ upPort with replay := [(0, [])] }), _, by decide +kernel, by decide +kernel, by decide +kernel, by decide +kernel, by decide +kernel, rfl, by decide +kernel⟩,
   ⟨.sp 0, portAt (upPort), 3, [true, true, true, false], by decide +kernel⟩,
   ⟨.sp 0, portAt (upPort), by decide +kernel⟩,
   ⟨.sp 0, portAt ({ upPort with training := true }), by decide +kernel⟩,
   ⟨.sp 0, portAt ({ upPort with training := true }), _, by decide +kernel, by decide +kernel, rfl⟩,
   ⟨.sp 0, portAt (upPort), { kind := 0x40, flags := 0, dst := 0xFFF, src := 2, hops := 0, seq := 0, ecrcOk := true, body := zeros 12 }, by decide +kernel⟩⟩

/-- A message of a type with a body from node 2 to this part. -/
def msg1 (kind : Nat) (body : List Byte) : SpanMsg :=
  { kind := kind, flags := 0, dst := 0, src := 2, hops := 0, seq := 0, ecrcOk := true, body := body }

/-- A ready part that is node 0, its twin node 2, with port SP0 up and a fabric in some course. -/
def nodeAt (x : Span) (d : Die) (b : Bay) : State :=
  { live with part := { live.part with node := some 0, twinNode := some 2, lpddr := [0x100000000] }, jobs := jobs1, dies := [(0, d)], bays := [(0, b)],
              span := { x with ports := [(0, upPort)], route := [(7, 0x8000)] } }

/-- A response's header with a status for message 0 of a type. -/
def respHdr (status kind : Nat) : List Byte := pack [(2, 0), (2, status), (12, 0), (2, 0), (1, kind), (13, 0)]

/-- A fabric with one message of a type from stroke 0 of bay 0 to node 2 unanswered. -/
def unack (kind : Nat) (ctx : List Nat) (again : Bool) : Span :=
  { ({} : Span) with unacked := [(chanKey 2 (vcOf kind), [{ seq := 0, kind := kind, die := 0, body := [], ctx := ctx, again := again }])] }

/-- That message. -/
def unack1 (kind : Nat) (ctx : List Nat) (again : Bool) : Unacked := { seq := 0, kind := kind, die := 0, body := [], ctx := ctx, again := again }

/-- A request of job 1 with flags: four FP32 elements of node 0's SRAM at byte 0. -/
def reqHdr (count flags : Nat) : List Byte := pack [(2, 1), (2, flags), (4, 0), (4, count), (4, 9), (8, 0x50000), (8, 0)]

/-- The descriptor of those elements, with flags. -/
def remDesc (flags : Nat) : List Byte := pack [(8, sramDpa 0 0 0), (4, flags), (1, 0), (1, 1), (1, 0), (1, 0), (4, 4), (20, 0), (8, 1), (40, 0), (40, 0)]

/-- A bay of which bytes 0 to 255 are in a seal state. -/
def sealedBay (st : SealState) (o : Owner) : Bay := { ({} : Bay) with seals := [{ start := 0, bytes := 256, state := st, owner := o }] }

/-- A gather entry of this part's own slot 3 on die 0, step 16 asked for. -/
def gat2 : Gather := { ({} : Gather) with ownerDie := 0, slot := 3, asked := some 16, even := tF 0 4, odd := tF 0 4, job := 1 }

/-- A gather entry of node 2's slot 3 whose step 16 has come. -/
def gat3 : Gather := { gat2 with ownerNode := 2, last := some 16, asked := none }

/-- A fabric with one gather entry. -/
def gatSpan (g : Gather) : Span := { ({} : Span) with gather := [(0, g)] }

/-- A die whose slot 3 released its working copy of step 16. -/
def wcDie : Die := { die1 with slots := [(3, { granted .owner .opened with wcStep := some 16, job := 1 })], bindings := [(3, some (tF 0 4))] }

/-- The hypotheses of PortMessagesComplete can be met, clause by clause. -/
theorem test_PortMessagesComplete_witness :
    (∃ (port : PortRef) (s : State) (m : SpanMsg), ∃ k c, s.live = true ∧
      port.key < 16 ∧ s.portExists port.key = true ∧ s.part.node.isSome = true ∧ m.kind ≠ 0x40 ∧ m.ecrcOk = true ∧
      m.flags < 4 ∧ m.hops + 1 < 32 ∧ bitOf m.flags 1 = false ∧ s.part.node ≠ some m.dst ∧ s.part.fencedNodes.contains m.dst = false ∧
      s.routePort m.dst = some (k, c) ∧ k ≠ 254) ∧
    (∃ (port : PortRef) (s : State) (m : SpanMsg), s.live = true ∧
      s.portExists port.key = true ∧ s.part.node.isSome = true ∧ m.kind = 0x41 ∧ m.ecrcOk = true ∧ m.flags < 4 ∧ m.body.length = 10 ∧
      s.part.node ≠ some (fld m.body 0 2) ∧ s.part.fencedNodes.contains (fld m.body 0 2) = false) ∧
    (∃ (port : PortRef) (s : State) (m : SpanMsg), s.live = true ∧
      s.portExists port.key = true ∧ s.part.node.isSome = true ∧ m.kind = 0x41 ∧ m.ecrcOk = true ∧ m.flags < 4 ∧ m.body.length = 10 ∧
      s.part.node = some (fld m.body 0 2)) ∧
    (∃ (port : PortRef) (s : State) (m : SpanMsg), s.live = true ∧
      s.portExists port.key = true ∧ s.part.node.isSome = true ∧ m.kind = 0x60 ∧ m.ecrcOk = true ∧ m.flags < 4 ∧ m.body.length = 16 ∧ s.part.twinNode = some m.src) ∧
    (∃ (port : PortRef) (s : State) (m : SpanMsg), s.live = true ∧
      s.portExists port.key = true ∧ s.part.node.isSome = true ∧ m.kind = 0x61 ∧ m.ecrcOk = true ∧ m.flags < 4 ∧ m.body.length = 10 ∧ s.part.twinNode = some m.src) ∧
    (∃ (s : State), ∃ n t, s.live = true ∧
      s.part.twinNode = some n ∧ t = s.send 0x60 n 0 (pack [(8, s.part.tai), (4, s.part.beatCount), (1, 0), (1, s.ks.leader), (2, 0)])) ∧
    (∃ (s : State), ∃ n, s.live = true ∧
      s.part.twinNode = some n ∧ s.part.takenOver = false ∧ s.part.beatSeen = false ∧ s.part.beatsMissed < 2) ∧
    (∃ (s : State), ∃ n k t, s.live = true ∧
      s.part.twinNode = some n ∧ s.part.takenOver = false ∧ s.part.beatSeen = false ∧ 2 ≤ s.part.beatsMissed ∧ k < 16 ∧
      (s.port k).up = true ∧ t = { s with part := { s.part with beatsMissed := s.part.beatsMissed + 1 } }) :=
  ⟨⟨.sp 0, nodeAt ({}) (die1) ({}), { msg1 0x50 [] with dst := 7 }, 0, 0, by decide +kernel⟩,
   ⟨.sp 0, nodeAt ({}) (die1) ({}), msg1 0x41 (pack [(2, 5), (8, 0)]), by decide +kernel⟩,
   ⟨.sp 0, nodeAt ({}) (die1) ({}), msg1 0x41 (pack [(2, 0), (8, 0)]), by decide +kernel⟩,
   ⟨.sp 0, nodeAt ({}) (die1) ({}), msg1 0x60 (zeros 16), by decide +kernel⟩,
   ⟨.sp 0, nodeAt ({}) (die1) ({}), msg1 0x61 (zeros 10), by decide +kernel⟩,
   ⟨nodeAt ({}) (die1) ({}), 2, _, by decide +kernel, by decide +kernel, rfl⟩,
   ⟨nodeAt ({}) (die1) ({}), 2, by decide +kernel⟩,
   ⟨{ nodeAt {} die1 {} with part := { (nodeAt {} die1 {}).part with beatsMissed := 2 } }, 2, 0, _, by decide +kernel, by decide +kernel, by decide +kernel, by decide +kernel, by decide +kernel, by decide +kernel, by decide +kernel, rfl⟩⟩

/-- The hypotheses of SpanMessagesComplete can be met, clause by clause. -/
theorem test_SpanMessagesComplete_witness :
    (∃ (die : Nat) (m : SpanMsg) (s : State), ∃ u, MsgReady s die 0x11 m (respOk m) ∧ s.ackedMsg m = some u) ∧
    (∃ (die : Nat) (m : SpanMsg) (s : State), ∃ u b r d, MsgReady s die 0x13 m (decide (32 ≤ m.body.length) && zeroAt m.body 0x13 13) ∧ s.ackedMsg m = some u ∧ s.strokeOfCtx u.ctx = some (b, r) ∧ d = r.desc (at' 0 u.ctx 4) ∧
      m.body.length = 32 + d.wireLen (at' 0 u.ctx 5) (at' 0 u.ctx 6)) ∧
    (∃ (die : Nat) (m : SpanMsg) (s : State), ∃ u q, MsgReady s die 0x16 m (respOk m) ∧ q = s.nakAbout m ∧ s.ackedMsg q = some u ∧ ackStatus q ≠ stDeferred) ∧
    (∃ (die : Nat) (m : SpanMsg) (s : State), ∃ u k q, MsgReady s die 0x16 m (respOk m) ∧ q = s.nakAbout m ∧ s.ackedMsg q = some u ∧ ackStatus q = stDeferred ∧ k = chanKey q.src (vcOf u.kind)) ∧
    (∃ (die : Nat) (m : SpanMsg) (s : State), ∃ u, MsgReady s die 0x30 m (respOk m) ∧ s.ackedMsg m = some u ∧ ackStatus m ≠ stDeferred ∧ u.ctx.head? ≠ some 5) ∧
    (∃ (die : Nat) (m : SpanMsg) (s : State), ∃ d, s.isFrozen (masterWord 5 0 m.src) = false ∧ MsgReady s die 0x10 m (reqOk m && (decide (160 ≤ m.body.length ∧ 1 ≤ fld m.body 8 4 ∧ cdiv (fld m.body 8 4 * (parseDesc (sub m.body 32 128)).bits) 8 ≤ 16384) &&
      m.body.length == 160 + (parseDesc (sub m.body 32 128)).wireLen (fld m.body 4 4) (fld m.body 8 4))) ∧ s.remCheck die m true = .ok d ∧ s.memOn d.base = true ∧ s.putBegun die m d.regs = true) ∧
    (∃ (die : Nat) (m : SpanMsg) (s : State), ∃ d, s.isFrozen (masterWord 5 0 m.src) = false ∧ MsgReady s die 0x10 m (reqOk m && (decide (160 ≤ m.body.length ∧ 1 ≤ fld m.body 8 4 ∧ cdiv (fld m.body 8 4 * (parseDesc (sub m.body 32 128)).bits) 8 ≤ 16384) &&
      m.body.length == 160 + (parseDesc (sub m.body 32 128)).wireLen (fld m.body 4 4) (fld m.body 8 4))) ∧ s.remCheck die m true = .ok d ∧ s.memOn d.base = true ∧ s.putBegun die m d.regs = false ∧ s.putBounce die d.regs = false ∧
      (∀ x ∈ d.regs, (s.bay die x.2.1).freeAt x.2.2.1 x.2.2.2 = true) ∧ s.putFull die m d.regs = false) ∧
    (∃ (die : Nat) (m : SpanMsg) (s : State), s.isFrozen (masterWord 5 0 m.src) = false ∧ MsgReady s die 0x14 m (reqOk m && m.body.length == 32)) ∧
    (∃ (die : Nat) (m : SpanMsg) (s : State), s.isFrozen (masterWord 5 0 m.src) = false ∧ MsgReady s die 0x15 m (reqOk m && m.body.length == 32)) ∧
    (∃ (die : Nat) (m : SpanMsg) (s : State), ∃ d, s.isFrozen (masterWord 5 0 m.src) = false ∧ MsgReady s die 0x12 m (reqOk m && (m.body.length == 160 && decide (1 ≤ fld m.body 8 4 ∧ cdiv (fld m.body 8 4 * (parseDesc (sub m.body 32 128)).bits) 8 ≤ 16384))) ∧ s.remCheck die m false = .ok d ∧ s.getReady die d = true) ∧
    (∃ (die : Nat) (m : SpanMsg) (s : State), ∃ d, s.isFrozen (masterWord 5 0 m.src) = false ∧ MsgReady s die 0x12 m (reqOk m && (m.body.length == 160 && decide (1 ≤ fld m.body 8 4 ∧ cdiv (fld m.body 8 4 * (parseDesc (sub m.body 32 128)).bits) 8 ≤ 16384))) ∧ s.remCheck die m false = .ok d ∧ s.getReady die d = false ∧ (s.die die).heldGets.length < 256) ∧
    (∃ (die : Nat) (m : SpanMsg) (s : State), ∃ held, s.live = true ∧ held < 65536 ∧ mget (s.die die).heldGets held = some m ∧ s.getReady die (parseDesc (sub m.body 32 128)) = true) ∧
    (∃ (s : State), s.live = true) ∧
    (∃ (s : State), ∃ dst chan seq u, s.live = true ∧
      u = mgetD [] s.span.unacked (chanKey dst chan) ∧ (u.any fun x => x.seq == seq && x.again) = true) :=
  ⟨⟨0, msg1 0x11 (respHdr 0 0x10), nodeAt (unack 0x10 [1, 0, 0, 0, 0, 0, 4] false) (die1) ({}), unack1 0x10 [1, 0, 0, 0, 0, 0, 4] false, by unfold MsgReady; decide +kernel⟩,
   ⟨0, msg1 0x13 (respHdr 0 0x12 ++ zeros 16), nodeAt (unack 0x12 [1, 0, 0, 0, 0, 0, 4] false) (die1) ({ ({} : Bay) with slots := [run1 0x10 (fl 0 0 0 0 0) [tF 0 256] {}] }), unack1 0x12 [1, 0, 0, 0, 0, 0, 4] false, b0, run1 0x10 (fl 0 0 0 0 0) [tF 0 256] {}, tF 0 256, by unfold MsgReady; decide +kernel⟩,
   ⟨0, msg1 0x16 (respHdr 0x11 0x10), nodeAt (unack 0x10 [1, 0, 0, 0, 0, 0, 4] false) (die1) ({}), unack1 0x10 [1, 0, 0, 0, 0, 0, 4] false, _, by unfold MsgReady; decide +kernel, rfl, by decide +kernel⟩,
   ⟨0, msg1 0x16 (respHdr stDeferred 0x10), nodeAt (unack 0x10 [1, 0, 0, 0, 0, 0, 4] false) (die1) ({}), unack1 0x10 [1, 0, 0, 0, 0, 0, 4] false, 2 * 4, _, by unfold MsgReady; decide +kernel, rfl, by decide +kernel⟩,
   ⟨0, msg1 0x30 (respHdr 0 0x01), nodeAt (unack 0x01 [1, 0, 0, 0, 0, 0, 4] false) (die1) ({}), unack1 0x01 [1, 0, 0, 0, 0, 0, 4] false, by unfold MsgReady; decide +kernel⟩,
   ⟨0, msg1 0x10 (reqHdr 4 0 ++ remDesc 18 ++ zeros 16), nodeAt ({}) (die1) (sealedBay .wet (.span 2 9)), parseDesc (remDesc 18), by unfold MsgReady; decide +kernel⟩,
   ⟨0, msg1 0x10 (reqHdr 4 0 ++ remDesc 18 ++ zeros 16), nodeAt ({}) (die1) ({}), parseDesc (remDesc 18), by unfold MsgReady; decide +kernel⟩,
   ⟨0, msg1 0x14 (reqHdr 0 0), nodeAt ({}) (die1) ({}), by unfold MsgReady; decide +kernel⟩,
   ⟨0, msg1 0x15 (reqHdr 0 0), nodeAt ({}) (die1) ({}), by unfold MsgReady; decide +kernel⟩,
   ⟨0, msg1 0x12 (reqHdr 4 0 ++ remDesc 17), nodeAt ({}) (die1) (sealedBay .dry .none), parseDesc (remDesc 17), by unfold MsgReady; decide +kernel⟩,
   ⟨0, msg1 0x12 (reqHdr 4 0 ++ remDesc 17), nodeAt ({}) (die1) (sealedBay .wet .none), parseDesc (remDesc 17), by unfold MsgReady; decide +kernel⟩,
   ⟨0, msg1 0x12 (reqHdr 4 0 ++ remDesc 17), nodeAt ({}) ({ die1 with heldGets := [(3, msg1 0x12 (reqHdr 4 0 ++ remDesc 17))] }) (sealedBay .dry .none), 3, by decide +kernel⟩,
   ⟨nodeAt ({}) (die1) ({}), by decide +kernel⟩,
   ⟨nodeAt (unack 0x10 [] true) (die1) ({}), 2, 0, 0, [unack1 0x10 [] true], by decide +kernel⟩⟩

/-- The hypotheses of ReplicaMessagesComplete can be met, clause by clause. -/
theorem test_ReplicaMessagesComplete_witness :
    (∃ (die : Nat) (m : SpanMsg) (s : State), ∃ g, (MsgReady s die 0x20 m (m.body.length == 8 && zeroAt m.body 2 2 && decide (fld m.body 0 2 < 4096)) ∧ mget s.span.gather (fld m.body 0 2) = some g ∧ (s.part.node = some g.ownerNode ∨ s.part.node = some g.twinNode) ∧ g.ownerDie = die ∧
      s.wcReady die g.slot (fld m.body 4 4) = true)) ∧
    (∃ (die : Nat) (m : SpanMsg) (s : State), ∃ g, (MsgReady s die 0x20 m (m.body.length == 8 && zeroAt m.body 2 2 && decide (fld m.body 0 2 < 4096)) ∧ mget s.span.gather (fld m.body 0 2) = some g ∧ (s.part.node = some g.ownerNode ∨ s.part.node = some g.twinNode) ∧ g.ownerDie = die ∧
      s.wcReady die g.slot (fld m.body 4 4) = false)) ∧
    (∃ (die : Nat) (m : SpanMsg) (s : State), ∃ g step d p n incl data, MsgReady s die 0x21 m (decide (32 ≤ m.body.length) && zeroAt m.body 0x13 13) ∧ mget s.span.gather (fld m.body 4 4) = some g ∧ g.asked = some step ∧ d = s.resolveDesc g.die 0xFF (g.desc step) ∧
      p = fld m.body 8 4 ∧ n = fld m.body 12 4 ∧ p = g.got ∧ p + n ≤ d.wireTotal ∧ incl = (if p = 0 then sub m.body 32 272 else g.incl) ∧ fld incl 0 4 = step ∧
      data = m.body.drop (if p = 0 then 304 else 32) ∧ data.length = (if d.compressed then n else d.wireLen p n)) ∧
    (∃ (die : Nat) (m : SpanMsg) (s : State), ∃ x, MsgReady s die 0x42 m (m.body.length == 40) ∧ (s.span.digests.find? fun x => x.1 == die && x.2.1 == fld m.body 0 2 && x.2.2.1 == fld m.body 4 4) = some x ∧ x.2.2.2 = m.body.drop 8) ∧
    (∃ (die : Nat) (m : SpanMsg) (s : State), ∃ x, MsgReady s die 0x42 m (m.body.length == 40) ∧ (s.span.digests.find? fun x => x.1 == die && x.2.1 == fld m.body 0 2 && x.2.2.1 == fld m.body 4 4) = some x ∧ x.2.2.2 ≠ m.body.drop 8) ∧
    (∃ (die : Nat) (m : SpanMsg) (s : State), ∃ e g, MsgReady s die 0x43 m (m.body.length == 8) ∧ (s.span.gather.find? fun e => (e.2.ownerNode == m.src || e.2.twinNode == m.src) && e.2.slot == fld m.body 0 2 % 4096 &&
      e.2.ownerDie == fld m.body 0 2 / 4096 && e.2.last == some (fld m.body 4 4)) = some (e, g)) ∧
    (∃ (die : Nat) (m : SpanMsg) (s : State), ∃ key, MsgReady s die 0x62 m (m.body.length == 76) ∧ fld m.body 2 1 = die ∧ s.part.twinNode = some m.src ∧ key = consKey (fld m.body 3 1) (fld m.body 4 2)) ∧
    (∃ (die : Nat) (m : SpanMsg) (s : State), ∃ key c, MsgReady s die 0x63 m (m.body.length == if fld m.body 3 1 = 4 then 44 else 12) ∧ fld m.body 2 1 = die ∧ s.part.twinNode = some m.src ∧ key = consKey (fld m.body 6 2) (fld m.body 4 2) ∧
      s.consOf die key = some c ∧ (s.consId die key c).2.2 = fld m.body 8 4 ∧ c.done = true) ∧
    (∃ (die : Nat) (m : SpanMsg) (s : State), ∃ h, MsgReady s die 0x65 m (m.body.length == 968) ∧ mget (s.die die).shards (fld m.body 0 4) = some h ∧ s.part.twinNode = some m.src ∧ fld m.body 4 4 < h.blocks) ∧
    (∃ (die : Nat) (m : SpanMsg) (s : State), ∃ d, MsgReady s die 0x66 m (decide (8 ≤ m.body.length) && m.body.length == 8 + fld m.body 2 2 * (rawBlock (s.wcFormat die (fld m.body 0 2)).1 + 1)) ∧ s.part.twinNode = some m.src ∧ fld m.body 4 4 + fld m.body 2 2 ≤ (s.slot die (fld m.body 0 2)).blocks ∧ s.wcDesc die (fld m.body 0 2) = some d) ∧
    (∃ (die : Nat) (s : State), ∃ idx g ready ms, s.live = true ∧ g = mgetD {} s.span.gather idx ∧ ready = (fun (x : SpanMsg) => fld x.body 0 2 == idx && s.wcReady die g.slot (fld x.body 4 4)) ∧
      ms = (s.die die).heldGathers.filter ready ∧ ms ≠ []) :=
  ⟨⟨0, msg1 0x20 (pack [(4, 0), (4, 16)]), nodeAt (gatSpan gat2) (wcDie) (sealedBay .dry .none), gat2, by unfold MsgReady; decide +kernel⟩,
   ⟨0, msg1 0x20 (pack [(4, 0), (4, 16)]), nodeAt (gatSpan gat2) (die1) ({}), gat2, by unfold MsgReady; decide +kernel⟩,
   ⟨0, msg1 0x21 (pack [(4, 0), (4, 0), (4, 0), (4, 4), (16, 0)] ++ (natLe 4 16 ++ zeros 268) ++ zeros 16), nodeAt (gatSpan gat2) (die1) ({}), gat2, 16, tF 0 4, 0, 4, natLe 4 16 ++ zeros 268, zeros 16, by unfold MsgReady; decide +kernel⟩,
   ⟨0, msg1 0x42 (pack [(2, 3), (2, 0), (4, 16)] ++ zeros 32), nodeAt ({ ({} : Span) with digests := [(0, 3, 16, zeros 32)] }) (die1) ({}), (0, 3, 16, zeros 32), by unfold MsgReady; decide +kernel⟩,
   ⟨0, msg1 0x42 (pack [(2, 3), (2, 0), (4, 16)] ++ 1 :: zeros 31), nodeAt ({ ({} : Span) with digests := [(0, 3, 16, zeros 32)] }) (die1) ({}), (0, 3, 16, zeros 32), by unfold MsgReady; decide +kernel⟩,
   ⟨0, msg1 0x43 (pack [(4, 3), (4, 16)]), nodeAt (gatSpan gat3) (die1) ({}), 0, gat3, by unfold MsgReady; decide +kernel⟩,
   ⟨0, msg1 0x62 (zeros 76), nodeAt ({}) (die1) ({}), 0, by unfold MsgReady; decide +kernel⟩,
   ⟨0, msg1 0x63 (pack [(4, 0), (2, 3), (2, 0), (4, 0)]), nodeAt ({}) ({ die1 with slots := [(3, { granted .owner .updating with job := 1 })], shards := [(0, shard1 0)], cons := [(3, cdone)] }) ({}), 3, cdone, by unfold MsgReady; decide +kernel⟩,
   ⟨0, msg1 0x65 (zeros 968), nodeAt ({}) ({ die1 with shards := [(0, shard1 0)] }) ({}), shard1 0, by unfold MsgReady; decide +kernel⟩,
   ⟨0, msg1 0x66 (pack [(2, 3), (2, 1), (4, 0)] ++ zeros (rawBlock 0 + 1)), nodeAt ({}) (wcDie) ({}), tF 0 4, by unfold MsgReady; decide +kernel⟩,
   ⟨0, nodeAt (gatSpan gat2) ({ wcDie with heldGathers := [msg1 0x20 (pack [(4, 0), (4, 16)])] }) (sealedBay .dry .none), 0, gat2, _, [msg1 0x20 (pack [(4, 0), (4, 16)])], by decide +kernel, by decide +kernel, rfl, by decide +kernel⟩⟩

/-- A ready part with host port 0 linked, one stream and one pool on die 0. -/
def atlAt (x : Stream) (q : Pool) (h : HostPort) : State :=
  { live with jobs := [(1, { ({} : Job) with mask := 1, grants := [⟨1, 0, 0, 1, 0⟩, ⟨2, 0, 0, 1, 0x10000⟩, ⟨3, 0, 0, 1, 0x20000⟩] })],
              part := { live.part with tai := 10000000000, lpddr := [0x100000000] },
              dies := [(0, { die1 with streams := [(0, { x with job := 1 })], pools := [(0, { q with job := 1 })] })],
              hosts := [{ h with linkUp := true }, {}] }

/-- A pool of four slots that takes stream 0. -/
def pool1 : Pool := { ({} : Pool) with raw := pack [(4, 0), (4, 4), (20, 0), (4, 1), (4, 0)] }

/-- A stream of transport packets. -/
def str1 : Stream := { ({} : Stream) with raw := zeros 128 }

/-- An undamaged picture. -/
def pic1 : Picture := ⟨false, false, false, true, 16, 16, 8, false, false, 3600, some 90000, 0, false, 1, none, 1, 1, false, List.replicate 256 128, [], []⟩

/-- The hypotheses of AtelierEventsComplete can be met, clause by clause. -/
theorem test_AtelierEventsComplete_witness :
    (∃ (die : Nat) (n : Nat) (s : State), ∃ x off, s.streamRuns die n = true ∧
      x = s.stream die n ∧
      off = (if x.container = 1 then 4 else 0) ∧ x.container ≠ 2 ∧ 188 + off ≤ x.data.length ∧ fldBe x.data off 1 = 0x47) ∧
    (∃ (die : Nat) (n : Nat) (s : State), ∃ (x : _) (g : _) (rest : _) (bs : List Byte), s.streamRuns die n = true ∧
      x = s.stream die n ∧
      x.segs = g :: rest ∧ s.holdsRange x.job 3 x.port g.addr g.len = true ∧ (s.host x.port).usable s.ks.ideRequired = true ∧
        bs.length = g.len) ∧
    (∃ (die : Nat) (n : Nat) (s : State) (pic : Picture), ∃ x, s.streamRuns die n = true ∧
      x = s.stream die n ∧
      (at' {} (s.die die).engines x.engine).fenced = false ∧ (at' {} (s.die die).engines x.engine).testing = false ∧
        (s.pool die x.pool).canTake = true ∧
      pic.unsupported = false ∧ x.damages pic = false ∧ x.drops pic = false ∧ (x.usePicture pic).2 = true) ∧
    (∃ (die : Nat) (n : Nat) (s : State) (pic : Picture), ∃ x, s.streamRuns die n = true ∧
      x = s.stream die n ∧
      (at' {} (s.die die).engines x.engine).fenced = false ∧ (at' {} (s.die die).engines x.engine).testing = false ∧
        (s.pool die x.pool).canTake = true ∧
      (pic.unsupported = false ∧ (x.damages pic = true ∨ x.drops pic = true))) ∧
    (∃ (die : Nat) (n : Nat) (s : State) (pic : Picture), ∃ x, s.streamRuns die n = true ∧
      x = s.stream die n ∧
      (at' {} (s.die die).engines x.engine).fenced = false ∧ (at' {} (s.die die).engines x.engine).testing = false ∧
        (s.pool die x.pool).canTake = true ∧
      pic.unsupported = true) ∧
    (∃ (die : Nat) (n : Nat) (s : State), ∃ x t, s.streamRuns die n = true ∧
      x = s.stream die n ∧
      x.state = .ending ∧ x.segs = [] ∧ x.drained = true ∧ x.ready = [] ∧
      t = State.modStream (x.audio.foldl (fun (s : State) a => if fldBe a.2 4 2 = 0 then s.audioRecord die n a.1 a.2 else s) s) die n (fun x => { x.count 5 x.clips.length with clips := [], audio := [], state := .ended })) ∧
    (∃ (die : Nat) (n : Nat) (s : State), ∃ pool q x c rest, s.live = true ∧ die < s.dieCount ∧
      (q = s.pool die pool ∧ x = s.stream die n ∧ x.ready = c :: rest ∧ (mget (s.die die).pools pool).isSome = true ∧
        s.poolsRun die = true ∧ s.isFrozen (masterWord 4 die n) = false ∧ q.streams.contains n = true ∧ q.canTake = true ∧
        (fld q.raw 1 1 = 0 → (s.turnOf die pool).map (·.2) = some n))) ∧
    (∃ (die : Nat) (n : Nat) (s : State), s.live = true ∧ die < s.dieCount ∧
      (mget (s.die die).pools n).isSome = true ∧ s.poolsRun die = true ∧ (s.pool die n).filled = (s.pool die n).slots ∧
        at' false (s.pool die n).bankFree ((s.pool die n).pass % 2) = true ∧ s.notifyRoom die (s.pool die n).job = true) ∧
    (∃ (die : Nat) (n : Nat) (s : State), ∃ pass, s.live = true ∧ die < s.dieCount ∧
      (s.pool die n).asked.contains pass = true) ∧
    (∃ (die : Nat) (n : Nat) (s : State), ∃ k, s.live = true ∧ die < s.dieCount ∧
      n < 4 ∧ (at' {} (s.die die).engines n).fenced = false ∧
      k = (at' {} (s.die die).engines n).faults + 1) :=
  ⟨⟨0, 0, atlAt ({ str1 with data := 0x47 :: zeros 187 }) (pool1) ({}), { { str1 with data := 0x47 :: zeros 187 } with job := 1 }, 0, by decide +kernel⟩,
   ⟨0, 0, atlAt ({ str1 with segs := [⟨0x20000, 16, 0⟩] }) (pool1) ({}), { { str1 with segs := [⟨0x20000, 16, 0⟩] } with job := 1 }, ⟨0x20000, 16, 0⟩, [], zeros 16, by decide +kernel⟩,
   ⟨0, 0, atlAt (str1) (pool1) ({}), pic1, { str1 with job := 1 }, by decide +kernel⟩,
   ⟨0, 0, atlAt (str1) (pool1) ({}), { pic1 with damaged := true }, { str1 with job := 1 }, by decide +kernel⟩,
   ⟨0, 0, atlAt (str1) (pool1) ({}), { pic1 with unsupported := true }, { str1 with job := 1 }, by decide +kernel⟩,
   ⟨0, 0, atlAt ({ str1 with state := .ending }) (pool1) ({}), { { str1 with state := .ending } with job := 1 }, _, by decide +kernel, rfl, by decide +kernel, by decide +kernel, by decide +kernel, by decide +kernel, rfl⟩,
   ⟨0, 0, atlAt ({ str1 with ready := [⟨0, 0, []⟩] }) (pool1) ({}), 0, { pool1 with job := 1 }, { { str1 with ready := [⟨0, 0, []⟩] } with job := 1 }, ⟨0, 0, []⟩, [], by decide +kernel⟩,
   ⟨0, 0, atlAt (str1) ({ pool1 with filled := 4 }) ({}), by decide +kernel⟩,
   ⟨0, 0, atlAt (str1) ({ pool1 with asked := [0] }) ({}), 0, by decide +kernel⟩,
   ⟨0, 0, atlAt (str1) (pool1) ({}), 1, by decide +kernel⟩⟩

/-- The hypotheses of HostAccessesComplete can be met, clause by clause. -/
theorem test_HostAccessesComplete_witness :
    (∃ (p : Nat) (s : State), s.hostLinked p = true ∧ s.hostUr p = false ∧ (s.host p).frozen = false) ∧
    (∃ (p : Nat) (s : State), s.hostLinked p = true ∧ s.hostUr p = false ∧ (s.host p).frozen = false) ∧
    (∃ (p : Nat) (s : State), ∃ off size, s.hostLinked p = true ∧ s.hostUr p = false ∧ (s.host p).frozen = false ∧
      bar0Sized off size = false) ∧
    (∃ (p : Nat) (s : State), ∃ off, s.hostLinked p = true ∧ s.hostUr p = false ∧ (s.host p).frozen = false ∧
      bar0Sized off 4 = true) ∧
    (∃ (p : Nat) (s : State), ∃ off, s.hostLinked p = true ∧ s.hostUr p = false ∧ (s.host p).frozen = false ∧
      bar0Sized off 8 = true) ∧
    (∃ (p : Nat) (s : State), ∃ off size, s.hostLinked p = true ∧ s.hostUr p = false ∧ (s.host p).frozen = false ∧
      bar0Sized off size = false) ∧
    (∃ (p : Nat) (s : State), ∃ off size, s.hostLinked p = true ∧ s.hostUr p = false ∧ (s.host p).frozen = false ∧
      bar0Sized off size = false) ∧
    (∃ (p : Nat) (s : State), ∃ off v, s.hostLinked p = true ∧ s.hostUr p = false ∧ (s.host p).frozen = false ∧
      s.bar0Wide p off = some v) ∧
    (∃ (p : Nat) (s : State), ∃ v, s.hostLinked p = true ∧ s.hostUr p = false ∧ (s.host p).frozen = false ∧
      v < 64) ∧
    (∃ (p : Nat) (s : State), ∃ (off : _) (data : List Byte), s.hostLinked p = true ∧ s.hostUr p = false ∧ (s.host p).frozen = false ∧
      (data ≠ [] ∧ off + data.length ≤ 0x40000 ∧ (∀ i, i < data.length → (off + i) % 0x2000 < 0x1000 ∧
      bitOf (s.host p).busy ((off + i) / 0x2000) = false))) ∧
    (∃ (p : Nat) (s : State), ∃ (v : Word) (m : _), s.hostLinked p = true ∧ s.hostUr p = false ∧ (s.host p).frozen = false ∧
      (m = v.toNat % 32 ∧ bitOf (s.host p).ctrl 0 = true ∧ (s.part.state = 2 ∨ s.part.state = 3) ∧ bitOf (s.host p).busy m = false ∧
      hdrOk ((s.host p).mbxBytes (0x2000 * m) 32) = true)) ∧
    (∃ (p : Nat) (s : State), ∃ off n a, s.hostLinked p = true ∧ s.hostUr p = false ∧ (s.host p).frozen = false ∧
      s.winCovers p off n = true ∧ s.hostFenced p = false ∧ a = ((s.winBytes p off n).head?.map (·.2)).getD 0 ∧
      (∀ x ∈ s.winBytes p off n, s.winRule1 false x = false ∧ s.winRule2 x = false ∧ s.winRule3 x = false) ∧
      (∀ x ∈ s.winBytes p off n, s.badWord x.2 = false)) ∧
    (∃ (p : Nat) (s : State), ∃ off n a x, s.hostLinked p = true ∧ s.hostUr p = false ∧ (s.host p).frozen = false ∧
      s.winCovers p off n = true ∧ s.hostFenced p = false ∧ a = ((s.winBytes p off n).head?.map (·.2)).getD 0 ∧
      (∀ x ∈ s.winBytes p off n, s.winRule1 false x = false ∧ s.winRule2 x = false ∧ s.winRule3 x = false) ∧
      (s.winBytes p off n).find? (fun x => s.badWord x.2) = some x) ∧
    (∃ (p : Nat) (s : State), ∃ (off : _) (data : List Byte) (a : _) (as : _) (t : _), s.hostLinked p = true ∧ s.hostUr p = false ∧ (s.host p).frozen = false ∧
      (s.winCovers p off data.length = true ∧ s.hostFenced p = false ∧ as = (s.winBytes p off data.length).map (·.2) ∧
      a = as.head?.getD 0 ∧ t = s.memWake a ∧ (∀ x ∈ s.winBytes p off data.length, s.winRule1 true x = false ∧
      s.winRule2 x = false ∧ s.winRule3 x = false ∧ s.winRule4 x = false ∧ s.winRule5 x = false) ∧
      (∀ x ∈ as, t.badWord x = false ∨ (∀ i, i < 4 → as.contains (x / 4 * 4 + i) = true)))) ∧
    (∃ (p : Nat) (s : State), ∃ m c, s.hostLinked p = true ∧ s.hostUr p = false ∧ (s.host p).frozen = false ∧
      (s.host p).posted.find? (·.mailbox == m) = some c ∧ s.admitFree (s.hostDie p) c.standing = true) :=
  ⟨⟨0, atlAt {} pool1 ({}), by decide +kernel⟩,
   ⟨0, atlAt {} pool1 ({}), by decide +kernel⟩,
   ⟨0, atlAt {} pool1 ({}), 0, 2, by decide +kernel⟩,
   ⟨0, atlAt {} pool1 ({}), 0, by decide +kernel⟩,
   ⟨0, atlAt {} pool1 ({}), 0, by decide +kernel⟩,
   ⟨0, atlAt {} pool1 ({}), 2, 4, by decide +kernel⟩,
   ⟨0, atlAt {} pool1 ({}), 2, 4, by decide +kernel⟩,
   ⟨0, atlAt {} pool1 ({}), 0x18, 10000000000, by decide +kernel⟩,
   ⟨0, atlAt {} pool1 ({}), 5, by decide +kernel⟩,
   ⟨0, atlAt {} pool1 ({}), 0, [1], by decide +kernel⟩,
   ⟨0, atlAt {} pool1 ({ ({} : HostPort) with ctrl := 1, mbx := [(0, 1)] }), 0, 0, by decide +kernel⟩,
   ⟨0, atlAt {} pool1 ({ ({} : HostPort) with wins := [(0, { ({} : Win) with job := 1, valid := true, writable := true })] }), 0x10000, 4, 0x10000, by decide +kernel⟩,
   ⟨0, { atlAt {} pool1 { ({} : HostPort) with wins := [(0, { ({} : Win) with job := 1, base := 16384, valid := true, writable := true })] } with bays := [(0, { ({} : Bay) with bad := [(0, 1)] })] }, 4, 4, sramDpa 0 0 4, ({ ({} : Win) with job := 1, base := 16384, valid := true, writable := true }, sramDpa 0 0 4), by decide +kernel⟩,
   ⟨0, atlAt {} pool1 ({ ({} : HostPort) with wins := [(0, { ({} : Win) with job := 1, valid := true, writable := true })] }), 0x10000, [1, 2], 0x10000, [0x10000, 0x10001], _, by decide +kernel, by decide +kernel, by decide +kernel, by decide +kernel, by decide +kernel, by decide +kernel, by decide +kernel, rfl, by decide +kernel⟩,
   ⟨0, atlAt {} pool1 ({ ({} : HostPort) with posted := [⟨0, 0, 5, 1, 0, zeros 32, [], false, false⟩] }), 5, ⟨0, 0, 5, 1, 0, zeros 32, [], false, false⟩, by decide +kernel⟩⟩

/-- The hypotheses of HostPortEventsComplete can be met, clause by clause. -/
theorem test_HostPortEventsComplete_witness :
    (∃ (p : Nat) (s : State), s.hostLinked p = true) ∧
    (∃ (p : Nat), p < 2) ∧
    (∃ (p : Nat), ∃ (why : LinkEvent), p < 2 ∧
      why ≠ .d3hot) ∧
    (∃ (p : Nat) (s : State), ∃ i, p < 2 ∧ s.part.porN = true ∧
      i < 10) ∧
    (∃ (s : State), ∃ t, ((s.part.state = 2 ∨ s.part.state = 3) ∧ (s.host s.ks.primary).linkUp = false ∧ (s.host (1 - s.ks.primary)).linkUp = true) ∧
      (s.host s.ks.primary).downSince = some t ∧ t + 1000000000 ≤ s.part.tai) ∧
    (∃ (p : Nat) (s : State), ∃ die n, p < 2 ∧ s.live = true ∧
      n < 64 ∧ die < 8 ∧ s.streamRuns die n = true ∧ (s.stream die n).port = p ∧ (s.stream die n).segs ≠ []) ∧
    (∃ (p : Nat) (s : State), ∃ die n h, p < 2 ∧ s.live = true ∧
      n < 1024 ∧ die < 8 ∧ mget (s.die die).shards n = some h ∧ h.hostTier = true ∧ h.port = p ∧ h.stopped = false) ∧
    (∃ (p : Nat) (s : State), ∃ (m : _) (late : _) (t : State), p < 2 ∧ s.live = true ∧
      m < 32 ∧ late = (fun (c : Cmd) => if c.port = p ∧ c.mailbox = m ∧ bitOf c.flags 0 then { c with hostErr := true } else c) ∧
      t = s.modHost p (fun h => { h with posted := h.posted.map late })) ∧
    (∃ (p : Nat) (s : State), s.hostLinked p = true) ∧
    (∃ (p : Nat) (s : State), ∃ (x : DoeObject), s.hostLinked p = true ∧
      (s.host p).doeBusy = true ∧
      x ≠ .done) ∧
    (∃ (p : Nat) (s : State), s.hostLinked p = true ∧
      (s.host p).doeBusy = false) ∧
    (∃ (p : Nat) (s : State), s.hostLinked p = true ∧
      (s.host p).doeBusy = false ∧ s.ks.identityOk = true) ∧
    (∃ (p : Nat) (s : State), ∃ n, s.hostLinked p = true ∧
      (s.host p).doeBusy = false ∧
      n < 5) ∧
    (∃ (p : Nat) (s : State), ∃ n, s.hostLinked p = true ∧
      (s.host p).ideSecure.contains n = true) :=
  ⟨⟨0, atlAt str1 pool1 {}, by decide +kernel⟩,
   ⟨0, by decide +kernel⟩,
   ⟨0, .hotReset, by decide +kernel⟩,
   ⟨0, { live with part := { live.part with porN := true } }, 9, by decide +kernel⟩,
   ⟨{ atlAt str1 pool1 {} with ks := { ({} : Keystone) with primary := 1 }, hosts := [{ ({} : HostPort) with linkUp := true }, { ({} : HostPort) with downSince := some 9000000000 }] }, 9000000000, by decide +kernel⟩,
   ⟨0, atlAt { str1 with segs := [⟨0x20000, 16, 0⟩] } pool1 {}, 0, 0, by decide +kernel⟩,
   ⟨0, { atlAt str1 pool1 {} with dies := [(0, { die1 with shards := [(3, shard1 16)] })] }, 0, 3, shard1 16, by decide +kernel⟩,
   ⟨0, atlAt str1 pool1 {}, 31, _, _, by decide +kernel, by decide +kernel, by decide +kernel, rfl, rfl⟩,
   ⟨0, atlAt str1 pool1 {}, by decide +kernel⟩,
   ⟨0, atlAt str1 pool1 { ({} : HostPort) with doeBusy := true }, .begun, by decide +kernel⟩,
   ⟨0, atlAt str1 pool1 {}, by decide +kernel⟩,
   ⟨0, { atlAt str1 pool1 {} with ks := { ({} : Keystone) with identityOk := true } }, by decide +kernel⟩,
   ⟨0, atlAt str1 pool1 {}, 4, by decide +kernel⟩,
   ⟨0, atlAt str1 pool1 { ({} : HostPort) with ideSecure := [2] }, 2, by decide +kernel⟩⟩

/-- The mailbox of the tests' commands. -/
def x5 : CmdRef := ⟨0, 5, 0⟩

/-- A command of a group and number for a job with a body. -/
def cmd1 (g n job : Nat) (body : List Byte) : Cmd :=
  { seq := 0, port := 0, mailbox := 5, standing := ((cmdRow g n).map (·.standing)).getD 0, die := 0,
    hdr := pack [(1, g), (1, n), (2, 0), (2, job), (2, 0), (4, body.length), (20, 0)], body := body }

/-- A part with that command admitted on die 0. -/
def cmdAt (s : State) (c : Cmd) : State := s.modDie 0 fun d => { d with admitted := [c] }

/-- A ready part with one job that holds bay 0 and memory. -/
def jobAt (d : Die) (b : Bay) : State :=
  { live with part := { live.part with tai := 10000000000, node := some 0, lpddr := [0x100000000] }, bays := [(0, b)], dies := [(0, d)],
              jobs := [(1, { ({} : Job) with mask := 1, grants := [⟨1, 0, 0, 1, 0⟩, ⟨2, 0, 0, 1024, 0⟩, ⟨3, 0, 0, 1, 0x20000⟩, ⟨4, 0, 0, 8, 0⟩, ⟨6, 0, 0, 8, 0⟩, ⟨7, 0, 0, 8, 0⟩, ⟨5, 0, 0, 8, 0⟩, ⟨8, 0, 0, 2, 0⟩] })] }

/-- A stroke image of one END, and its bytes. -/
def img1 : Image := { ({} : Image) with instrs := [encodeWord 0x0F (fl 0 0 0 0 0)], argMax := List.replicate 8 0, work := 64, job := 1 }

/-- The bytes of that image. -/
def img1Bytes : List Byte := pack [(4, 0x4B525453), (2, 1), (2, 1), (4, 0), (4, 64), (48, 0), (8, (encodeWord 0x0F (fl 0 0 0 0 0)).toNat)]

/-- A graph image of one END, and its bytes. -/
def endGraph : Graph := { ({} : Graph) with nodes := [⟨15, 0, 0, 0, 0, List.replicate 8 0⟩], job := 1 }

/-- The bytes of that graph. -/
def endGraphBytes : List Byte := pack [(4, 0x48505247), (2, 1), (2, 1), (4, 0), (4, 0), (16, 0), (1, 15), (63, 0)]

/-- A completion record. -/
def rec1 : Completion := ⟨0, 0, 0, 0, 0, 0, 0, [], 0, [], 0, []⟩

/-- A journal entry of job 1. -/
def jent1 : JEntry := { seq := 0, inst := inst1, inputs := [], dests := [] }

/-- The descriptor of stream 0: 16 by 16 pictures in patches of 8. -/
def strRaw : List Byte :=
  pack [(4, 0), (2, 1), (2, 0), (8, 0), (8, 0), (4, 0), (1, 0), (1, 3), (1, 8), (1, 1), (1, 1), (1, 1), (1, 0), (1, 0), (2, 16), (2, 16), (8, 0), (8, 0),
    (4, 1), (4, 0), (64, 0)]

/-- The descriptor of pool 0, for that stream. -/
def poolRaw : List Byte :=
  pack [(2, 0), (2, 1), (4, 2), (8, 0), (4, (newStream 1 strRaw).sample), (8, 0), (1, 1), (3, 0), (1, 0)] ++ List.replicate 63 0xFF ++ zeros 32

/-- That pool. -/
def poolA : Pool := { ({} : Pool) with raw := poolRaw, job := 1 }

/-- A part with host port 0 linked, that pool and maybe that stream. -/
def atlCmd (xs : SMap Stream) (ps : SMap Pool) : State :=
  { jobAt { die1 with streams := xs, pools := ps } {} with hosts := [{ ({} : HostPort) with linkUp := true }, {}] }

/-- The hypotheses of DeviceAndMemoryCommandsComplete can be met, clause by clause. -/
theorem test_DeviceAndMemoryCommandsComplete_witness :
    (∃ (x : CmdRef) (c : Cmd) (s : State) (t : State), CmdReady s x 1 1 c t ∧ c.body = []) ∧
    (∃ (x : CmdRef) (c : Cmd) (s : State) (t : State), ∃ die, CmdReady s x 1 2 c t ∧ die = fld c.body 0 1 ∧ c.body.length = 4 ∧ die < t.dieCount ∧ zeroAt c.body 1 3 = true) ∧
    (∃ (x : CmdRef) (c : Cmd) (s : State) (t : State), CmdReady s x 1 3 c t ∧ c.body = []) ∧
    (∃ (x : CmdRef) (c : Cmd) (s : State) (t : State), CmdReady s x 1 4 c t ∧ c.body.length = 2 ∧ fld c.body 0 2 < 4096 ∧ t.jobs = []) ∧
    (∃ (x : CmdRef) (c : Cmd) (s : State) (t : State), ∃ dpa, CmdReady s x 2 1 c t ∧ dpa = fld c.body 4 8 ∧ c.body.length = 12 ∧ fld c.body 0 2 < 512 ∧ fld c.body 2 1 < 4 ∧ zeroAt c.body 3 1 = true ∧ dpa % 2 ^ 30 = 0 ∧ dpa < 2 ^ 48 ∧ t.dpaOk dpa = true) ∧
    (∃ (x : CmdRef) (c : Cmd) (s : State) (t : State), ∃ die b a n u, CmdReady s x 2 2 c t ∧ u = t.modBay die b (fun y => y.register a n .dry .none) ∧ t.memRange c = .ok (die, b, a, n) ∧ (t.bay die b).freeAt a n = true ∧ (t.bay die b).sealCount < 1024) ∧
    (∃ (x : CmdRef) (c : Cmd) (s : State) (t : State), ∃ die b a n u, CmdReady s x 2 3 c t ∧ u = t.modBay die b (fun y => y.freeDry a n) ∧ t.memRange c = .ok (die, b, a, n) ∧ (t.bay die b).dryWhole a n = true ∧ (u.bay die b).releasing a n = false) ∧
    (∃ (x : CmdRef) (c : Cmd) (s : State) (t : State), ∃ die b a n u, CmdReady s x 2 3 c t ∧ u = t.modBay die b (fun y => y.freeDry a n) ∧ t.memRange c = .ok (die, b, a, n) ∧ (t.bay die b).dryWhole a n = true ∧ (u.bay die b).releasing a n = true) :=
  ⟨⟨x5, cmd1 1 1 0 ([]), cmdAt (jobAt die1 {}) (cmd1 1 1 0 ([])), (cmdAt (jobAt die1 {}) (cmd1 1 1 0 ([]))).taken x5 (cmd1 1 1 0 ([])), by unfold CmdReady; decide +kernel⟩,
   ⟨x5, cmd1 1 2 0 (zeros 4), cmdAt (jobAt die1 {}) (cmd1 1 2 0 (zeros 4)), (cmdAt (jobAt die1 {}) (cmd1 1 2 0 (zeros 4))).taken x5 (cmd1 1 2 0 (zeros 4)), 0, by unfold CmdReady; decide +kernel⟩,
   ⟨x5, cmd1 1 3 0 ([]), cmdAt (jobAt die1 {}) (cmd1 1 3 0 ([])), (cmdAt (jobAt die1 {}) (cmd1 1 3 0 ([]))).taken x5 (cmd1 1 3 0 ([])), by unfold CmdReady; decide +kernel⟩,
   ⟨x5, cmd1 1 4 0 (zeros 2), cmdAt ({ jobAt die1 {} with jobs := [] }) (cmd1 1 4 0 (zeros 2)), (cmdAt ({ jobAt die1 {} with jobs := [] }) (cmd1 1 4 0 (zeros 2))).taken x5 (cmd1 1 4 0 (zeros 2)), by unfold CmdReady; decide +kernel⟩,
   ⟨x5, cmd1 2 1 1 (pack [(4, 0), (8, 0x80000000)]), cmdAt (jobAt die1 {}) (cmd1 2 1 1 (pack [(4, 0), (8, 0x80000000)])), (cmdAt (jobAt die1 {}) (cmd1 2 1 1 (pack [(4, 0), (8, 0x80000000)]))).taken x5 (cmd1 2 1 1 (pack [(4, 0), (8, 0x80000000)])), 0x80000000, by unfold CmdReady; decide +kernel⟩,
   ⟨x5, cmd1 2 2 1 (pack [(4, 0), (4, 0), (4, 256)]), cmdAt (jobAt die1 {}) (cmd1 2 2 1 (pack [(4, 0), (4, 0), (4, 256)])), (cmdAt (jobAt die1 {}) (cmd1 2 2 1 (pack [(4, 0), (4, 0), (4, 256)]))).taken x5 (cmd1 2 2 1 (pack [(4, 0), (4, 0), (4, 256)])), 0, 0, 0, 256, ((cmdAt (jobAt die1 {}) (cmd1 2 2 1 (pack [(4, 0), (4, 0), (4, 256)]))).taken x5 (cmd1 2 2 1 (pack [(4, 0), (4, 0), (4, 256)]))).modBay 0 0 (fun y => y.register 0 256 .dry .none), by unfold CmdReady; decide +kernel⟩,
   ⟨x5, cmd1 2 3 1 (pack [(4, 0), (4, 0), (4, 256)]), cmdAt (jobAt die1 (sealedBay .dry .none)) (cmd1 2 3 1 (pack [(4, 0), (4, 0), (4, 256)])), (cmdAt (jobAt die1 (sealedBay .dry .none)) (cmd1 2 3 1 (pack [(4, 0), (4, 0), (4, 256)]))).taken x5 (cmd1 2 3 1 (pack [(4, 0), (4, 0), (4, 256)])), 0, 0, 0, 256, ((cmdAt (jobAt die1 (sealedBay .dry .none)) (cmd1 2 3 1 (pack [(4, 0), (4, 0), (4, 256)]))).taken x5 (cmd1 2 3 1 (pack [(4, 0), (4, 0), (4, 256)]))).modBay 0 0 (fun y => y.freeDry 0 256), by unfold CmdReady; decide +kernel⟩,
   ⟨x5, cmd1 2 3 1 (pack [(4, 0), (4, 0), (4, 256)]), cmdAt (jobAt die1 { ({} : Bay) with seals := [{ start := 0, bytes := 256, state := .dry, readers := 1 }] }) (cmd1 2 3 1 (pack [(4, 0), (4, 0), (4, 256)])), (cmdAt (jobAt die1 { ({} : Bay) with seals := [{ start := 0, bytes := 256, state := .dry, readers := 1 }] }) (cmd1 2 3 1 (pack [(4, 0), (4, 0), (4, 256)]))).taken x5 (cmd1 2 3 1 (pack [(4, 0), (4, 0), (4, 256)])), 0, 0, 0, 256, ((cmdAt (jobAt die1 { ({} : Bay) with seals := [{ start := 0, bytes := 256, state := .dry, readers := 1 }] }) (cmd1 2 3 1 (pack [(4, 0), (4, 0), (4, 256)]))).taken x5 (cmd1 2 3 1 (pack [(4, 0), (4, 0), (4, 256)]))).modBay 0 0 (fun y => y.freeDry 0 256), by unfold CmdReady; decide +kernel⟩⟩

/-- The hypotheses of JobCommandsComplete can be met, clause by clause. -/
theorem test_JobCommandsComplete_witness :
    (∃ (x : CmdRef) (c : Cmd) (s : State) (t : State), ∃ gs u, CmdReady s x 3 1 c t ∧ u = t.bayGiven c.job gs ∧ fld c.body 0 1 < 4 ∧ t.grantList c = .ok gs ∧ mget t.jobs c.job = none ∧ t.jobs.length < 256 ∧ t.grantedElsewhere c.job gs = false) ∧
    (∃ (x : CmdRef) (c : Cmd) (s : State) (t : State), ∃ gs, CmdReady s x 3 2 c t ∧ zeroAt c.body 0 1 = true ∧ zeroAt c.body 2 2 = true ∧ t.grantList c = .ok gs ∧ t.grantedElsewhere c.job gs = false) ∧
    (∃ (x : CmdRef) (c : Cmd) (s : State) (t : State), ∃ gs, CmdReady s x 3 3 c t ∧ zeroAt c.body 0 1 = true ∧ zeroAt c.body 2 2 = true ∧ t.grantList c = .ok gs ∧ gs.all (t.holdsGrant c.job) = true ∧ gs.any (t.grantUsed c.job) = false) ∧
    (∃ (x : CmdRef) (c : Cmd) (s : State) (t : State), ∃ gs, CmdReady s x 3 3 c t ∧ zeroAt c.body 0 1 = true ∧ zeroAt c.body 2 2 = true ∧ t.grantList c = .ok gs ∧ gs.all (t.holdsGrant c.job) = true ∧ gs.any (t.grantUsed c.job) = true) ∧
    (∃ (x : CmdRef) (c : Cmd) (s : State) (t : State), CmdReady s x 3 4 c t ∧ c.body = [] ∧ (t.endJob c.job).jobBusy c.job = false) ∧
    (∃ (x : CmdRef) (c : Cmd) (s : State) (t : State), CmdReady s x 3 4 c t ∧ c.body = [] ∧ (t.endJob c.job).jobBusy c.job = true) ∧
    (∃ (x : CmdRef) (c : Cmd) (s : State) (t : State), CmdReady s x 3 5 c t ∧ c.body = []) ∧
    (∃ (s : State), ∃ p m r, p < 2 ∧ s.readyResp p m = some r) ∧
    (∃ (s : State), ∃ p m token e, (s.deferreds.find? fun e => e.2.cmd.port == p && e.2.cmd.mailbox == m && e.2.token.isNone) = some e ∧
      ((s.die e.1).deferred.any (·.token == some token)) = false ∧ token < 2 ^ 32) ∧
    (∃ (s : State), ∃ die token e, (s.die die).deferred.find? (·.token == some token) = some e ∧ e.result.isSome = true ∧
      ((s.die die).deferred.find? fun e => e.token == some token && e.result.isSome) = some e) :=
  ⟨⟨x5, cmd1 3 1 2 (pack [(1, 1), (1, 1), (2, 0), (1, 1), (1, 0), (2, 5), (4, 1), (8, 0)]), cmdAt (jobAt die1 {}) (cmd1 3 1 2 (pack [(1, 1), (1, 1), (2, 0), (1, 1), (1, 0), (2, 5), (4, 1), (8, 0)])), (cmdAt (jobAt die1 {}) (cmd1 3 1 2 (pack [(1, 1), (1, 1), (2, 0), (1, 1), (1, 0), (2, 5), (4, 1), (8, 0)]))).taken x5 (cmd1 3 1 2 (pack [(1, 1), (1, 1), (2, 0), (1, 1), (1, 0), (2, 5), (4, 1), (8, 0)])), [⟨1, 0, 5, 1, 0⟩], _, by unfold CmdReady; decide +kernel, rfl, by decide +kernel⟩,
   ⟨x5, cmd1 3 2 1 (pack [(1, 0), (1, 1), (2, 0), (1, 1), (1, 0), (2, 5), (4, 1), (8, 0)]), cmdAt (jobAt die1 {}) (cmd1 3 2 1 (pack [(1, 0), (1, 1), (2, 0), (1, 1), (1, 0), (2, 5), (4, 1), (8, 0)])), (cmdAt (jobAt die1 {}) (cmd1 3 2 1 (pack [(1, 0), (1, 1), (2, 0), (1, 1), (1, 0), (2, 5), (4, 1), (8, 0)]))).taken x5 (cmd1 3 2 1 (pack [(1, 0), (1, 1), (2, 0), (1, 1), (1, 0), (2, 5), (4, 1), (8, 0)])), [⟨1, 0, 5, 1, 0⟩], by unfold CmdReady; decide +kernel⟩,
   ⟨x5, cmd1 3 3 1 (pack [(1, 0), (1, 1), (2, 0), (1, 1), (1, 0), (2, 0), (4, 1), (8, 0)]), cmdAt (jobAt die1 {}) (cmd1 3 3 1 (pack [(1, 0), (1, 1), (2, 0), (1, 1), (1, 0), (2, 0), (4, 1), (8, 0)])), (cmdAt (jobAt die1 {}) (cmd1 3 3 1 (pack [(1, 0), (1, 1), (2, 0), (1, 1), (1, 0), (2, 0), (4, 1), (8, 0)]))).taken x5 (cmd1 3 3 1 (pack [(1, 0), (1, 1), (2, 0), (1, 1), (1, 0), (2, 0), (4, 1), (8, 0)])), [⟨1, 0, 0, 1, 0⟩], by unfold CmdReady; decide +kernel⟩,
   ⟨x5, cmd1 3 3 1 (pack [(1, 0), (1, 1), (2, 0), (1, 1), (1, 0), (2, 0), (4, 1), (8, 0)]), cmdAt (jobAt die1 { ({} : Bay) with queue := [inst1] }) (cmd1 3 3 1 (pack [(1, 0), (1, 1), (2, 0), (1, 1), (1, 0), (2, 0), (4, 1), (8, 0)])), (cmdAt (jobAt die1 { ({} : Bay) with queue := [inst1] }) (cmd1 3 3 1 (pack [(1, 0), (1, 1), (2, 0), (1, 1), (1, 0), (2, 0), (4, 1), (8, 0)]))).taken x5 (cmd1 3 3 1 (pack [(1, 0), (1, 1), (2, 0), (1, 1), (1, 0), (2, 0), (4, 1), (8, 0)])), [⟨1, 0, 0, 1, 0⟩], by unfold CmdReady; decide +kernel⟩,
   ⟨x5, cmd1 3 4 1 ([]), cmdAt (jobAt die1 {}) (cmd1 3 4 1 ([])), (cmdAt (jobAt die1 {}) (cmd1 3 4 1 ([]))).taken x5 (cmd1 3 4 1 ([])), by unfold CmdReady; decide +kernel⟩,
   ⟨x5, cmd1 3 4 1 ([]), cmdAt (jobAt die1 { ({} : Bay) with queue := [inst1] }) (cmd1 3 4 1 ([])), (cmdAt (jobAt die1 { ({} : Bay) with queue := [inst1] }) (cmd1 3 4 1 ([]))).taken x5 (cmd1 3 4 1 ([])), by unfold CmdReady; decide +kernel⟩,
   ⟨x5, cmd1 3 5 1 ([]), cmdAt (jobAt die1 {}) (cmd1 3 5 1 ([])), (cmdAt (jobAt die1 {}) (cmd1 3 5 1 ([]))).taken x5 (cmd1 3 5 1 ([])), by unfold CmdReady; decide +kernel⟩,
   ⟨{ live with hosts := [{ ({} : HostPort) with resps := [{ cmd := cmd1 3 5 1 [], status := 0 }] }, {}] }, 0, 5, { cmd := cmd1 3 5 1 [], status := 0 }, by decide +kernel⟩,
   ⟨jobAt { die1 with deferred := [{ cmd := cmd1 3 3 1 [], token := none, result := none }] } {}, 0, 5, 4294967295, (0, { cmd := cmd1 3 3 1 [], token := none, result := none }), by decide +kernel⟩,
   ⟨jobAt { die1 with deferred := [{ cmd := cmd1 3 3 1 [], token := some 7, result := some (0, []) }] } {}, 0, 7, { cmd := cmd1 3 3 1 [], token := some 7, result := some (0, []) }, by decide +kernel⟩⟩

/-- The hypotheses of ProgramAndRunCommandsComplete can be met, clause by clause. -/
theorem test_ProgramAndRunCommandsComplete_witness :
    (∃ (x : CmdRef) (c : Cmd) (s : State) (t : State), ∃ id die img n, CmdReady s x 4 1 c t ∧ die = fld c.body 0 1 ∧ n = pickFree (t.die die).images id 65536 ∧ 4 ≤ c.body.length ∧ die < t.dieCount ∧ zeroAt c.body 1 3 = true ∧ loadStroke t.dieCount t.part.lpddr c.job (c.body.drop 4) = .ok img ∧ (t.die die).images.length < 4096) ∧
    (∃ (x : CmdRef) (c : Cmd) (s : State) (t : State), ∃ id die g n, CmdReady s x 4 2 c t ∧ die = fld c.body 0 1 ∧ n = pickFree (t.die die).graphs id 64 ∧ 4 ≤ c.body.length ∧ die < t.dieCount ∧ zeroAt c.body 1 3 = true ∧ loadGraph t.dieCount (t.die die).images c.job (c.body.drop 4) = .ok g ∧ (t.die die).graphs.length < 64) ∧
    (∃ (x : CmdRef) (c : Cmd) (s : State) (t : State), ∃ die n i, CmdReady s x 4 3 c t ∧ die = fld c.body 0 1 ∧ n = fld c.body 2 2 ∧ c.body.length = 4 ∧ die < t.dieCount ∧ fld c.body 1 1 = 0 ∧ mget (t.die die).images n = some i ∧ i.job = c.job ∧ ((t.activeRuns die).any fun r => (strokeRefs (mgetD {} (t.die die).graphs r.2.graph).nodes).contains n) = false) ∧
    (∃ (x : CmdRef) (c : Cmd) (s : State) (t : State), ∃ die n g, CmdReady s x 4 3 c t ∧ die = fld c.body 0 1 ∧ n = fld c.body 2 2 ∧ c.body.length = 4 ∧ die < t.dieCount ∧ fld c.body 1 1 = 1 ∧ mget (t.die die).graphs n = some g ∧ g.job = c.job ∧ ((t.activeRuns die).any fun r => r.2.graph == n) = false) ∧
    (∃ (x : CmdRef) (c : Cmd) (s : State) (t : State), ∃ id die n g k, CmdReady s x 5 1 c t ∧ die = fld c.body 0 1 ∧ n = fld c.body 2 2 ∧ k = (if (t.freeRuns die).contains id then id else (t.freeRuns die).headD 0) ∧ c.body.length = 4 ∧ die < t.dieCount ∧ mget (t.die die).graphs n = some g ∧ g.job = c.job ∧ t.imagesOf die c.job g = true ∧ (g.bays.all fun l => t.holds c.job 1 die l) = true ∧ zeroAt c.body 1 1 = true ∧ freeFault (t.die die).images g.nodes = none ∧ t.baysTaken die c.job g = false ∧ t.freeRuns die ≠ []) ∧
    (∃ (x : CmdRef) (c : Cmd) (s : State) (t : State), ∃ die r u, CmdReady s x 5 2 c t ∧ u = t.stopRun die r ∧ t.okRun c = .ok (die, r) ∧ (u.openOf die r).isEmpty = true) ∧
    (∃ (x : CmdRef) (c : Cmd) (s : State) (t : State), ∃ die r u, CmdReady s x 5 2 c t ∧ u = t.stopRun die r ∧ t.okRun c = .ok (die, r) ∧ (u.openOf die r).isEmpty = false) ∧
    (∃ (x : CmdRef) (c : Cmd) (s : State) (t : State), ∃ die r, CmdReady s x 5 3 c t ∧ t.okRun c = .ok (die, r)) ∧
    (∃ (x : CmdRef) (c : Cmd) (s : State) (t : State), ∃ die r, CmdReady s x 5 4 c t ∧ die = fld c.body 0 1 ∧ c.body.length = 8 ∧ die < t.dieCount ∧ (t.bay die (t.phys die (fld c.body 1 1))).recordAt c.job (fld c.body 4 4) = some r ∧ t.holds c.job 1 die (fld c.body 1 1) = true ∧ zeroAt c.body 2 2 = true) ∧
    (∃ (x : CmdRef) (c : Cmd) (s : State) (t : State), ∃ die, CmdReady s x 5 5 c t ∧ die = fld c.body 0 1 ∧ c.body.length = 20 ∧ die < t.dieCount ∧ zeroAt c.body 1 1 = true ∧ ((t.poolOfTag die c.job (fld c.body 2 2)).isSome || t.notifyRoom die c.job) = true) :=
  ⟨⟨x5, cmd1 4 1 1 (zeros 4 ++ img1Bytes), cmdAt (jobAt die1 {}) (cmd1 4 1 1 (zeros 4 ++ img1Bytes)), (cmdAt (jobAt die1 {}) (cmd1 4 1 1 (zeros 4 ++ img1Bytes))).taken x5 (cmd1 4 1 1 (zeros 4 ++ img1Bytes)), 5, 0, img1, 5, by unfold CmdReady; decide +kernel⟩,
   ⟨x5, cmd1 4 2 1 (zeros 4 ++ endGraphBytes), cmdAt (jobAt die1 {}) (cmd1 4 2 1 (zeros 4 ++ endGraphBytes)), (cmdAt (jobAt die1 {}) (cmd1 4 2 1 (zeros 4 ++ endGraphBytes))).taken x5 (cmd1 4 2 1 (zeros 4 ++ endGraphBytes)), 63, 0, endGraph, 63, by unfold CmdReady; decide +kernel⟩,
   ⟨x5, cmd1 4 3 1 ([0, 0, 3, 0]), cmdAt (jobAt { die1 with images := [(3, img1)], graphs := [(3, endGraph)] } {}) (cmd1 4 3 1 ([0, 0, 3, 0])), (cmdAt (jobAt { die1 with images := [(3, img1)], graphs := [(3, endGraph)] } {}) (cmd1 4 3 1 ([0, 0, 3, 0]))).taken x5 (cmd1 4 3 1 ([0, 0, 3, 0])), 0, 3, img1, by unfold CmdReady; decide +kernel⟩,
   ⟨x5, cmd1 4 3 1 ([0, 1, 3, 0]), cmdAt (jobAt { die1 with images := [(3, img1)], graphs := [(3, endGraph)] } {}) (cmd1 4 3 1 ([0, 1, 3, 0])), (cmdAt (jobAt { die1 with images := [(3, img1)], graphs := [(3, endGraph)] } {}) (cmd1 4 3 1 ([0, 1, 3, 0]))).taken x5 (cmd1 4 3 1 ([0, 1, 3, 0])), 0, 3, endGraph, by unfold CmdReady; decide +kernel⟩,
   ⟨x5, cmd1 5 1 1 ([0, 0, 3, 0]), cmdAt (jobAt { die1 with images := [(3, img1)], graphs := [(3, endGraph)] } {}) (cmd1 5 1 1 ([0, 0, 3, 0])), (cmdAt (jobAt { die1 with images := [(3, img1)], graphs := [(3, endGraph)] } {}) (cmd1 5 1 1 ([0, 0, 3, 0]))).taken x5 (cmd1 5 1 1 ([0, 0, 3, 0])), 15, 0, 3, endGraph, 15, by unfold CmdReady; decide +kernel⟩,
   ⟨x5, cmd1 5 2 1 ([0, 3]), cmdAt (jobAt { die1 with runs := [(3, { ({} : Run) with job := 1 })] } ({})) (cmd1 5 2 1 ([0, 3])), (cmdAt (jobAt { die1 with runs := [(3, { ({} : Run) with job := 1 })] } ({})) (cmd1 5 2 1 ([0, 3]))).taken x5 (cmd1 5 2 1 ([0, 3])), 0, 3, ((cmdAt (jobAt { die1 with runs := [(3, { ({} : Run) with job := 1 })] } ({})) (cmd1 5 2 1 ([0, 3]))).taken x5 (cmd1 5 2 1 ([0, 3]))).stopRun 0 3, by unfold CmdReady; decide +kernel⟩,
   ⟨x5, cmd1 5 2 1 ([0, 3]), cmdAt (jobAt { die1 with runs := [(3, { ({} : Run) with job := 1 })] } ({ ({} : Bay) with slots := [{ ({} : Running) with inst := { inst1 with run := 3 } }] })) (cmd1 5 2 1 ([0, 3])), (cmdAt (jobAt { die1 with runs := [(3, { ({} : Run) with job := 1 })] } ({ ({} : Bay) with slots := [{ ({} : Running) with inst := { inst1 with run := 3 } }] })) (cmd1 5 2 1 ([0, 3]))).taken x5 (cmd1 5 2 1 ([0, 3])), 0, 3, ((cmdAt (jobAt { die1 with runs := [(3, { ({} : Run) with job := 1 })] } ({ ({} : Bay) with slots := [{ ({} : Running) with inst := { inst1 with run := 3 } }] })) (cmd1 5 2 1 ([0, 3]))).taken x5 (cmd1 5 2 1 ([0, 3]))).stopRun 0 3, by unfold CmdReady; decide +kernel⟩,
   ⟨x5, cmd1 5 3 1 ([0, 3]), cmdAt (jobAt { die1 with runs := [(3, { ({} : Run) with job := 1 })] } ({})) (cmd1 5 3 1 ([0, 3])), (cmdAt (jobAt { die1 with runs := [(3, { ({} : Run) with job := 1 })] } ({})) (cmd1 5 3 1 ([0, 3]))).taken x5 (cmd1 5 3 1 ([0, 3])), 0, 3, by unfold CmdReady; decide +kernel⟩,
   ⟨x5, cmd1 5 4 1 (zeros 8), cmdAt (jobAt die1 { ({} : Bay) with recs := [(0, rec1)], journal := [jent1] }) (cmd1 5 4 1 (zeros 8)), (cmdAt (jobAt die1 { ({} : Bay) with recs := [(0, rec1)], journal := [jent1] }) (cmd1 5 4 1 (zeros 8))).taken x5 (cmd1 5 4 1 (zeros 8)), 0, rec1, by unfold CmdReady; decide +kernel⟩,
   ⟨x5, cmd1 5 5 1 (zeros 20), cmdAt (jobAt { die1 with runs := [(3, { ({} : Run) with job := 1 })] } ({})) (cmd1 5 5 1 (zeros 20)), (cmdAt (jobAt { die1 with runs := [(3, { ({} : Run) with job := 1 })] } ({})) (cmd1 5 5 1 (zeros 20))).taken x5 (cmd1 5 5 1 (zeros 20)), 0, by unfold CmdReady; decide +kernel⟩⟩

/-- The hypotheses of AtelierCommandsComplete can be met, clause by clause. -/
theorem test_AtelierCommandsComplete_witness :
    (∃ (x : CmdRef) (c : Cmd) (s : State) (t : State), ∃ die y n p e, (CmdReady s x 6 1 c t ∧ die = fld c.body 0 1 ∧ y = newStream c.job (sub c.body 4 128) ∧ n = fld (sub c.body 4 128) 0 1 ∧ c.body.length = 132 ∧ die < t.dieCount ∧ mget (t.die die).pools y.pool = some p ∧ p.job = c.job ∧ (t.holds c.job 6 die n && (y.audioBase == 0 || t.holdsRange c.job 3 y.port y.audioBase y.audioBytes)) = true ∧ zeroAt c.body 1 3 = true ∧ AllHold (streamFields c.job y) ∧ y.sample = p.elems ∧ (∀ z ∈ (t.die die).streams, z.2.pool = y.pool → z.2.fmt = y.fmt) ∧ mget (t.die die).streams n = none ∧ t.poolsFit die y.pool y.fmt p = true ∧ t.engineFor die = some e)) ∧
    (∃ (x : CmdRef) (c : Cmd) (s : State) (t : State), ∃ (bs : List Byte) (die : _) (n : _) (y : _) (k : _), CmdReady s x 6 2 c t ∧ k = fld c.body 2 2 ∧ c.body.length = 16 ∧ t.okStream c 1 = .ok (die, n, y) ∧ t.holdsRange c.job 3 y.port (fld c.body 8 8) (16 * k) = true ∧ (1 ≤ k ∧ k ≤ 256) ∧ zeroAt c.body 4 4 = true ∧ (y.state == .running && !y.segs.any fun g => bitOf g.flags 0) = true ∧ y.segs.length + k ≤ 1024 ∧ bs.length = 16 * k ∧ (t.host y.port).usable t.ks.ideRequired = true ∧ segmentsOk bs k = true) ∧
    (∃ (x : CmdRef) (c : Cmd) (s : State) (t : State), ∃ die p n, CmdReady s x 6 3 c t ∧ die = fld c.body 0 1 ∧ p = ({ raw := sub c.body 4 128, job := c.job } : Pool) ∧ n = fld p.raw 0 1 ∧ c.body.length = 132 ∧ die < t.dieCount ∧ t.holds c.job 7 die n = true ∧ zeroAt c.body 1 3 = true ∧ AllHold (poolFields c.job die p) ∧ mget (t.die die).pools n = none ∧ t.poolsFit die n (t.newPoolFmt die p) p = true ∧ t.holdsRange c.job 2 die (fld p.raw 8 8 % 2 ^ 44) (p.bytes (t.newPoolFmt die p)) = true) ∧
    (∃ (x : CmdRef) (c : Cmd) (s : State) (t : State), ∃ die n y, CmdReady s x 6 4 c t ∧ c.body.length = 16 ∧ t.okStream c 1 = .ok (die, n, y) ∧ (fld c.body 8 8 == 0 || t.holdsRange c.job 3 y.port (fld c.body 8 8) (fld c.body 4 4)) = true ∧ zeroAt c.body 2 2 = true ∧ fld c.body 4 4 % 16 = 0) ∧
    (∃ (x : CmdRef) (c : Cmd) (s : State) (t : State), ∃ die d n y, CmdReady s x 6 5 c t ∧ die = fld c.body 0 1 ∧ c.body.length = 4 ∧ die < t.dieCount ∧ fld c.body 1 1 = 0 ∧ t.okStream c 2 = .ok (d, n, y) ∧ zeroAt c.body 3 1 = true) ∧
    (∃ (x : CmdRef) (c : Cmd) (s : State) (t : State), ∃ die n p, CmdReady s x 6 5 c t ∧ die = fld c.body 0 1 ∧ n = fld c.body 2 1 ∧ c.body.length = 4 ∧ die < t.dieCount ∧ fld c.body 1 1 = 1 ∧ mget (t.die die).pools n = some p ∧ p.job = c.job ∧ zeroAt c.body 3 1 = true ∧ ((t.die die).streams.any fun y => y.2.pool == n) = false) ∧
    (∃ (x : CmdRef) (c : Cmd) (s : State) (t : State), ∃ d n y, CmdReady s x 6 6 c t ∧ c.body.length = 2 ∧ t.okStream c 1 = .ok (d, n, y)) :=
  ⟨⟨x5, cmd1 6 1 1 (zeros 4 ++ strRaw), cmdAt (atlCmd [] [(0, poolA)]) (cmd1 6 1 1 (zeros 4 ++ strRaw)), (cmdAt (atlCmd [] [(0, poolA)]) (cmd1 6 1 1 (zeros 4 ++ strRaw))).taken x5 (cmd1 6 1 1 (zeros 4 ++ strRaw)), 0, newStream 1 strRaw, 0, poolA, 0, by unfold CmdReady AllHold; decide +kernel⟩,
   ⟨x5, cmd1 6 2 1 (pack [(2, 0), (2, 1), (4, 0), (8, 0x20000)]), cmdAt (atlCmd [(0, newStream 1 strRaw)] [(0, poolA)]) (cmd1 6 2 1 (pack [(2, 0), (2, 1), (4, 0), (8, 0x20000)])), (cmdAt (atlCmd [(0, newStream 1 strRaw)] [(0, poolA)]) (cmd1 6 2 1 (pack [(2, 0), (2, 1), (4, 0), (8, 0x20000)]))).taken x5 (cmd1 6 2 1 (pack [(2, 0), (2, 1), (4, 0), (8, 0x20000)])), pack [(8, 0x20000), (4, 16), (4, 0)], 0, 0, newStream 1 strRaw, 1, by unfold CmdReady; decide +kernel⟩,
   ⟨x5, cmd1 6 3 1 (zeros 4 ++ poolRaw), cmdAt (atlCmd [] []) (cmd1 6 3 1 (zeros 4 ++ poolRaw)), (cmdAt (atlCmd [] []) (cmd1 6 3 1 (zeros 4 ++ poolRaw))).taken x5 (cmd1 6 3 1 (zeros 4 ++ poolRaw)), 0, poolA, 0, by unfold CmdReady AllHold; decide +kernel⟩,
   ⟨x5, cmd1 6 4 1 (zeros 16), cmdAt (atlCmd [(0, newStream 1 strRaw)] [(0, poolA)]) (cmd1 6 4 1 (zeros 16)), (cmdAt (atlCmd [(0, newStream 1 strRaw)] [(0, poolA)]) (cmd1 6 4 1 (zeros 16))).taken x5 (cmd1 6 4 1 (zeros 16)), 0, 0, newStream 1 strRaw, by unfold CmdReady; decide +kernel⟩,
   ⟨x5, cmd1 6 5 1 (zeros 4), cmdAt (atlCmd [(0, newStream 1 strRaw)] [(0, poolA)]) (cmd1 6 5 1 (zeros 4)), (cmdAt (atlCmd [(0, newStream 1 strRaw)] [(0, poolA)]) (cmd1 6 5 1 (zeros 4))).taken x5 (cmd1 6 5 1 (zeros 4)), 0, 0, 0, newStream 1 strRaw, by unfold CmdReady; decide +kernel⟩,
   ⟨x5, cmd1 6 5 1 ([0, 1, 0, 0]), cmdAt (atlCmd [] [(0, poolA)]) (cmd1 6 5 1 ([0, 1, 0, 0])), (cmdAt (atlCmd [] [(0, poolA)]) (cmd1 6 5 1 ([0, 1, 0, 0]))).taken x5 (cmd1 6 5 1 ([0, 1, 0, 0])), 0, 0, poolA, by unfold CmdReady; decide +kernel⟩,
   ⟨x5, cmd1 6 6 1 (zeros 2), cmdAt (atlCmd [(0, newStream 1 strRaw)] [(0, poolA)]) (cmd1 6 6 1 (zeros 2)), (cmdAt (atlCmd [(0, newStream 1 strRaw)] [(0, poolA)]) (cmd1 6 6 1 (zeros 2))).taken x5 (cmd1 6 6 1 (zeros 2)), 0, 0, newStream 1 strRaw, by unfold CmdReady; decide +kernel⟩⟩

/-- A slot descriptor: slot 3, an owner of two blocks of bay 0 over shard 0. -/
def slotRaw : List Byte :=
  pack [(2, 3), (1, 0), (1, 1), (2, 1), (2, 0), (4, 0), (2, 0), (2, 1), (4, 0), (4, 0), (4, 4096), (4, 2), (32, 0)]

/-- A descriptor of a working copy in bay 0. -/
def wcRaw (n : Nat) : List Byte :=
  pack [(8, sramDpa 0 0 0), (4, 2), (1, 3), (1, 1), (1, 0), (1, 0), (4, n), (20, 0), (8, 1), (40, 0), (8, sramDpa 0 0 4096), (4, 1), (4, 0), (8, 0), (16, 0)]

/-- A shard descriptor of two blocks. -/
def shardRaw : List Byte := pack [(2, 0), (2, 1), (4, 0), (4, 2), (4, 127), (8, 0x10000), (8, 0x20000)] ++ zeros 28 ++ 1 :: zeros 67

/-- A die with that shard and a slot of it. -/
def shardDie (cs : SMap Consume) : Die := { die1 with shards := [(0, shard1 0)], slots := [(3, { granted .owner .opened with job := 1 })], cons := cs }

/-- A session descriptor. -/
def sessRaw : List Byte :=
  pack [(2, 0), (1, 0), (1, 0), (2, 1), (1, 1), (1, 2), (4, 0), (4, 1), (16, 0), (4, 1), (2, 0x1FF), (2, 0), (8, 0), (4, 4096), (4, 0), (8, 0)]

/-- A part with a session in a course and time locked. -/
def viaCmd (xs : SMap Session) : State :=
  { jobAt (shardDie []) {} with time := { ({} : Time) with state := .locked },
                                via := { ({} : Viaduct) with ports := [(0, { ({} : VPort) with entries := 4 })], sessions := xs } }

/-- The part with an outer loop. -/
def viaOut : State := { viaCmd [] with jobs := jobsO }

/-- A freeze record. -/
def frz : Freeze := ⟨0x20000000, 1, 1, 0, 0, 0, 0, []⟩

/-- The hypotheses of CollectiveCommandsComplete can be met, clause by clause. -/
theorem test_CollectiveCommandsComplete_witness :
    (∃ (x : CmdRef) (c : Cmd) (s : State) (t : State), ∃ die r n b, CmdReady s x 7 1 c t ∧ die = fld c.body 0 1 ∧ r = sub c.body 4 64 ∧ n = fld r 0 2 ∧ b = t.bay die (t.phys die (fld r 0x10 1)) ∧ 68 ≤ c.body.length ∧ die < t.dieCount ∧ (t.holds c.job 4 die n && t.holds c.job 1 die (fld r 0x10 1)) = true ∧ zeroAt c.body 1 3 = true ∧ AllHold (t.slotFields c.job die r) ∧ (if (slotHints c.body).isEmpty then fld r 3 1 != 0 else (slotHints c.body).length == fld r 0x1C 4) = true ∧ ((slotHints c.body).findIdx? fun a => a == 0 || a == 255) = none ∧ (t.slot die n).state = .free ∧ (t.slot die n).opening = none ∧ (b.freeAt (fld r 0x14 4) (256 * fld r 0x1C 4) && b.freeAt (fld r 0x18 4) (fld r 0x1C 4)) = true) ∧
    (∃ (x : CmdRef) (c : Cmd) (s : State) (t : State), ∃ d n sl, CmdReady s x 7 2 c t ∧ c.body.length = 4 ∧ t.okSlot c 2 = .ok (d, n, sl) ∧ zeroAt c.body 1 1 = true) ∧
    (∃ (x : CmdRef) (c : Cmd) (s : State) (t : State), ∃ die n sl, CmdReady s x 7 3 c t ∧ c.body.length = 4 ∧ t.okSlot c 2 = .ok (die, n, sl) ∧ zeroAt c.body 1 1 = true ∧ (sl.state != .gated && sl.state != .updating && sl.state != .resetting) = true) ∧
    (∃ (x : CmdRef) (c : Cmd) (s : State) (t : State), ∃ a n, CmdReady s x 7 4 c t ∧ a = fld c.body 0 2 ∧ n = fld c.body 2 2 ∧ c.body.length = 4 + 4 * n ∧ a + n ≤ 4096 ∧ ((routeList c.body n).all fun e => !bitOf e 15 || (t.portExists (e % 16) && t.portExists (e / 16 % 16))) = true) ∧
    (∃ (x : CmdRef) (c : Cmd) (s : State) (t : State), CmdReady s x 7 5 c t ∧ c.body.length = 4 ∧ fld c.body 1 1 < 4 ∧ ((List.range 16).all fun k => !bitOf (fld c.body 2 2) k || t.portExists k) = true) ∧
    (∃ (x : CmdRef) (c : Cmd) (s : State) (t : State), ∃ n even odd, (CmdReady s x 7 6 c t ∧ n = fld c.body 0 2 ∧ c.body.length = 272 ∧ n < 4096 ∧ fld c.body 2 2 < 4096 ∧ fld c.body 4 2 < 4096 ∧ fld c.body 6 1 < 8 ∧ fld c.body 8 2 < 4096 ∧ zeroAt c.body 10 6 = true ∧ t.okDesc c 16 = .ok even ∧ t.okDesc c 144 = .ok odd ∧ even.workingCopy = true ∧ odd.workingCopy = true ∧ ([even, odd].all fun d => t.holds c.job 1 (dpaDie d.base) (dpaBay d.base)) = true ∧ (∀ g, mget t.span.gather n = some g → g.job = c.job))) ∧
    (∃ (x : CmdRef) (c : Cmd) (s : State) (t : State), ∃ die, CmdReady s x 7 7 c t ∧ die = fld c.body 0 1 ∧ c.body.length = 4 ∧ die < t.dieCount ∧ zeroAt c.body 1 1 = true ∧ 1 ≤ fld c.body 2 2 ∧ fld c.body 2 2 ≤ 4096) :=
  ⟨⟨x5, cmd1 7 1 1 (zeros 4 ++ slotRaw), cmdAt (jobAt { die1 with shards := [(0, shard1 0)] } {}) (cmd1 7 1 1 (zeros 4 ++ slotRaw)), (cmdAt (jobAt { die1 with shards := [(0, shard1 0)] } {}) (cmd1 7 1 1 (zeros 4 ++ slotRaw))).taken x5 (cmd1 7 1 1 (zeros 4 ++ slotRaw)), 0, slotRaw, 3, {}, by unfold CmdReady AllHold; decide +kernel⟩,
   ⟨x5, cmd1 7 2 1 ([0, 0, 3, 0]), cmdAt (jobAt (shardDie []) {}) (cmd1 7 2 1 ([0, 0, 3, 0])), (cmdAt (jobAt (shardDie []) {}) (cmd1 7 2 1 ([0, 0, 3, 0]))).taken x5 (cmd1 7 2 1 ([0, 0, 3, 0])), 0, 3, { granted .owner .opened with job := 1 }, by unfold CmdReady; decide +kernel⟩,
   ⟨x5, cmd1 7 3 1 ([0, 0, 3, 0]), cmdAt (jobAt (shardDie []) {}) (cmd1 7 3 1 ([0, 0, 3, 0])), (cmdAt (jobAt (shardDie []) {}) (cmd1 7 3 1 ([0, 0, 3, 0]))).taken x5 (cmd1 7 3 1 ([0, 0, 3, 0])), 0, 3, { granted .owner .opened with job := 1 }, by unfold CmdReady; decide +kernel⟩,
   ⟨x5, cmd1 7 4 0 (pack [(2, 4095), (2, 1), (4, 0x80FF)]), cmdAt (jobAt die1 {}) (cmd1 7 4 0 (pack [(2, 4095), (2, 1), (4, 0x80FF)])), (cmdAt (jobAt die1 {}) (cmd1 7 4 0 (pack [(2, 4095), (2, 1), (4, 0x80FF)]))).taken x5 (cmd1 7 4 0 (pack [(2, 4095), (2, 1), (4, 0x80FF)])), 4095, 1, by unfold CmdReady; decide +kernel⟩,
   ⟨x5, cmd1 7 5 0 ([0, 3, 255, 255]), cmdAt (jobAt die1 {}) (cmd1 7 5 0 ([0, 3, 255, 255])), (cmdAt (jobAt die1 {}) (cmd1 7 5 0 ([0, 3, 255, 255]))).taken x5 (cmd1 7 5 0 ([0, 3, 255, 255])), by unfold CmdReady; decide +kernel⟩,
   ⟨x5, cmd1 7 6 1 (zeros 16 ++ wcRaw 32 ++ wcRaw 32), cmdAt (jobAt die1 {}) (cmd1 7 6 1 (zeros 16 ++ wcRaw 32 ++ wcRaw 32)), (cmdAt (jobAt die1 {}) (cmd1 7 6 1 (zeros 16 ++ wcRaw 32 ++ wcRaw 32))).taken x5 (cmd1 7 6 1 (zeros 16 ++ wcRaw 32 ++ wcRaw 32)), 0, parseDesc (wcRaw 32), parseDesc (wcRaw 32), by unfold CmdReady; decide +kernel⟩,
   ⟨x5, cmd1 7 7 0 ([0, 0, 0, 16]), cmdAt (jobAt die1 {}) (cmd1 7 7 0 ([0, 0, 0, 16])), (cmdAt (jobAt die1 {}) (cmd1 7 7 0 ([0, 0, 0, 16]))).taken x5 (cmd1 7 7 0 ([0, 0, 0, 16])), 0, by unfold CmdReady; decide +kernel⟩⟩

/-- The hypotheses of VarnishCommandsComplete can be met, clause by clause. -/
theorem test_VarnishCommandsComplete_witness :
    (∃ (x : CmdRef) (c : Cmd) (s : State) (t : State), ∃ die h0 n, CmdReady s x 8 1 c t ∧ die = fld c.body 0 1 ∧ h0 = ({ raw := sub c.body 4 128, job := c.job } : Shard) ∧ n = fld h0.raw 0 2 ∧ c.body.length = 132 ∧ die < t.dieCount ∧ t.holds c.job 5 die n = true ∧ zeroAt c.body 1 3 = true ∧ AllHold (shardFields c.job h0) ∧ t.shardHeld die h0 = true ∧ (t.userTable h0).all plainPos = true ∧ t.anchorsAgree die n h0 = true ∧ t.shardBusy die n = false) ∧
    (∃ (x : CmdRef) (c : Cmd) (s : State) (t : State), ∃ die k h0 a n, CmdReady s x 8 2 c t ∧ a = fld c.body 16 8 ∧ n = fld c.body 8 4 ∧ c.body.length = 24 ∧ t.okShard c 2 = .ok (die, k, h0) ∧ fld c.body 1 1 = 0 ∧ t.holdsLpddr c.job (dpaDie a) a (128 * n) = true ∧ fld c.body 4 4 + n ≤ h0.blocks ∧ (1 ≤ fld c.body 12 1 ∧ fld c.body 12 1 ≤ 254) ∧ zeroAt c.body 13 3 = true ∧ (rdBytes t.mem a (128 * n)).length = 128 * n) ∧
    (∃ (x : CmdRef) (c : Cmd) (s : State) (t : State), ∃ (bs : List Byte) (die : _) (k : _) (h0 : _) (n : _), CmdReady s x 8 2 c t ∧ n = fld c.body 8 4 ∧ c.body.length = 24 ∧ t.okShard c 2 = .ok (die, k, h0) ∧ fld c.body 1 1 = 1 ∧ t.holdsRange c.job 3 c.port (fld c.body 16 8) (128 * n) = true ∧ fld c.body 4 4 + n ≤ h0.blocks ∧ (1 ≤ fld c.body 12 1 ∧ fld c.body 12 1 ≤ 254) ∧ zeroAt c.body 13 3 = true ∧ bs.length = 128 * n ∧ (t.host c.port).usable t.ks.ideRequired = true) ∧
    (∃ (x : CmdRef) (c : Cmd) (s : State) (t : State), ∃ die n sl bound, CmdReady s x 8 3 c t ∧ c.body.length = 132 ∧ t.okSlot c 2 = .ok (die, n, sl) ∧ zeroAt c.body 1 1 = true ∧ (sl.role != .contributor) = true ∧ t.okBinding c die sl = .ok bound) ∧
    (∃ (x : CmdRef) (c : Cmd) (s : State) (t : State), ∃ die n, CmdReady s x 8 4 c t ∧ die = fld c.body 0 1 ∧ n = fld c.body 2 2 ∧ c.body.length = 4 + 2 * n ∧ die < t.dieCount ∧ (slotList c.body n).all (t.slotOf die c.job) = true ∧ zeroAt c.body 1 1 = true) ∧
    (∃ (x : CmdRef) (c : Cmd) (s : State) (t : State), CmdReady s x 8 5 c t ∧ c.body.length = 16 ∧ zeroAt c.body 4 4 = true ∧ 0 ≤ sgn 64 (fld c.body 8 8)) ∧
    (∃ (x : CmdRef) (c : Cmd) (s : State) (t : State), ∃ die, CmdReady s x 8 6 c t ∧ die = fld c.body 0 1 ∧ c.body.length = 1 ∧ die < t.dieCount) ∧
    (∃ (x : CmdRef) (c : Cmd) (s : State) (t : State), ∃ die rs, CmdReady s x 8 7 c t ∧ die = fld c.body 0 1 ∧ rs = t.reportsFrom die c.job (fld c.body 4 4) (fld c.body 1 1) ∧ c.body.length = 8 ∧ die < t.dieCount ∧ (1 ≤ fld c.body 1 1 ∧ fld c.body 1 1 ≤ 5) ∧ zeroAt c.body 2 2 = true) ∧
    (∃ (x : CmdRef) (c : Cmd) (s : State) (t : State), CmdReady s x 8 8 c t ∧ c.body.length = 4) ∧
    (∃ (x : CmdRef) (c : Cmd) (s : State) (t : State), ∃ die key k, (CmdReady s x 8 9 c t ∧ die = fld c.body 0 1 ∧ c.body.length = 8 ∧ die < t.dieCount ∧ t.haltedCons c.job die (fld c.body 2 2) (fld c.body 4 4) = some (key, k) ∧ fld c.body 1 1 ≤ 2 ∧ (fld c.body 1 1 = 2 → k.kind ≠ 1))) ∧
    (∃ (x : CmdRef) (c : Cmd) (s : State) (t : State), ∃ d n h0, CmdReady s x 8 10 c t ∧ c.body.length = 4 ∧ t.okShard c 2 = .ok (d, n, h0) ∧ zeroAt c.body 1 1 = true) :=
  ⟨⟨x5, cmd1 8 1 1 (zeros 4 ++ shardRaw), cmdAt (jobAt die1 {}) (cmd1 8 1 1 (zeros 4 ++ shardRaw)), (cmdAt (jobAt die1 {}) (cmd1 8 1 1 (zeros 4 ++ shardRaw))).taken x5 (cmd1 8 1 1 (zeros 4 ++ shardRaw)), 0, { ({} : Shard) with raw := shardRaw, job := 1 }, 0, by unfold CmdReady AllHold; decide +kernel⟩,
   ⟨x5, cmd1 8 2 1 (pack [(4, 0), (4, 1), (4, 1), (4, 127), (8, 0x30000)]), cmdAt (jobAt (shardDie []) {}) (cmd1 8 2 1 (pack [(4, 0), (4, 1), (4, 1), (4, 127), (8, 0x30000)])), (cmdAt (jobAt (shardDie []) {}) (cmd1 8 2 1 (pack [(4, 0), (4, 1), (4, 1), (4, 127), (8, 0x30000)]))).taken x5 (cmd1 8 2 1 (pack [(4, 0), (4, 1), (4, 1), (4, 127), (8, 0x30000)])), 0, 0, shard1 0, 0x30000, 1, by unfold CmdReady; decide +kernel⟩,
   ⟨x5, cmd1 8 2 1 (pack [(1, 0), (1, 1), (2, 0), (4, 1), (4, 1), (4, 127), (8, 0x20000)]), cmdAt ({ jobAt (shardDie []) {} with hosts := [{ ({} : HostPort) with linkUp := true }, {}] }) (cmd1 8 2 1 (pack [(1, 0), (1, 1), (2, 0), (4, 1), (4, 1), (4, 127), (8, 0x20000)])), (cmdAt ({ jobAt (shardDie []) {} with hosts := [{ ({} : HostPort) with linkUp := true }, {}] }) (cmd1 8 2 1 (pack [(1, 0), (1, 1), (2, 0), (4, 1), (4, 1), (4, 127), (8, 0x20000)]))).taken x5 (cmd1 8 2 1 (pack [(1, 0), (1, 1), (2, 0), (4, 1), (4, 1), (4, 127), (8, 0x20000)])), zeros 128, 0, 0, shard1 0, 1, by unfold CmdReady; decide +kernel⟩,
   ⟨x5, cmd1 8 3 1 (pack [(2, 0), (2, 3)] ++ wcRaw 64), cmdAt (jobAt (shardDie []) {}) (cmd1 8 3 1 (pack [(2, 0), (2, 3)] ++ wcRaw 64)), (cmdAt (jobAt (shardDie []) {}) (cmd1 8 3 1 (pack [(2, 0), (2, 3)] ++ wcRaw 64))).taken x5 (cmd1 8 3 1 (pack [(2, 0), (2, 3)] ++ wcRaw 64)), 0, 3, { granted .owner .opened with job := 1 }, some (parseDesc (wcRaw 64)), by unfold CmdReady; decide +kernel⟩,
   ⟨x5, cmd1 8 4 1 (pack [(2, 0), (2, 1), (2, 3)]), cmdAt (jobAt (shardDie []) {}) (cmd1 8 4 1 (pack [(2, 0), (2, 1), (2, 3)])), (cmdAt (jobAt (shardDie []) {}) (cmd1 8 4 1 (pack [(2, 0), (2, 1), (2, 3)]))).taken x5 (cmd1 8 4 1 (pack [(2, 0), (2, 1), (2, 3)])), 0, 1, by unfold CmdReady; decide +kernel⟩,
   ⟨x5, cmd1 8 5 1 (zeros 16), cmdAt (jobAt die1 {}) (cmd1 8 5 1 (zeros 16)), (cmdAt (jobAt die1 {}) (cmd1 8 5 1 (zeros 16))).taken x5 (cmd1 8 5 1 (zeros 16)), by unfold CmdReady; decide +kernel⟩,
   ⟨x5, cmd1 8 6 1 ([0]), cmdAt (jobAt die1 {}) (cmd1 8 6 1 ([0])), (cmdAt (jobAt die1 {}) (cmd1 8 6 1 ([0]))).taken x5 (cmd1 8 6 1 ([0])), 0, by unfold CmdReady; decide +kernel⟩,
   ⟨x5, cmd1 8 7 1 ([0, 5, 0, 0, 0, 0, 0, 0]), cmdAt (jobAt die1 {}) (cmd1 8 7 1 ([0, 5, 0, 0, 0, 0, 0, 0])), (cmdAt (jobAt die1 {}) (cmd1 8 7 1 ([0, 5, 0, 0, 0, 0, 0, 0]))).taken x5 (cmd1 8 7 1 ([0, 5, 0, 0, 0, 0, 0, 0])), 0, [], by unfold CmdReady; decide +kernel⟩,
   ⟨x5, cmd1 8 8 1 (zeros 4), cmdAt (jobAt die1 {}) (cmd1 8 8 1 (zeros 4)), (cmdAt (jobAt die1 {}) (cmd1 8 8 1 (zeros 4))).taken x5 (cmd1 8 8 1 (zeros 4)), by unfold CmdReady; decide +kernel⟩,
   ⟨x5, cmd1 8 9 1 (pack [(1, 0), (1, 2), (2, 3), (4, 0)]), cmdAt (jobAt (shardDie [(3, { cdone with stage := 4 })]) {}) (cmd1 8 9 1 (pack [(1, 0), (1, 2), (2, 3), (4, 0)])), (cmdAt (jobAt (shardDie [(3, { cdone with stage := 4 })]) {}) (cmd1 8 9 1 (pack [(1, 0), (1, 2), (2, 3), (4, 0)]))).taken x5 (cmd1 8 9 1 (pack [(1, 0), (1, 2), (2, 3), (4, 0)])), 0, 3, { cdone with stage := 4 }, by unfold CmdReady; decide +kernel⟩,
   ⟨x5, cmd1 8 10 1 (zeros 4), cmdAt (jobAt (shardDie []) {}) (cmd1 8 10 1 (zeros 4)), (cmdAt (jobAt (shardDie []) {}) (cmd1 8 10 1 (zeros 4))).taken x5 (cmd1 8 10 1 (zeros 4)), 0, 0, shard1 0, by unfold CmdReady; decide +kernel⟩⟩

/-- The hypotheses of ViaductCommandsComplete can be met, clause by clause. -/
theorem test_ViaductCommandsComplete_witness :
    (∃ (x : CmdRef) (c : Cmd) (s : State) (t : State), ∃ p, CmdReady s x 9 1 c t ∧ p = fld c.body 0 1 ∧ c.body.length = 32 + 96 * (fld c.body 1 1 + 1) ∧ t.viaExists p = true ∧ fld c.body 1 1 ≤ 1 ∧ AllHold (portFields c.body) ∧ t.portArea c.body = true ∧ t.portInUse p = false) ∧
    (∃ (x : CmdRef) (c : Cmd) (s : State) (t : State), ∃ r, (CmdReady s x 9 2 c t (fun y => y.op != 1 && y.op != 2) ∧ r = sub c.body 4 64 ∧ c.body.length = 68 ∧ t.sessHeld c.job r = true ∧ c.op = 0 ∧ zeroAt c.body 1 3 = true ∧ AllHold (sessionFields c.job r) ∧ t.quotaFits r = true ∧ (∀ y, mget t.via.sessions (fld r 0 2) = some y → y.state = .closed))) ∧
    (∃ (x : CmdRef) (c : Cmd) (s : State) (t : State), ∃ k y, CmdReady s x 9 2 c t (fun y => y.op == 1) ∧ t.okSess c = .ok (k, y) ∧ t.time.state ≠ .free ∧ y.state = .closed) ∧
    (∃ (x : CmdRef) (c : Cmd) (s : State) (t : State), ∃ k y, CmdReady s x 9 2 c t (fun y => y.op == 2) ∧ t.okSess c = .ok (k, y)) ∧
    (∃ (x : CmdRef) (c : Cmd) (s : State) (t : State), CmdReady s x 9 3 c t ∧ c.body.length = 44 ∧ AllHold (outerFields c.body)) ∧
    (∃ (x : CmdRef) (c : Cmd) (s : State) (t : State), ∃ a n, CmdReady s x 9 4 c t ∧ a = fld c.body 0 2 ∧ n = fld c.body 2 2 ∧ c.body.length = 4 + 64 * n ∧ ((fragList c.job n c.body).all fun f => decide (f.die < t.dieCount)) = true ∧ (fragList c.job n c.body).all (t.fragHeld c.job) = true ∧ a + n ≤ 65536 ∧ AllHold (t.fragFields c.job n c.body) ∧ (t.via.frags.all fun f => f.2.job == c.job || f.1 < a || a + n ≤ f.1) = true) ∧
    (∃ (x : CmdRef) (c : Cmd) (s : State) (t : State), ∃ y, CmdReady s x 9 5 c t ∧ c.body.length = 8 ∧ mget t.via.sessions (fld c.body 0 2) = some y ∧ y.job = c.job ∧ (1 ≤ fld c.body 2 2 ∧ fld c.body 2 2 ≤ 200)) ∧
    (∃ (x : CmdRef) (c : Cmd) (s : State) (t : State), CmdReady s x 9 6 c t ∧ c.body.length = 28 ∧ fld c.body 0 1 ≤ 1 ∧ zeroAt c.body 1 3 = true) ∧
    (∃ (x : CmdRef) (c : Cmd) (s : State) (t : State), ∃ p, CmdReady s x 9 7 c t ∧ p = fld c.body 0 1 ∧ c.body.length = 1 ∧ t.holds c.job 8 (t.viaDie p) p = true) :=
  ⟨⟨x5, cmd1 9 1 0 (pack [(16, 0), (4, 0), (2, 0), (2, 0), (4, 3600), (4, 0)] ++ zeros 96), cmdAt (jobAt die1 {}) (cmd1 9 1 0 (pack [(16, 0), (4, 0), (2, 0), (2, 0), (4, 3600), (4, 0)] ++ zeros 96)), (cmdAt (jobAt die1 {}) (cmd1 9 1 0 (pack [(16, 0), (4, 0), (2, 0), (2, 0), (4, 3600), (4, 0)] ++ zeros 96))).taken x5 (cmd1 9 1 0 (pack [(16, 0), (4, 0), (2, 0), (2, 0), (4, 3600), (4, 0)] ++ zeros 96)), 0, by unfold CmdReady AllHold; decide +kernel⟩,
   ⟨x5, cmd1 9 2 1 (zeros 4 ++ sessRaw), cmdAt (viaCmd []) (cmd1 9 2 1 (zeros 4 ++ sessRaw)), (cmdAt (viaCmd []) (cmd1 9 2 1 (zeros 4 ++ sessRaw))).taken x5 (cmd1 9 2 1 (zeros 4 ++ sessRaw)), sessRaw, by unfold CmdReady AllHold; decide +kernel⟩,
   ⟨x5, cmd1 9 2 1 (1 :: zeros 67), cmdAt (viaCmd [(0, { sess1 with state := .closed })]) (cmd1 9 2 1 (1 :: zeros 67)), (cmdAt (viaCmd [(0, { sess1 with state := .closed })]) (cmd1 9 2 1 (1 :: zeros 67))).taken x5 (cmd1 9 2 1 (1 :: zeros 67)), 0, { sess1 with state := .closed }, by unfold CmdReady; decide +kernel⟩,
   ⟨x5, cmd1 9 2 1 (2 :: zeros 67), cmdAt (viaCmd [(0, sess1)]) (cmd1 9 2 1 (2 :: zeros 67)), (cmdAt (viaCmd [(0, sess1)]) (cmd1 9 2 1 (2 :: zeros 67))).taken x5 (cmd1 9 2 1 (2 :: zeros 67)), 0, sess1, by unfold CmdReady; decide +kernel⟩,
   ⟨x5, cmd1 9 3 1 (pack [(4, 10000), (4, 0), (1, 0), (1, 1), (34, 0)]), cmdAt (jobAt die1 {}) (cmd1 9 3 1 (pack [(4, 10000), (4, 0), (1, 0), (1, 1), (34, 0)])), (cmdAt (jobAt die1 {}) (cmd1 9 3 1 (pack [(4, 10000), (4, 0), (1, 0), (1, 1), (34, 0)]))).taken x5 (cmd1 9 3 1 (pack [(4, 10000), (4, 0), (1, 0), (1, 1), (34, 0)])), by unfold CmdReady AllHold; decide +kernel⟩,
   ⟨x5, cmd1 9 4 1 (pack [(2, 0), (2, 1), (8, 0), (4, 1), (4, 0)] ++ List.replicate 48 0xFF), cmdAt (viaOut) (cmd1 9 4 1 (pack [(2, 0), (2, 1), (8, 0), (4, 1), (4, 0)] ++ List.replicate 48 0xFF)), (cmdAt (viaOut) (cmd1 9 4 1 (pack [(2, 0), (2, 1), (8, 0), (4, 1), (4, 0)] ++ List.replicate 48 0xFF))).taken x5 (cmd1 9 4 1 (pack [(2, 0), (2, 1), (8, 0), (4, 1), (4, 0)] ++ List.replicate 48 0xFF)), 0, 1, by unfold CmdReady AllHold; decide +kernel⟩,
   ⟨x5, cmd1 9 5 1 (pack [(2, 0), (2, 200), (4, 0)]), cmdAt (viaCmd [(0, sess1)]) (cmd1 9 5 1 (pack [(2, 0), (2, 200), (4, 0)])), (cmdAt (viaCmd [(0, sess1)]) (cmd1 9 5 1 (pack [(2, 0), (2, 200), (4, 0)]))).taken x5 (cmd1 9 5 1 (pack [(2, 0), (2, 200), (4, 0)])), sess1, by unfold CmdReady; decide +kernel⟩,
   ⟨x5, cmd1 9 6 0 (1 :: zeros 27), cmdAt (jobAt die1 {}) (cmd1 9 6 0 (1 :: zeros 27)), (cmdAt (jobAt die1 {}) (cmd1 9 6 0 (1 :: zeros 27))).taken x5 (cmd1 9 6 0 (1 :: zeros 27)), by unfold CmdReady; decide +kernel⟩,
   ⟨x5, cmd1 9 7 1 ([1]), cmdAt (jobAt die1 {}) (cmd1 9 7 1 ([1])), (cmdAt (jobAt die1 {}) (cmd1 9 7 1 ([1]))).taken x5 (cmd1 9 7 1 ([1])), 1, by unfold CmdReady; decide +kernel⟩⟩

/-- The hypotheses of ServiceCommandsComplete can be met, clause by clause. -/
theorem test_ServiceCommandsComplete_witness :
    (∃ (x : CmdRef) (c : Cmd) (s : State) (t : State), ∃ unit die i, CmdReady s x 10 1 c t ∧ unit = fld c.body 0 1 ∧ die = fld c.body 1 1 ∧ i = fld c.body 2 2 ∧ c.body.length = 8 ∧ die < t.dieCount ∧ (1 ≤ unit ∧ unit ≤ 7) ∧ t.unitExists unit die i = true ∧ t.testHeld c.job unit die i = true ∧ zeroAt c.body 4 4 = true ∧ t.testRefused unit die i = false) ∧
    (∃ (x : CmdRef) (c : Cmd) (s : State) (t : State), ∃ w f, CmdReady s x 10 2 c t ∧ w = fld c.body 0 4 ∧ c.body.length = 8 ∧ w >>> 28 ≠ 7 ∧ t.masterOnDie w = true ∧ mget t.ks.freezes w = some f ∧ t.thawHeld c.job w = true ∧ zeroAt c.body 4 4 = true) ∧
    (∃ (x : CmdRef) (c : Cmd) (s : State) (t : State), ∃ die l, CmdReady s x 10 3 c t ∧ die = fld c.body 0 1 ∧ l = fld c.body 1 1 ∧ c.body.length = 4 ∧ die < t.dieCount ∧ t.holds c.job 1 die l = true) ∧
    (∃ (x : CmdRef) (c : Cmd) (s : State) (t : State), ∃ f, CmdReady s x 10 4 c t ∧ c.body.length = 4 ∧ t.masterOnDie (fld c.body 0 4) = true ∧ mget t.ks.freezes (fld c.body 0 4) = some f) ∧
    (∃ (x : CmdRef) (c : Cmd) (s : State) (t : State), CmdReady s x 10 5 c t ∧ c.body.length = 8 ∧ zeroAt c.body 6 2 = true) ∧
    (∃ (x : CmdRef) (c : Cmd) (s : State) (t : State), ∃ die ws, CmdReady s x 11 1 c t ∧ die = fld c.body 0 1 ∧ c.body.length = 8 ∧ die < t.dieCount ∧ t.telGroup c.port die (fld c.body 1 1) = some ws ∧ fld c.body 2 2 + fld c.body 4 2 ≤ telSize (fld c.body 1 1) ws.length ∧ fld c.body 4 2 ≤ 508 ∧ zeroAt c.body 6 2 = true) ∧
    (∃ (x : CmdRef) (c : Cmd) (s : State) (t : State), ∃ n es, CmdReady s x 12 1 c t ∧ n = fld c.body 0 1 ∧ es = (t.host c.port).events ∧ c.body.length = 1 ∧ (1 ≤ n ∧ n ≤ 42)) :=
  ⟨⟨x5, cmd1 10 1 1 ([2, 0, 15, 0, 0, 0, 0, 0]), cmdAt (jobAt die1 {}) (cmd1 10 1 1 ([2, 0, 15, 0, 0, 0, 0, 0])), (cmdAt (jobAt die1 {}) (cmd1 10 1 1 ([2, 0, 15, 0, 0, 0, 0, 0]))).taken x5 (cmd1 10 1 1 ([2, 0, 15, 0, 0, 0, 0, 0])), 2, 0, 15, by unfold CmdReady; decide +kernel⟩,
   ⟨x5, cmd1 10 2 1 (pack [(4, 0x20000000), (4, 0)]), cmdAt ({ jobAt die1 {} with ks := { ({} : Keystone) with freezes := [(0x20000000, frz)] } }) (cmd1 10 2 1 (pack [(4, 0x20000000), (4, 0)])), (cmdAt ({ jobAt die1 {} with ks := { ({} : Keystone) with freezes := [(0x20000000, frz)] } }) (cmd1 10 2 1 (pack [(4, 0x20000000), (4, 0)]))).taken x5 (cmd1 10 2 1 (pack [(4, 0x20000000), (4, 0)])), 0x20000000, frz, by unfold CmdReady; decide +kernel⟩,
   ⟨x5, cmd1 10 3 1 (zeros 4), cmdAt (jobAt die1 {}) (cmd1 10 3 1 (zeros 4)), (cmdAt (jobAt die1 {}) (cmd1 10 3 1 (zeros 4))).taken x5 (cmd1 10 3 1 (zeros 4)), 0, 0, by unfold CmdReady; decide +kernel⟩,
   ⟨x5, cmd1 10 4 1 (natLe 4 0x20000000), cmdAt ({ jobAt die1 {} with ks := { ({} : Keystone) with freezes := [(0x20000000, frz)] } }) (cmd1 10 4 1 (natLe 4 0x20000000)), (cmdAt ({ jobAt die1 {} with ks := { ({} : Keystone) with freezes := [(0x20000000, frz)] } }) (cmd1 10 4 1 (natLe 4 0x20000000))).taken x5 (cmd1 10 4 1 (natLe 4 0x20000000)), frz, by unfold CmdReady; decide +kernel⟩,
   ⟨x5, cmd1 10 5 1 (zeros 8), cmdAt (jobAt die1 {}) (cmd1 10 5 1 (zeros 8)), (cmdAt (jobAt die1 {}) (cmd1 10 5 1 (zeros 8))).taken x5 (cmd1 10 5 1 (zeros 8)), by unfold CmdReady; decide +kernel⟩,
   ⟨x5, cmd1 11 1 1 (pack [(1, 0), (1, 5), (2, 0), (2, 4), (2, 0)]), cmdAt (jobAt die1 {}) (cmd1 11 1 1 (pack [(1, 0), (1, 5), (2, 0), (2, 4), (2, 0)])), (cmdAt (jobAt die1 {}) (cmd1 11 1 1 (pack [(1, 0), (1, 5), (2, 0), (2, 4), (2, 0)]))).taken x5 (cmd1 11 1 1 (pack [(1, 0), (1, 5), (2, 0), (2, 4), (2, 0)])), 0, [0, 0, 0, 0], by unfold CmdReady; decide +kernel⟩,
   ⟨x5, cmd1 12 1 0 ([42]), cmdAt (jobAt die1 {}) (cmd1 12 1 0 ([42])), (cmdAt (jobAt die1 {}) (cmd1 12 1 0 ([42]))).taken x5 (cmd1 12 1 0 ([42])), 42, [], by unfold CmdReady; decide +kernel⟩⟩

/-- A part in boot at a stage. -/
def bootAt (n : Nat) : State := { ({} : State) with part := { ({} : Part) with porN := true, railsOk := true, stage := n } }

/-- A ready part with one domain in a power state. -/
def domAt (dom : Nat) (d : DomState) : State := { live with power := { ({} : Power) with doms := [(dom, d)] } }

/-- A configuration record of the greatest part. -/
def cfg1 : ConfigRecord := ⟨0, 8, 1, 0, 7, [], [], 0⟩

/-- A ready part with its record. -/
def recAt : State := { live with ks := { ({} : Keystone) with record := some cfg1 } }

/-- A management message with a body. -/
def mg (body : List Byte) : MgmtMsg := ⟨true, 0, zeros 32, true, true, body⟩

/-- A ready part with an owner and that message's nonce current. -/
def ownAt (f : Flash) : State := { live with ks := { ({} : Keystone) with identityOk := true, nonces := [(0, zeros 32)], flash := { f with owner := some [] }, fwVersion := 9, recVersion := 9 } }

/-- The hypotheses of PowerAndResetComplete can be met, clause by clause. -/
theorem test_PowerAndResetComplete_witness :
    (∃ (s : State), s.part.porN = false) ∧
    (∃ (s : State), s.part.porN = true) ∧
    (∃ (s : State), ∃ x c t, CmdReady s x 1 5 c t ∧ c.body.length = 4 ∧ zeroAt c.body 0 4 = true ∧ t.jobs = []) ∧
    (∃ (s : State), s.part.porN = true ∧ s.part.state = 1 ∧
      s.part.stage = 1) ∧
    (∃ (s : State), s.part.porN = true ∧ s.part.state = 1 ∧
      s.part.stage = 2) ∧
    (∃ (s : State), s.part.porN = true ∧ s.part.state = 1 ∧
      s.part.stage = 3) ∧
    (∃ (s : State), s.part.porN = true ∧ s.part.state = 1 ∧
      s.part.stage = 4) ∧
    (∃ (s : State), s.part.porN = true ∧ s.part.state = 1 ∧
      s.part.stage = 5) ∧
    (∃ (s : State), s.part.porN = true ∧ s.part.state = 1 ∧
      s.part.stage = 6) ∧
    (∃ (s : State), s.part.porN = true ∧ s.part.state = 1 ∧
      s.part.stage = 7) ∧
    (∃ (s : State), s.part.porN = true ∧ s.part.state = 1 ∧
      s.part.stage = 8) ∧
    (∃ (s : State) (t : State), s.part.porN = true ∧
      t = { s with part := { s.part with railsOk := false } }) ∧
    (∃ (s : State), ∃ die, s.part.porN = true ∧ die < s.dieCount) ∧
    (∃ (s : State), ∃ die dom, s.live = true ∧ die < s.dieCount ∧
      s.domOn die dom = true ∧ s.domBusy die dom = false) ∧
    (∃ (s : State), ∃ die dom, s.live = true ∧ die < s.dieCount ∧
      dom < 13 ∧ mgetD .off s.power.doms (domKey die dom) = .off ∧ s.domWanted die dom = true) ∧
    (∃ (s : State), ∃ die dom, s.live = true ∧ die < s.dieCount ∧
      dom < 13 ∧ mgetD .off s.power.doms (domKey die dom) = .on) ∧
    (∃ (s : State), ∃ die dom, s.live = true ∧ die < s.dieCount ∧
      mgetD .off s.power.doms (domKey die dom) = .waking ∧
      dom ≠ 11) ∧
    (∃ (s : State), ∃ die t, s.live = true ∧ die < s.dieCount ∧
      mgetD .off s.power.doms (domKey die 11) = .waking ∧
      t = s.setDom die 11 .on) ∧
    (∃ (s : State), ∃ die dom, s.live = true ∧ die < s.dieCount ∧
      dom < 13 ∧ s.domOn die dom = true ∧ s.power.gatedClk.contains (domKey die dom) = false) ∧
    (∃ (s : State), ∃ (sensors : List Nat) (mw : _) (dieMw : _) (tj : _) (k : _) (k' : _) (t : _), s.part.porN = true ∧ sensors.length = 12 * s.dieCount ∧ tj = sensors.foldl max 0 ∧ k = s.ks.throttle ∧
      k' = throttleNext k tj mw s.part.variant.maxPower ∧ s.ks.trip = false ∧ t = { s with ks := { s.ks with
        sensors := sensors, tj := tj, hottest := (sensors.findIdx (· == tj)) / 12, powerMw := mw, dieMw := dieMw
        throttledUs := if k < 16 then s.ks.throttledUs + 100 else s.ks.throttledUs } } ∧
      1840 ≤ tj) ∧
    (∃ (s : State), ∃ (sensors : List Nat) (mw : _) (dieMw : _) (tj : _) (k : _) (k' : _) (t : _), s.part.porN = true ∧ sensors.length = 12 * s.dieCount ∧ tj = sensors.foldl max 0 ∧ k = s.ks.throttle ∧
      k' = throttleNext k tj mw s.part.variant.maxPower ∧ s.ks.trip = false ∧ t = { s with ks := { s.ks with
        sensors := sensors, tj := tj, hottest := (sensors.findIdx (· == tj)) / 12, powerMw := mw, dieMw := dieMw
        throttledUs := if k < 16 then s.ks.throttledUs + 100 else s.ks.throttledUs } } ∧
      tj < 1840 ∧ ¬ (k = 16 ∧ k' < 16)) ∧
    (∃ (s : State), ∃ (sensors : List Nat) (mw : _) (dieMw : _) (tj : _) (k : _) (k' : _) (t : _), s.part.porN = true ∧ sensors.length = 12 * s.dieCount ∧ tj = sensors.foldl max 0 ∧ k = s.ks.throttle ∧
      k' = throttleNext k tj mw s.part.variant.maxPower ∧ s.ks.trip = false ∧ t = { s with ks := { s.ks with
        sensors := sensors, tj := tj, hottest := (sensors.findIdx (· == tj)) / 12, powerMw := mw, dieMw := dieMw
        throttledUs := if k < 16 then s.ks.throttledUs + 100 else s.ks.throttledUs } } ∧
      tj < 1840 ∧ k = 16 ∧ k' < 16) ∧
    (∃ (s : State), ∃ die margin r, s.ks.record = some r ∧ s.part.porN = true ∧ die < s.dieCount ∧
      0 ≤ margin) ∧
    (∃ (s : State), ∃ die margin r, s.ks.record = some r ∧ s.part.porN = true ∧ die < s.dieCount ∧
      margin < 0 ∧ mgetD 8500 s.power.avs die + (-margin).toNat ≤ binVoltage r.speedBin) :=
  ⟨⟨{}, by decide +kernel⟩,
   ⟨live, by decide +kernel⟩,
   ⟨cmdAt ({ jobAt die1 {} with jobs := [] }) (cmd1 1 5 0 (zeros 4)), x5, cmd1 1 5 0 (zeros 4), (cmdAt ({ jobAt die1 {} with jobs := [] }) (cmd1 1 5 0 (zeros 4))).taken x5 (cmd1 1 5 0 (zeros 4)), by unfold CmdReady; decide +kernel⟩,
   ⟨bootAt 1, by decide +kernel⟩,
   ⟨bootAt 2, by decide +kernel⟩,
   ⟨bootAt 3, by decide +kernel⟩,
   ⟨bootAt 4, by decide +kernel⟩,
   ⟨bootAt 5, by decide +kernel⟩,
   ⟨bootAt 6, by decide +kernel⟩,
   ⟨bootAt 7, by decide +kernel⟩,
   ⟨bootAt 8, by decide +kernel⟩,
   ⟨live, _, by decide +kernel, rfl⟩,
   ⟨live, 7, by decide +kernel⟩,
   ⟨domAt 2 .on, 0, 2, by decide +kernel⟩,
   ⟨live, 7, 12, by decide +kernel⟩,
   ⟨domAt 12 .on, 0, 12, by decide +kernel⟩,
   ⟨domAt 1 .waking, 0, 1, by decide +kernel⟩,
   ⟨domAt 11 .waking, 0, _, by decide +kernel, by decide +kernel, by decide +kernel, rfl⟩,
   ⟨domAt 12 .on, 0, 12, by decide +kernel⟩,
   ⟨live, List.replicate 96 1840, 0, [], 1840, 16, 15, _, by decide +kernel, by decide +kernel, by decide +kernel, by decide +kernel, by decide +kernel, by decide +kernel, rfl, by decide +kernel⟩,
   ⟨live, List.replicate 96 0, 0, [], 0, 16, 16, _, by decide +kernel, by decide +kernel, by decide +kernel, by decide +kernel, by decide +kernel, by decide +kernel, rfl, by decide +kernel⟩,
   ⟨live, List.replicate 96 1600, 0, [], 1600, 16, 15, _, by decide +kernel, by decide +kernel, by decide +kernel, by decide +kernel, by decide +kernel, by decide +kernel, rfl, by decide +kernel⟩,
   ⟨recAt, 7, 0, cfg1, by decide +kernel⟩,
   ⟨{ recAt with power := { ({} : Power) with avs := [(0, 8400)] } }, 0, -100, cfg1, by decide +kernel⟩⟩

/-- The hypotheses of ManagementCommandsComplete can be met, clause by clause. -/
theorem test_ManagementCommandsComplete_witness :
    (∃ (m : MgmtMsg) (s : State), ∃ fresh n, s.mgmtFor m = true ∧
      n = sub fresh 0 32) ∧
    (∃ (m : MgmtMsg) (s : State), s.mgmtFor m = true) ∧
    (∃ (m : MgmtMsg) (s : State), s.mgmtFor m = true ∧
      s.ks.flash.owner = none ∧ m.mctp = true ∧ m.body.length = 384) ∧
    (∃ (m : MgmtMsg) (s : State), ∃ n, s.mgmtFor m = true ∧
      n = fld m.body 0 1 ∧ n < 2 ∧ 8 ≤ m.body.length ∧ m.body.length ≤ 1024 ∧ zeroAt m.body 1 3 = true ∧ fld m.body 4 4 + (m.body.length - 8) ≤ slotBytes ∧ s.ks.bootSlot ≠ some n) ∧
    (∃ (m : MgmtMsg) (s : State), ∃ t p, s.mgmtFor m = true ∧ s.ks.identityOk = true ∧ s.nonceCurrent m.nonce = true ∧ m.ownerSigOk = true ∧ s.ks.flash.owner.isSome = true ∧
      t = s.useNonce m.nonce ∧
      p = fld m.body 0 1 ∧ m.body.length = 1 ∧ p < 2 ∧ (t.host p).frozen = true) ∧
    (∃ (m : MgmtMsg) (s : State), ∃ t p, s.mgmtFor m = true ∧ s.ks.identityOk = true ∧ s.nonceCurrent m.nonce = true ∧ m.ownerSigOk = true ∧ s.ks.flash.owner.isSome = true ∧
      t = s.useNonce m.nonce ∧
      p = fld m.body 0 1 ∧ m.body.length = 1 ∧ p < 2 ∧ p ≠ t.ks.primary) ∧
    (∃ (m : MgmtMsg) (s : State), ∃ t, s.mgmtFor m = true ∧ s.ks.identityOk = true ∧ s.nonceCurrent m.nonce = true ∧ m.ownerSigOk = true ∧ s.ks.flash.owner.isSome = true ∧
      t = s.useNonce m.nonce ∧
      m.body.length = 2) ∧
    (∃ (m : MgmtMsg) (s : State), ∃ t u die i, s.mgmtFor m = true ∧ s.ks.identityOk = true ∧ s.nonceCurrent m.nonce = true ∧ m.ownerSigOk = true ∧ s.ks.flash.owner.isSome = true ∧
      t = s.useNonce m.nonce ∧
      u = fld m.body 0 1 ∧ die = fld m.body 1 1 ∧ i = fld m.body 2 2 ∧ m.body.length = 8 ∧ 1 ≤ u ∧ u < 8 ∧ zeroAt m.body 4 4 = true ∧
        t.live = true ∧ t.unitExists u die i = true ∧ t.testRefused u die i = false) ∧
    (∃ (m : MgmtMsg) (s : State), ∃ t p i n, s.mgmtFor m = true ∧ s.ks.identityOk = true ∧ s.nonceCurrent m.nonce = true ∧ m.ownerSigOk = true ∧ s.ks.flash.owner.isSome = true ∧
      t = s.useNonce m.nonce ∧
      p = fld m.body 0 1 ∧ i = fld m.body 1 1 ∧ n = fld m.body 2 2 ∧ m.body.length = 420 ∧ 1 ≤ n ∧ n ≤ 32 ∧ t.viaExists p = true ∧ i < 2 ∧ 
        (t.via.sessions.any fun x => x.1 / 256 == p && x.2.itf == i && x.2.state != .closed) = false) ∧
    (∃ (m : MgmtMsg) (s : State), ∃ t, s.mgmtFor m = true ∧ s.ks.identityOk = true ∧ s.nonceCurrent m.nonce = true ∧ m.ownerSigOk = true ∧ s.ks.flash.owner.isSome = true ∧
      t = s.useNonce m.nonce ∧
      m.body.length = 16) ∧
    (∃ (m : MgmtMsg) (s : State), ∃ t, s.mgmtFor m = true ∧ s.ks.identityOk = true ∧ s.nonceCurrent m.nonce = true ∧ m.ownerSigOk = true ∧ s.ks.flash.owner.isSome = true ∧
      t = s.useNonce m.nonce ∧
      m.body.length ≤ 1024) ∧
    (∃ (m : MgmtMsg) (s : State), ∃ t k, s.mgmtFor m = true ∧ s.ks.identityOk = true ∧ s.nonceCurrent m.nonce = true ∧ m.ownerSigOk = true ∧ s.ks.flash.owner.isSome = true ∧
      t = s.useNonce m.nonce ∧
      k = bayKey (fld m.body 0 1) (fld m.body 1 1) ∧ m.body.length = 2 ∧ fld m.body 0 1 < t.dieCount ∧ fld m.body 1 1 < 132 ∧ t.ks.flash.retired.contains k = true) ∧
    (∃ (m : MgmtMsg) (s : State), ∃ t, s.mgmtFor m = true ∧ s.ks.identityOk = true ∧ s.nonceCurrent m.nonce = true ∧ m.ownerSigOk = true ∧ s.ks.flash.owner.isSome = true ∧
      t = s.useNonce m.nonce ∧
      m.body.length = 384) ∧
    (∃ (m : MgmtMsg) (s : State), ∃ (t : _) (ks : SignedHdr) (es : SignedHdr) (n : _) (st : _), s.mgmtFor m = true ∧ s.ks.identityOk = true ∧ s.nonceCurrent m.nonce = true ∧ m.ownerSigOk = true ∧ s.ks.flash.owner.isSome = true ∧
      t = s.useNonce m.nonce ∧
      n = fld m.body 0 1 ∧ st = t.ks.flash.imagesStatus ks es ∧ m.body.length = 1 ∧ n < 2) ∧
    (∃ (m : MgmtMsg) (s : State), ∃ t v, s.mgmtFor m = true ∧ s.ks.identityOk = true ∧ s.nonceCurrent m.nonce = true ∧ m.ownerSigOk = true ∧ s.ks.flash.owner.isSome = true ∧
      t = s.useNonce m.nonce ∧
      v = fld m.body 4 4 ∧ m.body.length = 8 ∧ zeroAt m.body 1 3 = true ∧ fld m.body 0 1 = 0 ∧ t.ks.flash.fwFloor ≤ v ∧ v ≤ t.ks.fwVersion) ∧
    (∃ (m : MgmtMsg) (s : State), ∃ t v, s.mgmtFor m = true ∧ s.ks.identityOk = true ∧ s.nonceCurrent m.nonce = true ∧ m.ownerSigOk = true ∧ s.ks.flash.owner.isSome = true ∧
      t = s.useNonce m.nonce ∧
      v = fld m.body 4 4 ∧ m.body.length = 8 ∧ zeroAt m.body 1 3 = true ∧ fld m.body 0 1 = 1 ∧ t.ks.flash.recFloor ≤ v ∧ v ≤ t.ks.recVersion) ∧
    (∃ (m : MgmtMsg) (s : State), s.mgmtFor m = true ∧ s.ks.identityOk = true ∧ s.nonceCurrent m.nonce = true ∧ m.luotteSigOk = true ∧ m.body = []) ∧
    (∃ (s : State), ∃ f u, s.part.porN = true ∧
      f = s.ks.flash ∧ u = s.ks.unflushed) ∧
    (∃ (s : State), s.part.porN = true ∧ s.ks.identityOk = true) ∧
    (∃ (s : State), s.part.porN = true) :=
  ⟨⟨mg ([]), ownAt {}, zeros 32, zeros 32, by decide +kernel⟩,
   ⟨mg ([]), ownAt {}, by decide +kernel⟩,
   ⟨mg (zeros 384), live, by decide +kernel⟩,
   ⟨mg (zeros 1024), ownAt {}, 0, by decide +kernel⟩,
   ⟨mg ([0]), { ownAt {} with hosts := [{ ({} : HostPort) with frozen := true }, {}] }, _, 0, by decide +kernel, by decide +kernel, by decide +kernel, by decide +kernel, by decide +kernel, rfl, by decide +kernel⟩,
   ⟨mg ([1]), ownAt {}, _, 1, by decide +kernel, by decide +kernel, by decide +kernel, by decide +kernel, by decide +kernel, rfl, by decide +kernel⟩,
   ⟨mg ([1, 0]), ownAt {}, _, by decide +kernel, by decide +kernel, by decide +kernel, by decide +kernel, by decide +kernel, rfl, by decide +kernel⟩,
   ⟨mg ([2, 0, 0, 0, 0, 0, 0, 0]), ownAt {}, _, 2, 0, 0, by decide +kernel, by decide +kernel, by decide +kernel, by decide +kernel, by decide +kernel, rfl, by decide +kernel⟩,
   ⟨mg (pack [(1, 0), (1, 0), (2, 1)] ++ zeros 416), ownAt {}, _, 0, 0, 1, by decide +kernel, by decide +kernel, by decide +kernel, by decide +kernel, by decide +kernel, rfl, by decide +kernel⟩,
   ⟨mg (zeros 16), ownAt {}, _, by decide +kernel, by decide +kernel, by decide +kernel, by decide +kernel, by decide +kernel, rfl, by decide +kernel⟩,
   ⟨mg (zeros 1024), ownAt {}, _, by decide +kernel, by decide +kernel, by decide +kernel, by decide +kernel, by decide +kernel, rfl, by decide +kernel⟩,
   ⟨mg ([0, 131]), ownAt { ({} : Flash) with retired := [131] }, _, 131, by decide +kernel, by decide +kernel, by decide +kernel, by decide +kernel, by decide +kernel, rfl, by decide +kernel⟩,
   ⟨mg (zeros 384), ownAt {}, _, by decide +kernel, by decide +kernel, by decide +kernel, by decide +kernel, by decide +kernel, rfl, by decide +kernel⟩,
   ⟨mg ([1]), ownAt {}, _, ⟨true, true, true, true, 1, 0, 0, []⟩, ⟨true, true, true, true, 2, 0, 0, []⟩, 1, stOk, by decide +kernel, by decide +kernel, by decide +kernel, by decide +kernel, by decide +kernel, rfl, by decide +kernel⟩,
   ⟨mg (pack [(4, 0), (4, 9)]), ownAt {}, _, 9, by decide +kernel, by decide +kernel, by decide +kernel, by decide +kernel, by decide +kernel, rfl, by decide +kernel⟩,
   ⟨mg (pack [(4, 1), (4, 9)]), ownAt {}, _, 9, by decide +kernel, by decide +kernel, by decide +kernel, by decide +kernel, by decide +kernel, rfl, by decide +kernel⟩,
   ⟨mg ([]), ownAt {}, by decide +kernel⟩,
   ⟨ownAt {}, _, _, by decide +kernel, rfl, rfl⟩,
   ⟨ownAt {}, by decide +kernel⟩,
   ⟨ownAt {}, by decide +kernel⟩⟩

/-- Whether an outcome is a next state. -/
def isNext (o : Host.Outcome State Fault Refusal) : Bool := match o with | .next _ => true | _ => false

/-- The state of an outcome that is a next state. -/
def nextOf (o : Host.Outcome State Fault Refusal) : State := match o with | .next t => t | _ => {}

theorem nextOf_eq {o : Host.Outcome State Fault Refusal} (h : isNext o = true) : o = .next (nextOf o) := by
  cases o <;> first | rfl | cases h

/-- Both cases of StepRunsFrontCommand. -/
theorem test_StepRunsFrontCommand_witness :
    (∃ (c : Instr) (cs : List Instr) (s : State), s.pending = c :: cs) ∧ ∃ s : State, s.pending = [] :=
  ⟨⟨.porNRise, [.porNFall], { ({} : State) with pending := [.porNRise, .porNFall] }, rfl⟩, {}, rfl⟩

/-- A port of ResetState. -/
theorem test_ResetState_witness : ∃ p, p < 2 := ⟨1, by decide⟩

/-- A part whose next command stores one byte. -/
def storing : State :=
  { at1 0x99 (fl 0 1 2 0 0) [{ tF 0 256 with fmt := 2 }] (sregs [0, 0x55]) with pending := [.stS b0 (fl 0 1 2 0 0)] }

/-- StoresStayCanonical says something of a step that stores. -/
theorem test_StoresStayCanonical_witness : ∃ s t : State, (step s = .next t ∧ s.mem.wf = true) ∧ t.mem ≠ s.mem :=
  ⟨storing, nextOf (step storing), ⟨nextOf_eq (by decide +kernel), by decide +kernel⟩, by decide +kernel⟩

/-- FloorsOnlyRise says something of steps that raise either floor. -/
theorem test_FloorsOnlyRise_witness :
    (∃ s t : State, step s = .next t ∧ t.ks.flash.fwFloor ≠ s.ks.flash.fwFloor) ∧ ∃ s t : State, step s = .next t ∧ t.ks.flash.recFloor ≠ s.ks.flash.recFloor :=
  ⟨⟨{ ownAt {} with pending := [.advanceFloor (mg (pack [(4, 0), (4, 9)]))] },
    nextOf (step { ownAt {} with pending := [.advanceFloor (mg (pack [(4, 0), (4, 9)]))] }), nextOf_eq (by decide +kernel), by decide +kernel⟩,
   { ownAt {} with pending := [.advanceFloor (mg (pack [(4, 1), (4, 9)]))] },
    nextOf (step { ownAt {} with pending := [.advanceFloor (mg (pack [(4, 1), (4, 9)]))] }), nextOf_eq (by decide +kernel), by decide +kernel⟩

/-- OwnerOnlyByEnrolOrReset says something of a step that changes the owner. -/
theorem test_OwnerOnlyByEnrolOrReset_witness : ∃ s t : State, step s = .next t ∧ t.ks.flash.owner ≠ s.ks.flash.owner :=
  ⟨{ live with pending := [.enrollOwner (mg (zeros 384))] }, nextOf (step { live with pending := [.enrollOwner (mg (zeros 384))] }), nextOf_eq (by decide +kernel), by decide +kernel⟩

/-- RetirementEntriesStay says something of a step that clears one. -/
theorem test_RetirementEntriesStay_witness : ∃ (s t : State) (k : Nat), (step s = .next t ∧ k ∈ s.ks.flash.retired) ∧ k ∉ t.ks.flash.retired :=
  ⟨{ ownAt { ({} : Flash) with retired := [131] } with pending := [.clearRetirement (mg [0, 131])] },
   nextOf (step { ownAt { ({} : Flash) with retired := [131] } with pending := [.clearRetirement (mg [0, 131])] }), 131, ⟨nextOf_eq (by decide +kernel), by decide +kernel⟩, by decide +kernel⟩

/-- A part that has tripped, about to be held by POR_N. -/
def tripped : State := { live with part := { live.part with thermtripN := false }, pending := [.porNFall] }

/-- ThermtripHeldUntilPorN says something of a step that releases THERMTRIP_N. -/
theorem test_ThermtripHeldUntilPorN_witness : ∃ s t : State, (step s = .next t ∧ s.part.thermtripN = false) ∧ t.part.thermtripN = true :=
  ⟨tripped, nextOf (step tripped), ⟨nextOf_eq (by decide +kernel), by decide +kernel⟩, by decide +kernel⟩

/-- A bay with two strokes, the second one waiting. -/
def two : State :=
  { live with bays := [(0, { ({} : Bay) with slots := [run1 0x40 (fl 1 1 0 0 7) [] {}, { ({} : Running) with seq := 1 }] })] }

/-- RegisterInstructionFrame says something of an instruction that runs, of another bay and of another stroke. -/
theorem test_RegisterInstructionFrame_witness :
    ∃ (t : State) (r q : Running), exec (.smovi b0 (fl 1 1 0 0 7)) two = .next t ∧ t ≠ two ∧ bayKey 0 1 ≠ bayKey b0.die b0.bay ∧
      (two.bay b0.die b0.bay).issuing = some r ∧ q ∈ (two.bay b0.die b0.bay).slots ∧ q.seq ≠ r.seq :=
  ⟨nextOf (exec (.smovi b0 (fl 1 1 0 0 7)) two), run1 0x40 (fl 1 1 0 0 7) [] {}, { ({} : Running) with seq := 1 },
   nextOf_eq (by decide +kernel), by decide +kernel⟩

/-- A window of host port 0. -/
def winAt : State := atlAt {} pool1 { ({} : HostPort) with wins := [(0, { ({} : Win) with job := 1, valid := true, writable := true })] }

/-- A stroke about to store a register of elements, or of side bytes. -/
def stAt (i : Nat) : State := at1 0x98 (fl 0 1 2 1 i) [tB 2048] { sregs [0, 0, 0] with p := List.replicate 8 5#64 }

/-- StoresLeaveOtherBytes says something of each kind of store, with the byte just after the stored ones. -/
theorem test_StoresLeaveOtherBytes_witness :
    (∃ (s t : State) (r : Running), s.mem.wf = true ∧ s.atStroke b0 0x99 (fl 0 1 2 0 0) = some r ∧ exec (.stS b0 (fl 0 1 2 0 0)) s = .next t ∧ t.mem ≠ s.mem) ∧
    (∃ (s t : State) (r : Running), s.mem.wf = true ∧ s.atStroke b0 0x98 (fl 0 1 2 1 0) = some r ∧ exec (.st b0 (fl 0 1 2 1 0)) s = .next t ∧
      ∀ k ∈ r.moved (modOf false (fl 0 1 2 1 0)) (r.desc 0).fmt, ((r.desc 0).bitAt ((r.desc 0).off 0) + 8 * k + 8 + 7) / 8 ≤ sramDpa 0 0 (4096 + 12)) ∧
    (∃ (s t : State) (r : Running), s.mem.wf = true ∧ s.atStroke b0 0x98 (fl 0 1 2 1 0x100) = some r ∧ exec (.st b0 (fl 0 1 2 1 0x100)) s = .next t ∧
      ∀ l ∈ r.sideLanes (modOf false (fl 0 1 2 1 0x100)), sramDpa 0 0 (8192 + 3) ≠ (r.desc 0).sideAddr (0 + l)) ∧
    (∃ s t : State, s.mem.wf = true ∧ (∀ x ∈ s.winBytes 0 0x10000 1, s.winRule1 true x = false ∧ s.winRule3 x = false ∧ s.winRule5 x = false) ∧
      exec (.bar4Write 0 0x10000 [7]) s = .next t ∧ (∀ x ∈ s.winBytes 0 0x10000 1, 0x10001 ≠ x.2) ∧ t.mem ≠ s.mem) :=
  ⟨⟨storing, nextOf (exec (.stS b0 (fl 0 1 2 0 0)) storing), run1 0x99 (fl 0 1 2 0 0) [{ tF 0 256 with fmt := 2 }] (sregs [0, 0x55]), by decide +kernel, by decide +kernel,
     nextOf_eq (by decide +kernel), by decide +kernel⟩,
   ⟨stAt 0, nextOf (exec (.st b0 (fl 0 1 2 1 0)) (stAt 0)), run1 0x98 (fl 0 1 2 1 0) [tB 2048] { sregs [0, 0, 0] with p := List.replicate 8 5#64 },
     by decide +kernel, by decide +kernel, nextOf_eq (by decide +kernel), by decide +kernel⟩,
   ⟨stAt 0x100, nextOf (exec (.st b0 (fl 0 1 2 1 0x100)) (stAt 0x100)), run1 0x98 (fl 0 1 2 1 0x100) [tB 2048] { sregs [0, 0, 0] with p := List.replicate 8 5#64 },
     by decide +kernel, by decide +kernel, nextOf_eq (by decide +kernel), by decide +kernel⟩,
   ⟨winAt, nextOf (exec (.bar4Write 0 0x10000 [7]) winAt), by decide +kernel, by decide +kernel, nextOf_eq (by decide +kernel), by decide +kernel, by decide +kernel⟩⟩

/-- A block of zeros with anchor 171, the greatest element just below 2^62 in it, and contributions to it. -/
def blk1 : Bx := ⟨171, (2 ^ 62 - 8) :: List.replicate 31 0⟩

/-- A contribution of one value and zeros. -/
def con1 (v : Val) : List Val := v :: List.replicate 31 (.fin false 0 1 0)

/-- BlockAccumulationOrderFree: sums that fit, a sum at 2^62 and a marker. -/
theorem test_BlockAccumulationOrderFree_witness :
    (∃ (b : Bx) (cs ds : List (List Val)), 1 ≤ b.anchor ∧ b.anchor ≤ 254 ∧ b.ns.length = 32 ∧ (∀ n ∈ b.ns, n < 2 ^ 64 ∧ (sgn 64 n).natAbs < 2 ^ 62) ∧
      (∀ v ∈ cs, v.length = 32) ∧ cs.Perm ds ∧ cs ≠ ds ∧ (∀ v ∈ cs, bxMarker v = none) ∧
      ∀ i, i < 32 → ((sgn 64 (at' 0 b.ns i) :: cs.map fun v => bxAlign b.anchor (at' .nan v i)).map fun a => max a 0).sum < 2 ^ 62 ∧
        ((sgn 64 (at' 0 b.ns i) :: cs.map fun v => bxAlign b.anchor (at' .nan v i)).map fun a => max (-a) 0).sum < 2 ^ 62) ∧
    (∃ (b : Bx) (cs ds : List (List Val)), 1 ≤ b.anchor ∧ b.anchor ≤ 254 ∧ b.ns.length = 32 ∧ (∀ n ∈ b.ns, n < 2 ^ 64 ∧ (sgn 64 n).natAbs < 2 ^ 62) ∧
      (∀ v ∈ cs, v.length = 32) ∧ cs.Perm ds ∧ (∀ v ∈ cs, bxMarker v = none) ∧
      ∃ i, i < 32 ∧ 2 ^ 62 ≤ (sgn 64 (at' 0 b.ns i) :: cs.map fun v => bxAlign b.anchor (at' .nan v i)).sum.natAbs) ∧
    (∃ (b : Bx) (cs ds : List (List Val)) (k : Nat), b.ns.length = 32 ∧ (∀ v ∈ cs, v.length = 32) ∧ cs.Perm ds ∧ bxMarker cs.flatten = some k) :=
  ⟨⟨blk1, [con1 (.fin false 3 1 0), con1 (.fin true 1 1 0)], [con1 (.fin true 1 1 0), con1 (.fin false 3 1 0)], by decide +kernel, by decide +kernel, by decide +kernel,
     by decide +kernel, by decide +kernel, List.Perm.swap _ _ [], by decide +kernel, by decide +kernel, by decide +kernel⟩,
   ⟨blk1, [con1 (.fin false 8 1 0)], [con1 (.fin false 8 1 0)], by decide +kernel, by decide +kernel, by decide +kernel, by decide +kernel, by decide +kernel,
     List.Perm.refl _, by decide +kernel, 0, by decide +kernel⟩,
   ⟨blk1, [con1 (.inf true)], [con1 (.inf true)], 3, by decide +kernel, by decide +kernel, List.Perm.refl _, by decide +kernel⟩⟩

/-- TileShapeRegister at the greatest shape. -/
theorem test_TileShapeRegister_witness : ∃ (r : Running) (f : Fields), (r.sreg f.dst).extractLsb' 26 6 = BitVec.ofNat 6 (64 - 1) ∧
    (r.sreg f.dst).extractLsb' 20 6 = BitVec.ofNat 6 (64 - 1) ∧ (r.sreg f.dst).extractLsb' 0 20 = BitVec.ofNat 20 (2 ^ 20 - 1) :=
  ⟨sregs [0, 0, 0, 0xFFFFFFFF], fl 3 0 0 0 0, by decide +kernel⟩

/-- StrokeWordRoundTrip at the greatest opcode. -/
theorem test_StrokeWordRoundTrip_witness : ∃ op, op < 256 := ⟨255, by decide⟩

/-- Every check of a stroke instruction word refuses its ill-formed word (05 R112, R115, R116; 02 R58, R60; 06 R164). -/
theorem test_wf_refuses_strokes : ∀ x ∈ ([
    (0xFF, fl 0 0 0 0 0),                                 -- no such opcode
    (0x00, fl 1 0 0 0 0), (0x40, fl 32 0 0 0 0),          -- an unused field, an s register above s31
    (0x58, fl 8 1 0 0 0),                                 -- a p register above p7
    (0x20, fl 1 2 3 0 1),                                 -- a reserved immediate bit
    (0x30, fl 1 2 3 0x20 0), (0x20, fl 1 2 3 8 0),        -- STRICT not allowed, a rounding direction without STRICT
    (0x4A, fl 1 2 3 1 0),                                 -- a predicate not allowed
    (0x2B, fl 0 1 2 0 0), (0x57, fl 0 1 2 0 0),           -- p0 as destination
    (0xA0, fl 0 0 1 2 0x00010100),                        -- an index descriptor without the index bit
    (0xC8, fl 0 1 0 0 0x30), (0xC9, fl 0 0 0 0 0x480000), (0xCA, fl 0 0 0 0 0x500),
    (0x81, fl 0 1 0 0 7), (0x89, fl 0 1 2 0 4), (0x8B, fl 0 1 2 0 1), (0x8B, fl 0 1 2 0 17), (0x68, fl 0 1 2 0 0),
    (0x70, fl 1 2 0 0 0x30), (0x70, fl 1 2 0 0 0x210), (0x71, fl 1 2 0 0 0x03), (0x72, fl 0 2 0 0 0x03)] : List (Nat × Fields)),
    strokeOk x.1 x.2 = false := by
  decide +kernel

/-- The instructions of the worked stroke (05, after R144) and of the quantisation (06 R164) are well formed. -/
theorem test_wf_accepts_examples : ∀ x ∈ ([(0x95, fl 1 0 0 0 0), (0x95, fl 4 0 0 0 1), (0x10, fl 4 1 2 3 0x00010200), (0xC9, fl 0 0 0 0 0x00450200),
    (0xC9, fl 0 0 0 0 0x00430221), (0x0F, fl 0 0 0 0 7), (0x72, fl 20 8 0 0 3), (0x71, fl 21 8 0 20 3), (0x71, fl 22 21 20 0 0x30)] : List (Nat × Fields)),
    strokeOk x.1 x.2 = true := by
  decide +kernel

/-- The operand ranges of the other commands. -/
theorem test_wf_refuses_others : Instr.wf (.nop ⟨0, 132⟩ (fl 0 0 0 0 0)) = false ∧ Instr.wf (.nop ⟨8, 0⟩ (fl 0 0 0 0 0)) = false ∧
    Instr.wf (.mbxPost 2 0 none) = false ∧ Instr.wf (.mbxDone 2 0) = false ∧ Instr.wf (.hifCtrl 2 0) = false ∧
    Instr.wf (.mailboxResponse 0 64 true) = false ∧ Instr.wf (.flitReceive (.sp 0) true []) = false ∧ Instr.wf (.flitReceive (.sp 16) true (zeros 268)) = false ∧
    Instr.wf (.ethernetFrameReceive 0 2 frame1) = false := by
  decide +kernel

/-- The opcode table gives its rows no bits, so no word spells a command. -/
theorem test_no_word_spells_a_command : decodeTableWord 64 0x9504000000000000 = none := rfl

/-- The encodings of the worked stroke (05, after R144) and of the quantisation (06 R164). -/
theorem test_stroke_words : encodeWord 0x95 (fl 1 0 0 0 0) = 0x9504000000000000#64 ∧ encodeWord 0x95 (fl 4 0 0 0 1) = 0x9510000000000001#64 ∧
    encodeWord 0x10 (fl 4 1 2 3 0x00010200) = 0x1010108300010200#64 ∧ encodeWord 0xC9 (fl 0 0 0 0 0x00450200) = 0xC900000000450200#64 ∧
    encodeWord 0xC9 (fl 0 0 0 0 0x00430221) = 0xC900000000430221#64 ∧ encodeWord 0x0F (fl 0 0 0 0 7) = 0x0F00000000000007#64 ∧
    encodeWord 0x72 (fl 20 8 0 0 3) = 0x7250800000000003#64 ∧ encodeWord 0x71 (fl 21 8 0 20 3) = 0x7154801400000003#64 ∧
    encodeWord 0x71 (fl 22 21 20 0 0x30) = 0x7159550000000030#64 := by
  decide +kernel

/-- The stroke of a part after a command. -/
def strokeIn (t : State) : Running := (t.bay 0 0).slots.headD {}

/-- v8 of the quantisation example (06 R164). -/
def v8ex : Lanes := [0x40466666#32, 0xBF333333#32, 0x3C4985F0#32, 0x39800000#32, 0x3727C5AC#32, 0x3649539C#32] ++ List.replicate 26 0#32 ++ List.replicate 32 0x3F800000#32

/-- Registers with v8, v20 and v21 of the example. -/
def exRegs (v20 v21 : Lanes) : Running := { ({} : Running) with v := (List.range 64).map fun i => if i = 8 then v8ex else if i = 20 then v20 else if i = 21 then v21 else List.replicate 64 0#32 }

/-- XSIDE of the example (06 R164): the scales 0x78 and 0x77. -/
theorem test_xside_example :
    (((strokeIn (nextOf (exec (.xside b0 (fl 20 8 0 0 3)) (at1 0x72 (fl 20 8 0 0 3) [] (exRegs (List.replicate 64 0#32) []))))).v.getD 20 []).take 2) = [0x78#32, 0x77#32] := by
  decide +kernel

/-- XCVT of the example: the codes of the worked E4M3 conversion (02 R45), packed, and one underflow. -/
theorem test_xcvt_example :
    let r := strokeIn (nextOf (exec (.xcvt b0 (fl 21 8 0 20 3)) (at1 0x71 (fl 21 8 0 20 3) [] (exRegs (0x78#32 :: 0x77#32 :: List.replicate 62 0#32) []))))
    (r.v.getD 21 []).take 16 = [0x103DEB7C#32, 1#32] ++ List.replicate 6 0#32 ++ List.replicate 8 0x78787878#32 ∧ r.exc.getD 3 0 = 1 := by
  decide +kernel

/-- XCVT back: 3.0, -0.6875, 0.0126953125, 2^-12, 2^-16, 0, and 1.0. -/
theorem test_xcvt_back_example :
    let v := ((strokeIn (nextOf (exec (.xcvt b0 (fl 22 21 20 0 0x30)) (at1 0x71 (fl 22 21 20 0 0x30) [] (exRegs (0x78#32 :: 0x77#32 :: List.replicate 62 0#32)
      ([0x103DEB7C#32, 1#32] ++ List.replicate 6 0#32 ++ List.replicate 8 0x78787878#32 ++ List.replicate 48 0#32)))))).v.getD 22 [])
    v.take 6 = [0x40400000#32, 0xBF300000#32, 0x3C500000#32, 0x39800000#32, 0x37800000#32, 0x00000000#32] ∧ v.drop 32 = List.replicate 32 0x3F800000#32 := by
  decide +kernel

/-- The DPA of byte 0x4000 of bay (2, 5) on die 4 (00 R15), and the window entry that reaches it (16 R416). -/
theorem test_dpa_example : sramDpa 4 29 0x4000 = 0x90001D004000 ∧
    (({ ({} : Win) with job := 0x12, base := 0x900000000000 / 2 ^ 30, valid := true, writable := true }).word = 0x0012900000000003) := by
  decide +kernel

/-- The BX64 accumulation example (02 R52). -/
theorem test_accumulate_example :
    let c := fun (m : Int) (e : Int) => con1 (.fin (decide (m < 0)) m.natAbs 1 e)
    let s1 := (bxAccum (bxZero 129) (c (2 ^ 43 + 2 ^ 41) (129 - 171))).1
    let s2 := (bxAccum s1 (c (-(2 ^ 41 + 2 ^ 40)) (129 - 171))).1
    let s3 := (bxAccum s2 (c (-5) (127 - 171))).1
    s1.ns.headD 0 = 0x00000A0000000000 ∧ s2.ns.headD 0 = 0x0000070000000000 ∧ s3.ns.headD 0 = 0x000006FFFFFFFFFF := by
  decide +kernel

/-- 1.23 as BF16, FP16 and INT32 to nearest and upward (02 R55). -/
theorem test_convert_example : (plainCode 1 (fpVal 0x3F9D70A4#32)).1 = 0x3F9D ∧ (plainCode 2 (fpVal 0x3F9D70A4#32)).1 = 0x3CEC ∧
    (i32OfVal .ne (fpVal 0x3F9D70A4#32)).1 = 1 ∧ (i32OfVal .up (fpVal 0x3F9D70A4#32)).1 = 2 := by
  decide +kernel

/-- The palette example's histogram (09 R227): lengths, codewords of ten symbols, and the table's lengths bytes. -/
theorem test_palette_example :
    let n := [1200, 600, 400, 200, 150, 80, 16, 2, 0, 600, 400, 200, 150, 80, 16, 2]
    let l := palLengths 16 n
    l = [2, 3, 3, 4, 5, 6, 8, 9, 0, 3, 3, 4, 5, 5, 7, 9] ∧
    (palCodes l).take 8 = [0, 2, 3, 12, 28, 62, 254, 510] ∧ (palCodes l).drop 9 = [4, 5, 13, 29, 30, 126, 511] ∧
    ((palImage 7 1 l).drop 16).take 9 = [0x32, 0x43, 0x65, 0x98, 0x30, 0x43, 0x55, 0x97, 0] := by
  decide +kernel

/-- The draw order of ten slots with seed 0 and pass 0 (13 R351). -/
theorem test_draw_example : (List.range 10).map (drawPi 0 0 10) = [9, 2, 7, 0, 6, 8, 3, 5, 1, 4] ∧
    (List.range 16).map (drawE 0 0 2) = [11, 2, 7, 13, 6, 10, 3, 12, 15, 4, 8, 14, 5, 0, 9, 1] := by
  decide +kernel

/-- One parameter of the Varnish example (11 R288, R295), and its learning rate. -/
theorem test_varnish_example :
    let k : SliceK := ⟨1, false, 0x3F600000#32, 0x3F600000#32, 0x3D000000#32, 0x3F800000#32, 0x35800000#32, 0x3E000000#32, 99⟩
    (k.param 0x3F800000#32 (fpVal 0x3E400000#32) ⟨0x3F800000#32, 0x3C800000#32, -200, 0⟩ none).1 = ⟨0x3F7FFFFF#32, 0x3C880000#32, 14064, 0⟩ ∧
    (({ ({} : Shard) with raw := zeros 6 ++ pack [(1, 1), (1, 0)] ++ zeros 0x24 ++ pack [(4, 0x36000000), (4, 0), (4, 200), (4, 10000)] ++ zeros 68 }).etaAt 99 = 0x35800000#32) := by
  decide +kernel


end Sys2Proof.Tests
end

section
/-! PROOFS. BX64 accumulation (02 R49 to R51): what one accumulate does to a numeric and to a non-numeric block, the exact sums in every
order, and the set of markers that decides a non-numeric result. -/

namespace Sys2Proof.Proofs

open Sys2Proof Sys2Proof.Machine

/-! ### Two's complement of 64 bits -/

theorem sgn_unsgn {x : Int} (h : x.natAbs < 2 ^ 62) : sgn 64 (unsgn 64 x) = x := by
  simp only [sgn, unsgn, Nat.add_one_sub_one]; split_ifs <;> omega

theorem unsgn_sgn {n : Nat} (h : n < 2 ^ 64) : unsgn 64 (sgn 64 n) = n := by
  simp only [sgn, unsgn]; split_ifs <;> omega

/-! ### Sums whose one-signed parts fit (02 R50) -/

/-- The premise of R50 for one element: the positive terms sum below 2^62, and so do the magnitudes of the negative ones. -/
def PartsFit (xs : List Int) : Prop :=
  (xs.map fun a => max a 0).sum < 2 ^ 62 ∧ (xs.map fun a => max (-a) 0).sum < 2 ^ 62

theorem PartsFit.perm {xs ys : List Int} (h : PartsFit xs) (p : xs.Perm ys) : PartsFit ys := by
  obtain ⟨hp, hn⟩ := h
  exact ⟨(p.map fun a => max a 0).sum_eq ▸ hp, (p.map fun a => max (-a) 0).sum_eq ▸ hn⟩

theorem PartsFit.add_head {x y : Int} {xs : List Int} (h : PartsFit (x :: y :: xs)) : PartsFit ((x + y) :: xs) := by
  simp only [PartsFit, List.map_cons, List.sum_cons] at h ⊢
  omega

/-- Every term, hence every partial sum, lies between the negative and the positive total. -/
theorem PartsFit.natAbs_lt {x : Int} {xs : List Int} (h : PartsFit xs) (hx : x ∈ xs) : x.natAbs < 2 ^ 62 := by
  obtain ⟨hp, hn⟩ := h
  have part_le (g : Int → Int) (hg : ∀ a, 0 ≤ g a) : g x ≤ (xs.map g).sum :=
    List.single_le_sum (by simpa using fun a _ => hg a) _ (List.mem_map_of_mem hx)
  have := part_le (fun a => max a 0) (by omega)
  have := part_le (fun a => max (-a) 0) (by omega)
  omega

/-! ### The marker that a set of values decides (02 R51) -/

/-- The table of R51, over the members of a list. -/
theorem bxMarker_eq (xs : List Val) : bxMarker xs =
    if .nan ∈ xs ∨ (.inf false ∈ xs ∧ .inf true ∈ xs) then some 1 else if .inf false ∈ xs then some 2
    else if .inf true ∈ xs then some 3 else if .sat ∈ xs then some 4 else none := by
  simp [bxMarker]

/-- The result depends only on the set of markers. -/
theorem bxMarker_congr {xs ys : List Val} (h : ∀ m ∈ [Val.nan, .inf false, .inf true, .sat], m ∈ xs ↔ m ∈ ys) :
    bxMarker xs = bxMarker ys := by
  simp only [List.forall_mem_cons] at h
  obtain ⟨hnan, hpos, hneg, hsat, -⟩ := h
  simp only [bxMarker_eq, hnan, hpos, hneg, hsat]

theorem bxMarker_perm {xs ys : List Val} (p : xs.Perm ys) : bxMarker xs = bxMarker ys :=
  bxMarker_congr fun _ _ => p.mem_iff

theorem bxMarker_eq_none {xs : List Val} : bxMarker xs = none ↔ ∀ m ∈ [Val.nan, .inf false, .inf true, .sat], m ∉ xs := by
  simp only [bxMarker_eq, List.forall_mem_cons]
  split_ifs <;> simp <;> tauto

theorem bxMarker_append_of_none {xs : List Val} (h : bxMarker xs = none) (ys : List Val) : bxMarker (xs ++ ys) = bxMarker ys :=
  bxMarker_congr fun m hm => by simp [bxMarker_eq_none.1 h m hm]

theorem bxMarker_flatten_of_none {cs : List (List Val)} (h : ∀ v ∈ cs, bxMarker v = none) : bxMarker cs.flatten = none :=
  bxMarker_eq_none.2 fun m hm hc => by
    obtain ⟨v, hv, hmv⟩ := List.mem_flatten.1 hc
    exact bxMarker_eq_none.1 (h v hv) m hm hmv

/-- Saturated is the weakest marker. -/
theorem bxMarker_sat_cons (xs : List Val) : bxMarker (.sat :: xs) = some ((bxMarker xs).getD 4) := by
  simp only [bxMarker_eq, List.mem_cons, reduceCtorEq, false_or, true_or, if_true]
  split_ifs <;> rfl

theorem bxMarker_append_isSome {xs : List Val} {k : Nat} (h : bxMarker xs = some k) (ys : List Val) :
    ∃ k', bxMarker (xs ++ ys) = some k' := by
  refine Option.ne_none_iff_exists'.1 fun hn => ?_
  have hx : bxMarker xs = none := bxMarker_eq_none.2 fun m hm hmx => bxMarker_eq_none.1 hn m hm (List.mem_append_left _ hmx)
  simp [hx] at h

/-! ### One accumulate (02 R49, R51) -/

/-- An element of a special block stands for all the markers that decided its sub-code. -/
theorem special_vals {xs : List Val} {k : Nat} (h : bxMarker xs = some k) :
    ∃ m, (bxSpecial k).vals.take 1 = [m] ∧ ∀ ys, bxMarker (m :: ys) = bxMarker (xs ++ ys) := by
  rw [bxMarker_eq] at h
  split_ifs at h with hnan hpos hneg hsat <;> obtain rfl := Option.some.inj h
  · exact ⟨.nan, rfl, fun ys => by grind [bxMarker_eq]⟩
  · exact ⟨.inf false, rfl, fun ys => by grind [bxMarker_eq]⟩
  · exact ⟨.inf true, rfl, fun ys => by grind [bxMarker_eq]⟩
  · exact ⟨.sat, rfl, fun ys => by grind [bxMarker_eq]⟩

/-- A special block takes the markers of a contribution into its set and ignores the numbers. -/
theorem bxAccum_special {xs : List Val} {k : Nat} (h : bxMarker xs = some k) (v : List Val) :
    ∃ k', bxMarker (xs ++ v) = some k' ∧ (bxAccum (bxSpecial k) v).1 = bxSpecial k' := by
  obtain ⟨m, hm, hstand⟩ := special_vals h
  obtain ⟨k', hk'⟩ := bxMarker_append_isSome h v
  have hset : ∀ p : Val → Bool, (∀ x ∈ [Val.nan, .inf false, .inf true, .sat], p x = true) →
      bxMarker ((bxSpecial k).vals.take 1 ++ v.filter p) = some k' := fun p hp => by
    rw [hm, ← hk', ← hstand]
    exact bxMarker_congr fun x hx => by simp [hp x hx]
  refine ⟨k', hk', ?_⟩
  have hanchor : (bxSpecial k).anchor = 255 := rfl
  simp only [bxAccum, hanchor, if_true]
  rw [hset _ (by simp)]

/-- A marker replaces a numeric block. -/
theorem bxAccum_marker {b : Bx} {v : List Val} {k : Nat} (hb : b.anchor ≠ 255) (h : bxMarker v = some k) :
    (bxAccum b v).1 = bxSpecial k := by
  simp only [bxAccum, hb, h, if_false]

/-- A numeric contribution leaves a numeric block on its anchor or saturates it. -/
theorem bxAccum_numeric_anchor {b : Bx} {v : List Val} (hb : b.anchor ≠ 255) (h : bxMarker v = none) :
    (bxAccum b v).1 = bxSpecial 4 ∨ (bxAccum b v).1.anchor = b.anchor := by
  simp only [bxAccum, hb, h, if_false]
  split
  · exact .inl rfl
  · exact .inr rfl

/-- The numeric block of 32 integers. -/
def numBlock (a : Nat) (f : Nat → Int) : Bx := ⟨a, (List.range 32).map fun i => unsgn 64 (f i)⟩

/-- The aligned element `i` of a contribution (02 R49). -/
def alignedAt (a : Nat) (v : List Val) (i : Nat) : Int := bxAlign a (at' .nan v i)

theorem map_at' {α β : Type} (g : α → β) (d : α) {xs : List α} {n : Nat} (h : xs.length = n) :
    xs.map g = (List.range n).map fun i => g (at' d xs i) := by
  refine List.ext_getElem (by simp [h]) fun i h1 h2 => ?_
  have hi : i < xs.length := by simpa using h1
  simp [at', hi]

theorem bxAdd_sums (f g : Nat → Int) :
    (bxAdd ((List.range 32).map f) ((List.range 32).map g)).1 = (List.range 32).map fun i => f i + g i := by
  simp [bxAdd, List.zipWith_map]

theorem bxAdd_saturates (f g : Nat → Int) : (bxAdd ((List.range 32).map f) ((List.range 32).map g)).2 = true ↔
    ¬ ∀ i < 32, (g i).natAbs < 2 ^ 62 ∧ (f i + g i).natAbs < 2 ^ 62 := by
  simp only [bxAdd, bxLimit, List.zipWith_map, List.zipWith_self, Bool.or_eq_true, List.any_eq_true, List.mem_map, List.mem_range]
  grind

/-- A numeric accumulate adds the aligned elements, unless one of them or a sum reaches 2^62 (02 R49). -/
theorem bxAccum_numBlock {a : Nat} {f : Nat → Int} {v : List Val} (ha : a ≠ 255) (hf : ∀ i < 32, (f i).natAbs < 2 ^ 62)
    (hv : bxMarker v = none) (hlen : v.length = 32) :
    (bxAccum (numBlock a f) v).1 =
      if ∀ i < 32, (alignedAt a v i).natAbs < 2 ^ 62 ∧ (f i + alignedAt a v i).natAbs < 2 ^ 62
      then numBlock a fun i => f i + alignedAt a v i else bxSpecial 4 := by
  have hold : (numBlock a f).ns.map (sgn 64) = (List.range 32).map f := by
    simp only [numBlock, List.map_map]
    exact List.map_congr_left fun i hi => sgn_unsgn (hf i (List.mem_range.1 hi))
  have hnew : v.map (bxAlign a) = (List.range 32).map (alignedAt a v) := map_at' _ .nan hlen
  have hanchor : (numBlock a f).anchor = a := rfl
  simp only [bxAccum, hanchor, ha, hv, hold, hnew, bxAdd_sums, bxAdd_saturates, if_false]
  by_cases hfit : ∀ i < 32, (alignedAt a v i).natAbs < 2 ^ 62 ∧ (f i + alignedAt a v i).natAbs < 2 ^ 62
  · rw [if_pos hfit, if_neg (not_not.2 hfit)]
    simp [numBlock]
  · rw [if_neg hfit, if_pos hfit]

/-! ### Accumulating a list of contributions -/

/-- The contributions of a list accumulated into a block, first to last. -/
def accumAll (b : Bx) (cs : List (List Val)) : Bx := cs.foldl (fun x v => (bxAccum x v).1) b

@[simp] theorem accumAll_nil (b : Bx) : accumAll b [] = b := rfl

@[simp] theorem accumAll_cons (b : Bx) (v : List Val) (cs : List (List Val)) :
    accumAll b (v :: cs) = accumAll (bxAccum b v).1 cs := rfl

/-- A special block ends as the markers it held and those of the contributions decide, saturated ones included (02 R51). -/
theorem accumAll_special {xs : List Val} {k k' : Nat} {cs : List (List Val)} (h : bxMarker xs = some k)
    (h' : bxMarker (xs ++ cs.flatten) = some k') : accumAll (bxSpecial k) cs = bxSpecial k' := by
  induction cs generalizing xs k with
  | nil => simp_all
  | cons v cs ih =>
    obtain ⟨j, hj, hstep⟩ := bxAccum_special h v
    rw [accumAll_cons, hstep]
    exact ih hj (by simpa using h')

theorem accumAll_saturated {cs : List (List Val)} (h : ∀ v ∈ cs, bxMarker v = none) :
    accumAll (bxSpecial 4) cs = bxSpecial 4 :=
  accumAll_special (xs := [.sat]) rfl (by simp [bxMarker_sat_cons, bxMarker_flatten_of_none h])

/-- Markers among the contributions to a numeric block decide it, whether or not its numbers saturated it before (02 R51). -/
theorem accumAll_marker {b : Bx} {k : Nat} {cs : List (List Val)} (hb : b.anchor ≠ 255) (h : bxMarker cs.flatten = some k) :
    accumAll b cs = bxSpecial k := by
  induction cs generalizing b with
  | nil => simp [bxMarker] at h
  | cons v cs ih =>
    rw [List.flatten_cons] at h
    rw [accumAll_cons]
    cases hv : bxMarker v with
    | some c => rw [bxAccum_marker hb hv, accumAll_special hv h]
    | none =>
      rw [bxMarker_append_of_none hv] at h
      rcases bxAccum_numeric_anchor hb hv with hsat | hanchor
      · rw [hsat]
        exact accumAll_special (xs := [.sat]) rfl (by simp [bxMarker_sat_cons, h])
      · exact ih (hanchor ▸ hb) h

/-- The terms of element `i`: what the block holds and what each contribution adds. -/
def termsAt (a : Nat) (f : Nat → Int) (cs : List (List Val)) (i : Nat) : List Int := f i :: cs.map fun v => alignedAt a v i

theorem termsAt_perm {cs ds : List (List Val)} (p : cs.Perm ds) (a : Nat) (f : Nat → Int) (i : Nat) :
    (termsAt a f cs i).Perm (termsAt a f ds i) := (p.map _).cons _

theorem sum_termsAt_cons (a : Nat) (f : Nat → Int) (v : List Val) (cs : List (List Val)) (i : Nat) :
    (termsAt a f (v :: cs) i).sum = (termsAt a (fun i => f i + alignedAt a v i) cs i).sum := by
  simp [termsAt, add_assoc]

section
variable {a : Nat} {f : Nat → Int} {cs : List (List Val)}

/-- Where the one-signed sums fit, no partial sum saturates and the block holds the exact sums (02 R50). -/
theorem accumAll_exact (ha : a ≠ 255) (hv : ∀ v ∈ cs, bxMarker v = none) (hlen : ∀ v ∈ cs, v.length = 32)
    (hfit : ∀ i < 32, PartsFit (termsAt a f cs i)) :
    accumAll (numBlock a f) cs = numBlock a fun i => (termsAt a f cs i).sum := by
  induction cs generalizing f with
  | nil => simp [termsAt]
  | cons v cs ih =>
    simp only [List.forall_mem_cons] at hv hlen
    have hstep : ∀ i < 32, PartsFit (termsAt a (fun i => f i + alignedAt a v i) cs i) := fun i hi => (hfit i hi).add_head
    rw [accumAll_cons, bxAccum_numBlock ha (fun i hi => (hfit i hi).natAbs_lt (by simp [termsAt])) hv.1 hlen.1,
      if_pos fun i hi => ⟨(hfit i hi).natAbs_lt (by simp [termsAt]), (hstep i hi).natAbs_lt (by simp [termsAt])⟩,
      ih hv.2 hlen.2 hstep]
    simp only [sum_termsAt_cons]

/-- A block whose total reaches 2^62 in some element ends saturated: a block never saturated holds totals below it. -/
theorem accumAll_overflow (ha : a ≠ 255) (hf : ∀ i < 32, (f i).natAbs < 2 ^ 62) (hv : ∀ v ∈ cs, bxMarker v = none)
    (hlen : ∀ v ∈ cs, v.length = 32) (hover : ∃ i < 32, 2 ^ 62 ≤ (termsAt a f cs i).sum.natAbs) :
    accumAll (numBlock a f) cs = bxSpecial 4 := by
  induction cs generalizing f with
  | nil =>
    obtain ⟨i, hi, hsum⟩ := hover
    have := hf i hi
    simp [termsAt] at hsum
    omega
  | cons v cs ih =>
    simp only [List.forall_mem_cons] at hv hlen
    rw [accumAll_cons, bxAccum_numBlock ha hf hv.1 hlen.1]
    split_ifs with hfit
    · exact ih (fun i hi => (hfit i hi).2) hv.2 hlen.2 (by simpa only [sum_termsAt_cons] using hover)
    · exact accumAll_saturated hv.2
end

/-- The integer that element `i` of a numeric block spells (02 R47). -/
def intAt (b : Bx) (i : Nat) : Int := sgn 64 (at' 0 b.ns i)

/-- A block of 32 words is the numeric block of the integers they spell. -/
theorem numBlock_intAt {b : Bx} (hlen : b.ns.length = 32) (hns : ∀ n ∈ b.ns, n < 2 ^ 64) : numBlock b.anchor (intAt b) = b := by
  have h : b.ns.map (fun n => unsgn 64 (sgn 64 n)) = b.ns := by
    simpa using List.map_congr_left fun n hn => unsgn_sgn (hns n hn)
  rw [map_at' _ 0 hlen] at h
  exact congrArg (Bx.mk b.anchor) h

/-- Settles O58: exact sums where they fit, saturation where a total does not (R50), and else the set of markers (R51). -/
theorem blockAccumulationOrderFree : Obligations.BlockAccumulationOrderFree := by
  intro b cs ds ha ha' hblen hns hlen p
  have hanchor : b.anchor ≠ 255 := by omega
  refine ⟨fun hnum => ?_, fun k hk => accumAll_marker hanchor (bxMarker_perm p.flatten ▸ hk)⟩
  have hlenD : ∀ v ∈ ds, v.length = 32 := fun v hv => hlen v (p.mem_iff.2 hv)
  have hnumD : ∀ v ∈ ds, bxMarker v = none := fun v hv => hnum v (p.mem_iff.2 hv)
  have hb : numBlock b.anchor (intAt b) = b := numBlock_intAt hblen fun n hn => (hns n hn).1
  have hperm : ∀ i, (termsAt b.anchor (intAt b) cs i).Perm (termsAt b.anchor (intAt b) ds i) := termsAt_perm p _ _
  refine ⟨fun hfit => ?_, fun hover => ?_⟩
  · have hfitC : ∀ i < 32, PartsFit (termsAt b.anchor (intAt b) cs i) := hfit
    have hC := accumAll_exact hanchor hnum hlen hfitC
    have hD := accumAll_exact hanchor hnumD hlenD fun i hi => (hfitC i hi).perm (hperm i)
    simp only [← (hperm _).sum_eq] at hD
    rw [hb] at hC hD
    exact ⟨hD.trans hC.symm, hC⟩
  · have hoverC : ∃ i < 32, 2 ^ 62 ≤ (termsAt b.anchor (intAt b) cs i).sum.natAbs := hover
    simp only [(hperm _).sum_eq] at hoverC
    have hbound : ∀ i < 32, (intAt b i).natAbs < 2 ^ 62 := fun i hi => (hns _ (by simp [at', hblen, hi])).2
    have hD := accumAll_overflow hanchor hbound hnumD hlenD hoverC
    rwa [hb] at hD

end Sys2Proof.Proofs
end

section
/-! PROOFS. The course of a tile: its product pass, its drain and its retirement (04 R93, R94; 03 R71, R80). -/

namespace Sys2Proof.Proofs

open Sys2Proof Sys2Proof.Machine

section
variable {b : BayRef} {s : State} {r : Running} {t : Tile}

/-- The oldest waiting tile enters the free array (04 R94). -/
theorem execTileProductPassStart_of_waiting (ht : (s.bay b.die b.bay).tiles.find? (·.phase == .waiting) = some t) (hlive : s.bayLive b = true)
    (hfree : (s.bay b.die b.bay).tiles.all (·.phase != .pass) = true)
    (hset : ((s.bay b.die b.bay).tiles.filter (·.phase != .waiting)).length < 2)
    (hr : (s.bay b.die b.bay).strokeOf t = some r) (hcheck : s.expanderCheck b r t = none) :
    execTileProductPassStart b s = .next (s.modBay b.die b.bay (·.modTile t fun y => { y with phase := .pass })) := by
  simp only [execTileProductPassStart, ht, hr, hcheck]
  rw [if_pos ⟨hlive, hfree, hset⟩]

/-- The end of the pass hands the accumulators to the drain, or holds them where the checker disagrees (03 R80; 12 R308). -/
theorem execTileProductPassEnd_of_pass {agree unchecked : Bool} {accs : List Acc} {invalid : Nat}
    (ht : (s.bay b.die b.bay).tiles.find? (·.phase == .pass) = some t) (hr : (s.bay b.die b.bay).strokeOf t = some r)
    (hcompute : s.tileCompute b r t = .ok (accs, unchecked, invalid)) :
    execTileProductPassEnd b agree s = .next (s.modBay b.die b.bay fun x => (x.palRef (r.tileChunks t) false).modTile t fun y =>
      { y with phase := if unchecked || agree then .drain else .held, accs := accs, unchecked := unchecked, invalid := invalid }) := by
  simp only [execTileProductPassEnd, ht, hr, hcompute]

/-- The oldest tile of the bay retires from its drain and leaves (04 R94). -/
theorem execTileRetire_of_drain (ht : (s.bay b.die b.bay).tiles.head? = some t) (hphase : t.phase = .drain)
    (hr : (s.bay b.die b.bay).strokeOf t = some r) :
    execTileRetire b s = .next ((s.retire b r t).modBay b.die b.bay fun x =>
      { x with tiles := x.tiles.filter fun y => !(y.seq == t.seq && y.pc == t.pc) }) := by
  simp only [execTileRetire, ht, hphase, hr, if_true]
end

/-- Settles O16: the three steps of a tile, one after the other. -/
theorem tileCourseCompletes : Obligations.TileCourseCompletes := by
  intro b s r t
  refine ⟨?start, ?finish, ?retire⟩
  case start =>
    rintro ⟨ht, hlive, hfree, hset, hr, hcheck⟩
    exact execTileProductPassStart_of_waiting ht hlive hfree hset hr hcheck
  case finish =>
    rintro agree accs unchecked invalid ⟨ht, hr, hcompute⟩
    exact execTileProductPassEnd_of_pass ht hr hcompute
  case retire =>
    rintro ⟨ht, hphase, hr⟩
    exact execTileRetire_of_drain ht hphase hr

end Sys2Proof.Proofs
end

section
/-! PROOFS. Instructions that work on a stroke's registers alone (04 R101, R104, R105; 06 R149 to R159): each writes registers of the stroke
that issues and nothing else. -/

namespace Sys2Proof.Proofs

open Sys2Proof Sys2Proof.Machine Sys2Proof.Laws

/-! ### Writing registers keeps the stroke's number -/

section
variable (r : Running) (f : Fields)

@[simp] theorem setS_seq (i : BitVec 6) (x : Word) : (r.setS i x).seq = r.seq := rfl

@[simp] theorem raise_seq (strict : Bool) (x : Exc) : (r.raise strict x).seq = r.seq := by
  unfold Running.raise; split <;> rfl

@[simp] theorem lanes_seq (m : Nat) (g : Nat → Word) : (r.lanes f m g).seq = r.seq := rfl
@[simp] theorem plane_seq (m : Nat) (g : Nat → Bool) : (r.plane f m g).seq = r.seq := rfl
@[simp] theorem iop_seq (g : Word → Word → Word) : (r.iop f g).seq = r.seq := rfl
@[simp] theorem sop_seq (g : Word → Word → Word) : (r.sop f g).seq = r.seq := rfl

@[simp] theorem flanes_seq (m : Nat) (g : Nat → FRes) : (r.flanes f m g).seq = r.seq := by simp [Running.flanes]

@[simp] theorem fop_seq (imm : Bool) (g : Bool → Rnd → Word → Word → Word → FRes) : (r.fop f imm g).seq = r.seq := by simp [Running.fop]

@[simp] theorem sfop_seq (imm : Bool) (g : Bool → Rnd → Word → Word → Word → FRes) : (r.sfop f imm g).seq = r.seq := by simp [Running.sfop]

@[simp] theorem rop_seq (g : Bool → Rnd → List Word → FRes) : (r.rop f g).seq = r.seq := by simp [Running.rop]
end

/-! ### What changes the issuing stroke of one bay at most -/

/-- `t` is `s` but for the slot of the stroke that issues in bay `b`. -/
structure OnlyIssuing (b : BayRef) (s t : State) : Prop where
  onlyBays : t = { s with bays := t.bays }
  otherBays : ∀ d k, bayKey d k ≠ bayKey b.die b.bay → t.bay d k = s.bay d k
  onlySlots : ∃ xs, t.bay b.die b.bay = { s.bay b.die b.bay with slots := xs } ∧ xs.length = (s.bay b.die b.bay).slots.length
  otherStrokes : ∀ r, (s.bay b.die b.bay).issuing = some r → ∀ q ∈ (s.bay b.die b.bay).slots, q.seq ≠ r.seq → q ∈ (t.bay b.die b.bay).slots

theorem OnlyIssuing.refl (b : BayRef) (s : State) : OnlyIssuing b s s :=
  ⟨rfl, fun _ _ _ => rfl, ⟨_, rfl, rfl⟩, fun _ _ _ hq _ => hq⟩

theorem mem_putRunning_slots {x : Bay} {r q : Running} (hq : q ∈ x.slots) (h : q.seq ≠ r.seq) : q ∈ (x.putRunning r).slots :=
  List.mem_map.2 ⟨q, hq, if_neg h⟩

/-- The instruction that a stroke completes is one of the stroke that issues (04 R105). -/
theorem atStroke_issuing {s : State} {b : BayRef} {op : Nat} {f : Fields} {r : Running} (h : s.atStroke b op f = some r) :
    (s.bay b.die b.bay).issuing = some r := by
  unfold State.atStroke at h
  split at h
  · split at h
    · rename_i hr
      split at h
      · rwa [← Option.some.inj h]
      · cases h
    · cases h
  · cases h

theorem went_onlyIssuing {s : State} {b : BayRef} {r r' : Running} (hr : (s.bay b.die b.bay).issuing = some r) (hseq : r'.seq = r.seq) :
    OnlyIssuing b s (s.went b r') where
  onlyBays := rfl
  otherBays _ _ hk := bay_modBay_other s _ hk
  onlySlots := ⟨_, bay_modBay_self .., List.length_map _⟩
  otherStrokes q hq p hp hne := by
    obtain rfl : q = r := Option.some.inj (hq.symm.trans hr)
    have hself : (s.went b r').bay b.die b.bay = (s.bay b.die b.bay).putRunning { r' with pc := r'.pc + 1 } := bay_modBay_self ..
    rw [hself]
    exact mem_putRunning_slots hp (hseq ▸ hne)

/-! ### Instructions that write registers alone -/

/-- An instruction whose whole effect is a function of the stroke's registers, which keeps the stroke's number. -/
def RegisterStep (b : BayRef) (c : Instr) : Prop :=
  ∃ (op : Nat) (f : Fields) (h : Running → Running), (∀ s, exec c s = .next (s.strokeStep b op f fun s r => .done s (h r))) ∧ ∀ r, (h r).seq = r.seq

/-- Where the instruction is not the next one, nothing changes; else the registers do and the next instruction follows (04 R104). -/
theorem strokeStep_done (s : State) (b : BayRef) (op : Nat) (f : Fields) (h : Running → Running) :
    (s.strokeStep b op f fun s r => .done s (h r)) = (s.atStroke b op f).elim s fun r => s.went b (h r) := by
  unfold State.strokeStep
  cases s.atStroke b op f <;> rfl

theorem RegisterStep.onlyIssuing {b : BayRef} {c : Instr} {s t : State} (hc : RegisterStep b c) (ht : exec c s = .next t) :
    OnlyIssuing b s t := by
  obtain ⟨op, f, h, hexec, hseq⟩ := hc
  rw [hexec, strokeStep_done] at ht
  cases hr : s.atStroke b op f with
  | none => rw [hr] at ht; cases ht; exact .refl b s
  | some r => rw [hr] at ht; cases ht; exact went_onlyIssuing (atStroke_issuing hr) (hseq r)

/-- Settles O56: each of the instructions is a step of registers alone, so what it changes is the stroke that issues. -/
theorem registerInstructionFrame : Obligations.RegisterInstructionFrame := by
  intro b f s t c hc ht
  have hstep : RegisterStep b c := by
    clear ht
    revert c
    simp only [List.forall_mem_cons, List.not_mem_nil, false_implies, implies_true, and_true]
    and_intros
    all_goals exact ⟨_, _, _, fun _ => rfl, fun r => by simp⟩
  have h := hstep.onlyIssuing ht
  exact ⟨h.onlyBays, h.otherBays, h.onlySlots, h.otherStrokes⟩

end Sys2Proof.Proofs
end

section
/-! PROOFS. Vobin commands that are ready (17 R430 to R436): nothing but their own checks decides what they do. -/

namespace Sys2Proof.Proofs

open Sys2Proof Sys2Proof.Machine

/-! ### A check that holds lets the next one be made -/

@[simp] theorem exe_ok_bind {α β : Type} (a : α) (k : α → Exe β) : (Except.ok a >>= k : Exe β) = k a := rfl
@[simp] theorem exe_pure {α : Type} (a : α) : (pure a : Exe α) = .ok a := rfl

@[simp] theorem okAt_true (off : Nat) : okAt true off = .ok () := rfl
@[simp] theorem okSt_true (st : Nat) : okSt true st = .ok () := rfl
@[simp] theorem okRef_true (retry : Nat) : okRef true retry = .ok () := rfl

theorem okLen_of_length {c : Cmd} {n : Nat} (h : c.body.length = n) : okLen c n = .ok () := by simp [okLen, h]

theorem okDie_of_lt {s : State} {c : Cmd} {off : Nat} (hoff : off < c.body.length) (hdie : fld c.body off 1 < s.dieCount) :
    s.okDie c off = .ok (fld c.body off 1) := by simp [State.okDie, hoff, hdie]

theorem okSome_of_some {α : Type} {x : Option α} {a : α} {ok : α → Bool} (hx : x = some a) (ha : ok a = true) : okSome x ok = .ok a := by
  simp [okSome, hx, ha]

/-! ### A command that is ready -/

theorem cmdRow_group_code {g n : Nat} {r : CmdRow} (h : cmdRow g n = some r) : r.group = g ∧ r.code = n := by
  simpa using List.find?_some h

section
variable {s t u : State} {x : CmdRef} {g n : Nat} {c : Cmd} {p : Cmd → Bool} {f : State → Cmd → Nat → Exe CmdOut}

/-- Where a ready command's checks hold, its outcome decides: it has answered, goes on, or responds (17 R435). -/
theorem command_of_ok {o : CmdOut} (h : CmdReady s x g n c t p) (hf : f t c x.retry = .ok o) :
    s.command x g n f p = if o.answered then o.s else if o.waits then o.s.keepWork c else o.s.respond c o.status o.body := by
  obtain ⟨hstate, hport, hwaiting, hturn, rfl, hfence, hbody, r, hrow, hauth, hdefers⟩ := h
  obtain ⟨rfl, rfl⟩ := cmdRow_group_code hrow
  have hhere : ¬ (s.part.state ≠ 2 ∧ s.part.state ≠ 3 ∨ 2 ≤ x.port) := by omega
  have hopen : ¬ ((s.taken x c).hostFenced c.port = true ∧ (!fencedOk r.group r.code) = true) := by simpa using hfence
  have hroom : (!r.defers || decide (((s.taken x c).die c.die).deferred.length < 64)) = true := by simpa [Decidable.imp_iff_not_or] using hdefers
  simp only [State.command, if_neg hhere, hrow, hwaiting, hturn, Bool.not_true, Bool.false_eq_true, if_false]
  simp only [State.execute, if_neg hopen, hbody, Bool.false_eq_true, if_false, hauth, hroom, okRef_true, hf, exe_ok_bind]

/-- A ready command whose checks hold and whose work is done responds. -/
theorem command_responds {body : List Byte} (h : CmdReady s x g n c t p) (hf : f t c x.retry = .ok { s := u, body := body }) :
    s.command x g n f p = u.respond c stOk body := command_of_ok h hf

/-- A ready command whose checks hold and whose work goes on is kept. -/
theorem command_goesOn (h : CmdReady s x g n c t p) (hf : f t c x.retry = .ok { s := u, waits := true }) :
    s.command x g n f p = u.keepWork c := command_of_ok h hf
end

end Sys2Proof.Proofs
end

section
/-! PROOFS. The CHK-, TEL- and EVT- commands (12 R320, R328, R330; 17 R438; 18 R459). -/

namespace Sys2Proof.Proofs

open Sys2Proof Sys2Proof.Machine

/-- Settles O45: each command's checks hold, so it goes on (CHK-TEST) or responds. -/
theorem serviceCommandsComplete : Obligations.ServiceCommandsComplete := by
  intro x c s t
  refine ⟨?chkTest, ?chkThaw, ?chkSeal, ?chkFreeze, ?chkFaults, ?telRead, ?evtRead⟩
  case chkTest =>
    rintro _ _ _ ⟨h, rfl, rfl, rfl, hlen, hdie, hunit, hexists, hheld, hzero, hfree⟩
    refine congrArg Host.Outcome.next (command_goesOn h ?_)
    rw [okDie_of_lt (by omega) hdie, okLen_of_length hlen]
    simp [hunit, hexists, hheld, hzero, hfree]
  case chkThaw =>
    rintro _ f ⟨h, rfl, hlen, hhost, hdie, hfrozen, hheld, hzero⟩
    refine congrArg Host.Outcome.next (command_responds h ?_)
    simp [okLen_of_length hlen, hhost, hdie, okSome_of_some hfrozen, hheld, hzero]
  case chkSeal =>
    rintro _ _ ⟨h, rfl, rfl, hlen, hdie, hheld⟩
    refine congrArg Host.Outcome.next (command_responds h ?_)
    rw [okDie_of_lt (by omega) hdie, okLen_of_length hlen]
    simp [hheld]
  case chkFreeze =>
    rintro f ⟨h, hlen, hdie, hfrozen⟩
    refine congrArg Host.Outcome.next (command_responds h ?_)
    simp [okLen_of_length hlen, hdie, okSome_of_some hfrozen]
  case chkFaults =>
    rintro ⟨h, hlen, hzero⟩
    refine congrArg Host.Outcome.next (command_responds h ?_)
    simp [okLen_of_length hlen, hzero]
  case telRead =>
    rintro _ ws ⟨h, rfl, hlen, hdie, hgroup, hrange, hmost, hzero⟩
    refine congrArg Host.Outcome.next (command_responds h ?_)
    rw [okDie_of_lt (by omega) hdie, okLen_of_length hlen]
    simp [hgroup, hrange, hmost, hzero]
  case evtRead =>
    rintro _ _ ⟨h, rfl, rfl, hlen, hn⟩
    refine congrArg Host.Outcome.next (command_responds h ?_)
    simp [okLen_of_length hlen, hn]

end Sys2Proof.Proofs
end

section
/-! PROOFS. Stroke instruction words (05 R114): the five fields below the opcode, written and read back. -/

namespace Sys2Proof.Proofs

open Sys2Proof Sys2Proof.Machine

/-- Where a word is `hi`, the field and `lo` side by side, its bits at the field's place are the field. -/
theorem extractLsb'_of_toNat {w : DWord} {n k hi lo : Nat} {x : BitVec k} (h : w.toNat = hi * 2 ^ (n + k) + x.toNat * 2 ^ n + lo)
    (hlo : lo < 2 ^ n) : w.extractLsb' n k = x := by
  refine BitVec.eq_of_toNat_eq ?_
  have hw : w.toNat = (hi * 2 ^ k + x.toNat) * 2 ^ n + lo := by rw [h, Nat.pow_add]; ring
  rw [BitVec.extractLsb'_toNat, hw, Nat.shiftRight_eq_div_pow, mul_comm, Nat.mul_add_div (by positivity), Nat.div_eq_of_lt hlo,
    Nat.add_zero, Nat.mul_add_mod', Nat.mod_eq_of_lt x.isLt]

section
variable {op : Nat} {f : Fields}

/-- The opcode and the fields lie side by side: none carries into the next. -/
theorem encodeWord_toNat (h : op < 256) : (encodeWord op f).toNat = op * 2 ^ 56 + f.dst.toNat * 2 ^ 50 + f.src1.toNat * 2 ^ 44 +
    f.src2.toNat * 2 ^ 38 + f.src3.toNat * 2 ^ 32 + f.imm.toNat := by
  simp only [encodeWord, BitVec.toNat_ofNat, Nat.shiftLeft_eq]
  omega

theorem encodeWord_opcode (h : op < 256) : (encodeWord op f).extractLsb' 56 8 = BitVec.ofNat 8 op := by
  refine extractLsb'_of_toNat (hi := 0) ((encodeWord_toNat h).trans ?_) (lo := f.dst.toNat * 2 ^ 50 + f.src1.toNat * 2 ^ 44 +
    f.src2.toNat * 2 ^ 38 + f.src3.toNat * 2 ^ 32 + f.imm.toNat) ?_
  · rw [BitVec.toNat_ofNat]; omega
  · omega

theorem encodeWord_dst (h : op < 256) : (encodeWord op f).extractLsb' 50 6 = f.dst :=
  extractLsb'_of_toNat (hi := op) (lo := f.src1.toNat * 2 ^ 44 + f.src2.toNat * 2 ^ 38 + f.src3.toNat * 2 ^ 32 + f.imm.toNat)
    (by rw [encodeWord_toNat h]; omega) (by omega)

theorem encodeWord_src1 (h : op < 256) : (encodeWord op f).extractLsb' 44 6 = f.src1 :=
  extractLsb'_of_toNat (hi := op * 2 ^ 6 + f.dst.toNat) (lo := f.src2.toNat * 2 ^ 38 + f.src3.toNat * 2 ^ 32 + f.imm.toNat)
    (by rw [encodeWord_toNat h]; omega) (by omega)

theorem encodeWord_src2 (h : op < 256) : (encodeWord op f).extractLsb' 38 6 = f.src2 :=
  extractLsb'_of_toNat (hi := op * 2 ^ 12 + f.dst.toNat * 2 ^ 6 + f.src1.toNat) (lo := f.src3.toNat * 2 ^ 32 + f.imm.toNat)
    (by rw [encodeWord_toNat h]; omega) (by omega)

theorem encodeWord_src3 (h : op < 256) : (encodeWord op f).extractLsb' 32 6 = f.src3 :=
  extractLsb'_of_toNat (hi := op * 2 ^ 18 + f.dst.toNat * 2 ^ 12 + f.src1.toNat * 2 ^ 6 + f.src2.toNat) (lo := f.imm.toNat)
    (by rw [encodeWord_toNat h]; omega) (by omega)

theorem encodeWord_imm (h : op < 256) : (encodeWord op f).extractLsb' 0 32 = f.imm :=
  extractLsb'_of_toNat (hi := op * 2 ^ 24 + f.dst.toNat * 2 ^ 18 + f.src1.toNat * 2 ^ 12 + f.src2.toNat * 2 ^ 6 + f.src3.toNat) (lo := 0)
    (by rw [encodeWord_toNat h]; omega) (by omega)

theorem wordOp_encodeWord (h : op < 256) : wordOp (encodeWord op f) = op := by
  rw [wordOp, encodeWord_toNat h, Nat.shiftRight_eq_div_pow]
  omega
end

/-- The fields a word reads as are its bits at their places. -/
theorem wordFields_eq (w : DWord) :
    wordFields w = ⟨w.extractLsb' 50 6, w.extractLsb' 44 6, w.extractLsb' 38 6, w.extractLsb' 32 6, w.extractLsb' 0 32⟩ := rfl

theorem wordFields_encodeWord {op : Nat} {f : Fields} (h : op < 256) : wordFields (encodeWord op f) = f := by
  rw [wordFields_eq, encodeWord_dst h, encodeWord_src1 h, encodeWord_src2 h, encodeWord_src3 h, encodeWord_imm h]

theorem wordOp_lt (w : DWord) : wordOp w < 256 := Nat.mod_lt _ (by decide)

/-- Every word is the word of what it reads as: the six fields are all of its bits. -/
theorem encodeWord_wordOp_wordFields (w : DWord) : encodeWord (wordOp w) (wordFields w) = w := by
  refine BitVec.eq_of_toNat_eq ?_
  rw [encodeWord_toNat (wordOp_lt w)]
  simp only [wordOp, wordFields, BitVec.toNat_ofNat, Nat.shiftRight_eq_div_pow]
  omega

/-- Settles O60: each field is written at its place and read back, and the fields make up the word. -/
theorem strokeWordRoundTrip : Obligations.StrokeWordRoundTrip :=
  ⟨fun _ _ h => ⟨encodeWord_opcode h, encodeWord_dst h, encodeWord_src1 h, encodeWord_src2 h, encodeWord_src3 h, encodeWord_imm h,
    wordOp_encodeWord h, wordFields_encodeWord h⟩, encodeWord_wordOp_wordFields⟩

end Sys2Proof.Proofs
end

section
/-! PROOFS. The next instruction of a stroke that may issue (05 R104, R115): where its checks hold it completes. Summaries, loads, stores,
BX64 accumulate-stores and Span requests (05 R122 to R130, R502). -/

namespace Sys2Proof.Proofs

open Sys2Proof Sys2Proof.Machine

section
variable {s t : State} {b : BayRef} {op : Nat} {f : Fields} {r q : Running} {g : State → Running → Eff}

/-- The next instruction of a stroke, where its effect completes, leaves its state and registers, and the one after it is next (04 R104). -/
theorem next_of_done (h : s.atStroke b op f = some r) (hg : g s r = .done t q) :
    (Host.Outcome.next (s.strokeStep b op f g) : Outcome) = .next (t.went b q) := by
  simp only [State.strokeStep, h, hg, State.went]
end

/-- Settles O6: SUM.H and SUM.X complete once what they wait for has; the others always do. -/
theorem sequencerInstructionsComplete : Obligations.SequencerInstructionsComplete := by
  intro b f s r
  refine ⟨fun h => next_of_done h rfl, fun h => next_of_done h rfl, fun h => next_of_done h rfl, fun h => next_of_done h rfl, ?sumH, ?sumX⟩
  case sumH =>
    rintro ⟨h, hsettled⟩
    exact next_of_done h (by simp [hsettled])
  case sumX =>
    rintro ⟨h, hdrained⟩
    exact next_of_done h (by simp [hdrained])

/-! ### Loads and stores -/

/-- No lane's side byte lies past the blocks of the descriptor: the range check of LD and ST passes (05 R122). -/
theorem any_blocks_le_of_lt {d : Desc} {j : Nat} {ls : List Nat} (h : ∀ l ∈ ls, j + l < d.blocks) :
    (ls.any fun l => decide (d.blocks ≤ j + l)) = false := by
  simpa using h

/-- Settles O7: each load's position is legal for its kind, and nothing before it writes what it reads. -/
theorem loadsComplete : Obligations.LoadsComplete := by
  intro b f s r
  refine ⟨?elements, ?sides, ?word⟩
  case elements =>
    rintro ⟨h, hbit, hfault, hfree⟩
    exact next_of_done h (by simp [hbit, hfault, hfree])
  case sides =>
    rintro ⟨h, hbit, hrange, hfree⟩
    exact next_of_done h (by simp [hbit, any_blocks_le_of_lt hrange, hfree])
  case word =>
    rintro ⟨h, hfault, hfree⟩
    exact next_of_done h (by simp [hfault, hfree])

/-- Settles O8: each store's position is legal for its kind, and nothing before it meets what it writes. -/
theorem storesComplete : Obligations.StoresComplete := by
  intro b f s r
  refine ⟨?elements, ?sides, ?word⟩
  case elements =>
    rintro ⟨h, hbit, hfault, hfree⟩
    exact next_of_done h (by simp [hbit, hfault, hfree])
  case sides =>
    rintro ⟨h, hbit, hrange, hfree⟩
    exact next_of_done h (by simp [hbit, any_blocks_le_of_lt hrange, hfree])
  case word =>
    rintro ⟨h, hfault, hfree⟩
    exact next_of_done h (by simp [hfault, hfree])

/-! ### BX64 accumulate-store -/

/-- Settles O9: what has not accumulated yet does so; a replay that finds it done changes nothing (10 R248). -/
theorem blockAccumulateStoresComplete : Obligations.BlockAccumulateStoresComplete := by
  intro b f s r
  refine ⟨?lanes, ?lanesDone, ?tensor, ?tensorDone⟩
  case lanes =>
    rintro ⟨h, hfault, hfree, hnew⟩
    exact next_of_done h (by simp [hnew, hfault, hfree])
  case lanesDone =>
    rintro ⟨h, hdone⟩
    exact next_of_done h (by simp [hdone])
  case tensor =>
    rintro ⟨h, hsource, hfault, hfree, hnew⟩
    exact next_of_done h (by simp [hnew, Nat.not_lt.2 hsource, hfault, hfree])
  case tensorDone =>
    rintro ⟨h, hdone⟩
    exact next_of_done h (by simp [hdone])

/-! ### Span requests -/

/-- Settles O12: legal ranges without a conflict send their messages; SP.ACC records its range unless its slot is held. -/
theorem spanRequestInstructionsComplete : Obligations.SpanRequestInstructionsComplete := by
  intro b f n s r
  refine ⟨?put, ?get, ?acc⟩
  case put =>
    rintro ⟨h, hfault, hfree⟩
    refine next_of_done h ?_
    cases hin : (r.desc (f.imm.toNat >>> 24)).isIn <;> simp [hfault, hfree, hin]
  case get =>
    rintro ⟨h, hfault, hfree⟩
    exact next_of_done h (by simp [hfault, hfree])
  case acc =>
    rintro t ⟨h, hfault, hfree, rfl⟩
    by_cases hheld : (s.slot b.die (r.desc (f.imm.toNat >>> 24)).slot).state = .held
    · rw [if_pos hheld]
      exact next_of_done h (by simp [hfault, hfree, hheld])
    · rw [if_neg hheld]
      exact next_of_done h (by simp [hfault, hfree, hheld])

end Sys2Proof.Proofs
end

section
/-! PROOFS. What a store leaves alone (05 R122, R123; 16 R422): every byte but those that its descriptor or window addresses. -/

namespace Sys2Proof.Proofs

open Sys2Proof Sys2Proof.Machine Sys2Proof.Laws

/-- A fold of writes of which none changes a byte leaves it. -/
theorem rdByte_foldl_other {α : Type} {g : Mem → α → Mem} {xs : List α} {m : Mem} {a : Nat} (hm : m.wf = true)
    (hg : ∀ m x, x ∈ xs → m.wf = true → (g m x).wf = true ∧ rdByte (g m x) a = rdByte m a) : rdByte (xs.foldl g m) a = rdByte m a := by
  induction xs generalizing m with
  | nil => rfl
  | cons x xs ih =>
    obtain ⟨hwf, hx⟩ := hg m x List.mem_cons_self hm
    exact (ih hwf fun m y hy => hg m y (List.mem_cons_of_mem x hy)).trans hx

theorem rdByte_storeBytes_other {r : Running} {i : BitVec 6} {d : Desc} {m : Mem} {p a : Nat} {ks : List Nat} (hm : m.wf = true)
    (ha : ∀ k ∈ ks, a < (d.bitAt (d.off p) + 8 * k) / 8 ∨ (d.bitAt (d.off p) + 8 * k + 8 + 7) / 8 ≤ a) :
    rdByte (r.storeBytes i d m p ks) a = rdByte m a :=
  rdByte_foldl_other hm fun _ k hk h => ⟨wrBits_wf _ _ _ h, rdByte_wrBits_other _ _ _ _ h (ha k hk)⟩

theorem rdByte_wrSides_other {d : Desc} {m : Mem} {j a : Nat} {ls : List Nat} {c : Nat → Nat} (hm : m.wf = true)
    (ha : ∀ l ∈ ls, a ≠ d.sideAddr (j + l)) : rdByte (ls.foldl (fun m l => d.wrSide m (j + l) (c l)) m) a = rdByte m a :=
  rdByte_foldl_other hm fun _ l hl h => ⟨wrSide_wf _ _ _ h, rdByte_wrByte_other _ _ _ h (ha l hl)⟩

/-! ### Stores of a stroke -/

section
variable {s : State} {b : BayRef} {op : Nat} {f : Fields} {r : Running} {g : State → Running → Eff} {a : Nat}

/-- An instruction leaves a byte where its effect, if it completes, does: one that is held or that freezes the bay leaves the stores. -/
theorem rdByte_strokeStep (h : s.atStroke b op f = some r) (hg : ∀ u q, g s r = .done u q → rdByte u.mem a = rdByte s.mem a) :
    rdByte (s.strokeStep b op f g).mem a = rdByte s.mem a := by
  rcases strokeStep_mem (g := g) h with ⟨u, q, hdone, hmem⟩ | hmem
  · rw [hmem, hg u q hdone]
  · rw [hmem]
end

section
variable {s t : State} {b : BayRef} {f : Fields} {r : Running} {d : Desc} {p a : Nat}
variable (hm : s.mem.wf = true) (hd : r.desc (f.imm.toNat % 256) = d) (hp : (r.sreg f.src2).toNat = p)
include hm hd hp

/-- ST.S leaves every byte outside its element. -/
theorem rdByte_execStS (h : s.atStroke b 0x99 f = some r) (ht : exec (.stS b f) s = .next t)
    (ha : a < d.bitAt (d.off p) / 8 ∨ (d.bitAt (d.off p) + d.bits + 7) / 8 ≤ a) : rdByte t.mem a = rdByte s.mem a := by
  subst hd hp
  obtain rfl := Host.Outcome.next.inj ht
  refine rdByte_strokeStep h fun u q hdone => ?_
  dsimp only at hdone
  split at hdone
  case h_1 => cases hdone
  case h_2 =>
    split_ifs at hdone
    cases hdone
    exact rdByte_wrBits_other _ _ _ _ hm ha

/-- ST leaves every byte outside the register bytes it moves. -/
theorem rdByte_execSt_elements (h : s.atStroke b 0x98 f = some r) (hbit : f.imm.toNat.testBit 8 = false)
    (ht : exec (.st b f) s = .next t) (ha : ∀ k ∈ r.moved (modOf false f) d.fmt,
      a < (d.bitAt (d.off p) + 8 * k) / 8 ∨ (d.bitAt (d.off p) + 8 * k + 8 + 7) / 8 ≤ a) : rdByte t.mem a = rdByte s.mem a := by
  subst hd hp
  obtain rfl := Host.Outcome.next.inj ht
  refine rdByte_strokeStep h fun u q hdone => ?_
  simp only [hbit, Bool.false_eq_true, if_false] at hdone
  split at hdone
  case h_1 => cases hdone
  case h_2 =>
    split_ifs at hdone
    cases hdone
    exact rdByte_storeBytes_other hm ha

/-- ST with bit 8 leaves every byte but the side bytes of its lanes' blocks. -/
theorem rdByte_execSt_sides (h : s.atStroke b 0x98 f = some r) (hbit : f.imm.toNat.testBit 8 = true)
    (ht : exec (.st b f) s = .next t) (ha : ∀ l ∈ r.sideLanes (modOf false f), a ≠ d.sideAddr (p / 32 + l)) :
    rdByte t.mem a = rdByte s.mem a := by
  subst hd hp
  obtain rfl := Host.Outcome.next.inj ht
  refine rdByte_strokeStep h fun u q hdone => ?_
  simp only [hbit, if_true] at hdone
  split_ifs at hdone
  cases hdone
  exact rdByte_wrSides_other hm ha
end

/-! ### Writes of a host -/

/-- A host's write that is dropped or counted leaves the stores. -/
theorem rdByte_hostWrites {s : State} {p a : Nat} {g : State → State} (hg : rdByte (g s).mem a = rdByte s.mem a) :
    rdByte (s.hostWrites p g).mem a = rdByte s.mem a := by
  unfold State.hostWrites
  split
  · rfl
  · split
    · rfl
    · exact hg

/-- A rule that freezes the function leaves the stores: either no host-tier shard runs on the port, or no byte breaks the rule. -/
theorem freezeHost_mem_of_rule {s : State} {p : Nat} {xs : List (Win × Nat)} {rule : Win × Nat → Bool}
    (h : NoTier s p ∨ ∀ x ∈ xs, rule x = false) (hbreak : xs.any rule = true) (reason address : Nat) (request : List Byte) :
    (s.freezeHost p reason address request).mem = s.mem := by
  rcases h with htier | hkept
  · exact freezeHost_mem htier ..
  · obtain ⟨x, hx, hrule⟩ := List.any_eq_true.1 hbreak
    simp [hkept x hx] at hrule

/-- Window bytes written one by one, those of a kept word left out, leave every byte they do not address. -/
theorem rdByte_wrKept_other {as : List Nat} {data : List Byte} {keep : Nat × Byte → Bool} {m : Mem} {a : Nat} (hm : m.wf = true)
    (ha : a ∉ as) :
    rdByte ((as.zip data).foldl (fun m x => if keep x then m else wrByte m x.1 x.2) m) a = rdByte m a := by
  refine rdByte_foldl_other hm fun m x hx h => ?_
  split
  · exact ⟨h, rfl⟩
  · refine ⟨wrByte_wf _ _ h, rdByte_wrByte_other _ _ _ h ?_⟩
    rintro rfl
    exact ha (List.of_mem_zip hx).1

/-- A write through the window leaves every byte but those that its entries give (16 R422). -/
theorem rdByte_execBar4Write {s t : State} {p off a : Nat} {data : List Byte} (hm : s.mem.wf = true)
    (hquiet : NoTier s p ∨ ∀ x ∈ s.winBytes p off data.length, s.winRule1 true x = false ∧ s.winRule3 x = false ∧ s.winRule5 x = false)
    (ht : exec (.bar4Write p off data) s = .next t) (ha : ∀ x ∈ s.winBytes p off data.length, a ≠ x.2) :
    rdByte t.mem a = rdByte s.mem a := by
  obtain rfl := Host.Outcome.next.inj ht
  have hquiet1 := hquiet.imp_right fun h x hx => (h x hx).1
  have hquiet3 := hquiet.imp_right fun h x hx => (h x hx).2.1
  have hquiet5 := hquiet.imp_right fun h x hx => (h x hx).2.2
  refine rdByte_hostWrites ?_
  dsimp only
  split_ifs with _ _ h1 _ h3 _ h5
  · rfl
  · rfl
  · rw [freezeHost_mem_of_rule hquiet1 h1]
  · rfl
  · rw [freezeHost_mem_of_rule hquiet3 h3]
  · rfl
  · rw [freezeHost_mem_of_rule hquiet5 h5]
  · rw [wrote_mem]
    dsimp only
    refine (rdByte_wrKept_other ?_ ?_).trans ?_
    · split <;> simpa using hm
    · simpa using fun w hx => ha (w, a) hx rfl
    · split <;> simp

/-- Settles O57: a store that completes writes only where it addresses; every other course of it leaves the stores. -/
theorem storesLeaveOtherBytes : Obligations.StoresLeaveOtherBytes := by
  refine ⟨fun b f s t r hm => ⟨?word, ?elements, ?sides⟩, ?window⟩
  case word => exact fun h ht _ ha => rdByte_execStS hm rfl rfl h ht ha
  case elements => exact fun h hbit ht _ ha => rdByte_execSt_elements hm rfl rfl h hbit ht ha
  case sides => exact fun h hbit ht _ ha => rdByte_execSt_sides hm rfl rfl h hbit ht ha
  case window => exact fun _ _ _ _ _ hm hquiet ht _ ha => rdByte_execBar4Write hm hquiet ht ha

end Sys2Proof.Proofs
end

section
/-! PROOFS. Tiles and mover requests (05 R118 to R121, R124): a shape register's three counts, and what issues one tile or one request. -/

namespace Sys2Proof.Proofs

open Sys2Proof Sys2Proof.Machine

/-- A count of 1 to 2^k is read back from the field that holds it less 1. -/
theorem field_add_one {w : Word} {lo k n : Nat} (h1 : 1 ≤ n) (hn : n ≤ 2 ^ k) (h : w.extractLsb' lo k = BitVec.ofNat k (n - 1)) :
    w.toNat >>> lo % 2 ^ k + 1 = n := by
  have hfield := congrArg BitVec.toNat h
  rw [BitVec.extractLsb'_toNat, BitVec.toNat_ofNat, Nat.mod_eq_of_lt (a := n - 1) (by omega)] at hfield
  omega

/-- Settles O59: M's field reaches the word's top, so the shift alone gives it. -/
theorem tileShapeRegister : Obligations.TileShapeRegister := by
  intro r f ta tb acc m n k hm hm' hn hn' hk hk' hwm hwn hwk
  have hm := field_add_one hm hm' hwm
  refine ⟨?_, field_add_one hn hn' hwn, field_add_one hk hk' hwk⟩
  have htop : (r.sreg f.dst).toNat >>> 26 < 2 ^ 6 := by rw [Nat.shiftRight_eq_div_pow]; omega
  rwa [Nat.mod_eq_of_lt htop] at hm

section
variable {s : State} {b : BayRef} {op mv : Nat} {f : Fields} {r : Running}

/-- A tile that may be issued joins the bay's tiles and names its chunks (04 R93; 09 R237). -/
theorem mxt_of_ready {ta tb acc : Bool} (h : s.atStroke b op f = some r) (ht : TileReady s b r (r.tileOf f ta tb acc)) :
    (Host.Outcome.next (s.mxt b op f ta tb acc) : Outcome) = .next (State.went (s.modBay b.die b.bay fun x =>
      { x.palRef (r.tileChunks (r.tileOf f ta tb acc)) true with tiles := x.tiles ++ [r.tileOf f ta tb acc] }) b r) := by
  obtain ⟨hfault, hfree, hroom, ha, hb⟩ := ht
  exact next_of_done h (by simp [hfault, hfree, Nat.not_le.2 hroom, ha, hb])

/-- A request that a mover takes starts, unless it is a copy of a range onto itself (08 R207 to R213). -/
theorem mv_of_ready (h : s.atStroke b op f = some r) (hq : MvReady s b r mv (r.mvReq b op f)) :
    (Host.Outcome.next (s.mv b op f mv) : Outcome) = .next (State.went
      (if op = 0xA0 ∧ ((r.mvReq b op f).ready s.mem).identity = true then s else s.mvStart b.die mv ((r.mvReq b op f).ready s.mem)) b r) := by
  obtain ⟨htakes, hon, hidx, hfault, hgroup, hgranted, hfree, hacc, hbounce, hsrc, hread⟩ := hq
  have hown : (r.mvReq b op f).op = op := rfl
  rw [hown] at hsrc
  refine next_of_done h ?_
  simp only [htakes, hon, hidx, hfault, hgroup, hgranted, hfree, hacc, Nat.not_lt.2 hbounce, hsrc, hread, Bool.not_true, Bool.false_eq_true,
    or_self, if_false]
  split <;> rfl
end

/-- Settles O15: each form is `mxt` with its orientation and accumulation. -/
theorem tileInstructionsIssueTiles : Obligations.TileInstructionsIssueTiles := by
  intro b f s r
  and_intros <;> exact fun ⟨h, ht⟩ => mxt_of_ready h ht

/-- Settles O17: each instruction is `mv` with its opcode; only MV.COPY can find nothing to do. -/
theorem moverInstructionsQueueRequests : Obligations.MoverInstructionsQueueRequests := by
  intro b f mv s r
  refine ⟨?copy, ?gather, ?scatter, ?scadd, ?segsum, ?segmax, ?sketch, ?copySame, fun _ => rfl⟩
  case copy =>
    rintro ⟨h, hq, hid⟩
    exact (mv_of_ready h hq).trans (by rw [hid]; rfl)
  case copySame =>
    rintro ⟨h, hq, hid⟩
    exact (mv_of_ready h hq).trans (by rw [hid]; rfl)
  all_goals exact fun ⟨h, hq⟩ => (mv_of_ready h hq).trans rfl

end Sys2Proof.Proofs
end

section
/-! PROOFS. Strokes issue and seal, palette slots fill and released entries become free (05 R133; 04 R97 to R105; 09 R235, R238). -/

namespace Sys2Proof.Proofs

open Sys2Proof Sys2Proof.Machine

section
variable {b : BayRef} {s : State} {n : Nat} {w : Nat × List Byte}

/-- What is first in the queue takes a free slot where every check passes and no replay goes before it (05 R133; 12 R313). -/
theorem execStrokeIssue_of_go {i : Inst} {rest : List Inst} {fills : List (Nat × List Byte)} (hlive : s.bayLive b = true)
    (hqueue : (s.bay b.die b.bay).queue = i :: rest) (hslot : s.slotFree b = true) (hreplays : (s.bay b.die b.bay).replays = [])
    (hlogical : (s.logical b.die b.bay).isSome = true) (hcheck : s.issueCheck b.die b.bay i = .go fills) :
    execStrokeIssue b s = .next ((s.modBay b.die b.bay fun x => { x with queue := rest }).issueTo b.die b.bay i fills) := by
  simp [execStrokeIssue, hlive, hqueue, hslot, hreplays, Option.isNone_eq_false_iff.2 hlogical, hcheck]

theorem execStrokeSeal_of_sealable {r : Running} (cycles : Nat) (hlive : s.bayLive b = true)
    (hr : (s.bay b.die b.bay).slots.find? (s.sealable b) = some r) : execStrokeSeal b cycles s = .next (s.sealStroke b r cycles) := by
  simp [execStrokeSeal, hlive, hr]

/-- The oldest fill asked for starts once nothing names the slot (09 R238). -/
theorem execPaletteFillStart_of_unnamed (hlive : s.bayLive b = true) (hn : n < 4)
    (hw : (at' {} (s.bay b.die b.bay).pal n).wants.head? = some w) (hidle : (at' {} (s.bay b.die b.bay).pal n).filling = false)
    (hcount : (at' {} (s.bay b.die b.bay).pal n).refcount = 0)
    (hahead : (((s.bay b.die b.bay).slots.takeWhile (·.seq != w.1)).any fun r => r.names n && !r.issued) = false) :
    execPaletteFillStart b n s = .next (s.modBay b.die b.bay (·.modPal n fun p => { p with filling := true })) := by
  simp only [execPaletteFillStart, hlive, hw, hidle, hcount, hahead]
  simp [hn]

/-- The fill under way ends with the slot valid and its words of new parity (09 R235; 04 R86). -/
theorem execPaletteFillDone_of_filling (hlive : s.bayLive b = true) (hw : (at' {} (s.bay b.die b.bay).pal n).wants.head? = some w)
    (hfilling : (at' {} (s.bay b.die b.bay).pal n).filling = true) :
    execPaletteFillDone b n s = .next (State.wrote (s.modBay b.die b.bay (·.modPal n fun p =>
      { p with image := w.2, valid := true, filling := false, fills := (p.fills + 1) % 2 ^ 32, wants := p.wants.drop 1 }))
        (bayDpa 2 b.die b.bay (0x100 * n)) 0x100) := by
  simp [execPaletteFillDone, hlive, hw, hfilling]

theorem execSealEntryRelease_of_live (a : Nat) (hlive : s.live = true) :
    execSealEntryRelease b a s = .next (State.gatherRetry (s.modBay b.die b.bay fun x =>
      x.modSeals (fun e => e.start == a && e.state == .dry && e.release && e.readers == 0) SealEnt.freed)) := by
  simp [execSealEntryRelease, hlive]
end

/-- Settles O19: each event where its conditions hold. -/
theorem strokeEventsComplete : Obligations.StrokeEventsComplete := by
  intro b s
  refine ⟨?issue, ?sealed, ?fillStart, ?fillDone, fun a hlive => execSealEntryRelease_of_live a hlive⟩
  case issue =>
    rintro i rest fills ⟨hlive, hqueue, hslot, hreplays, hlogical, hcheck⟩
    exact execStrokeIssue_of_go hlive hqueue hslot hreplays hlogical hcheck
  case sealed =>
    rintro r cycles ⟨hlive, hr⟩
    exact execStrokeSeal_of_sealable cycles hlive hr
  case fillStart =>
    rintro n w ⟨hlive, hn, hw, hidle, hcount, hahead⟩
    exact execPaletteFillStart_of_unnamed hlive hn hw hidle hcount hahead
  case fillDone =>
    rintro n w ⟨hlive, hw, hfilling⟩
    exact execPaletteFillDone_of_filling hlive hw hfilling

end Sys2Proof.Proofs
end

section
/-! PROOFS. What each graph node does where it may execute (05 R136 to R141, R504, R505). -/

namespace Sys2Proof.Proofs

open Sys2Proof Sys2Proof.Machine

section
variable {s t : State} {die run kind : Nat} {f : State → Opnd State}

/-- A node whose operands are there takes its effect. -/
theorem next_of_node (h : NodeReady s die run kind) (hf : f s = .ok t) :
    (Host.Outcome.next (s.nodeStep die run kind f) : Outcome) = .next t := by
  obtain ⟨hlive, hrun, hactive, hheld, hkind, hon⟩ := h
  simp [State.nodeStep, hlive, hrun, hactive, hheld, hkind, hon, hf]

/-- A node whose operands have not arrived waits (05 R137). -/
theorem next_of_node_waits (h : NodeReady s die run kind) (hf : f s = .error none) :
    (Host.Outcome.next (s.nodeStep die run kind f) : Outcome) = .next (s.waitRun die run false) := by
  obtain ⟨hlive, hrun, hactive, hheld, hkind, hon⟩ := h
  simp [State.nodeStep, hlive, hrun, hactive, hheld, hkind, hon, hf]
end

/-- Settles O20: each node's operands are there, or LOOP waits for its count. -/
theorem graphNodesComplete : Obligations.GraphNodesComplete := by
  intro die run s
  refine ⟨?stroke, ?loop, ?again, ?branch, ?always, ?nonFinite, ?leave, ?set, fun h => next_of_node h rfl,
    fun h => next_of_node h rfl, ?wait⟩
  case stroke =>
    rintro img argss ⟨h, himg, hargs, hok, hroom⟩
    have hrefused : (argss.any fun a => !img.argsOk a) = false := by simpa using hok
    have hfull : ((List.range (s.node die run).range.2.2).any fun k =>
        decide (16 ≤ (s.bay die (s.phys die ((s.node die run).range.2.1 + k))).queue.length)) = false := by simpa using hroom
    refine next_of_node h ?_
    simp only [himg, hargs, hrefused, hfull, Bool.false_eq_true, if_false]
  case loop =>
    rintro c ⟨h, hc⟩
    refine next_of_node h ?_
    simp only [hc]
    exact (apply_ite Except.ok ..).symm
  case again =>
    rintro l ⟨h, hl⟩
    refine next_of_node h ?_
    simp only [hl]
    exact (apply_ite Except.ok ..).symm
  case branch =>
    rintro a b ⟨h, hcond, ha, hb⟩
    have h6 : (s.node die run).p0 % 8 ≠ 6 := by omega
    have h7 : (s.node die run).p0 % 8 ≠ 7 := by omega
    refine next_of_node h ?_
    simp only [h6, h7, or_self, if_false, ha, hb]
    exact (apply_ite Except.ok ..).symm
  case always =>
    rintro ⟨h, hcond⟩
    refine next_of_node h ?_
    simp [hcond, branchHolds]
  case nonFinite =>
    rintro a ⟨h, hcond, ha⟩
    refine next_of_node h ?_
    simp only [hcond, ha, Nat.reduceEqDiff, false_or, if_false, if_true]
    exact (apply_ite Except.ok ..).symm
  case leave =>
    rintro ⟨h, hl⟩
    exact next_of_node h (by simp only [hl])
  case set =>
    rintro a b ⟨h, ha, hb⟩
    exact next_of_node h (by simp only [ha, hb])
  case wait =>
    rintro ⟨h, hc⟩
    exact next_of_node_waits h (by simp only [hc])

/-- Settles O21: the node's condition decides whether it takes effect now or leaves the run to wait for its event. -/
theorem graphWaitsAndReleasesComplete : Obligations.GraphWaitsAndReleasesComplete := by
  intro die run s
  refine ⟨?wait, ?met, ?toHost, ?toDie, ?release, ?releaseLater, ?effect, ?finish⟩
  case wait =>
    rintro t ⟨h, hissued, rfl⟩
    refine next_of_node h (if_neg ?_)
    rintro ⟨hp0, hnone⟩
    simp [hp0, Option.isNone_iff_eq_none.1 hnone] at hissued
  case met =>
    rintro ⟨hlive, hactive, hheld, hmet⟩
    exact congrArg Host.Outcome.next (if_pos ⟨hlive, hactive, hheld, hmet⟩)
  case toHost =>
    rintro vals ⟨h, hvals, hp0⟩
    exact next_of_node h (by simp only [hvals, hp0, if_true])
  case toDie =>
    rintro vals ⟨h, hvals, hp0, hroom⟩
    refine next_of_node h ?_
    simp only [hvals, if_neg hp0]
    refine if_neg ?_
    rintro ⟨hpool, hfull⟩
    simp [hroom hpool] at hfull
  case release =>
    rintro n ⟨h, rfl, hopen, hslot⟩
    exact next_of_node h (by simp [hopen, hslot])
  case releaseLater =>
    rintro n ⟨h, rfl, hopen⟩
    exact next_of_node h (by simp [hopen])
  case effect =>
    rintro n x ⟨hlive, hx, hslot⟩
    refine congrArg Host.Outcome.next ?_
    simp only [hx, hlive, hslot]
    rfl
  case finish =>
    rintro t ⟨h, hsealed, rfl⟩
    exact next_of_node h (by simp [hsealed])

end Sys2Proof.Proofs
end

section
/-! PROOFS. The PRG- and RUN- commands (05 R111, R135, R141 to R143, R504). -/

namespace Sys2Proof.Proofs

open Sys2Proof Sys2Proof.Machine

theorem okLoad_ok {α : Type} (a : α) : okLoad (.ok a) = .ok a := rfl

/-- Settles O40: each command's checks hold, so it responds, but for a RUN-STOP that waits for issued strokes to seal. -/
theorem programAndRunCommandsComplete : Obligations.ProgramAndRunCommandsComplete := by
  intro x c s t
  refine ⟨?prgStroke, ?prgGraph, ?unloadImage, ?unloadGraph, ?runStart, ?runStop, ?runStopLater, ?runStatus, ?runRecord, ?runNotify⟩
  case prgStroke =>
    rintro id _ img _ ⟨h, rfl, rfl, hlen, hdie, hzero, himg, hroom⟩
    refine congrArg Host.Outcome.next (command_responds h ?_)
    rw [okDie_of_lt (by omega) hdie]
    simp [hlen, hzero, himg, okLoad_ok, hroom]
  case prgGraph =>
    rintro id _ g _ ⟨h, rfl, rfl, hlen, hdie, hzero, hg, hroom⟩
    refine congrArg Host.Outcome.next (command_responds h ?_)
    rw [okDie_of_lt (by omega) hdie]
    simp [hlen, hzero, hg, okLoad_ok, hroom]
  case unloadImage =>
    rintro _ _ i ⟨h, rfl, rfl, hlen, hdie, hkind, himg, hjob, hunused⟩
    refine congrArg Host.Outcome.next (command_responds h ?_)
    rw [okDie_of_lt (by omega) hdie, okLen_of_length hlen]
    simp [hkind, okSome_of_some himg, hjob, hunused, -List.contains_eq_mem]
  case unloadGraph =>
    rintro _ _ g ⟨h, rfl, rfl, hlen, hdie, hkind, hg, hjob, hunused⟩
    refine congrArg Host.Outcome.next (command_responds h ?_)
    rw [okDie_of_lt (by omega) hdie, okLen_of_length hlen]
    simp [hkind, okSome_of_some hg, hjob, hunused]
  case runStart =>
    rintro id _ _ g _ ⟨h, rfl, rfl, rfl, hlen, hdie, hg, hjob, himages, hbays, hzero, hfault, hbusy, hroom⟩
    refine congrArg Host.Outcome.next (command_responds h ?_)
    rw [okDie_of_lt (by omega) hdie, okLen_of_length hlen]
    simp [okSome_of_some hg, hjob, himages, hbays, hzero, hfault, hbusy, List.isEmpty_eq_false_iff.2 hroom]
  case runStop =>
    rintro die r _ ⟨h, rfl, hrun, hsealed⟩
    refine congrArg Host.Outcome.next (command_responds h ?_)
    simp [hrun, hsealed]
  case runStopLater =>
    rintro die r u ⟨h, hu, hrun, hopen⟩
    refine congrArg Host.Outcome.next (command_of_ok h (o := { s := u, body := natLe 2 (u.run die r).node, waits := true }) ?_)
    simp [hrun, ← hu, hopen]
  case runStatus =>
    rintro die r ⟨h, hrun⟩
    refine congrArg Host.Outcome.next (command_responds h ?_)
    simp [hrun]
  case runRecord =>
    rintro _ r ⟨h, rfl, hlen, hdie, hrec, hheld, hzero⟩
    refine congrArg Host.Outcome.next (command_responds h ?_)
    rw [okDie_of_lt (by omega) hdie, okLen_of_length hlen]
    simp [okSome_of_some hrec, hheld, hzero]
  case runNotify =>
    rintro _ ⟨h, rfl, hlen, hdie, hzero, hroom⟩
    refine congrArg Host.Outcome.next (command_responds h ?_)
    rw [okDie_of_lt (by omega) hdie, okLen_of_length hlen]
    simp [hzero, hroom]

end Sys2Proof.Proofs
end

section
/-! PROOFS. The vector engine's own instructions (06 R147 to R169; 02 R53 to R55; 03 R79): each that may issue completes with its registers
written. What is held or refused is named where it can happen: a bank not loaded, a refused anchor, a scale out of range, a conflict. -/

namespace Sys2Proof.Proofs

open Sys2Proof Sys2Proof.Machine

/-- An instruction that nothing can hold or refuse completes with its function of the stroke's registers (04 R104; 06 R147). -/
theorem next_of_registers {s : State} {b : BayRef} {op : Nat} {f : Fields} {r : Running} (g : Running → Running)
    (h : s.atStroke b op f = some r) :
    (Host.Outcome.next (s.strokeStep b op f fun s r => .done s (g r)) : Outcome) = .next (s.went b (g r)) :=
  next_of_done h rfl

/-! ### Instructions on registers alone (06 R149 to R159) -/

/-- Settles O1: each is `Running.fop` of its operation, whatever the modifier. -/
theorem floatLaneInstructionsComplete : Obligations.FloatLaneInstructionsComplete := by
  intro b f s r
  and_intros
  all_goals exact next_of_registers (Running.fop · f _ _)

/-- Settles O2: two sources make `Running.iop` of the operation; a broadcast gives every selected lane one word. -/
theorem integerLaneInstructionsComplete : Obligations.IntegerLaneInstructionsComplete := by
  intro b f s r
  refine ⟨?_, ?_, ?_, ?_, ?_, ?_, ?_, ?_, ?_, ?_, ?_, ?_, ?_, ?immediate, ?scalar⟩
  case immediate => exact next_of_registers fun r => r.lanes f _ fun _ => f.imm
  case scalar => exact next_of_registers fun r => r.lanes f _ fun _ => r.sreg f.src1
  all_goals exact next_of_registers (Running.iop · f _)

/-- Settles O3: a compare writes a predicate's bits, VSEL lanes and PCOUNT an s register, each from the registers alone. -/
theorem predicateInstructionsComplete : Obligations.PredicateInstructionsComplete := by
  intro b f s r
  and_intros
  all_goals exact next_of_registers _

/-- Settles O4: `Running.sop` and `Running.sfop` write the one s register, the latter with the operation's events. -/
theorem scalarInstructionsComplete : Obligations.ScalarInstructionsComplete := by
  intro b f s r
  and_intros
  all_goals exact next_of_registers _

/-- Settles O5: `Running.rop` folds the included lanes; a permute and a random number give each selected lane its word. -/
theorem reductionsPermutesAndRandomComplete : Obligations.ReductionsPermutesAndRandomComplete := by
  intro b f s r
  and_intros
  all_goals exact next_of_registers _

/-! ### Table look-up (06 R165 to R169) -/

/-- Settles O10: a built-in function is `Running.lut`; LUT.LD needs no conflict and LUT.USR a loaded bank. -/
theorem lookUpInstructionsComplete : Obligations.LookUpInstructionsComplete := by
  intro b f s r
  refine ⟨?_, ?_, ?_, ?_, ?_, ?load, ?use⟩
  case load =>
    rintro ⟨h, hfree⟩
    exact next_of_done h (by simp [hfree])
  case use =>
    rintro bank ⟨h, hloaded⟩
    exact next_of_done h (by simp [hloaded])
  all_goals exact next_of_registers (Running.lut · f _ _ _)

/-! ### Conversions, tensor scales and the sketch pass (06 R160 to R163; 03 R79) -/

/-- No block's anchor is refused: XCVT's check passes (06 R162). -/
theorem any_refused_eq_false {ys : List (List Nat × Exc × Bool)} (h : ∀ y ∈ ys, y.2.2 = false) : (ys.any fun y => y.2.2) = false :=
  List.any_eq_false.2 fun y hy => by simp [h y hy]

/-- Settles O11: no anchor is refused, a scale given is legal, an amax is finite, and what a record waits for has completed. -/
theorem conversionsComplete : Obligations.ConversionsComplete := by
  intro b f s r
  refine ⟨next_of_registers (Running.cvt · f), ?xcvt, next_of_registers _, ?tscSet, ?tscale, ?tscaleH, ?vsketch⟩
  case xcvt =>
    rintro ⟨h, haccepted⟩
    exact next_of_done h (by simp only [any_refused_eq_false haccepted, Bool.false_eq_true, if_false])
  case tscSet =>
    rintro ⟨h, hscale⟩
    have hlegal : ¬ (r.sreg f.src1 ≠ 0#32 ∧ !tsOk (r.sreg f.src1)) := by
      rcases hscale with hnone | hok
      · simp [hnone]
      · simp [hok]
    exact next_of_done h (if_neg hlegal)
  case tscale =>
    rintro ⟨h, hnan, hinf⟩
    exact next_of_done h (by simp [hnan, hinf])
  case tscaleH =>
    rintro ⟨h, hsettled⟩
    exact next_of_done h (by simp [hsettled])
  case vsketch =>
    rintro ⟨h, hfree⟩
    exact next_of_done h (by simp [hfree])

end Sys2Proof.Proofs
end

section
/-! PROOFS. The row engine (chapter 07): a row instruction that may run does its rows one after another; what binds roles, sets parameters,
moves plane words and reads the loss accumulator completes. -/

namespace Sys2Proof.Proofs

open Sys2Proof Sys2Proof.Machine

section
variable {s : State} {b : BayRef} {op : Nat} {f : Fields} {r : Running} {need rd wr : List Nat} {stats : Nat} {producers : List Nat} {x : Desc}
  {bad : State → Running → Nat → Nat → Option (Nat × Desc)} {go : State → Running → Nat → Nat → State × Running}

/-- Where its statistics rows come from legal producers, a row instruction finds no foreign one (07 R178). -/
theorem any_foreign_producer_eq_false {sb nr : Nat}
    (h : ∀ i, i < nr → producers.contains (bitsOf (r.stat s b (sb + i)).2.2 29 27) = true) :
    ((List.range nr).any fun i => !producers.contains (bitsOf (r.stat s b (sb + i)).2.2 29 27)) = false :=
  List.any_eq_false.2 fun i hi => by rw [h i (List.mem_range.1 hi)]; decide

/-- A row instruction that may run, and that its own check does not refuse, completes with its rows run in ascending order; RE.LN.B and
RE.RMS.B also mark that they have accumulated (07 R170, R184; 10 R248). -/
theorem row_of_ready (h : s.atStroke b op f = some r) (hready : RowReady s b f r need rd wr stats producers x)
    (hbad : bad s r (r.sreg f.src1).toNat (r.sreg f.src2).toNat = none) :
    (Host.Outcome.next (s.rowStep b op f need rd wr stats producers bad go) : Outcome) = .next ((rowsRun s r f go).1.went b
      (if op = 0x83 ∨ op = 0x85 then (rowsRun s r f go).2.accMark (rowsRun s r f go).2.pc else (rowsRun s r f go).2)) := by
  obtain ⟨hrole, hneed, hsome, hrows, hplace, hproducer, hfree⟩ := hready
  have hbound : (need.any fun k => !r.bound k) = false := List.any_eq_false.2 fun k hk => by simp [hneed k hk]
  have hplaced : ¬ (stats ≠ 0 ∧ (!r.statOk (r.sreg f.dst).toNat (r.sreg f.src2).toNat) = true) := fun ⟨hstats, hno⟩ => by
    simp [hplace hstats] at hno
  have hlegal : ¬ (stats = 2 ∧ ((List.range (r.sreg f.src2).toNat).any fun i =>
      !producers.contains (bitsOf (r.stat s b ((r.sreg f.dst).toNat + i)).2.2 29 27)) = true) := fun ⟨hstats, hforeign⟩ => by
    rw [any_foreign_producer_eq_false (hproducer hstats)] at hforeign
    cases hforeign
  refine next_of_done h ?_
  simp only [hrole, hbound, Bool.false_eq_true, if_false, if_neg hsome, if_neg (Nat.not_lt.2 hrows), if_neg hplaced, hfree, Bool.not_true,
    if_neg hlegal, hbad]
  rfl
end

/-- Settles O13: each instruction is `rowStep` of its row function. Only LN.B, RMS.B, XENT and the activations have a check of their own. -/
theorem rowInstructionsComplete : Obligations.RowInstructionsComplete := by
  intro b f s r x
  refine ⟨?_, ?_, ?lnB, ?rmsB, ?_, ?_, ?xent, ?actF, ?actB, ?_, ?_⟩
  case lnB | rmsB | xent => exact fun ⟨h, hready, hbad⟩ => row_of_ready h hready hbad
  case actF | actB => exact fun ⟨h, hready, hfn⟩ => row_of_ready h hready (if_neg (Nat.not_lt.2 hfn))
  all_goals exact fun ⟨h, hready⟩ => row_of_ready h hready rfl

/-- Settles O14: a parameter is legal, two plane words lie in one row and nothing before them meets them; the others always complete. -/
theorem rowEngineStateInstructionsComplete : Obligations.RowEngineStateInstructionsComplete := by
  intro b f s r
  refine ⟨fun h => next_of_done h rfl, ?parm, ?store, ?load, ?keep, ?clear⟩
  case parm =>
    rintro ⟨h, hlegal⟩
    exact next_of_done h (by simp [hlegal])
  case store | load =>
    rintro ⟨h, hfault, hfree⟩
    exact next_of_done h (by simp [hfault, hfree])
  case keep | clear =>
    rintro ⟨h, hbit⟩
    exact next_of_done h (by simp [hbit])

end Sys2Proof.Proofs
end

section
/-! PROOFS. The steps of a mover's head request: its bounce buffer, its scatter-add rounds and its end (05 R124; 08 R210, R216; 19 R463). -/

namespace Sys2Proof.Proofs

open Sys2Proof Sys2Proof.Machine

section
variable {s : State} {die mv : Nat} {q : MvReq}

/-- A copy that overlaps itself takes its buffer where the group has a place for it (08 R210). -/
theorem execBounceBufferTake_of_place {p a : Nat} (hhead : (s.mover die mv).queue.head? = some q) (hlive : s.live = true)
    (hfrozen : s.isFrozen (masterWord 2 die mv) = false) (hneed : q.needBounce ≠ 0) (hnone : q.bounce = none)
    (hplace : s.bouncePlace die q = some (p, a)) :
    execBounceBufferTake die mv s = .next (State.modMover (State.modBay { s with mem := q.bounced s.mem (sramDpa die p a) } die p fun x =>
      x.register a (alignUp q.needBounce 256) .wet (.bounce mv)) die mv fun y =>
        { y with queue := y.queue.modifyHead fun h => { h with bounce := some (die, p, a) } }) := by
  simp [execBounceBufferTake, hhead, hlive, hfrozen, hneed, hnone, hplace]

/-- An FP32 scatter-add with a range left forms the blocks of that range and keeps its events (08 R216). -/
theorem execScaddRound_of_range_left (hhead : (s.mover die mv).queue.head? = some q) (hlive : s.live = true)
    (hfrozen : s.isFrozen (masterWord 2 die mv) = false) (hop : q.op = 0xA3) (hfmt : q.dst.fmt = 0) (hleft : q.rounds < q.ranges.length) :
    execScaddRound die mv s = .next
      (State.modMover { s with mem := (q.formBlocks s.mem true (q.touched.filter fun j => j / 512 == at' 0 q.ranges q.rounds)).1 }
        die mv fun y => { y with queue := y.queue.modifyHead fun h => { h with
          rounds := h.rounds + 1, exc := h.exc.add (q.formBlocks s.mem true (q.touched.filter fun j => j / 512 == at' 0 q.ranges q.rounds)).2 } }) := by
  simp [execScaddRound, hhead, hlive, hfrozen, hop, hfmt, Nat.not_le.2 hleft]

/-- With its group and stores powered, its buffer taken and its rounds done, the head request writes and leaves (05 R124; 19 R463). -/
theorem execMoverRequestDone_of_ready (hhead : (s.mover die mv).queue.head? = some q) (hlive : s.live = true)
    (hfrozen : s.isFrozen (masterWord 2 die mv) = false) (hon : s.domOn die (bgDom (mv / 2)) = true) (hmem : s.mvMemOn q = true)
    (hbuffer : q.needBounce = 0 ∨ q.bounce.isSome = true) (hrounds : q.op = 0xA3 ∧ q.dst.fmt = 0 → q.ranges.length ≤ q.rounds) :
    execMoverRequestDone die mv s = .next (((s.mvApply die q).mvKeep die q).dropMv die mv q) := by
  have hbuffered : ¬ (q.needBounce ≠ 0 ∧ q.bounce.isNone = true) := fun ⟨hneed, hnone⟩ => by
    rw [Option.isNone_iff_eq_none.1 hnone] at hbuffer
    exact hbuffer.elim hneed (by decide)
  have hdone : ¬ (q.op = 0xA3 ∧ q.dst.fmt = 0 ∧ q.rounds < q.ranges.length) := fun ⟨hop, hfmt, hleft⟩ =>
    (hrounds ⟨hop, hfmt⟩).not_gt hleft
  simp only [execMoverRequestDone, hhead, hlive, hfrozen, hon, hmem, hbuffered, hdone, Bool.not_true, Bool.false_eq_true, or_self, if_false]
end

/-- Settles O18: each step's conditions hold of the head request, so the step takes effect. -/
theorem moverStepsComplete : Obligations.MoverStepsComplete := by
  rintro die mv s q ⟨hhead, hlive, hfrozen⟩
  refine ⟨?bounce, ?round, ?done⟩
  case bounce =>
    rintro p a ⟨hneed, hnone, hplace⟩
    exact execBounceBufferTake_of_place hhead hlive hfrozen hneed hnone hplace
  case round =>
    rintro ⟨hop, hfmt, hleft⟩
    exact execScaddRound_of_range_left hhead hlive hfrozen hop hfmt hleft
  case done =>
    rintro ⟨hon, hmem, hbuffer, hrounds⟩
    exact execMoverRequestDone_of_ready hhead hlive hfrozen hon hmem hbuffer hrounds

end Sys2Proof.Proofs
end

section
/-! PROOFS. Messages that reach a die well formed and as the next of their channel (14 R364 to R366). -/

namespace Sys2Proof.Proofs

open Sys2Proof Sys2Proof.Machine

section
variable {s t : State} {die kind : Nat} {m : SpanMsg} {f : State → State × Answer} {a : Answer}

/-- A well-formed message of the next number has its effect and its answer (14 R364 to R366). -/
theorem recv_of_ready {bodyOk : Bool} {dup : State → State} (h : MsgReady s die kind m bodyOk) :
    s.recv die kind m bodyOk f dup = (f s).1.answerWith m kind (f s).2 := by
  obtain ⟨hlive, hkind, hdie, hnode, hecrc, hseq, hbody, hflags⟩ := h
  have hhere : ¬ ((!s.live) = true ∨ m.kind ≠ kind ∨ s.dieCount ≤ die ∨ s.part.node.isNone = true) := by
    simp [hlive, hkind, hdie, Option.isNone_eq_false_iff.2 hnode]
  have hnext : ¬ ((vcOf kind = 0 ∨ vcOf kind = 2) ∧ m.seq ≠ mgetD 0 s.span.expect (chanKey m.src (vcOf kind))) :=
    fun ⟨hsequenced, hne⟩ => hne (hseq hsequenced)
  have hform : ¬ ((!bodyOk || decide (4 ≤ m.flags)) = true) := by simp [hbody, hflags]
  simp only [State.recv, if_neg hhere, hecrc, if_neg hnext, if_neg hform, Bool.not_true, Bool.false_eq_true, if_false]

/-- A reduction message takes the effect and the answer that its slot gives it. -/
theorem next_of_received (h : MsgReady s die kind m (redOk m)) (hf : f s = (t, a)) :
    (Host.Outcome.next (s.redRecv die kind m f) : Outcome) = .next (t.answerWith m kind a) := by
  rw [State.redRecv, recv_of_ready h, hf]
end

end Sys2Proof.Proofs
end

section
/-! PROOFS. What the reduction messages do at an owner or twin slot (10 R255 to R268; 14 R371). -/

namespace Sys2Proof.Proofs

open Sys2Proof Sys2Proof.Machine

/-! ### The slot a message is for -/

/-- A request for a slot that is described is of the slot's job and of one of its contributors, and the slot is not itself a
contributor's (10 R244, R255): nothing turns it away. -/
theorem not_misaddressed {sl : Slot} {m : SpanMsg}
    (h : sl.expected ≠ 0 → sl.role ≠ .contributor ∧ sl.job = m.redJob ∧ m.redWho < sl.expected) :
    ¬ (sl.expected ≠ 0 ∧ (sl.role = .contributor ∨ sl.job ≠ m.redJob ∨ sl.expected ≤ m.redWho)) := by
  rintro ⟨hdescribed, hwrong⟩
  obtain ⟨hrole, hjob, hwho⟩ := h hdescribed
  exact hwrong.elim hrole (·.elim (· hjob) hwho.not_ge)

/-! ### What is not taken, and withdrawals -/

section
variable {s : State} {die n : Nat} {m : SpanMsg}

/-- While its slot is reset a contribution is kept back, its credit with it (10 R268). -/
theorem notTake_of_resetting (h : (s.slot die n).state = .resetting) :
    s.notTake die n m = (s.modSlot die n fun sl => { sl with withheld := sl.withheld ++ [m] }, .silent) := if_pos h

/-- In any other state a contribution that is not taken is answered and changes nothing (10 R255). -/
theorem notTake_of_not_resetting (h : (s.slot die n).state ≠ .resetting) : s.notTake die n m = (s, .ack stOk) := if_neg h

/-- A withdrawal for a later step waits until the slot opens for it (10 R266). -/
theorem takeWithdraw_of_later (h : (s.slot die n).step < m.withdrawFor) : s.takeWithdraw die n m = (s.holdReq die n m, .silent) :=
  if_pos (.inl h)

/-- A withdrawal for the step that the slot serves takes the contributor out (10 R261, R267). -/
theorem takeWithdraw_of_serving (hstep : m.withdrawFor = (s.slot die n).step) (hopening : (s.slot die n).opening = none)
    (hstate : (s.slot die n).state ≠ .free) : s.takeWithdraw die n m = (s.withdrawn die n m, .ack stOk) := by
  simp [State.takeWithdraw, hstep, hopening, hstate]
end

/-- Settles O22: each message passes the checks of its slot, and the branch that is left is the effect named. -/
theorem reductionMessagesAtReceiversComplete : Obligations.ReductionMessagesAtReceiversComplete := by
  intro die m s
  refine ⟨?settled, ?held, ?noted, ?answered, ?known, ?grantNote, ?setFixed, ?contrib, ?notTaken, ?withheld, ?unknown, ?final, ?retract,
    ?withdraw, ?withdrawLater, ?resetTwin, ?resetOwner⟩
  case settled =>
    rintro d ⟨h, hslot, hasked, htwin, hd, hdecided⟩
    have hserves : ¬ ((s.slot die m.redSlot).role = .twin ∧ (!s.part.takenOver) = true) := fun ⟨hrole, hnot⟩ => by
      simp [htwin hrole] at hnot
    refine next_of_received h ?_
    cases d with
    | hold => contradiction
    | grant | drop => simp only [if_neg (not_misaddressed hslot), hasked, if_neg hserves, hd]
  case held =>
    rintro ⟨h, hslot, hasked, hwaits⟩
    refine next_of_received h ?_
    simp only [if_neg (not_misaddressed hslot), hasked]
    rcases hwaits with ⟨hrole, hnot⟩ | hhold
    · exact if_pos ⟨hrole, by simp [hnot]⟩
    · simp only [hhold, ite_self]
  case noted =>
    rintro k ⟨h, hslot, hasked, hrole, hnode⟩
    refine next_of_received h ?_
    simp only [if_neg (not_misaddressed hslot), hasked, if_pos (And.intro hrole hnode)]
    rfl
  case answered =>
    rintro k ⟨h, hslot, hasked, hnoted, howner⟩
    refine next_of_received h ?_
    simp only [if_neg (not_misaddressed hslot), hasked, if_neg (not_and.2 hnoted), howner, if_true]
  case known =>
    rintro k ⟨h, hslot, hasked, hnoted, howner⟩
    refine next_of_received h ?_
    simp only [if_neg (not_misaddressed hslot), hasked, if_neg (not_and.2 hnoted), howner, Bool.false_eq_true, if_false]
  case grantNote =>
    rintro ⟨h, hrole, hjob⟩
    exact next_of_received h (by simp [hrole, hjob])
  case setFixed =>
    rintro ⟨h, hrole, hjob, hstep⟩
    exact next_of_received h (by simp [hrole, hjob, hstep])
  case contrib =>
    rintro x ⟨h, hx, hrole, hjob, hrange, htakes, hanchored⟩
    exact next_of_received h (by simp [hx, hrole, hjob, Nat.not_lt.2 hrange, htakes, hanchored])
  case notTaken =>
    rintro x ⟨h, hx, hrole, hjob, hrange, htakes, hstate⟩
    exact next_of_received h (by simp [hx, hrole, hjob, Nat.not_lt.2 hrange, htakes, notTake_of_not_resetting hstate])
  case withheld =>
    rintro x ⟨h, hx, hrole, hjob, hrange, htakes, hstate⟩
    exact next_of_received h (by simp [hx, hrole, hjob, Nat.not_lt.2 hrange, htakes, notTake_of_resetting hstate])
  case unknown =>
    rintro ⟨h, hx⟩
    exact next_of_received h (by simp [hx])
  case final =>
    rintro x ⟨h, hx, hrole, hjob, htakes⟩
    exact next_of_received h (by simp [hx, hrole, hjob, htakes])
  case retract =>
    rintro x ⟨h, hx, hrole, hjob, hrange, htakes⟩
    exact next_of_received h (by simp [hx, hrole, hjob, Nat.not_lt.2 hrange, htakes])
  case withdraw =>
    rintro ⟨h, hrole, hjob, hwho, hsealed, hstep, hopening, hstate⟩
    exact next_of_received h (by simp [hrole, hjob, Nat.not_le.2 hwho, hsealed, takeWithdraw_of_serving hstep hopening hstate])
  case withdrawLater =>
    rintro ⟨h, hrole, hjob, hwho, hsealed, hstep⟩
    exact next_of_received h (by simp [hrole, hjob, Nat.not_le.2 hwho, hsealed, takeWithdraw_of_later hstep])
  case resetTwin =>
    rintro ⟨h, hrole, hjob, hstep⟩
    exact next_of_received h (by simp [hrole, hjob, hstep])
  case resetOwner =>
    rintro ⟨h, hrole, hjob, hstep, hsrc⟩
    exact next_of_received h (by simp [hrole, hjob, hstep, hsrc])

end Sys2Proof.Proofs
end

section
/-! PROOFS. What a contributor slot does with the messages of its owner, and the events of a slot (10 R246, R256 to R270; 20 R503). -/

namespace Sys2Proof.Proofs

open Sys2Proof Sys2Proof.Machine

/-- Settles O23: a message finds its contributor slot, and each event finds its slot in the state that it needs. -/
theorem reductionMessagesAtContributorsComplete : Obligations.ReductionMessagesAtContributorsComplete := by
  intro die m s n
  refine ⟨?grant, ?lateDrop, ?replayLost, ?replay, ?sliceDone, ?deadline, ?heldRequest, ?opened⟩
  case grant =>
    rintro t ⟨h, hn, hstate, rfl⟩
    exact next_of_received h (by simp [hn, hstate])
  case lateDrop =>
    rintro ⟨h, hn, hstate⟩
    exact next_of_received h (by simp [hn, hstate])
  case replayLost =>
    rintro k ⟨rfl, h, hn, hstate⟩
    exact next_of_received h (by simp [hn, hstate])
  case replay =>
    rintro ⟨h, hn, hstate, hgranted⟩
    exact next_of_received h (by simp [hn, hstate, hgranted])
  case sliceDone =>
    rintro t ⟨h, hn, hstate, rfl⟩
    have hleaves : ¬ ((s.slot die n).state ≠ .held ∧ (s.slot die n).state ≠ .lost) := fun ⟨hheld, hlost⟩ =>
      hstate.elim hheld hlost
    exact next_of_received h (by simp only [hn, if_neg hleaves])
  case deadline => exact fun h => congrArg Host.Outcome.next (if_pos h)
  case heldRequest =>
    rintro q ⟨hlive, hrole, hq⟩
    exact congrArg Host.Outcome.next (by simp [hlive, hrole, hq])
  case opened =>
    rintro as ⟨hlive, hopening⟩
    refine congrArg Host.Outcome.next ?_
    rcases hopening with ⟨hgiven, hsome⟩ | ⟨hnone, hhints⟩
    · cases as with
      | nil => contradiction
      | cons a as => simp [hgiven, hlive]
    · simp [hnone, hhints, hlive]

end Sys2Proof.Proofs
end

section
/-! PROOFS. The COL- commands (10 R244 to R246, R266, R271; 14 R361, R363, R372). -/

namespace Sys2Proof.Proofs

open Sys2Proof Sys2Proof.Machine

/-- Fields that all hold let the next check be made, at whatever offset each lies. -/
theorem okAll_of_allHold {l : List (Bool × Nat)} (off : Nat) (h : AllHold l) : okAll (l.map fun f => (f.1, f.2 + off)) = .ok () := by
  induction l with
  | nil => rfl
  | cons f l ih =>
    obtain ⟨hf, hl⟩ := List.forall_mem_cons.1 h
    simpa [okAll, hf] using ih hl

/-- Settles O42: each command's checks hold, so it responds. -/
theorem collectiveCommandsComplete : Obligations.CollectiveCommandsComplete := by
  intro x c s t
  refine ⟨?slot, ?read, ?free, ?route, ?mcast, ?gather, ?limit⟩
  case slot =>
    rintro _ _ _ _ ⟨h, rfl, rfl, rfl, rfl, hlen, hdie, hheld, hzero, hfields, hhints, hlegal, hfree, hclosed, hroom⟩
    refine congrArg Host.Outcome.next (command_responds h ?_)
    rw [okDie_of_lt (by omega) hdie]
    simp [hlen, hheld, hzero, okAll_of_allHold 4 hfields, hhints, hlegal, hfree, hclosed, hroom, -List.isEmpty_iff]
  case read =>
    rintro d n sl ⟨h, hlen, hsl, hzero⟩
    refine congrArg Host.Outcome.next (command_responds h ?_)
    simp [hsl, okLen_of_length hlen, hzero]
  case free =>
    rintro die n sl ⟨h, hlen, hsl, hzero, hstate⟩
    refine congrArg Host.Outcome.next (command_responds h ?_)
    simp [hsl, okLen_of_length hlen, hzero, hstate]
  case route =>
    rintro _ _ ⟨h, rfl, rfl, hlen, hrange, hports⟩
    refine congrArg Host.Outcome.next (command_responds h ?_)
    simp [okLen_of_length hlen, hlen, hrange, hports]
  case mcast =>
    rintro ⟨h, hlen, hflags, hports⟩
    refine congrArg Host.Outcome.next (command_responds h ?_)
    simp [okLen_of_length hlen, hflags, hports]
  case gather =>
    rintro _ even odd ⟨h, rfl, hlen, hn, howner, htwin, hdie, hslot, hzero, heven, hodd, hwcEven, hwcOdd, hheld, hown⟩
    refine congrArg Host.Outcome.next (command_responds h ?_)
    rw [okLen_of_length hlen]
    cases hg : mget t.span.gather (fld c.body 0 2) with
    | none => simp [hn, howner, htwin, hdie, hslot, hzero, heven, hodd, hwcEven, hwcOdd, hheld, hg, -List.all_cons]
    | some g => simp [hn, howner, htwin, hdie, hslot, hzero, heven, hodd, hwcEven, hwcOdd, hheld, hg, hown g hg, -List.all_cons]
  case limit =>
    rintro _ ⟨h, rfl, hlen, hdie, hzero, hpos, hmax⟩
    refine congrArg Host.Outcome.next (command_responds h ?_)
    rw [okDie_of_lt (by omega) hdie, okLen_of_length hlen]
    simp [hzero, hpos, hmax]

end Sys2Proof.Proofs
end

section
/-! PROOFS. A slice's consumption from wait to end (04 R99; 11 R280, R281, R284, R286, R288, R291, R295 to R298, R301, R302). -/

namespace Sys2Proof.Proofs

open Sys2Proof Sys2Proof.Machine

/-- A slot's own consumption has the slot's number as its key. -/
theorem keySlot_of_lt {n : Nat} (h : n < 65536) : keySlot n = n := Nat.mod_eq_of_lt h

section
variable {s : State} {die slot block copy : Nat} {h : Shard} {c : Consume} {a : Rec}

/-- Of a staged block that nothing holds up, saturation and the working copy alone decide what its update does (11 R280, R288, R291). -/
theorem execVarnishBlockUpdate_of_staged (hshard : h = s.shard die (s.slot die slot).shard) (hslot : slot < 65536)
    (hc : s.consOf die slot = some c) (hkind : c.kind = 0) (ha : h.current s.mem ((s.slot die slot).first + block) = some (copy, a))
    (hruns : s.shardRuns die slot = true) (hwrites : c.writes = true) (htodo : c.todo.contains block = true)
    (houter : s.outerPending die (s.slot die slot).shard slot ((s.slot die slot).first + block) = false)
    (hlost : s.pairLost die (s.slot die slot).shard ((s.slot die slot).first + block) = false)
    (hstaged : (s.die die).staged.contains (slot, block) = true)
    (hortho : h.whole = true → (mget c.ortho ((s.slot die slot).first + block)).isSome = true) :
    execVarnishBlockUpdate die slot block s = .next (
      if (s.gradBlock die slot block).kind = .saturated then State.unstage
        (State.modCons (s.raiseHint die slot block h ((s.slot die slot).first + block) copy a) die slot fun c =>
          { c with todo := c.todo.filter (· != block) }) die slot block
      else
        let t := if s.wcPacked die slot then s else s.wcOpen die slot
        if t.wcPacked die slot = false ∧ t.wcIsOpen die slot = false then t
        else (t.updateBlock die slot block c copy a (t.gradBlock die slot block)).unstage die slot block) := by
  subst hshard
  have hready : ¬ ((s.shard die (s.slot die slot).shard).whole = true ∧
      (mget c.ortho ((s.slot die slot).first + block)).isNone = true) := fun ⟨hwhole, hnone⟩ => by
    simpa [Option.isNone_iff_eq_none.1 hnone] using hortho hwhole
  simp only [execVarnishBlockUpdate, keySlot_of_lt hslot, hc, ha, hruns, hkind, hwrites, htodo, houter, hlost, hstaged, hready,
    Bool.not_true, Bool.not_eq_true', Bool.false_eq_true, or_self, and_false, true_and, if_true, if_false, zero_ne_one]
end

/-- Settles O24: each event's conditions hold, so it takes effect; a block's update turns on its saturation and its working copy. -/
theorem varnishConsumptionCompletes : Obligations.VarnishConsumptionCompletes := by
  intro die slot s
  refine ⟨?waitEnd, ?normPass, ?prefetch, ?update, ?ortho, ?encode, ?sliceDone, ?reopen⟩
  case waitEnd => exact fun hruns => congrArg Host.Outcome.next (if_pos hruns)
  case normPass =>
    rintro ⟨hruns, hwhole, hundecided, hsome⟩
    refine congrArg Host.Outcome.next (if_neg ?_)
    simp only [hruns, hwhole, List.isEmpty_eq_false_iff.2 hsome, Bool.not_true, Bool.not_eq_true', Bool.not_eq_false, Bool.false_eq_true,
      false_or, or_false, List.all_eq_true]
    intro n hn
    obtain ⟨c, hc, hkind, hopen⟩ := hundecided n hn
    simp [hc, hkind, hopen]
  case prefetch =>
    rintro x _ _ _ ⟨rfl, rfl, hruns, hrole, rfl, hblock, hin, hleft, hroom, hturn, htier, hpair⟩
    refine congrArg Host.Outcome.next (if_pos ⟨hruns, hrole, hblock, hin, hleft, hroom, ?_, ?_, hpair⟩)
    · simpa using hturn
    · simpa using Decidable.imp_iff_not_or.1 htier
  case update =>
    rintro block c _ copy a ⟨hshard, hslot, hc, hkind, ha, hruns, hwrites, htodo, houter, hlost, hstaged, hortho⟩
    have hupdate := execVarnishBlockUpdate_of_staged hshard hslot hc hkind ha hruns hwrites htodo houter hlost hstaged hortho
    refine ⟨?saturated, ?packed, ?plain⟩
    case saturated => exact fun hsat => hupdate.trans (by simp only [hsat, if_true])
    case packed =>
      rintro ⟨hunsat, hpacked⟩
      exact hupdate.trans (by simp [hunsat, hpacked])
    case plain =>
      rintro ⟨hunsat, hpacked, _, hopen⟩
      exact hupdate.trans (by simp [hunsat, hpacked, hopen])
  case ortho =>
    rintro c ⟨hc, hruns, hwhole, hkind, hwrites, hortho, hformed, hbays⟩
    refine congrArg Host.Outcome.next ?_
    simp only [hc]
    refine if_neg ?_
    simp only [hruns, hwhole, hkind, hwrites, hortho, List.isEmpty_nil, ne_eq, Bool.not_true, Bool.not_eq_true', Bool.not_eq_false,
      Bool.false_eq_true, not_true_eq_false, false_or, not_or, List.all_eq_true]
    refine ⟨fun n hn => ?_, hbays⟩
    obtain ⟨d, hd, hmoments⟩ := hformed n hn
    simpa [hd] using hmoments
  case encode =>
    rintro c d ⟨hslot, hc, hd, hruns, hkind, hwrites, htodo, hwc, hpacked, hopen⟩
    refine congrArg Host.Outcome.next ?_
    simp [keySlot_of_lt hslot, hc, hd, hruns, hkind, hwrites, htodo, hwc, hpacked, hopen]
  case sliceDone =>
    rintro c ⟨hslot, hc, hruns, hkind, hdecided, hdone, htodo, hwc⟩
    refine congrArg Host.Outcome.next ?_
    simp [keySlot_of_lt hslot, hc, hruns, hkind, hdecided, hdone, htodo, hwc]
  case reopen => exact fun h => congrArg Host.Outcome.next (if_pos h)

end Sys2Proof.Proofs
end

section
/-! PROOFS. The VAR- commands (11 R273, R275, R278, R285, R287, R295, R302; 12 R318). -/

namespace Sys2Proof.Proofs

open Sys2Proof Sys2Proof.Machine

/-- A ready command whose checks hold responds with the status that its effect gives (17 R435). -/
theorem command_respondsWith {s t u : State} {x : CmdRef} {g n status : Nat} {c : Cmd} {p : Cmd → Bool} {f : State → Cmd → Nat → Exe CmdOut}
    {body : List Byte} (h : CmdReady s x g n c t p) (hf : f t c x.retry = .ok { s := u, body := body, status := status }) :
    s.command x g n f p = u.respond c status body := command_of_ok h hf

/-- Settles O43: each command's checks hold, so it responds; VAR-REPORT's status is that of the last report's outcome. -/
theorem varnishCommandsComplete : Obligations.VarnishCommandsComplete := by
  intro x c s t
  refine ⟨?shard, ?initLpddr, ?initHost, ?bind, ?schedule, ?norm, ?totals, ?report, ?rollback, ?resolve, ?counters⟩
  case shard =>
    rintro _ _ _ ⟨h, rfl, rfl, rfl, hlen, hdie, hheld, hzero, hfields, hmemory, htable, hanchors, hidle⟩
    refine congrArg Host.Outcome.next (command_responds h ?_)
    rw [okDie_of_lt (by omega) hdie, okLen_of_length hlen]
    simp only [exe_ok_bind, hheld, hzero, okAll_of_allHold 4 hfields, hmemory, htable, hanchors, hidle, Bool.not_false,
      okSt_true, okAt_true, okRef_true, exe_pure]
  case initLpddr =>
    rintro hostData die k h0 _ _ ⟨h, rfl, rfl, hlen, hshard, hsrc, hheld, hrange, hhint, hzero, hread⟩
    refine congrArg Host.Outcome.next (command_responds h ?_)
    simp [hshard, okLen_of_length hlen, hsrc, hheld, hrange, hhint, hzero, hread]
  case initHost =>
    rintro bs die k h0 _ ⟨h, rfl, hlen, hshard, hsrc, hheld, hrange, hhint, hzero, hread, husable⟩
    refine congrArg Host.Outcome.next (command_responds h ?_)
    simp [hshard, okLen_of_length hlen, hsrc, hheld, hrange, hhint, hzero, hread, husable]
  case bind =>
    rintro die n sl bound ⟨h, hlen, hslot, hzero, hrole, hbound⟩
    refine congrArg Host.Outcome.next (command_responds h ?_)
    simp [hslot, okLen_of_length hlen, hzero, hrole, hbound, -bne_iff_ne]
  case schedule =>
    rintro _ _ ⟨h, rfl, rfl, hlen, hdie, hslots, hzero⟩
    refine congrArg Host.Outcome.next (command_responds h ?_)
    rw [okDie_of_lt (by omega) hdie]
    simp [okLen_of_length hlen, hslots, hzero, -List.all_eq_true]
  case norm =>
    rintro ⟨h, hlen, hzero, hpos⟩
    refine congrArg Host.Outcome.next (command_responds h ?_)
    simp [okLen_of_length hlen, hzero, hpos]
  case totals =>
    rintro _ ⟨h, rfl, hlen, hdie⟩
    refine congrArg Host.Outcome.next (command_responds h ?_)
    rw [okDie_of_lt (by omega) hdie, okLen_of_length hlen]
    rfl
  case report =>
    rintro _ _ ⟨h, rfl, rfl, hlen, hdie, hn, hzero⟩
    refine congrArg Host.Outcome.next (command_respondsWith h ?_)
    rw [okDie_of_lt (by omega) hdie, okLen_of_length hlen]
    simp [hn, hzero]
  case rollback =>
    rintro ⟨h, hlen⟩
    refine congrArg Host.Outcome.next (command_responds h ?_)
    simp [okLen_of_length hlen]
  case resolve =>
    rintro _ key k ⟨h, rfl, hlen, hdie, hcons, hpick, hkind⟩
    refine congrArg Host.Outcome.next (command_responds h ?_)
    have hback : (fld c.body 1 1 != 2 || k.kind != 1) = true := by simpa [Decidable.imp_iff_not_or] using hkind
    rw [okDie_of_lt (by omega) hdie, okLen_of_length hlen]
    simp only [exe_ok_bind, okSome_of_some (ok := fun _ => true) hcons rfl, hpick, decide_true, okAt_true, hback, okRef_true, exe_pure]
    split_ifs <;> rfl
  case counters =>
    rintro d n h0 ⟨h, hlen, hshard, hzero⟩
    refine congrArg Host.Outcome.next (command_responds h ?_)
    simp [hshard, okLen_of_length hlen, hzero]

end Sys2Proof.Proofs
end

section
/-! PROOFS. Faults: detection and queueing, replay and arbitration, recovery and fail-stop, the end of a field test (12 R303 to R324). -/

namespace Sys2Proof.Proofs

open Sys2Proof Sys2Proof.Machine

section
variable {s t : State} {b : BayRef}

/-- The oldest queued fault is served where no handling is left under way: its unit may be gone by then (12 R323). -/
theorem execQueuedFaultServe_of_idle {x : FaultDesc} {rest : List FaultDesc} (hlive : s.live = true) (ht : t = s.settleHandling)
    (hqueue : t.ks.queue = x :: rest) (hidle : t.ks.handling = []) :
    execQueuedFaultServe s = .next (
      let u : State := { t with ks := { t.ks with queue := rest } }
      if u.absorbed x then u.logDetected x (u.domainOf x).level 7 (Config.faultStatus x.detector) 0 0 else u.firstAction x) := by
  simp only [execQueuedFaultServe, ← ht, hqueue, hidle, hlive, List.isEmpty_nil, Bool.not_true, Bool.false_eq_true, or_self, if_false]

/-- The oldest replay takes a free slot where every check passes (12 R313). -/
theorem execReplayIssue_of_go {i : Inst} {rest : List Inst} {fills : List (Nat × List Byte)} (hlive : s.bayLive b = true)
    (hreplays : (s.bay b.die b.bay).replays = i :: rest) (hslot : s.slotFree b = true)
    (hlogical : (s.logical b.die b.bay).isSome = true) (hcheck : s.issueCheck b.die b.bay i = .go fills) :
    execReplayIssue b s = .next ((s.modBay b.die b.bay fun x => { x with replays := rest }).issueTo b.die b.bay i fills) := by
  simp [execReplayIssue, hlive, hreplays, hslot, Option.isNone_eq_false_iff.2 hlogical, hcheck]

/-- The verdict on a held tile is given once the arbiter is awake (12 R309). -/
theorem execArbitrationDone_of_awake {a : Arb} {y : Tile} {r : Running} (arbEqHeld arbEqSums arbOwnOk : Bool) (hlive : s.live = true)
    (ha : (s.ks.arbs.find? fun a => a.die == b.die && a.bay == b.bay && a.awake) = some a)
    (hy : (s.bay b.die b.bay).tiles.find? (·.phase == .held) = some y) (hr : (s.bay b.die b.bay).strokeOf y = some r) :
    execArbitrationDone b arbEqHeld arbEqSums arbOwnOk s = .next (s.arbitrate b a y r arbEqHeld arbEqSums arbOwnOk) := by
  simp [execArbitrationDone, ha, hy, hr, hlive]

/-- A test that may end ends (12 R320). -/
theorem execFieldTestDone_of_ending {unit die index : Nat} {y : FTest} (pass : Bool) (pattern : Nat) (hlive : s.live = true)
    (hy : (s.ks.tests.find? fun t => t.unit == unit && t.die == die && t.index == index) = some y) (hend : s.testMayEnd y = true) :
    execFieldTestDone unit die index pass pattern s = .next (s.testDone y pass pattern) := by
  simp [execFieldTestDone, hy, hlive, hend]
end

/-- Settles O25: each event where its conditions hold. -/
theorem faultHandlingCompletes : Obligations.FaultHandlingCompletes := by
  intro s hlive
  refine ⟨?detect, ?watchdog, ?queued, ?replay, ?wake, ?arbitration, ?damage, ?leader, ?failStop, ?test⟩
  case detect =>
    rintro x ⟨hfirst, hlast, hdie, hunit⟩
    exact congrArg Host.Outcome.next (if_pos ⟨hlive, hfirst, hlast, hdie, hunit⟩)
  case watchdog =>
    rintro die beat slice ⟨hdie, hmissed⟩
    exact congrArg Host.Outcome.next (if_pos ⟨hlive, hdie, by simp only [hmissed, decide_false, Bool.not_false]⟩)
  case queued =>
    rintro t x rest ⟨ht, hqueue, hidle⟩
    exact execQueuedFaultServe_of_idle hlive ht hqueue hidle
  case replay =>
    rintro b i rest fills ⟨hbay, hreplays, hslot, hlogical, hcheck⟩
    exact execReplayIssue_of_go hbay hreplays hslot hlogical hcheck
  case wake => exact fun b hwaking => congrArg Host.Outcome.next (if_pos ⟨hlive, hwaking⟩)
  case arbitration =>
    rintro b a y r e1 e2 e3 ⟨ha, hy, hr⟩
    exact execArbitrationDone_of_awake e1 e2 e3 hlive ha hy hr
  case damage => exact fun x hdie => congrArg Host.Outcome.next (if_neg (by simp [hlive, hdie]))
  case leader =>
    rintro die ⟨hdie, hother, hfenced⟩
    exact congrArg Host.Outcome.next (if_neg (by simp [hlive, hdie, hother, hfenced]))
  case failStop => exact fun reason => congrArg Host.Outcome.next (if_pos hlive)
  case test =>
    rintro unit die index pass pattern y ⟨hy, hend⟩
    exact execFieldTestDone_of_ending pass pattern hlive hy hend

end Sys2Proof.Proofs
end

section
/-! PROOFS. Twin and replica digests: what a finished consumption's comparison does, and the digest of a gathered copy (12 R317 to R319). -/

namespace Sys2Proof.Proofs

open Sys2Proof Sys2Proof.Machine

/-- Gradient digests that differ are logged and told to the twin, and the slice is reset (12 R318 stage 1). -/
theorem digestStages_of_gradients_differ {s : State} {die key : Nat} {c : Consume} {p : Nat × Nat × List Byte × List Byte} (obs : DigestObs)
    (hkind : c.kind = 0) (hdiffer : p.2.2.1 ≠ c.gradDigest) :
    s.digestStages die key c p obs = State.resetSlice (State.modDie
      ((s.logStage die c.gradDigest).agreeSend die key c 1) die fun d => { d with peers := d.peers.filter (·.1 != key) }) die key :=
  if_pos ⟨hdiffer, hkind⟩

section
variable {s : State} {die key : Nat} {obs : DigestObs} {c : Consume} {p : Nat × Nat × List Byte × List Byte}
variable (hlive : s.live = true) (hc : s.consOf die key = some c) (hp : (s.die die).peers.find? (·.1 == key) = some p)
  (hdone : c.done = true) (htwin : s.consTwin die key c = false) (hstep : (s.consId die key c).2.2 = p.2.1)
include hlive hc hp hdone htwin hstep

/-- Where both digests agree, the owner says so and the consumption is settled (12 R317). -/
theorem execDigestCompare_of_agreement (hopen : c.stage ≠ 4) (hgrad : p.2.2.1 = c.gradDigest) (hupd : p.2.2.2 = c.updDigest) :
    execDigestCompare die key obs s = .next ((s.agreeSend die key c 0).agreeCons die key c) := by
  simp [execDigestCompare, hlive, hc, hp, hdone, htwin, hstep, hopen, hgrad, hupd]

/-- A disagreement on the gradient whose handling has begun takes its next stage (12 R318). -/
theorem execDigestCompare_of_begun (hopen : c.stage ≠ 4) (hkind : c.kind = 0) (hdiffer : p.2.2.1 ≠ c.gradDigest)
    (hbegun : c.stage ≠ 0 ∨ (s.slot die key).disputed = true) :
    execDigestCompare die key obs s = .next (s.digestStages die key c p obs) := by
  simp only [execDigestCompare, hc, hp]
  rw [if_neg (by simp [hlive, hdone, htwin, hstep, hopen]), if_neg fun hagree => hdiffer hagree.1, if_pos (by simpa [hkind] using hbegun)]

/-- A new disagreement on the gradient is first a fault; where its handling begins at once, so do the stages (12 R303, R318). -/
theorem execDigestCompare_of_detected {t : State} {c' : Consume} (hstage : c.stage = 0) (hdiffer : p.2.2.1 ≠ c.gradDigest)
    (hundisputed : (s.slot die key).disputed = false)
    (hunqueued : (s.ks.queue.any fun x => x.detector == 10 && x.die == die && x.addr == key) = false)
    (ht : t = s.fault ⟨10, die, 0, key, false, sub c.gradDigest 0 24⟩) (hc' : t.consOf die key = some c') (htlive : t.live = true)
    (hbegun : c'.stage ≠ 0) :
    execDigestCompare die key obs s = .next (t.digestStages die key c' p obs) := by
  subst ht
  simp only [execDigestCompare, hc, hp]
  rw [if_neg (by simp [hlive, hdone, htwin, hstep, hstage]), if_neg fun hagree => hdiffer hagree.1,
    if_neg (by simp [hstage, hundisputed]), if_neg (by simp [hunqueued])]
  simp only [if_pos hdiffer, hc']
  exact congrArg Host.Outcome.next (if_pos ⟨htlive, .inl hbegun⟩)
end

/-- The digest of a gathered copy goes to its owner, or to the twin where the owner's part is fenced, at every step of the job's period
whose copy is dry (12 R319). -/
theorem execReplicaDigestCompute_of_dry {s : State} {entry step : Nat} {g : Gather} (hlive : s.live = true)
    (hg : mget s.span.gather entry = some g) (hlast : g.last = some step) (hperiod : step % (mgetD {} s.jobs g.job).period = 0)
    (hdry : ((s.gatherRegs g step).all fun x => (s.bay g.die x.1).allAt .dry x.2.1 x.2.2) = true) :
    execReplicaDigestCompute entry s = .next (s.send 0x42
      (if s.part.fencedNodes.contains g.ownerNode then g.twinNode else g.ownerNode) g.ownerDie
      (pack [(2, g.slot), (2, 0), (4, step)] ++ copyDigest s.mem (s.resolveDesc g.die 0xFF (g.desc step)))) := by
  simp only [execReplicaDigestCompute, hg, hlast]
  rw [if_pos ⟨hlive, hperiod, hdry⟩]

/-- Settles O26: a comparison turns on whether the digests agree and whether a disagreement's handling has begun. -/
theorem digestComparisonsComplete : Obligations.DigestComparisonsComplete := by
  intro s hlive
  refine ⟨?agreement, ?begun, ?detected, ?replica⟩
  case agreement =>
    rintro die key obs c p ⟨hc, hp, hdone, htwin, hstep, hopen, hgrad, hupd⟩
    exact execDigestCompare_of_agreement hlive hc hp hdone htwin hstep hopen hgrad hupd
  case begun =>
    rintro die key obs c p ⟨hc, hp, hdone, htwin, hstep, hopen, hkind, hdiffer, hbegun⟩
    exact (execDigestCompare_of_begun hlive hc hp hdone htwin hstep hopen hkind hdiffer hbegun).trans
      (congrArg Host.Outcome.next (digestStages_of_gradients_differ obs hkind hdiffer))
  case detected =>
    rintro die key obs c p t c' ⟨hc, hp, hdone, htwin, hstep, hstage, _, hdiffer, hundisputed, hunqueued, ht, hc', htlive, hbegun⟩
    exact execDigestCompare_of_detected hlive hc hp hdone htwin hstep hstage hdiffer hundisputed hunqueued ht hc' htlive hbegun
  case replica =>
    rintro entry g step ⟨hg, hlast, hperiod, hdry⟩
    exact execReplicaDigestCompute_of_dry hlive hg hlast hperiod hdry

end Sys2Proof.Proofs
end

section
/-! PROOFS. Atelier: what each event of a stream, a pool or an engine does where its conditions hold (13 R332 to R352). -/

namespace Sys2Proof.Proofs

open Sys2Proof Sys2Proof.Machine

/-! ### Streams -/

section
variable {s : State} {die n : Nat}

/-- A packet that begins with its sync byte is demultiplexed and leaves the data (13 R333). -/
theorem execTsPacket_of_sync {off : Nat} (hruns : s.streamRuns die n = true) (hoff : off = if (s.stream die n).container = 1 then 4 else 0)
    (hpackets : (s.stream die n).container ≠ 2) (hwhole : 188 + off ≤ (s.stream die n).data.length)
    (hsync : fldBe (s.stream die n).data off 1 = 0x47) :
    execTsPacket die n s = .next (State.modStream (s.tsPacket die n (((s.stream die n).data.drop off).take 188)) die n
      fun y => { y with data := y.data.drop (188 + off) }) := by
  simp only [execTsPacket, ← hoff]
  rw [if_neg (by simp [hruns, hpackets, hwhole]), if_pos hsync]

/-- The oldest segment, of a granted range over a usable port, joins the data (13 R332, R335). -/
theorem execSegmentRead_of_granted {g : Segment} {rest : List Segment} {bs : List Byte} (hruns : s.streamRuns die n = true)
    (hsegs : (s.stream die n).segs = g :: rest)
    (hgrant : s.holdsRange (s.stream die n).job 3 (s.stream die n).port g.addr g.len = true)
    (husable : (s.host (s.stream die n).port).usable s.ks.ideRequired = true) (hlen : bs.length = g.len) :
    execSegmentRead die n (some bs) s = .next (s.modStream die n fun x => { x with
      segs := rest, data := if x.container = 2 then [] else x.data ++ bs, discAt := x.discAt || bitOf g.flags 1
      state := if bitOf g.flags 0 then .ending else x.state }) := by
  simp only [execSegmentRead, hsegs, hruns, hgrant, husable, hlen, Bool.not_true, Bool.false_eq_true, ne_eq, not_true_eq_false, if_false]

/-- On an engine that decodes, with a pool that takes clips, the picture alone decides: an unsupported one stops the stream, a damaged or
dependent one is dropped, another goes to the clips unless a crop of it is empty (13 R334, R339, R343, R350). -/
theorem execPictureDecode_of_engine (pic : Picture) (hruns : s.streamRuns die n = true)
    (hfenced : (at' {} (s.die die).engines (s.stream die n).engine).fenced = false)
    (htesting : (at' {} (s.die die).engines (s.stream die n).engine).testing = false)
    (hpool : (s.pool die (s.stream die n).pool).canTake = true) :
    execPictureDecode die n pic s = .next (
      let x := s.stream die n
      if pic.unsupported then s.streamStop die n stUnsupported (((x.timing pic).1.or x.lastPts).getD 0)
      else if x.damages pic || x.drops pic then s.modStream die n fun _ => x.dropPicture pic
      else
        let t := s.modStream die n fun _ => (x.usePicture pic).1
        if (x.usePicture pic).2 then t else t.streamStop die n stRange ((x.timing pic).1.getD 0)) :=
  congrArg Host.Outcome.next (if_neg (by simp [hruns, hfenced, htesting, hpool]))

/-- An ending stream with nothing left to give passes its last audio on, drops and counts its clips, and raises its event (13 R332, R343). -/
theorem execStreamEnd_of_drained {t : State} (hruns : s.streamRuns die n = true) (hending : (s.stream die n).state = .ending)
    (hsegs : (s.stream die n).segs = []) (hdrained : (s.stream die n).drained = true) (hready : (s.stream die n).ready = [])
    (ht : t = State.modStream ((s.stream die n).audio.foldl (fun (s : State) a =>
      if fldBe a.2 4 2 = 0 then s.audioRecord die n a.1 a.2 else s) s) die n fun x =>
        { x.count 5 x.clips.length with clips := [], audio := [], state := .ended }) :
    execStreamEnd die n s = .next (t.event evStreamEnd (s.stream die n).job die 0 (pack [(1, n), (3, 0)] ++ (t.stream die n).counterBytes)) := by
  subst ht
  exact congrArg Host.Outcome.next (if_neg (by simp [hruns, hending, hsegs, hdrained, hready]))

end

/-! ### Pools and engines -/

section
variable {s : State} {die n : Nat} (hlive : s.live = true) (hdie : die < s.dieCount)
include hlive hdie

/-- The oldest complete clip of a stream of the pool, when its turn has come, is written into the next slot (13 R346 to R350). -/
theorem execClipComplete_of_turn {pool : Nat} {c : Clip} {rest : List Clip} (hready : (s.stream die n).ready = c :: rest)
    (hexists : (mget (s.die die).pools pool).isSome = true) (hruns : s.poolsRun die = true)
    (hfrozen : s.isFrozen (masterWord 4 die n) = false) (hmember : (s.pool die pool).streams.contains n = true)
    (hroom : (s.pool die pool).canTake = true) (hturn : fld (s.pool die pool).raw 1 1 = 0 → (s.turnOf die pool).map (·.2) = some n) :
    execClipComplete die pool n s = .next (s.clipTaken die pool n (s.pool die pool) (s.stream die n) c rest) := by
  have hnext : ¬ (fld (s.pool die pool).raw 1 1 = 0 ∧ (s.turnOf die pool).map (·.2) ≠ some n) := fun ⟨hordered, hother⟩ =>
    hother (hturn hordered)
  simp only [execClipComplete, hready, hlive, Nat.not_le.2 hdie, hruns, Option.isNone_eq_false_iff.2 hexists, hfrozen, hmember, hroom, hnext,
    Bool.not_true, Bool.false_eq_true, or_self, if_false]

/-- A bank with every slot filled is announced where the queues have room, and the next pass begins (13 R350, R351). -/
theorem execBankReady_of_filled (hexists : (mget (s.die die).pools n).isSome = true) (hruns : s.poolsRun die = true)
    (hfilled : (s.pool die n).filled = (s.pool die n).slots) (hfree : at' false (s.pool die n).bankFree ((s.pool die n).pass % 2) = true)
    (hroom : s.notifyRoom die (s.pool die n).job = true) : execBankReady die n s = .next (s.bankDone die n) :=
  congrArg Host.Outcome.next (if_neg (by
    simp [hlive, hdie, hruns, Option.isNone_eq_false_iff.2 hexists, hfilled, hfree, hroom, -Option.isNone_iff_eq_none]))

/-- A release asked for frees the bank of its pass, or is counted where that pass is not announced (13 R352). -/
theorem execBankRelease_of_asked {pass : Nat} (hasked : (s.pool die n).asked.contains pass = true) :
    execBankRelease die n pass s = .next (s.modPool die n fun q =>
      if q.ready.contains pass then { q with
        asked := q.asked.erase pass, ready := q.ready.filter (· != pass), bankFree := setAt q.bankFree (pass % 2) true }
      else { q with asked := q.asked.erase pass, ignored := satAdd 32 q.ignored 1 }) :=
  congrArg Host.Outcome.next (if_neg (by simp [hlive, hdie, hasked, -List.contains_eq_mem]))

/-- A parity fault of an engine in use is counted; the second fences it, and its streams move (13 R342). -/
theorem execEngineFault_of_in_use {k : Nat} (hengine : n < 4) (hfenced : (at' {} (s.die die).engines n).fenced = false)
    (hk : k = (at' {} (s.die die).engines n).faults + 1) :
    execEngineFault die n s = .next (
      let t := s.modDie die fun d => { d with engines := d.engines.modify n fun e => { e with faults := k, fenced := decide (2 ≤ k) } }
      if k < 2 then t else t.moveStreams die n) := by
  subst hk
  exact congrArg Host.Outcome.next (if_neg (by simp [hlive, hdie, hengine, hfenced]))

end

/-- Settles O35: each event's conditions hold, so it takes effect; of a picture, what is wrong with it decides. -/
theorem atelierEventsComplete : Obligations.AtelierEventsComplete := by
  intro die n s
  refine ⟨?stream, ?part⟩
  case stream =>
    rintro hruns _ rfl
    refine ⟨?packet, ?segment, ?picture, ?streamEnd⟩
    case packet =>
      rintro off ⟨hoff, hpackets, hwhole, hsync⟩
      exact execTsPacket_of_sync hruns hoff hpackets hwhole hsync
    case segment =>
      rintro g rest bs ⟨hsegs, hgrant, husable, hlen⟩
      exact execSegmentRead_of_granted hruns hsegs hgrant husable hlen
    case picture =>
      rintro pic ⟨hfenced, htesting, hpool⟩
      have hdecode := execPictureDecode_of_engine pic hruns hfenced htesting hpool
      refine ⟨?used, ?dropped, ?unsupported⟩
      case used =>
        rintro ⟨hsupported, hsound, hfree, huse⟩
        exact hdecode.trans (by simp [hsupported, hsound, hfree, huse])
      case dropped =>
        rintro ⟨hsupported, hlost⟩
        exact hdecode.trans (by simp [hsupported, hlost])
      case unsupported => exact fun hunsupported => hdecode.trans (by simp [hunsupported])
    case streamEnd =>
      rintro ⟨hending, hsegs, hdrained, hready⟩ t ht
      exact execStreamEnd_of_drained hruns hending hsegs hdrained hready ht
  case part =>
    rintro ⟨hlive, hdie⟩
    refine ⟨?clip, ?bank, ?release, ?engine⟩
    case clip =>
      rintro pool _ _ c rest ⟨rfl, rfl, hready, hexists, hruns, hfrozen, hmember, hroom, hturn⟩
      exact execClipComplete_of_turn hlive hdie hready hexists hruns hfrozen hmember hroom hturn
    case bank =>
      rintro ⟨hexists, hruns, hfilled, hfree, hroom⟩
      exact execBankReady_of_filled hlive hdie hexists hruns hfilled hfree hroom
    case release => exact fun pass hasked => execBankRelease_of_asked hlive hdie hasked
    case engine =>
      rintro ⟨hengine, hfenced⟩ k hk
      exact execEngineFault_of_in_use hlive hdie hengine hfenced hk

end Sys2Proof.Proofs
end

section
/-! PROOFS. The ATL- commands (13 R331, R332, R337, R341, R348, R349). -/

namespace Sys2Proof.Proofs

open Sys2Proof Sys2Proof.Machine

section
variable {s t u : State} {x : CmdRef} {g n : Nat} {c : Cmd} {p : Cmd → Bool} {f : State → Cmd → Nat → Exe CmdOut}

/-- Where a check of a ready command fails, the status of that check decides: a refusal keeps its hint, and one for want of room is
counted too (17 R433, R434). -/
theorem command_of_error {st detail retry : Nat} (h : CmdReady s x g n c t p) (hf : f t c x.retry = .error (st, detail, retry)) :
    s.command x g n f p = if st = stRefused then t.refuse c retry
      else if st = stLimit then (t.countRefusal c.die 5 c.standing).respond c st else t.respond c st [] 0 detail := by
  obtain ⟨hstate, hport, hwaiting, hturn, rfl, hfence, hbody, r, hrow, hauth, hdefers⟩ := h
  obtain ⟨rfl, rfl⟩ := cmdRow_group_code hrow
  have hopen : ¬ ((s.taken x c).hostFenced c.port = true ∧ (!fencedOk r.group r.code) = true) := by simpa using hfence
  have hroom : (!r.defers || decide (((s.taken x c).die c.die).deferred.length < 64)) = true := by simpa [Decidable.imp_iff_not_or] using hdefers
  calc s.command x r.group r.code f p
      = (s.taken x c).execute c r x.retry f := by
        rw [State.command, if_neg (by omega)]
        simp only [hrow, hwaiting, hturn, Bool.not_true, Bool.false_eq_true, if_false]
    _ = _ := by
        rw [State.execute, if_neg hopen, if_neg (by simp [hbody])]
        simp only [hauth, hroom, okRef_true, hf, exe_ok_bind]

/-- A ready command whose last check may refuse it responds where that check holds and is refused where it does not (17 R434, R435). -/
theorem command_responds_or_refuses {b : Bool} {retry : Nat} {body : List Byte} (h : CmdReady s x g n c t p)
    (hf : f t c x.retry = (okRef b retry >>= fun _ => .ok { s := u, body := body })) :
    s.command x g n f p = if b = true then u.respond c stOk body else t.refuse c retry := by
  cases b with
  | true => exact command_responds h hf
  | false => exact command_of_error h hf
end

/-- A new stream's format is that of its pool's streams, and its sample the pool's: the check on them holds. -/
theorem streamMatches_of_pool {l : SMap Stream} {y : Stream} {p : Pool} (hsample : y.sample = p.elems)
    (hmates : ∀ z ∈ l, z.2.pool = y.pool → z.2.fmt = y.fmt) :
    (y.sample == p.elems && (l.filter fun z => z.2.pool == y.pool).all fun z => z.2.fmt == y.fmt) = true := by
  simpa [hsample, ← imp_iff_not_or] using hmates

/-- Settles O41: each command's checks hold, so it responds; whether the work area fits decides between ATL-STREAM's two answers. -/
theorem atelierCommandsComplete : Obligations.AtelierCommandsComplete := by
  intro x c s t
  refine ⟨?stream, ?submit, ?pool, ?audio, ?closeStream, ?closePool, ?status⟩
  case stream =>
    rintro _ _ _ p e ⟨h, rfl, rfl, rfl, hlen, hdie, hpool, hown, hheld, hzero, hfields, hsample, hmates, hnew, hfits, hengine⟩
    refine congrArg Host.Outcome.next (command_responds_or_refuses h ?_)
    have hfound := okSome_of_some (ok := fun p => p.job == c.job) hpool (beq_iff_eq.2 hown)
    rw [okDie_of_lt (by omega) hdie, okLen_of_length hlen]
    simp only [exe_ok_bind, hfound, hheld, hzero, okAll_of_allHold 4 hfields, streamMatches_of_pool hsample hmates, hnew, hfits, hengine,
      Option.isNone_none, Option.getD_some, okSt_true, okAt_true, okRef_true, exe_pure]
  case submit =>
    rintro bs die n y _ ⟨h, rfl, hlen, hstream, hheld, hcount, hzero, hopen, hroom, hread, husable, hlist⟩
    refine congrArg Host.Outcome.next (command_responds h ?_)
    rw [hstream, okLen_of_length hlen]
    simp only [exe_ok_bind, hheld, hcount, hzero, hopen, hroom, hread, husable, hlist, and_self, decide_true, beq_self_eq_true, Bool.and_self,
      okSt_true, okAt_true, okRef_true, exe_pure]
  case pool =>
    rintro _ _ _ ⟨h, rfl, rfl, rfl, hlen, hdie, hheld, hzero, hfields, hnew, hfits, hrange⟩
    refine congrArg Host.Outcome.next (command_responds h ?_)
    rw [okDie_of_lt (by omega) hdie, okLen_of_length hlen]
    simp only [exe_ok_bind, hheld, hzero, okAll_of_allHold 4 hfields, hnew, hfits, hrange, Option.isNone_none, Bool.and_self,
      okSt_true, okAt_true, okRef_true, exe_pure]
  case audio =>
    rintro die n y ⟨h, hlen, hstream, hheld, hzero, haligned⟩
    refine congrArg Host.Outcome.next (command_responds h ?_)
    rw [hstream, okLen_of_length hlen]
    simp only [exe_ok_bind, hheld, hzero, haligned, beq_self_eq_true, okSt_true, okAt_true, exe_pure]
  case closeStream =>
    rintro _ d n y ⟨h, rfl, hlen, hdie, hkind, hstream, hzero⟩
    refine congrArg Host.Outcome.next (command_responds h ?_)
    rw [okDie_of_lt (by omega) hdie, okLen_of_length hlen]
    simp [hkind, hstream, hzero]
  case closePool =>
    rintro _ _ p ⟨h, rfl, rfl, hlen, hdie, hkind, hpool, hown, hzero, hempty⟩
    refine congrArg Host.Outcome.next (command_responds h ?_)
    rw [okDie_of_lt (by omega) hdie, okLen_of_length hlen]
    simp [hkind, okSome_of_some hpool, hown, hzero, hempty]
  case status =>
    rintro d n y ⟨h, hlen, hstream⟩
    refine congrArg Host.Outcome.next (command_responds h ?_)
    simp [hstream, okLen_of_length hlen]

end Sys2Proof.Proofs
end

section
/-! PROOFS. The link layer of a port: flits and their replay, lanes, retraining and PROBE (14 R355 to R360). -/

namespace Sys2Proof.Proofs

open Sys2Proof Sys2Proof.Machine

section
variable {port : PortRef} {s : State}

section
variable (hexists : s.portExists port.key = true) (hup : (s.port port.key).up = true) (htraining : (s.port port.key).training = false)
include hexists hup htraining

/-- The check of the link's events: a port that exists, is up and not training is not turned away (14 R355, R357). -/
theorem not_portIdle :
    ¬ ((!s.portExists port.key) = true ∨ (!(s.port port.key).up) = true ∨ (s.port port.key).training = true) := by
  simp [hexists, hup, htraining]

/-- An intact data flit has its acknowledgement and credit taken; whether it is the next in order decides about its payload
(14 R356 to R358). -/
theorem execFlitReceive_of_intact {flit : List Byte} (hflit : flitOk flit = true) (hdata : bitOf (fld flit 0 1) 3 = false) :
    execFlitReceive port true flit s = .next (
      let t := s.flitHead port.key flit
      if fld flit 1 3 % 4096 ≠ ((t.port port.key).lastRx + 1) % 4096 then t.modPort port.key Port.discard
      else t.flitTaken port.key (fld flit 0 1) (fld flit 1 3 % 4096) (sub flit 8 256)) := by
  simp only [execFlitReceive, if_neg (not_portIdle hexists hup htraining), hflit, hdata, Bool.not_true, Bool.or_false, Bool.false_eq_true,
    if_false]

/-- A damaged flit is discarded and nacked (14 R357). -/
theorem execFlitReceive_of_damaged {ok : Bool} {flit : List Byte} (hdamaged : ok = false ∨ flitOk flit = false) :
    execFlitReceive port ok flit s =
      .next ((s.modPort port.key fun p => { p.discard with nackDue := true }).sendIdle port.key true 0) := by
  have hbad : (!ok || !flitOk flit) = true := by simpa using hdamaged
  exact congrArg Host.Outcome.next ((if_neg (not_portIdle hexists hup htraining)).trans (if_pos hbad))

/-- A port whose replay is exhausted trains, and the part that runs has a fault of row 6 (14 R357; 12 R303). -/
theorem execReplayExhausted_of_live {t : State} (hreplay : (s.port port.key).replay ≠ [])
    (ht : t = s.modPort port.key fun p => { p with training := true, resends := 0 }) (hlive : t.live = true) :
    execReplayExhausted port s = .next (t.fault ⟨6, t.portDie port.key, port.key, 0, false, []⟩) := by
  subst ht
  have hruns : ¬ ((!s.portExists port.key) = true ∨ (!(s.port port.key).up) = true ∨ (s.port port.key).training = true ∨
      (s.port port.key).replay.isEmpty = true) := by
    simp [hexists, hup, htraining, hreplay]
  exact congrArg Host.Outcome.next ((if_neg hruns).trans (if_pos hlive))
end

/-- A port that loses a working lane and keeps some width re-forms at it (14 R355). -/
theorem execLaneRemove_of_width {lane : Nat} {ls : List Bool} (hexists : s.portExists port.key = true)
    (hup : (s.port port.key).up = true) (hlane : lane < 4) (hworks : at' false (s.port port.key).lanes lane = true)
    (hls : ls = setAt (s.port port.key).lanes lane false) (hwidth : min (s.port port.key).width (laneWidth ls) ≠ 0) :
    execLaneRemove port lane s = .next (s.modPort port.key fun p =>
      { p with lanes := ls, width := min (s.port port.key).width (laneWidth ls), training := true }) := by
  subst hls
  have hruns : ¬ ((!s.portExists port.key) = true ∨ (!(s.port port.key).up) = true ∨ 4 ≤ lane ∨
      (!at' false (s.port port.key).lanes lane) = true) := by
    simp [hexists, hup, hlane, hworks]
  simp only [execLaneRemove, if_neg hruns, if_neg hwidth, decide_eq_true hwidth]

/-- A training port's retraining has its end (14 R355, R357, R360). -/
theorem execPortRetrainDone_of_training (retrained : Bool) (hexists : s.portExists port.key = true)
    (htraining : (s.port port.key).training = true) :
    execPortRetrainDone port retrained s = .next (
      if retrained then
        State.modPort (((s.modPort port.key fun p => { p with up := true, training := false, nackDue := false }).resendFlits
          port.key).sendProbe port.key) port.key fun p => { p with resends := 0 }
      else s.portDown port.key) :=
  congrArg Host.Outcome.next (if_neg (by simp [hexists, htraining]))
end

/-- Settles O31: each event where its port's state lets it take effect; of a flit, its order decides. -/
theorem linkEventsComplete : Obligations.LinkEventsComplete := by
  intro port s hexists
  refine ⟨?running, ?failed, ?retrained, ?probe⟩
  case running =>
    rintro ⟨hup, htraining⟩
    refine ⟨?next, ?unordered, ?damaged, ?timeout, ?exhausted, ?lane, ?timer⟩
    case next =>
      rintro flit _ ⟨hflit, hdata, rfl, hseq⟩
      exact (execFlitReceive_of_intact hexists hup htraining hflit hdata).trans (congrArg Host.Outcome.next (if_neg (not_not.2 hseq)))
    case unordered =>
      rintro flit _ ⟨hflit, hdata, rfl, hseq⟩
      exact (execFlitReceive_of_intact hexists hup htraining hflit hdata).trans (congrArg Host.Outcome.next (if_pos hseq))
    case damaged => exact fun ok flit hdamaged => execFlitReceive_of_damaged hexists hup htraining hdamaged
    case timeout => exact congrArg Host.Outcome.next (if_neg (not_portIdle hexists hup htraining))
    case exhausted =>
      rintro ⟨hreplay, -⟩ t ht hlive
      exact execReplayExhausted_of_live hexists hup htraining hreplay ht hlive
    case lane =>
      rintro lane ls ⟨hlane, hworks, hls, hwidth⟩
      exact execLaneRemove_of_width hexists hup hlane hworks hls hwidth
    case timer => exact fun hlive => congrArg Host.Outcome.next (if_pos ⟨hlive, hexists, hup, by simp [htraining]⟩)
  case failed => exact fun htraining => execPortRetrainDone_of_training false hexists htraining
  case retrained =>
    rintro htraining _ rfl
    exact execPortRetrainDone_of_training true hexists htraining
  case probe =>
    rintro hlive m ⟨hkind, hecrc, hflags, hlen⟩
    have hhere : ¬ ((!s.live) = true ∨ (!s.portExists port.key) = true ∨ m.kind ≠ 0x40) := by simp [hlive, hexists, hkind]
    have hform : ¬ ((!m.ecrcOk) = true ∨ 4 ≤ m.flags ∨ m.body.length ≠ 12) := by simp [hecrc, hflags, hlen]
    exact congrArg Host.Outcome.next ((if_neg hhere).trans (if_neg hform))

end Sys2Proof.Proofs
end

section
/-! PROOFS. What ports do with messages in transit, fencing notices, and the twin's heartbeats and takeover (14 R361, R374, R376, R377;
12 R325). -/

namespace Sys2Proof.Proofs

open Sys2Proof Sys2Proof.Machine

section
variable {port : PortRef} {s : State} {m : SpanMsg}

/-- A message of a kind that a port brings to a running part with a node ID is that event. -/
theorem not_elsewhere {kind : Nat} (hlive : s.live = true) (hexists : s.portExists port.key = true) (hnode : s.part.node.isSome = true)
    (hkind : m.kind = kind) :
    ¬ ((!s.live) = true ∨ (!s.portExists port.key) = true ∨ s.part.node.isNone = true ∨ m.kind ≠ kind) := by
  simp [hlive, hexists, Option.isNone_eq_false_iff.2 hnode, hkind]

/-- A FENCED notice of legal form: the part that it names fail-stops, and a node not yet recorded is recorded (14 R374). -/
theorem execFenced_of_legal (hlive : s.live = true) (hexists : s.portExists port.key = true) (hnode : s.part.node.isSome = true)
    (hkind : m.kind = 0x41) (hecrc : m.ecrcOk = true) (hflags : m.flags < 4) (hlen : m.body.length = 10) :
    execFenced port m s = .next (
      let node := fld m.body 0 2
      if s.part.node = some node then s.failStop Config.failStopDetector stFenced
      else if s.part.fencedNodes.contains node then s
      else (s.recordFenced node).floodFenced node (fld m.body 2 8) (some port.key)) :=
  congrArg Host.Outcome.next
    ((if_neg (not_elsewhere hlive hexists hnode hkind)).trans (if_neg (by simp [hecrc, hflags, hlen])))

/-- A message of legal form for another node that is not fenced leaves by its route, one hop further (14 R361, R364). -/
theorem execMessageForward_of_route {cls k c : Nat} (hlive : s.live = true) (hspan : port.key < 16)
    (hexists : s.portExists port.key = true) (hnode : s.part.node.isSome = true) (hkind : m.kind ≠ 0x40) (hecrc : m.ecrcOk = true)
    (hflags : m.flags < 4) (hhops : m.hops + 1 < 32) (hsingle : bitOf m.flags 1 = false) (hother : s.part.node ≠ some m.dst)
    (hfenced : s.part.fencedNodes.contains m.dst = false) (hroute : s.routePort m.dst = some (k, c)) (hport : k ≠ 254) :
    execMessageForward port cls m s =
      .next (s.transmit ⟨k, max cls c, m.kind, m.flags, m.dst, m.src, m.hops + 1, m.seq, m.body⟩) := by
  have hhere : ¬ ((!s.live) = true ∨ (!s.portExists port.key) = true ∨ 16 ≤ port.key ∨ s.part.node.isNone = true ∨ m.kind = 0x40) := by
    simp [hlive, hexists, hspan, Option.isNone_eq_false_iff.2 hnode, hkind]
  have hform : ¬ ((!m.ecrcOk) = true ∨ 4 ≤ m.flags ∨ 32 ≤ m.hops + 1) := by
    simp [hecrc, hflags, Nat.lt_of_succ_lt_succ hhops]
  simp only [execMessageForward, if_neg hhere, if_neg hform, hsingle, if_neg hother, hfenced, hroute, if_neg hport, Bool.false_eq_true,
    if_false]

/-- A message of legal form from the twin. -/
theorem not_malformed_of_twin {len : Nat} (hecrc : m.ecrcOk = true) (hflags : m.flags < 4) (hlen : m.body.length = len)
    (htwin : s.part.twinNode = some m.src) :
    ¬ ((!m.ecrcOk) = true ∨ 4 ≤ m.flags ∨ m.body.length ≠ len ∨ some m.src ≠ s.part.twinNode) := by
  simp [hecrc, hflags, hlen, htwin]

/-- An interval without a heartbeat counts as missed; the third in a row makes the part take over where a Span port is up (14 R377). -/
theorem execHeartbeatMiss_of_missed {t : State} {n : Nat} (hlive : s.live = true) (htwin : s.part.twinNode = some n)
    (hnot : s.part.takenOver = false) (hseen : s.part.beatSeen = false)
    (ht : t = { s with part := { s.part with beatsMissed := s.part.beatsMissed + 1 } }) :
    execHeartbeatMiss s = .next (
      if t.part.beatsMissed < 3 ∨ (List.range 16).all (fun k => !(t.port k).up) = true then t
      else (t.takeOver stHeartbeatLost).floodFenced n t.part.tai none) := by
  subst ht
  simp only [execHeartbeatMiss, htwin, hlive, hnot, hseen, Bool.not_true, Bool.false_eq_true, or_self, if_false]
end

/-- Settles O32: each message passes its port's checks, and what it names or the intervals missed decide what it does. -/
theorem portMessagesComplete : Obligations.PortMessagesComplete := by
  intro port s hlive
  refine ⟨?forward, ?fenced, ?fencedSelf, ?heartbeat, ?takeover, ?send, ?missed, ?lost⟩
  case forward =>
    rintro cls m k c ⟨hspan, hexists, hnode, hkind, hecrc, hflags, hhops, hsingle, hother, hfenced, hroute, hport⟩
    exact execMessageForward_of_route hlive hspan hexists hnode hkind hecrc hflags hhops hsingle hother hfenced hroute hport
  case fenced =>
    rintro m ⟨hexists, hnode, hkind, hecrc, hflags, hlen, hother, hnew⟩
    exact (execFenced_of_legal hlive hexists hnode hkind hecrc hflags hlen).trans
      (congrArg Host.Outcome.next ((if_neg hother).trans (if_neg (Bool.eq_false_iff.1 hnew))))
  case fencedSelf =>
    rintro m ⟨hexists, hnode, hkind, hecrc, hflags, hlen, hself⟩
    exact (execFenced_of_legal hlive hexists hnode hkind hecrc hflags hlen).trans (congrArg Host.Outcome.next (if_pos hself))
  case heartbeat =>
    rintro m ⟨hexists, hnode, hkind, hecrc, hflags, hlen, htwin⟩
    exact congrArg Host.Outcome.next
      ((if_neg (not_elsewhere hlive hexists hnode hkind)).trans (if_neg (not_malformed_of_twin hecrc hflags hlen htwin)))
  case takeover =>
    rintro m ⟨hexists, hnode, hkind, hecrc, hflags, hlen, htwin⟩
    exact congrArg Host.Outcome.next
      ((if_neg (not_elsewhere hlive hexists hnode hkind)).trans (if_neg (not_malformed_of_twin hecrc hflags hlen htwin)))
  case send =>
    rintro n _ ⟨htwin, rfl⟩
    simp [exec, execHeartbeatSend, htwin, hlive]
  case missed =>
    rintro n ⟨htwin, hnot, hseen, hfew⟩
    exact (execHeartbeatMiss_of_missed hlive htwin hnot hseen rfl).trans
      (congrArg Host.Outcome.next (if_pos (.inl (Nat.succ_lt_succ hfew))))
  case lost =>
    rintro n k _ ⟨htwin, hnot, hseen, hmany, hk, hup, rfl⟩
    have hlost : ¬ (s.part.beatsMissed + 1 < 3 ∨ (List.range 16).all (fun k => !(s.port k).up) = true) := by
      rintro (hfew | hdown)
      · omega
      · simpa [hup] using List.all_eq_true.1 hdown k (List.mem_range.2 hk)
    exact (execHeartbeatMiss_of_missed hlive htwin hnot hseen rfl).trans (congrArg Host.Outcome.next (if_neg hlost))

end Sys2Proof.Proofs
end

section
/-! PROOFS. PUT and GET, their answers, wet-source seals and resending (14 R366 to R370). -/

namespace Sys2Proof.Proofs

open Sys2Proof Sys2Proof.Machine

section
variable {s t : State} {die kind : Nat} {m : SpanMsg} {ok : Bool} {f : State → State × Answer} {a : Answer} {dup : State → State}

/-- A message of the next number takes the effect and the answer that its type gives it (14 R365, R366). -/
theorem next_of_message (h : MsgReady s die kind m ok) (hf : f s = (t, a)) :
    (Host.Outcome.next (s.recv die kind m ok f dup) : Outcome) = .next (t.answerWith m kind a) := by
  rw [recv_of_ready h, hf]

/-- So does a request, where its source's session is not frozen (12 R328). -/
theorem next_of_request (hsession : s.isFrozen (masterWord 5 0 m.src) = false) (h : MsgReady s die kind m (reqOk m && ok))
    (hf : f s = (t, a)) : (Host.Outcome.next (s.reqRecv die kind m ok f dup) : Outcome) = .next (t.answerWith m kind a) := by
  rw [State.reqRecv, hsession]
  exact next_of_message h hf
end

/-- Settles O33: each message finds the one it answers, or its range in the state that its effect needs. -/
theorem spanMessagesComplete : Obligations.SpanMessagesComplete := by
  intro die m s
  refine ⟨?putAck, ?getData, ?nak, ?nakDeferred, ?msgAck, ?putBegun, ?putFirst, ?srcSeal, ?srcRetract, ?get, ?getHeld, ?resume, ?timeout,
    ?deferred⟩
  case putAck =>
    rintro u ⟨h, hu⟩
    exact next_of_message h (by simp only [hu])
  case getData =>
    rintro u b r _ ⟨h, hu, hstroke, rfl, hlen⟩
    exact next_of_message h (by simp only [hu, hstroke, if_neg (not_not.2 hlen)])
  case nak =>
    rintro u _ ⟨h, rfl, hu, hstatus⟩
    exact next_of_message h (by simp only [hu, if_neg hstatus])
  case nakDeferred =>
    rintro u _ _ ⟨h, rfl, hu, hstatus, rfl⟩
    exact next_of_message h (by simp only [hu, if_pos hstatus])
  case msgAck =>
    rintro u ⟨h, hu, hstatus, hctx⟩
    exact next_of_message h (by simp only [hu, if_neg (not_or.2 ⟨hstatus, hctx⟩)])
  case putBegun =>
    rintro d ⟨hsession, h, hcheck, hmem, hbegun⟩
    exact next_of_request hsession h (by simp [hcheck, hmem, hbegun])
  case putFirst =>
    rintro d ⟨hsession, h, hcheck, hmem, hbegun, hbounce, hfree, hroom⟩
    have hnone : (d.regs.any fun x => !(s.bay die x.2.1).freeAt x.2.2.1 x.2.2.2) = false :=
      List.any_eq_false.2 fun x hx => by simp [hfree x hx]
    exact next_of_request hsession h (by simp only [hcheck, hmem, hbegun, hbounce, hnone, hroom, Bool.not_true, Bool.not_false,
      Bool.and_false, Bool.or_false, Bool.false_eq_true, if_false])
  case srcSeal =>
    rintro ⟨hsession, h⟩
    exact next_of_request hsession h rfl
  case srcRetract =>
    rintro ⟨hsession, h⟩
    exact next_of_request hsession h rfl
  case get =>
    rintro d ⟨hsession, h, hcheck, hready⟩
    exact next_of_request hsession h (by simp only [hcheck, hready, if_true])
  case getHeld =>
    rintro d ⟨hsession, h, hcheck, hready, hroom⟩
    exact next_of_request hsession h (by simp only [hcheck, hready, if_neg (Nat.not_le.2 hroom), Bool.false_eq_true, if_false])
  case resume =>
    rintro held ⟨hlive, hrange, hheld, hready⟩
    simp [exec, execHeldGetResume, hlive, hrange, hheld, hready]
  case timeout => exact fun hlive dst chan => congrArg Host.Outcome.next (if_pos hlive)
  case deferred =>
    rintro hlive dst chan seq _ ⟨rfl, hagain⟩
    exact congrArg Host.Outcome.next (if_pos ⟨hlive, hagain⟩)

end Sys2Proof.Proofs
end

section
/-! PROOFS. The all-gather, replica digests and what twins send each other (14 R372, R376; 12 R316 to R319). -/

namespace Sys2Proof.Proofs

open Sys2Proof Sys2Proof.Machine

section
variable {s : State} {m : SpanMsg}

/-- A request for a copy that this part owns, or keeps as the owner's twin, is not turned away (14 R372). -/
theorem not_foreign_gather {g : Gather} (h : s.part.node = some g.ownerNode ∨ s.part.node = some g.twinNode) :
    ¬ (s.part.node ≠ some g.ownerNode ∧ s.part.node ≠ some g.twinNode) := by tauto

/-- A message between twins for a die comes from the twin and names that die. -/
theorem not_misdirected {die n : Nat} (hdie : n = die) (htwin : s.part.twinNode = some m.src) :
    ¬ (n ≠ die ∨ some m.src ≠ s.part.twinNode) := by
  simp [hdie, htwin]
end

/-- Settles O34: each message finds the copy, digest, consumption or shard it names, and comes from where it must. -/
theorem replicaMessagesComplete : Obligations.ReplicaMessagesComplete := by
  intro die m s
  refine ⟨?gather, ?gatherHeld, ?data, ?equal, ?differs, ?refetch, ?digests, ?agree, ?pair, ?blocks, ?resume⟩
  case gather =>
    rintro g ⟨h, hg, howner, hdie, hready⟩
    exact next_of_message h (by simp only [hg, if_neg (not_foreign_gather howner), if_neg (not_not.2 hdie), hready, if_true])
  case gatherHeld =>
    rintro g ⟨h, hg, howner, hdie, hready⟩
    exact next_of_message h (by
      simp only [hg, if_neg (not_foreign_gather howner), if_neg (not_not.2 hdie), hready, Bool.false_eq_true, if_false])
  case data =>
    rintro g step _ _ _ _ _ ⟨h, hg, hasked, rfl, rfl, rfl, hnext, hfits, rfl, hstep, rfl, hlen⟩
    refine next_of_message h ?_
    simp only [hg, hasked]
    exact if_neg (by rintro (hp | hover | hother | hshort); exacts [hp hnext, hover.not_ge hfits, hother hstep, hshort hlen])
  case equal =>
    rintro x ⟨h, hx, hsame⟩
    exact next_of_message h (by simp only [hx, if_pos hsame])
  case differs =>
    rintro x ⟨h, hx, hdiffers⟩
    exact next_of_message h (by simp only [hx, if_neg hdiffers])
  case refetch =>
    rintro e g ⟨h, hg⟩
    exact next_of_message h (by simp only [hg])
  case digests =>
    rintro _ ⟨h, hdie, htwin, rfl⟩
    exact next_of_message h (if_neg (not_misdirected hdie htwin))
  case agree =>
    rintro _ c ⟨h, hdie, htwin, rfl, hc, hstep, hdone⟩
    refine next_of_message h ((if_neg (not_misdirected hdie htwin)).trans ?_)
    simp only [hc]
    exact if_neg (by simp [hstep, hdone])
  case pair =>
    rintro x ⟨h, hx, htwin, hblock⟩
    refine next_of_message h ?_
    simp only [hx, if_neg (not_not.2 htwin.symm), if_neg (Nat.not_le.2 hblock)]
  case blocks =>
    rintro d ⟨h, htwin, hrange, hd⟩
    refine next_of_message h ?_
    simp only [if_neg (not_not.2 htwin.symm), if_neg (Nat.not_lt.2 hrange), hd]
  case resume =>
    rintro idx _ _ _ ⟨hlive, rfl, rfl, rfl, hsome⟩
    simp only [exec, execHeldGetResume, hlive, Nat.add_sub_cancel_left, Bool.not_true, Bool.false_eq_true, if_false,
      if_neg (Nat.not_lt.2 (Nat.le_add_right 65536 idx))]
    exact congrArg Host.Outcome.next (if_neg (by simpa using hsome))

end Sys2Proof.Proofs
end

section
/-! PROOFS. What every step keeps (17 R429; 18 R448, R452, R456, R458; 21 R490): all but seven commands keep the queue, what the part is,
the flash's records and the form of the stores (`exec_from`), and each of the seven changes its own record on its own authority. -/

namespace Sys2Proof.Proofs

open Sys2Proof Sys2Proof.Machine Sys2Proof.Laws

section
variable {s t : State} {c : Instr}

/-! ### The seven commands that change a record -/

/-- What a command's change of the flash leaves: the floors but for ADVANCE_FLOOR, the owner but for ENROLL_OWNER and RESET_OWNER, the
retirement list but for CLEAR_RETIREMENT and a stage of Gesso. -/
structure FlashChange (c : Instr) (g : Flash → Flash) : Prop where
  floors : (∀ f, (g f).fwFloor = f.fwFloor ∧ (g f).recFloor = f.recFloor) ∨ ∃ m, c = .advanceFloor m
  owner : (∀ f, (g f).owner = f.owner) ∨ (∃ m, c = .enrollOwner m) ∨ ∃ m, c = .resetOwner m
  retired : (∀ f, (g f).retired = f.retired) ∨ (∃ m, c = .clearRetirement m) ∨ ∃ x, c = .gessoStageEnd x

/-- Six of the seven change the flash; the seventh resets the part. -/
theorem changes_flash_or_reset (h : Changes c s t) :
    (∃ g, Keeps (s.modFlash g) t ∧ FlashChange c g) ∨
      (c = .porNFall ∧ s.part.porN = true ∧ t = s.afterReset false s.part.railsOk) := by
  unfold Changes at h
  split at h
  case h_1 m =>
    obtain ⟨-, -, ⟨-, -, -, hkeeps⟩ | ⟨-, -, -, hkeeps⟩⟩ := h
    · exact .inl ⟨_, hkeeps, ⟨.inr ⟨m, rfl⟩, .inl fun _ => rfl, .inl fun _ => rfl⟩⟩
    · exact .inl ⟨_, hkeeps, ⟨.inr ⟨m, rfl⟩, .inl fun _ => rfl, .inl fun _ => rfl⟩⟩
  case h_2 =>
    obtain ⟨-, -, hkeeps⟩ := h
    exact .inl ⟨_, hkeeps, ⟨.inl fun _ => ⟨rfl, rfl⟩, .inl fun _ => rfl, .inl fun _ => rfl⟩⟩
  case h_3 m =>
    obtain ⟨-, -, hkeeps⟩ := h
    exact .inl ⟨_, hkeeps, ⟨.inl fun _ => ⟨rfl, rfl⟩, .inl fun _ => rfl, .inr (.inl ⟨m, rfl⟩)⟩⟩
  case h_4 m =>
    obtain ⟨-, hkeeps⟩ := h
    exact .inl ⟨_, hkeeps, ⟨.inl fun _ => ⟨rfl, rfl⟩, .inr (.inl ⟨m, rfl⟩), .inl fun _ => rfl⟩⟩
  case h_5 m =>
    obtain ⟨-, -, hkeeps⟩ := h
    exact .inl ⟨_, hkeeps, ⟨.inl fun _ => ⟨rfl, rfl⟩, .inr (.inr ⟨m, rfl⟩), .inl fun _ => rfl⟩⟩
  case h_6 x =>
    obtain ⟨-, hkeeps⟩ := h
    exact .inl ⟨_, hkeeps, ⟨.inl fun _ => ⟨rfl, rfl⟩, .inl fun _ => rfl, .inr (.inr ⟨x, rfl⟩)⟩⟩
  case h_7 => exact .inr ⟨rfl, h⟩
  case h_8 => exact h.elim

theorem changes_floors (h : Changes c s t) :
    (t.ks.flash.fwFloor = s.ks.flash.fwFloor ∧ t.ks.flash.recFloor = s.ks.flash.recFloor) ∨ ∃ m, c = .advanceFloor m := by
  rcases changes_flash_or_reset h with ⟨g, hkeeps, hg⟩ | ⟨-, -, rfl⟩
  · refine hg.floors.imp_left fun hfloors => ?_
    obtain ⟨hfw, hrec⟩ := hfloors s.ks.flash
    exact ⟨hkeeps.flash.fwFloor.trans hfw, hkeeps.flash.recFloor.trans hrec⟩
  · exact .inl ⟨rfl, rfl⟩

theorem changes_owner (h : Changes c s t) :
    t.ks.flash.owner = s.ks.flash.owner ∨ (∃ m, c = .enrollOwner m) ∨ ∃ m, c = .resetOwner m := by
  rcases changes_flash_or_reset h with ⟨g, hkeeps, hg⟩ | ⟨-, -, rfl⟩
  · exact hg.owner.imp_left fun howner => hkeeps.flash.owner.trans (howner s.ks.flash)
  · exact .inl rfl

theorem changes_retired (h : Changes c s t) :
    (∀ k ∈ s.ks.flash.retired, k ∈ t.ks.flash.retired) ∨ (∃ m, c = .clearRetirement m) ∨ ∃ x, c = .gessoStageEnd x := by
  rcases changes_flash_or_reset h with ⟨g, hkeeps, hg⟩ | ⟨-, -, rfl⟩
  · refine hg.retired.imp_left fun hretired k hk => hkeeps.flash.retired k ?_
    rwa [← hretired s.ks.flash] at hk
  · exact .inl fun _ hk => hk

/-! ### Commands and steps -/

/-- Every meaning is the next state that its definition names. -/
theorem exec_answers (c : Instr) (s : State) : ∃ t, exec c s = .next t := by
  cases c <;> exact ⟨_, rfl⟩

theorem exec_pending (h : exec c s = .next t) : t.pending = s.pending := by
  rcases exec_from h with hkeeps | hchanges
  · exact hkeeps.queue
  · rcases changes_flash_or_reset hchanges with ⟨_, hkeeps, -⟩ | ⟨-, -, rfl⟩
    · exact hkeeps.queue
    · rfl

/-- A command keeps the stores canonical; a reset empties them. -/
theorem exec_mem_wf (h : exec c s = .next t) (hwf : s.mem.wf = true) : t.mem.wf = true := by
  rcases exec_from h with hkeeps | hchanges
  · exact hkeeps.mem hwf
  · rcases changes_flash_or_reset hchanges with ⟨_, hkeeps, -⟩ | ⟨-, -, rfl⟩
    · exact hkeeps.mem hwf
    · exact wf_nil

theorem keeps_tick (s : State) : Keeps s s.tick := ⟨rfl, .same rfl rfl rfl, .same rfl, id⟩

/-- A step keeps what every command keeps, but for the queue, or is one of the seven at its front. -/
theorem step_from (h : step s = .next t) :
    (∃ q, Keeps { s with pending := q } t) ∨ ∃ c cs, s.pending = c :: cs ∧ Changes c { s with pending := cs } t := by
  unfold step at h
  split at h
  · obtain rfl := Host.Outcome.next.inj h
    exact .inl ⟨_, keeps_tick s⟩
  · next c cs hfront =>
    rcases exec_from h with hkeeps | hchanges
    · exact .inl ⟨_, hkeeps⟩
    · exact .inr ⟨c, cs, hfront, hchanges⟩

theorem step_floors (h : step s = .next t) :
    (t.ks.flash.fwFloor = s.ks.flash.fwFloor ∧ t.ks.flash.recFloor = s.ks.flash.recFloor) ∨
      ∃ m cs, s.pending = .advanceFloor m :: cs ∧ Changes (.advanceFloor m) { s with pending := cs } t := by
  rcases step_from h with ⟨_, hkeeps⟩ | ⟨c, cs, hfront, hchanges⟩
  · exact .inl ⟨hkeeps.flash.fwFloor, hkeeps.flash.recFloor⟩
  · rcases changes_floors hchanges with hstay | ⟨m, rfl⟩
    · exact .inl hstay
    · exact .inr ⟨m, cs, hfront, hchanges⟩
end

/-- Settles O50: time leaves the stores as they are, and every command keeps them canonical. -/
theorem storesStayCanonical : Obligations.StoresStayCanonical := by
  intro s t h hwf
  unfold step at h
  split at h
  · obtain rfl := Host.Outcome.next.inj h
    exact hwf
  · exact exec_mem_wf h hwf

/-- Settles O51: every meaning is a next state, and each operation it is made of keeps the queue. -/
theorem everyCommandAnswers : Obligations.EveryCommandAnswers := by
  intro c s
  obtain ⟨t, ht⟩ := exec_answers c s
  exact ⟨t, ht, exec_pending ht⟩

/-- Settles O52: only ADVANCE_FLOOR changes a floor, and it checks the version against the floor and the running version. -/
theorem floorsOnlyRise : Obligations.FloorsOnlyRise := by
  intro s t h
  rcases step_floors h with ⟨hfw, hrec⟩ | ⟨m, cs, hfront, hchanges⟩
  · exact ⟨hfw.ge, hrec.ge, absurd hfw, absurd hrec⟩
  obtain ⟨hsigned, hnonce, ⟨-, hrises, hruns, hkeeps⟩ | ⟨-, hrises, hruns, hkeeps⟩⟩ := hchanges
  · have hfw := hkeeps.flash.fwFloor
    exact ⟨hrises.trans_eq hfw.symm, hkeeps.flash.recFloor.ge, fun _ => ⟨m, cs, hfront, hsigned, hnonce, hfw, hfw.trans_le hruns⟩,
      absurd hkeeps.flash.recFloor⟩
  · have hrec := hkeeps.flash.recFloor
    exact ⟨hkeeps.flash.fwFloor.ge, hrises.trans_eq hrec.symm, absurd hkeeps.flash.fwFloor,
      fun _ => ⟨m, cs, hfront, hsigned, hnonce, hrec, hrec.trans_le hruns⟩⟩

/-- Settles O53: only two commands change the owner record, each on its own authority. -/
theorem ownerOnlyByEnrolOrReset : Obligations.OwnerOnlyByEnrolOrReset := by
  intro s t h
  rcases step_from h with ⟨_, hkeeps⟩ | ⟨c, cs, hfront, hchanges⟩
  · exact .inl hkeeps.flash.owner
  rcases changes_owner hchanges with howner | ⟨m, rfl⟩ | ⟨m, rfl⟩
  · exact .inl howner
  · obtain ⟨hmay, hkeeps⟩ := hchanges
    exact .inr (.inl ⟨m, cs, hfront, hkeeps.flash.owner, hmay⟩)
  · obtain ⟨hsigned, hnonce, hkeeps⟩ := hchanges
    exact .inr (.inr ⟨m, cs, hfront, hkeeps.flash.owner, hsigned, hnonce⟩)

/-- Settles O54: CLEAR_RETIREMENT takes off the one entry it names; a stage of Gesso empties a list that fails its HMAC. -/
theorem retirementEntriesStay : Obligations.RetirementEntriesStay := by
  intro s t h k hk
  rcases step_from h with ⟨_, hkeeps⟩ | ⟨c, cs, hfront, hchanges⟩
  · exact .inl (hkeeps.flash.retired k hk)
  rcases changes_retired hchanges with hstay | ⟨m, rfl⟩ | ⟨g, rfl⟩
  · exact .inl (hstay k hk)
  · obtain ⟨hsigned, hnonce, hkeeps⟩ := hchanges
    by_cases hnamed : k = bayKey (fld m.body 0 1) (fld m.body 1 1)
    · exact .inr (.inl ⟨m, cs, hfront, hsigned, hnonce, hnamed⟩)
    · exact .inl (hkeeps.flash.retired k (List.mem_filter.2 ⟨hk, bne_iff_ne.2 hnamed⟩))
  · exact .inr (.inr ⟨g, cs, hfront, hchanges.1⟩)

/-- Settles O55: only the fall of POR_N releases THERMTRIP_N, and it keeps the variant and the stepping. -/
theorem thermtripHeldUntilPorN : Obligations.ThermtripHeldUntilPorN := by
  intro s t h
  rcases step_from h with ⟨_, hkeeps⟩ | ⟨c, cs, hfront, hchanges⟩
  · exact ⟨hkeeps.part.variant, hkeeps.part.stepping, fun htrip => .inl (hkeeps.part.trip htrip)⟩
  rcases changes_flash_or_reset hchanges with ⟨_, hkeeps, -⟩ | ⟨rfl, hpor, rfl⟩
  · exact ⟨hkeeps.part.variant, hkeeps.part.stepping, fun htrip => .inl (hkeeps.part.trip htrip)⟩
  · exact ⟨rfl, rfl, fun _ => .inr ⟨hpor, cs, hfront, rfl⟩⟩

/-- Settles O48: the step is defined by the queue's front; where no microsecond ends, time changes nothing but the TAI counter. -/
theorem stepRunsFrontCommand : Obligations.StepRunsFrontCommand := by
  refine ⟨fun c cs s hfront => by simp only [step, hfront], fun s hempty => ⟨s.tick, by simp only [step, hempty], rfl, ?_, rfl, rfl, rfl, rfl,
    rfl, rfl, rfl, rfl, rfl, rfl, hempty⟩⟩
  intro hmicrosecond
  have hnone : (s.part.porN && (s.part.tai + 40) % 2 ^ 64 / 1000 != s.part.tai / 1000) = false := by rw [hmicrosecond]; simp
  simp only [State.tick, hnone, Bool.false_eq_true, if_false, and_self]

end Sys2Proof.Proofs
end

section
/-! PROOFS. The state that reset leaves (16 R416 to R421; 18 R454; 21 R490). -/

namespace Sys2Proof.Proofs

open Sys2Proof Sys2Proof.Machine

/-- A port, listed or not, holds its initial value. -/
theorem reset_host (p : Nat) : State.reset.host p = {} := by
  match p with
  | 0 => rfl
  | 1 => rfl
  | _ + 2 => rfl

/-- Settles O49: the reset state lists nothing, and every register reads what its definition gives of that. -/
theorem resetState : Obligations.ResetState := by
  refine ⟨rfl, rfl, rfl, rfl, rfl, rfl, rfl, rfl, rfl, rfl, rfl, rfl, rfl, rfl, rfl, rfl, rfl, rfl, fun p _ => ?_⟩
  rw [reset_host]
  exact ⟨rfl, rfl, rfl, rfl, rfl, rfl, rfl, rfl, rfl, rfl, rfl⟩

end Sys2Proof.Proofs
end

section
/-! PROOFS. The outer loop: fragments formed, rounds closed, blocks updated, the twin's inputs, and the messages of a session (11 R300;
15 R400 to R409). -/

namespace Sys2Proof.Proofs

open Sys2Proof Sys2Proof.Machine

section
variable {s t : State}

/-! ### Messages of a session (15 R393, R395, R396) -/

theorem type_of_msgOk {k type : Nat} {msg : List Byte} (h : s.msgOk k type msg = true) : fldBe msg 0 1 = type := by
  simp only [State.msgOk, Bool.and_eq_true, beq_iff_eq] at h
  tauto

/-- A complete message of a type, well formed and with a body that its type allows, has the effect of its type. -/
theorem onMsg_of_taken {k type : Nat} {msg : List Byte} {ok : State → Bool} {f : State → State} (htake : s.takeMsg k msg = some t)
    (hmsg : t.msgOk k type msg = true) (hbody : ok t = true) : s.onMsg k type msg ok f = f t := by
  have htype : ¬ (fldBe msg 0 1 ≠ type ∧ 1 ≤ fldBe msg 0 1 ∧ fldBe msg 0 1 ≤ 4) := fun h => h.1 (type_of_msgOk hmsg)
  simp only [State.onMsg, if_neg htype, htake, hmsg, hbody, Bool.and_self, if_true]

end

/-- Settles O27: each event in its time, and each message that passes the checks of its type. -/
theorem outerLoopCompletes : Obligations.OuterLoopCompletes := by
  intro s
  refine ⟨?formed, ?closed, ?anchorless, ?block, ?input, ?delta, ?close, ?ask, ?anchors⟩
  case formed =>
    rintro frag r again ⟨hloaded, hruns, hperiod, htwin, hquiet, hround, hdue, hanchored, hidle⟩
    have hnone := Option.isNone_eq_false_iff.2 hloaded
    rcases hround with ⟨hformed, rfl, rfl⟩ | ⟨p, hformed, hother, rfl, rfl, hclosed⟩ |
      ⟨hformed, rfl, rfl, hcatch, own, hown, hsame, hfirst⟩
    case inl =>
      simp [exec, execFragmentDeltaRead, hnone, hruns, hperiod, htwin, hquiet, hformed, hanchored, hidle, Nat.not_lt.2 hdue, -Nat.reducePow]
    case inr.inl =>
      simp [exec, execFragmentDeltaRead, hnone, hruns, hperiod, htwin, hquiet, hformed, beq_false_of_ne hother, hclosed, hanchored, hidle,
        Nat.not_lt.2 hdue, -Nat.reducePow]
    case inr.inr =>
      simp [exec, execFragmentDeltaRead, hnone, hruns, hperiod, htwin, hquiet, hformed, List.isEmpty_eq_false_iff.2 hcatch, hown, hsame,
        hfirst, hanchored, hidle, Nat.not_lt.2 hdue, -Nat.reducePow]
  case closed =>
    rintro frag _ own ⟨hloaded, hruns, hperiod, htwin, hneeds, hown, rfl, hround, hdue, hidle⟩
    have hnone := Option.isNone_eq_false_iff.2 hloaded
    rcases hround with ⟨hclosed, hformed⟩ | ⟨c, hclosed, hnext⟩
    case inl =>
      simp [exec, execRoundClosing, hnone, hruns, hperiod, htwin, hneeds, hown, hclosed, hformed, hidle, Nat.not_lt.2 hdue, -Nat.reducePow]
    case inr =>
      simp [exec, execRoundClosing, hnone, hruns, hperiod, htwin, hneeds, hown, hclosed, ← hnext, hidle, Nat.not_lt.2 hdue, -Nat.reducePow]
  case anchorless =>
    rintro frag ⟨hloaded, hruns, hperiod, htwin, hneeds⟩
    simp [exec, execRoundClosing, Option.isNone_eq_false_iff.2 hloaded, hruns, hperiod, htwin, hneeds]
  case block =>
    rintro frag block c _ copy a ⟨rfl, hc, hrec, hruns, hstop, htodo, hbehind, hlost⟩
    refine ⟨fun hno => ?apart, fun n ⟨hslot, hopen⟩ => ?inOpen⟩
    case apart => simp [exec, execOuterUpdate, hc, hrec, hruns, hstop, htodo, hbehind, hlost, hno, -List.contains_eq_mem]
    case inOpen => simp [exec, execOuterUpdate, hc, hrec, hruns, hstop, htodo, hbehind, hlost, hslot, hopen, -List.contains_eq_mem]
  case input =>
    intro die m h
    exact congrArg Host.Outcome.next (recv_of_ready h)
  case delta =>
    rintro k msg t ⟨htake, hmsg, hfrag, hbody⟩
    exact congrArg Host.Outcome.next (onMsg_of_taken htake hmsg (by simp [hfrag, hbody]))
  case close =>
    rintro k msg t ⟨htake, hmsg, hfrag, hlong, hlen⟩
    exact congrArg Host.Outcome.next (onMsg_of_taken htake hmsg (by simp [hfrag, hlong, ← hlen]))
  case ask =>
    rintro k msg t ⟨htake, hmsg, hlen, hshared⟩
    exact congrArg Host.Outcome.next (onMsg_of_taken htake hmsg (by simpa [hlen] using hshared))
  case anchors =>
    rintro k msg t ⟨htake, hmsg, hfrag, hlen⟩
    exact congrArg Host.Outcome.next (onMsg_of_taken htake hmsg (by simp [hfrag, ← hlen]))

end Sys2Proof.Proofs
end

section
/-! PROOFS. The segments of a session and its timers (15 R386 to R397). -/

namespace Sys2Proof.Proofs

open Sys2Proof Sys2Proof.Machine

section
variable {s : State} {port k : Nat} {seg : List Byte}

/-- A DATA segment after what was received, not yet marked and within the window, is placed: its message has a place or room for one
(15 R393). -/
theorem execDataSeg_of_room {place : Nat} (hseg : s.segFor port 1 seg = (some k, s))
    (hfits : fldBe seg 0x24 4 + fldBe seg 6 2 ≤ fldBe seg 0x2C 4)
    (hplace : (s.sess k).rx.find? (·.id == fldBe seg 0x20 4) = none ∧ (s.sess k).room (fldBe seg 0x2C 4) = some place ∨
      ∃ m, (s.sess k).rx.find? (·.id == fldBe seg 0x20 4) = some m ∧ m.len = fldBe seg 0x2C 4 ∧ m.place = place)
    (hafter : after48 (fldBe seg 8 6) (s.sess k).cum = true) (hnew : (s.sess k).bits.contains (fldBe seg 8 6) = false)
    (hwindow : ahead48 (fldBe seg 8 6) (s.sess k).cum ≤ (s.sess k).quota) :
    execDataSeg port seg s = .next (s.dataTaken k seg place) := by
  rcases hplace with ⟨hfirst, hroom⟩ | ⟨m, hmsg, hlen, hplace⟩
  case inl =>
    simp only [execDataSeg, hseg, hfirst, hroom, hafter, hnew, Nat.not_lt.2 hfits, Nat.not_lt.2 hwindow, Option.any_none, Option.map_none,
      Option.none_or, Bool.not_true, Bool.false_eq_true, or_self, if_false]
  case inr =>
    simp only [execDataSeg, hseg, hmsg, hlen, hplace, hafter, hnew, Nat.not_lt.2 hfits, Nat.not_lt.2 hwindow, Option.any_some,
      Option.map_some, Option.some_or, bne_self_eq_false, Bool.not_true, Bool.false_eq_true, or_self, if_false]

/-- A DATA segment received before is counted and acknowledged again (15 R393). -/
theorem execDataSeg_of_duplicate (hseg : s.segFor port 1 seg = (some k, s))
    (hfits : fldBe seg 0x24 4 + fldBe seg 6 2 ≤ fldBe seg 0x2C 4)
    (hsame : ∀ m, (s.sess k).rx.find? (·.id == fldBe seg 0x20 4) = some m → m.len = fldBe seg 0x2C 4)
    (hbefore : after48 (fldBe seg 8 6) (s.sess k).cum = false) :
    execDataSeg port seg s = .next (State.ackSend ((s.modItf port (s.sess k).itf fun i =>
      { i with duplicates := satAdd 32 i.duplicates 1 }).modSess k fun x => { x with echo := fldBe seg 0x10 8 }) k) := by
  have hlen : (((s.sess k).rx.find? (·.id == fldBe seg 0x20 4)).any fun m => m.len != fldBe seg 0x2C 4) = false := by
    simpa [Option.any_eq_false] using hsame
  simp only [execDataSeg, hseg, hlen, hbefore, Nat.not_lt.2 hfits, Bool.not_false, Bool.false_eq_true, true_or, or_self, if_true, if_false]

/-- OPEN and OPEN_ACK for a session: one that matches its descriptor opens it, another is counted and answered with CLOSE (15 R386). -/
theorem opened_of_seg {type : Nat} (hseg : s.segFor port type seg = (some k, s)) :
    s.opened port type seg =
      if s.openMatches k seg = true then
        ((if type = 4 then (s.adoptEpoch k (fldBe seg 0xE 2)).openSend k 5 else s.adoptEpoch k (fldBe seg 0xE 2))).sessOpened k
      else (s.modSess k fun x => { x with mismatches := satAdd 32 x.mismatches 1 }).closeSend k := by
  simp only [State.opened, hseg]
  cases s.openMatches k seg <;> rfl
end

/-- Settles O28: each segment that passed its header checks, and each timer in the state it runs in. -/
theorem sessionSegmentsComplete : Obligations.SessionSegmentsComplete := by
  intro port k seg s
  refine ⟨?data, ?duplicate, ?ack, ?beat, ?openSeg, ?openAck, ?closeSeg, ?openRetry, ?beatTimer, ?beatLoss, ?resend, ?ackTimer⟩
  case data =>
    rintro place ⟨hseg, hfits, hplace, hafter, hnew, hwindow⟩
    exact execDataSeg_of_room hseg hfits hplace hafter hnew hwindow
  case duplicate =>
    rintro ⟨hseg, hfits, hsame, hbefore⟩
    exact execDataSeg_of_duplicate hseg hfits hsame hbefore
  case ack =>
    rintro ⟨hseg, hlen, hzero, hzero'⟩
    simp [exec, execAckSeg, hseg, hlen, hzero, hzero']
  case beat =>
    rintro ⟨hseg, hlen, htype, hflags, hjob, hpeer, hlocal, hbody, hzero, hzero', hzero''⟩
    simp [exec, execDatagram, hseg, hlen, htype, hflags, hjob, hpeer, hlocal, hbody, hzero, hzero', hzero'']
  case openSeg => exact fun hseg => congrArg Host.Outcome.next (opened_of_seg hseg)
  case openAck => exact fun hseg => congrArg Host.Outcome.next (opened_of_seg hseg)
  case closeSeg => exact fun hseg => congrArg Host.Outcome.next (congrArg Prod.snd hseg)
  case openRetry => exact fun hopening => congrArg Host.Outcome.next (if_pos hopening)
  case beatTimer =>
    rintro ⟨hlive, hclosed, hopening⟩
    simp [exec, execHeartbeatTimer, hlive, hclosed, hopening]
  case beatLoss =>
    rintro ⟨hlive, hrunning, hdue⟩
    exact congrArg Host.Outcome.next (if_neg (by simp [hlive, hrunning, Nat.not_lt.2 hdue]))
  case resend =>
    rintro q e ⟨hentry, hlive, hrunning, hfrozen, hdue⟩
    simp [exec, execRetransmitTimer, hentry, hlive, hrunning, hfrozen, hdue]
  case ackTimer => exact fun hdue => congrArg Host.Outcome.next (if_pos hdue)

end Sys2Proof.Proofs
end

section
/-! PROOFS. Ethernet frames, ICMPv6 and the keys of an interface (15 R379 to R384). -/

namespace Sys2Proof.Proofs

open Sys2Proof Sys2Proof.Machine

section
variable {port itf : Nat} {s : State}

/-- A frame addressed to an interface that is up, of legal length and secured, is taken or counted by what MACsec finds (15 R379 to
R382). -/
theorem execEthernetFrameReceive_of_secured {x : Frame} (hup : s.itfUp port itf = true) (hcontrol : x.macControl = false)
    (hlen : x.len ≤ 4246) (haddr : (s.itf port itf).accepts x.dstMac = true) (hsecured : x.secured = true) :
    execEthernetFrameReceive port itf x s = .next (
      if (s.itf port itf).rxAns.contains x.an = false ∨ x.icvOk = false ∨ x.pn + (s.vport port).window ≤ mgetD 0 (s.itf port itf).lastPn x.an
      then s.modItf port itf fun i => { i with macsecDrops := satAdd 32 i.macsecDrops 1 }
      else s.frameTaken port itf x) := by
  simp [execEthernetFrameReceive, hup, hcontrol, Nat.not_lt.2 hlen, haddr, hsecured]
end

/-- Settles O29: what MACsec finds decides about a frame, and the interface's addresses, rate and peers about the rest. -/
theorem interfaceEventsComplete : Obligations.InterfaceEventsComplete := by
  intro port itf s hup
  refine ⟨?control, ?oversize, ?unverified, ?taken, ?neighbor, ?echo, ?tooBig, ?hello, ?alone, ?rotation, ?retire⟩
  case control =>
    intro x hcontrol
    simp [exec, execEthernetFrameReceive, hup, hcontrol]
  case oversize =>
    rintro x ⟨hcontrol, hlen⟩
    simp [exec, execEthernetFrameReceive, hup, hcontrol, hlen]
  case unverified =>
    rintro x ⟨hcontrol, hlen, haddr, hsecured, hfails⟩
    exact (execEthernetFrameReceive_of_secured hup hcontrol hlen haddr hsecured).trans (congrArg Host.Outcome.next (if_pos hfails))
  case taken =>
    rintro x ⟨hcontrol, hlen, haddr, hsecured, hassoc, hicv, hpn⟩
    exact (execEthernetFrameReceive_of_secured hup hcontrol hlen haddr hsecured).trans
      (congrArg Host.Outcome.next (if_neg (by simp [hassoc, hicv, Nat.not_le.2 hpn, -List.contains_eq_mem])))
  case neighbor => exact fun target hown => congrArg Host.Outcome.next (if_pos hown)
  case echo =>
    rintro dst _ ⟨hcarries, hdst, hown, rfl, hfew⟩
    exact congrArg Host.Outcome.next (if_pos ⟨hcarries, hdst, hown, hfew⟩)
  case tooBig => exact fun mtu => congrArg Host.Outcome.next (if_pos hup)
  case hello =>
    intro hcak p ps
    simp [exec, execMkaHello, hup, hcak]
  case alone =>
    intro hcak
    simp [exec, execMkaHello, hup, hcak]
  case rotation =>
    rintro ⟨hcak, hpeers⟩ ks
    exact congrArg Host.Outcome.next (if_neg (by simp [hup, hcak, hpeers]))
  case retire => exact fun an hretiring => congrArg Host.Outcome.next (if_pos ⟨hup, hretiring⟩)

end Sys2Proof.Proofs
end

section
/-! PROOFS. The clock: PPS edges, ZDA sentences, holdover and the offset to UTC (15 R410 to R412). -/

namespace Sys2Proof.Proofs

open Sys2Proof Sys2Proof.Machine

/-- Settles O30: a locked clock follows its edges or loses them, an unlocked one begins anew; sentences and limits act in their time. -/
theorem timeEventsComplete : Obligations.TimeEventsComplete := by
  intro s hlive
  refine ⟨?locked, ?unlocked, ?sentence, ?missing, ?holdover, ?limit, ?offset⟩
  case locked =>
    rintro edge l _ ⟨hlocked, hlabel, rfl⟩
    simp only [exec, execPpsEdge, hlive, hlocked, hlabel, Bool.not_true, Bool.false_eq_true, if_false]
    split_ifs <;> rfl
  case unlocked =>
    rintro edge ⟨hunlocked, hnone⟩
    cases hstate : s.time.state with
    | locked => exact absurd hstate hunlocked
    | free => simp [exec, execPpsEdge, hlive, hstate, hnone]
    | holdover => simp [exec, execPpsEdge, hlive, hstate, hnone]
  case sentence =>
    rintro bs ms u e ⟨hutc, hedge, hearly, hlate, hunlabelled, hunlocked⟩
    simp only [exec, execZdaSentence, hutc, hedge]
    exact congrArg Host.Outcome.next (if_neg (by simp [hlive, Nat.not_lt.2 hearly, Nat.not_lt.2 hlate, hunlabelled, hunlocked]))
  case missing =>
    rintro ⟨hlocked, hfew⟩
    have hhere : ¬ 3 ≤ s.time.missing + 1 := by omega
    simp [exec, execPpsMissing, hlive, hlocked, hhere]
  case holdover =>
    rintro _ ⟨hlocked, hmany, rfl⟩
    have hhere : 3 ≤ s.time.missing + 1 := by omega
    simp only [exec, execPpsMissing, hlive, hlocked, hhere]
    rfl
  case limit =>
    rintro _ ⟨hholdover, hfirst, hlimit, rfl⟩
    exact congrArg Host.Outcome.next (if_pos ⟨hlive, hholdover, by simp [hfirst], hlimit⟩)
  case offset =>
    rintro at_ o ⟨hchange, hdue⟩
    simp [exec, execTaiUtcOffsetChange, hchange, hlive, hdue]

end Sys2Proof.Proofs
end

section
/-! PROOFS. The VIA- commands (15 R378, R379, R385, R386, R398, R399, R405, R410 to R412; 17 R441). -/

namespace Sys2Proof.Proofs

open Sys2Proof Sys2Proof.Machine

theorem okAll_eq_ok {l : List (Bool × Nat)} (h : AllHold l) : okAll l = .ok () := by simpa using okAll_of_allHold 0 h

/-- Settles O44: each command's checks hold, so it responds. -/
theorem viaductCommandsComplete : Obligations.ViaductCommandsComplete := by
  intro x c s t
  refine ⟨?port, ?sessionLoad, ?sessionOpen, ?sessionClose, ?outer, ?fragments, ?log, ?time, ?status⟩
  case port =>
    rintro _ ⟨h, rfl, hlen, hexists, hmode, hfields, harea, hunused⟩
    refine congrArg Host.Outcome.next (command_responds h ?_)
    simp [okLen_of_length hlen, hexists, hmode, okAll_eq_ok hfields, harea, hunused]
  case sessionLoad =>
    rintro _ ⟨h, rfl, hlen, hheld, hop, hzero, hfields, hquota, hclosed⟩
    refine congrArg Host.Outcome.next (command_responds h ?_)
    rw [okLen_of_length hlen]
    cases hsession : mget t.via.sessions (fld (sub c.body 4 64) 0 2) with
    | none => simp [hheld, hop, hzero, okAll_of_allHold 4 hfields, hquota, hsession]
    | some y => simp [hheld, hop, hzero, okAll_of_allHold 4 hfields, hquota, hsession, hclosed y hsession]
  case sessionOpen =>
    rintro k y ⟨h, hsession, htime, hclosed⟩
    refine congrArg Host.Outcome.next (command_responds h ?_)
    simp [hsession, bne_iff_ne.2 htime, hclosed]
  case sessionClose =>
    rintro k y ⟨h, hsession⟩
    refine congrArg Host.Outcome.next (command_responds h ?_)
    simp [hsession]
  case outer =>
    rintro ⟨h, hlen, hfields⟩
    refine congrArg Host.Outcome.next (command_responds h ?_)
    simp [okLen_of_length hlen, okAll_eq_ok hfields]
  case fragments =>
    rintro _ _ ⟨h, rfl, rfl, hlen, hdies, hheld, hrange, hfields, hfree⟩
    refine congrArg Host.Outcome.next (command_responds h ?_)
    have hhead : 4 ≤ c.body.length := by omega
    simp only [okLen_of_length hlen, hhead, hdies, hheld, hrange, okAll_eq_ok hfields, hfree, decide_true, okAt_true, okSt_true, okRef_true,
      exe_ok_bind, exe_pure]
  case log =>
    rintro y ⟨h, hlen, hsession, hown, hcount⟩
    refine congrArg Host.Outcome.next (command_responds h ?_)
    simp [okLen_of_length hlen, okSome_of_some hsession, hown, hcount]
  case time =>
    rintro ⟨h, hlen, hbaud, hzero⟩
    refine congrArg Host.Outcome.next (command_responds h ?_)
    simp [okLen_of_length hlen, hbaud, hzero]
  case status =>
    rintro _ ⟨h, rfl, hlen, hheld⟩
    refine congrArg Host.Outcome.next (command_responds h ?_)
    simp [okLen_of_length hlen, hheld]

end Sys2Proof.Proofs
end

section
/-! PROOFS. Registers, mailboxes and the device-memory window as a host reads and writes them (16 R416 to R424; 17 R428, R434). -/

namespace Sys2Proof.Proofs

open Sys2Proof Sys2Proof.Machine

/-! ### Bytes of the window (16 R422) -/

section
variable {s : State} {xs : List (Win × Nat)} {rule : Win × Nat → Bool}

/-- A rule that no byte breaks turns no access away. -/
theorem not_any_of_kept (h : ∀ x ∈ xs, rule x = false) : ¬ xs.any rule = true := by simpa using h

/-- A write that covers each failing word it touches leaves none of its bytes out (04 R86). -/
theorem keep_eq_false {as : List Nat} {x : Nat}
    (h : s.badWord x = false ∨ ∀ i, i < 4 → as.contains (x / 4 * 4 + i) = true) :
    (s.badWord x && !(List.range 4).all fun i => as.contains (x / 4 * 4 + i)) = false := by
  rcases h with hgood | hcovered
  · rw [hgood, Bool.false_and]
  · have hall : ((List.range 4).all fun i => as.contains (x / 4 * 4 + i)) = true :=
      List.all_eq_true.2 fun i hi => hcovered i (List.mem_range.1 hi)
    rw [hall, Bool.not_true, Bool.and_false]

/-- Where no address is kept, every byte of the data is written. -/
theorem foldl_wrKept_eq {as : List Nat} {data : List Byte} {keep : Nat → Bool} (m : Mem) (h : ∀ x ∈ as, keep x = false) :
    (as.zip data).foldl (fun m x => if keep x.1 then m else wrByte m x.1 x.2) m = (as.zip data).foldl (fun m x => wrByte m x.1 x.2) m :=
  List.foldl_ext _ _ _ fun m x hx => if_neg (by simp [h x.1 (List.of_mem_zip hx).1])
end

/-! ### Accesses of a function that answers (16 R416 to R427) -/

section
variable {s : State} {p : Nat} (hlinked : s.hostLinked p = true) (hur : s.hostUr p = false) (hfrozen : (s.host p).frozen = false)
include hlinked hur hfrozen

/-- A function that is linked, answers requests and is not frozen takes a write. -/
theorem next_of_hostWrite {f : State → State} {t : State} (h : f s = t) : (Host.Outcome.next (s.hostWrites p f) : Outcome) = .next t := by
  simp [State.hostWrites, hlinked, hur, hfrozen, h]

/-- So it does a read. -/
theorem next_of_hostRead {f : State → State} {t : State} (h : f s = t) : (Host.Outcome.next (s.hostReads p f) : Outcome) = .next t := by
  simp [State.hostReads, hlinked, hur, hfrozen, h]

/-- A mailbox that is not posted and holds a well-formed header posts its command (16 R417, R418). -/
theorem execMbxPost_of_ready {v : Word} {body : Option (List Byte)} (hready : bitOf (s.host p).ctrl 0 = true)
    (hstate : s.part.state = 2 ∨ s.part.state = 3) (hidle : bitOf (s.host p).busy (v.toNat % 32) = false)
    (hhdr : hdrOk ((s.host p).mbxBytes (0x2000 * (v.toNat % 32)) 32) = true) :
    execMbxPost p v body s = .next (State.admitCmd (State.modHost { s with part := { s.part with posts := s.part.posts + 1 } } p
      fun h => { h with busy := h.busy ||| 2 ^ (v.toNat % 32), done := h.done &&& (2 ^ (v.toNat % 32) ^^^ (2 ^ 32 - 1)) })
      (s.postedCmd p (v.toNat % 32) body)) := by
  refine next_of_hostWrite hlinked hur hfrozen ?_
  have hhere : ¬ ((!bitOf (s.host p).ctrl 0) = true ∨ s.part.state ≠ 2 ∧ s.part.state ≠ 3) := by
    rw [hready]
    rintro (h | h)
    · cases h
    · omega
  have hlegal : ¬ (bitOf (s.host p).busy (v.toNat % 32) = true ∨ (!hdrOk ((s.host p).mbxBytes (0x2000 * (v.toNat % 32)) 32)) = true) := by
    simp [hidle, hhdr]
  simp only [State.post, if_neg hhere, if_neg hlegal]

/-- A write of the window that breaks no rule and covers each failing word it touches stores its bytes (16 R422; 04 R86). -/
theorem execBar4Write_of_legal {off : Nat} {data : List Byte} {as : List Nat} (hcovers : s.winCovers p off data.length = true)
    (hfenced : s.hostFenced p = false) (has : as = (s.winBytes p off data.length).map (·.2))
    (hrules : ∀ x ∈ s.winBytes p off data.length, s.winRule1 true x = false ∧ s.winRule2 x = false ∧ s.winRule3 x = false ∧
      s.winRule4 x = false ∧ s.winRule5 x = false)
    (hwords : ∀ x ∈ as, (s.memWake (as.head?.getD 0)).badWord x = false ∨ ∀ i, i < 4 → as.contains (x / 4 * 4 + i) = true) :
    execBar4Write p off data s = .next (State.wrote { s.memWake (as.head?.getD 0) with
      mem := (List.zip as data).foldl (fun m x => wrByte m x.1 x.2) (s.memWake (as.head?.getD 0)).mem } (as.head?.getD 0) data.length) := by
  refine next_of_hostWrite hlinked hur hfrozen ?_
  simp only [imp_and, forall_and] at hrules
  obtain ⟨h1, h2, h3, h4, h5⟩ := hrules
  have hkeep := fun x hx => keep_eq_false (hwords x hx)
  have hnone := List.find?_eq_none.2 fun x hx => Bool.eq_false_iff.1 (hkeep x hx)
  simp only [hcovers, hfenced, not_any_of_kept h1, not_any_of_kept h2, not_any_of_kept h3, not_any_of_kept h4, not_any_of_kept h5,
    Bool.not_true, Bool.false_eq_true, if_false, ← List.head?_map, ← has, hnone, foldl_wrKept_eq _ hkeep]
end

/-- Settles O36: the function answers, so each access has the effect that its register, mailbox or window bytes give it. -/
theorem hostAccessesComplete : Obligations.HostAccessesComplete := by
  rintro p s ⟨hlinked, hur, hfrozen⟩
  have hwrite {f : State → State} {t : State} (h : f s = t) := next_of_hostWrite hlinked hur hfrozen h
  have hread {f : State → State} {t : State} (h : f s = t) := next_of_hostRead hlinked hur hfrozen h
  refine ⟨?ctrl, ?done, ?badWrite, ?word, ?wide, ?badRead, ?badWrite', ?lowHalf, ?unmask, ?request, ?post, ?read, ?write, ?admission⟩
  case ctrl => exact fun v => hwrite rfl
  case done => exact fun v => hwrite rfl
  case badWrite => exact fun off size v hsize => hwrite (by simp [hsize])
  case word => exact fun off v hsize => hwrite (by simp [hsize])
  case wide => exact fun off v hsize => hwrite (by simp [hsize])
  case badRead =>
    exact fun off size hsize => (congrArg Host.Outcome.next (if_neg Bool.false_ne_true)).trans (hread (if_pos (by simp [hsize])))
  case badWrite' =>
    exact fun off size hsize => (congrArg Host.Outcome.next (if_pos rfl)).trans (hwrite (if_neg (by simp [hsize])))
  case lowHalf => exact fun off v hreg => hread (by simp only [hreg])
  case unmask => exact fun v hv => hwrite (if_pos hv)
  case request =>
    rintro off data ⟨hdata, hrange, hfree⟩
    refine hwrite ?_
    have hlegal : ((List.range data.length).any fun i =>
        decide (0x1000 ≤ (off + i) % 0x2000) || bitOf (s.host p).busy ((off + i) / 0x2000)) = false :=
      List.any_eq_false.2 fun i hi => by simp [hfree i (List.mem_range.1 hi)]
    simp only [List.isEmpty_eq_false_iff.2 hdata, Nat.not_lt.2 hrange, hlegal, Bool.false_eq_true, or_self, if_false]
  case post =>
    rintro v body _ ⟨rfl, hready, hstate, hidle, hhdr⟩
    exact execMbxPost_of_ready hlinked hur hfrozen hready hstate hidle hhdr
  case read =>
    rintro off n _ ⟨hcovers, hfenced, rfl, hrules⟩
    simp only [imp_and, forall_and] at hrules
    obtain ⟨h1, h2, h3⟩ := hrules
    refine ⟨fun hgood => hread ?good, fun x hbad => hread ?bad⟩
    case good =>
      have hnone := List.find?_eq_none.2 fun x hx => Bool.eq_false_iff.1 (hgood x hx)
      simp only [hcovers, hfenced, not_any_of_kept h1, not_any_of_kept h2, not_any_of_kept h3, hnone, Bool.not_true, Bool.false_eq_true,
        if_false]
    case bad =>
      simp only [hcovers, hfenced, not_any_of_kept h1, not_any_of_kept h2, not_any_of_kept h3, hbad, Bool.not_true, Bool.false_eq_true,
        if_false]
  case write =>
    rintro off data _ as _ ⟨hcovers, hfenced, has, rfl, rfl, hrules, hwords⟩
    exact execBar4Write_of_legal hlinked hur hfrozen hcovers hfenced has hrules hwords
  case admission =>
    rintro m c ⟨hposted, hfree⟩
    simp [exec, execCommandAdmit, hposted, hfree]

end Sys2Proof.Proofs
end

section
/-! PROOFS. Links, resets, the primary, requests that time out, DOE and IDE of a host port (16 R413, R423 to R427). -/

namespace Sys2Proof.Proofs

open Sys2Proof Sys2Proof.Machine

section
variable {p : Nat} {s : State}

/-- A size of BAR4 from 1 to 512 GiB is taken (16 R415). -/
theorem bar4_size_offered {i : Nat} (hi : i < 10) : ((List.range 10).any fun k => 2 ^ (30 + i) == 2 ^ (30 + k)) = true :=
  List.any_eq_true.2 ⟨i, List.mem_range.2 hi, beq_self_eq_true _⟩

section
variable (hp : p < 2) (hlive : s.live = true)
include hp hlive

/-- A segment read of a stream that times out stops the stream with ST_HOST_IO (16 R425). -/
theorem execCompletionTimeout_stream {die n : Nat} (hn : n < 64) (hdie : die < 8) (hruns : s.streamRuns die n = true)
    (hport : (s.stream die n).port = p) (hsegs : (s.stream die n).segs ≠ []) :
    execCompletionTimeout p (64 * die + n) s = .next (s.streamStop die n stHostIo ((s.stream die n).lastPts.getD 0)) := by
  have hreq : 64 * die + n < 512 := by omega
  have hquot : (64 * die + n) / 64 = die := by omega
  have hrem : (64 * die + n) % 64 = n := by omega
  simp [execCompletionTimeout, Nat.not_le.2 hp, hlive, hreq, hquot, hrem, hruns, hport, hsegs]

/-- A record of a host-tier shard that times out is a data fault (11 R296; 16 R425). -/
theorem execCompletionTimeout_shard {die n : Nat} {h : Shard} (hn : n < 1024) (hdie : die < 8) (hshard : mget (s.die die).shards n = some h)
    (htier : h.hostTier = true) (hport : h.port = p) (hruns : h.stopped = false) :
    execCompletionTimeout p (512 + 1024 * die + n) s = .next (s.fault ⟨9, die, n, 0, false, []⟩) := by
  have hreq : ¬ 512 + 1024 * die + n < 512 := by omega
  have hreq' : 512 + 1024 * die + n < 16384 := by omega
  have hquot : (512 + 1024 * die + n - 512) / 1024 = die := by omega
  have hrem : (512 + 1024 * die + n - 512) % 1024 = n := by omega
  simp [execCompletionTimeout, Nat.not_le.2 hp, hlive, if_neg hreq, hreq', hquot, hrem, hshard, htier, hport, hruns]

/-- The body of a command that times out is an error of that command (16 R425; 17 R430). -/
theorem execCompletionTimeout_body {m : Nat} {late : Cmd → Cmd} (hm : m < 32)
    (hlate : late = fun c => if c.port = p ∧ c.mailbox = m ∧ bitOf c.flags 0 then { c with hostErr := true } else c) :
    execCompletionTimeout p (16384 + m) s = .next (
      let t := s.modHost p fun h => { h with posted := h.posted.map late }
      { t with dies := t.dies.map fun d => (d.1, { d.2 with admitted := d.2.admitted.map late }) }) := by
  subst hlate
  have hreq : ¬ 16384 + m < 512 := by omega
  have hreq' : ¬ 16384 + m < 16384 := by omega
  have hrem : (16384 + m - 16384) % 32 = m := by omega
  simp only [execCompletionTimeout, Nat.not_le.2 hp, hlive, if_neg hreq, if_neg hreq', hrem, Bool.not_true, Bool.false_eq_true, or_self,
    if_false]
end

section
variable (hlinked : s.hostLinked p = true)
include hlinked

/-- An object written while another is in progress is counted, but for the end of that one (16 R426). -/
theorem execDoeObject_of_busy {x : DoeObject} (hbusy : (s.host p).doeBusy = true) (hx : x ≠ .done) :
    execDoeObject p x s = .next (s.modHost p fun h => { h with doeIgnored := h.doeIgnored + 1 }) := by
  cases x with
  | done => exact absurd rfl hx
  | begun => simp [execDoeObject, hlinked, hbusy]
  | spdm => simp [execDoeObject, hlinked, hbusy]
  | ideKeyed => simp [execDoeObject, hlinked, hbusy]
end
end

/-- Settles O37: each event on a port where it can happen; of a request that times out, its number says whose it is. -/
theorem hostPortEventsComplete : Obligations.HostPortEventsComplete := by
  intro p s
  refine ⟨?functionReset, ?sleep, ?down, ?up, ?failover, ?timeout, ?linked⟩
  case functionReset => exact fun hlinked => congrArg Host.Outcome.next (if_pos hlinked)
  case sleep => exact fun hp => congrArg Host.Outcome.next (if_neg (Nat.not_le.2 hp))
  case down =>
    intro hp why hwhy
    cases why with
    | d3hot => exact absurd rfl hwhy
    | _ => exact congrArg Host.Outcome.next (if_neg (Nat.not_le.2 hp))
  case up =>
    rintro ⟨hp, hpor⟩ rate width flit msix i hi
    simp only [exec, execHostLinkUp, if_neg (show ¬ (2 ≤ p ∨ (!s.part.porN) = true) by simp [hp, hpor]), bar4_size_offered hi, if_true]
  case failover =>
    rintro ⟨hstate, hdown, hother⟩ t ⟨hsince, hdue⟩
    refine congrArg Host.Outcome.next (if_pos ⟨hstate, by simp [hdown], hother, ?_⟩)
    rw [hsince, Option.any_some, decide_eq_true_eq]
    omega
  case timeout =>
    rintro ⟨hp, hlive⟩
    refine ⟨?stream, ?shard, ?body⟩
    case stream =>
      rintro die n ⟨hn, hdie, hruns, hport, hsegs⟩
      exact execCompletionTimeout_stream hp hlive hn hdie hruns hport hsegs
    case shard =>
      rintro die n h ⟨hn, hdie, hshard, htier, hport, hruns⟩
      exact execCompletionTimeout_shard hp hlive hn hdie hshard htier hport hruns
    case body =>
      rintro m late ⟨hm, hlate⟩ _ rfl
      exact execCompletionTimeout_body hp hlive hm hlate
  case linked =>
    intro hlinked
    refine ⟨?done, ?busy, ?begun, ?spdm, ?keyed, ?integrity⟩
    case done => simp [exec, execDoeObject, hlinked]
    case busy => exact fun hbusy x hx => execDoeObject_of_busy hlinked hbusy hx
    case begun =>
      intro hidle
      simp [exec, execDoeObject, hlinked, hidle]
    case spdm =>
      rintro ⟨hidle, hidentity⟩ r
      simp [exec, execDoeObject, hlinked, hidle, hidentity]
    case keyed =>
      intro hidle n hn
      simp only [exec, execDoeObject, hlinked, hidle, Nat.not_le.2 hn, Bool.not_true, Bool.false_eq_true, if_false]
    case integrity =>
      intro n hsecure
      exact congrArg Host.Outcome.next (if_neg (by simp [hlinked, hsecure, -List.contains_eq_mem]))

end Sys2Proof.Proofs
end

section
/-! PROOFS. The DEV- and MEM- commands (17 R429, R433, R440, R441; 16 R422; 04 R97). -/

namespace Sys2Proof.Proofs

open Sys2Proof Sys2Proof.Machine

theorem okLen_of_empty {c : Cmd} (h : c.body = []) : okLen c 0 = .ok () := okLen_of_length (congrArg List.length h)

/-- Settles O38: each command's checks hold, so it responds, but for a MEM-FREE of a range that still has readers. -/
theorem deviceAndMemoryCommandsComplete : Obligations.DeviceAndMemoryCommandsComplete := by
  intro x c s t
  refine ⟨?info, ?bays, ?probes, ?node, ?window, ?dry, ?free, ?freeLater⟩
  case info =>
    rintro ⟨h, hbody⟩
    refine congrArg Host.Outcome.next (command_responds h ?_)
    simp [okLen_of_empty hbody]
  case bays =>
    rintro _ ⟨h, rfl, hlen, hdie, hzero⟩
    refine congrArg Host.Outcome.next (command_responds h ?_)
    rw [okDie_of_lt (by omega) hdie, okLen_of_length hlen]
    simp [hzero]
  case probes =>
    rintro ⟨h, hbody⟩
    refine congrArg Host.Outcome.next (command_responds h ?_)
    simp [okLen_of_empty hbody]
  case node =>
    rintro ⟨h, hlen, hnode, hjobs⟩
    refine congrArg Host.Outcome.next (command_responds h ?_)
    simp [okLen_of_length hlen, hnode, hjobs]
  case window =>
    rintro _ ⟨h, rfl, hlen, hentry, hflags, hzero, haligned, hrange, hdpa⟩
    refine congrArg Host.Outcome.next (command_responds h ?_)
    simp only [okLen_of_length hlen, hentry, hflags, hzero, haligned, hrange, hdpa, and_self, decide_true, okAt_true, okSt_true, exe_ok_bind,
      exe_pure]
  case dry =>
    rintro die b a n _ ⟨h, rfl, hrange, hfree, hroom⟩
    refine congrArg Host.Outcome.next (command_responds h ?_)
    simp [hrange, hfree, hroom]
  case free =>
    rintro die b a n _ ⟨h, rfl, hrange, hdry, hquiet⟩
    refine congrArg Host.Outcome.next (command_responds h ?_)
    simp only [hrange, hdry, hquiet, okSt_true, exe_ok_bind, exe_pure]
  case freeLater =>
    rintro die b a n _ ⟨h, rfl, hrange, hdry, hread⟩
    refine congrArg Host.Outcome.next (command_goesOn h ?_)
    simp only [hrange, hdry, hread, okSt_true, exe_ok_bind, exe_pure]

end Sys2Proof.Proofs
end

section
/-! PROOFS. The JOB- commands, responses, and commands that end after they were deferred (16 R417; 17 R429, R430, R435, R440). -/

namespace Sys2Proof.Proofs

open Sys2Proof Sys2Proof.Machine

theorem grantHead_eq_ok {c : Cmd} (hhead : zeroAt c.body 0 1 = true) (hzero : zeroAt c.body 2 2 = true) : grantHead c = .ok () := by
  simp [grantHead, hhead, hzero]

/-- Settles O39: each command's checks hold, so it responds, or goes on while grants are used or strokes have not sealed; responses and
ends find the entry they are for. -/
theorem jobCommandsComplete : Obligations.JobCommandsComplete := by
  intro x c s t
  refine ⟨?create, ?grant, ?revoke, ?revokeLater, ?destroy, ?destroyLater, ?status, ?response, ?deferral, ?deferredEnd⟩
  case create =>
    rintro gs _ ⟨h, rfl, hmask, hgrants, hnew, hroom, hfree⟩
    refine congrArg Host.Outcome.next (command_responds h ?_)
    simp [hmask, hgrants, hnew, hroom, hfree]
  case grant =>
    rintro gs ⟨h, hhead, hzero, hgrants, hfree⟩
    refine congrArg Host.Outcome.next (command_responds h ?_)
    simp [grantHead_eq_ok hhead hzero, hgrants, hfree]
  case revoke =>
    rintro gs ⟨h, hhead, hzero, hgrants, hheld, hunused⟩
    refine congrArg Host.Outcome.next (command_responds h ?_)
    simp only [grantHead_eq_ok hhead hzero, hgrants, hheld, hunused, okSt_true, exe_ok_bind, exe_pure, Bool.false_eq_true, if_false]
  case revokeLater =>
    rintro gs ⟨h, hhead, hzero, hgrants, hheld, hused⟩
    refine congrArg Host.Outcome.next (command_goesOn h ?_)
    simp only [grantHead_eq_ok hhead hzero, hgrants, hheld, hused, okSt_true, exe_ok_bind, exe_pure, if_true]
  case destroy =>
    rintro ⟨h, hbody, hsealed⟩
    refine congrArg Host.Outcome.next (command_responds h ?_)
    simp [okLen_of_empty hbody, hsealed]
  case destroyLater =>
    rintro ⟨h, hbody, hopen⟩
    refine congrArg Host.Outcome.next (command_goesOn h ?_)
    simp [okLen_of_empty hbody, hopen]
  case status =>
    rintro ⟨h, hbody⟩
    refine congrArg Host.Outcome.next (command_responds h ?_)
    simp [okLen_of_empty hbody]
  case response =>
    rintro p m ok r ⟨hp, hready⟩
    simp only [exec, execMailboxResponse, if_neg (Nat.not_le.2 hp), hready]
  case deferral =>
    rintro p m token e ⟨hentry, hnew, htoken⟩
    simp only [exec, execDeferralTimeout, hentry, hnew, Nat.not_le.2 htoken, Bool.false_eq_true, or_self, if_false]
  case deferredEnd =>
    rintro die token e ⟨hentry, hended, hresult⟩
    simp only [exec, execDeferredCommandEnd, hentry, Option.isNone_eq_false_iff.2 hended, Bool.false_eq_true, if_false, hresult]

end Sys2Proof.Proofs
end

section
/-! PROOFS. Management commands and attestation messages (18 R448, R451 to R459). -/

namespace Sys2Proof.Proofs

open Sys2Proof Sys2Proof.Machine

section
variable {m : MgmtMsg} {s t : State} {code st : Nat} {body : List Byte} {f : State → MgmtOut}

/-- A command for this part is answered with the status and body that it ends in (18 R457). -/
theorem mgmtOpen_replies (hfor : s.mgmtFor m = true) (hf : f s = (t, some (st, body))) :
    s.mgmtOpen m code f = t.mgmtReply code st m.nonce body := by
  simp [State.mgmtOpen, hfor, hf]

section
variable {ok : Bool} (hfor : s.mgmtFor m = true) (hidentity : s.ks.identityOk = true) (hnonce : s.nonceCurrent m.nonce = true)
  (hsigned : ok = true)
include hfor hidentity hnonce hsigned

/-- A signed command with a current nonce runs with that nonce used up (18 R458). -/
theorem mgmtSigned_replies (hf : f (s.useNonce m.nonce) = (t, some (st, body))) :
    s.mgmtSigned m code ok f = t.mgmtReply code st m.nonce body := by
  simp [State.mgmtSigned, State.mgmtOpen, hidentity, hfor, hsigned, hnonce, hf]

/-- One whose answer is to come is not answered now. -/
theorem mgmtSigned_waits (hf : f (s.useNonce m.nonce) = (t, none)) : s.mgmtSigned m code ok f = t := by
  simp [State.mgmtSigned, State.mgmtOpen, hidentity, hfor, hsigned, hnonce, hf]
end
end

/-- Settles O47: each command is for this part and authorised as it must be, and its body passes its checks. -/
theorem managementCommandsComplete : Obligations.ManagementCommandsComplete := by
  intro m s
  refine ⟨?unsigned, ?owner, ?luotte, ?flush, ?spdm, ?control⟩
  case unsigned =>
    intro hfor
    refine ⟨?nonce, ?status, ?enroll, ?chunk⟩
    case nonce =>
      rintro fresh _ rfl
      exact congrArg Host.Outcome.next (mgmtOpen_replies hfor rfl)
    case status => exact congrArg Host.Outcome.next (mgmtOpen_replies hfor rfl)
    case enroll =>
      rintro ⟨hnone, hmctp, hlen⟩
      have henrolled : (if m.mctp = true then s.enrolled m else mgmtDone s stRefused) =
          (s.modFlash fun f => { f with owner := some m.body, network := [] }, some (stOk, [])) := by
        simp [hmctp, State.enrolled, hlen, mgmtDone]
      exact congrArg Host.Outcome.next ((if_pos (by simp [hnone])).trans (mgmtOpen_replies hfor henrolled))
    case chunk =>
      rintro _ ⟨rfl, hslot, hhead, hmost, hzero, hfits, hother⟩
      have hform : ¬ (m.body.length < 8 ∨ 1024 < m.body.length ∨ (!zeroAt m.body 1 3) = true) := by simp [hhead, hmost, hzero]
      have hrange : ¬ (2 ≤ fld m.body 0 1 ∨ slotBytes < fld m.body 4 4 + (m.body.drop 8).length) := by
        rw [List.length_drop]; omega
      exact congrArg Host.Outcome.next (mgmtOpen_replies hfor ((if_neg hform).trans ((if_neg hrange).trans (if_neg hother))))
  case owner =>
    rintro ⟨hfor, hidentity, hnonce, hsig, howner⟩ _ rfl
    have hsigned : s.ownerSigned m = true := by simp [State.ownerSigned, hsig, howner]
    have hreplies {code : Nat} {f : State → MgmtOut} {t : State} {st : Nat} {body : List Byte}
        (hf : f (s.useNonce m.nonce) = (t, some (st, body))) :=
      congrArg (Host.Outcome.next (φ := Fault) (ρ := Refusal))
        (mgmtSigned_replies (code := code) hfor hidentity hnonce hsigned hf)
    refine ⟨?thaw, ?primary, ?failStop, ?test, ?cak, ?tai, ?network, ?clear, ?enroll, ?commit, ?firmware, ?record⟩
    case thaw =>
      rintro _ ⟨rfl, hlen, hport, hfrozen⟩
      exact hreplies ((if_neg (not_not.2 hlen)).trans ((if_neg (Nat.not_le.2 hport)).trans (if_neg (by simp [hfrozen]))))
    case primary =>
      rintro _ ⟨rfl, hlen, hport, hother⟩
      exact hreplies ((if_neg (not_not.2 hlen)).trans ((if_neg (Nat.not_le.2 hport)).trans (if_neg hother)))
    case failStop => exact fun hlen => hreplies (if_neg (not_not.2 hlen))
    case test =>
      rintro _ _ _ ⟨rfl, rfl, rfl, hlen, hfirst, hlast, hzero, hlive, hexists, hfree⟩
      have hform : ¬ (m.body.length ≠ 8 ∨ fld m.body 0 1 = 0 ∨ 8 ≤ fld m.body 0 1 ∨ (!zeroAt m.body 4 4) = true) := by
        simp [hlen, Nat.ne_of_gt hfirst, hlast, hzero]
      exact congrArg Host.Outcome.next (mgmtSigned_waits hfor hidentity hnonce hsigned ((if_neg hform).trans
        ((if_neg (by simp [hlive])).trans ((if_neg (by simp [hexists])).trans (if_neg (Bool.eq_false_iff.1 hfree))))))
    case cak =>
      rintro _ _ _ ⟨rfl, rfl, rfl, hlen, hfirst, hlast, hexists, hitf, hclosed⟩
      have hform : ¬ (m.body.length ≠ 420 ∨ fld m.body 2 2 = 0 ∨ 33 ≤ fld m.body 2 2 ∨ (!true) = true) := by
        simp [hlen, Nat.ne_of_gt hfirst, Nat.lt_succ_of_le hlast]
      exact hreplies ((if_neg hform).trans ((if_neg (by simp [hexists, hitf])).trans (if_neg (Bool.eq_false_iff.1 hclosed))))
    case tai => exact fun hlen => hreplies (if_neg (not_not.2 hlen))
    case network => exact fun hlen => hreplies (if_neg (Nat.not_lt.2 hlen))
    case clear =>
      rintro _ ⟨rfl, hlen, hdie, hbay, hlisted⟩
      exact hreplies ((if_neg (not_not.2 hlen)).trans ((if_neg (not_or.2 ⟨Nat.not_le.2 hdie, Nat.not_le.2 hbay⟩)).trans
        (if_neg (by simp [hlisted, -List.contains_eq_mem]))))
    case enroll =>
      intro hlen
      exact congrArg Host.Outcome.next ((if_neg (Bool.eq_false_iff.1 (Option.isNone_eq_false_iff.2 howner))).trans
        (mgmtSigned_replies hfor hidentity hnonce hsig (if_neg (not_not.2 hlen))))
    case commit =>
      rintro ks es _ _ ⟨rfl, rfl, hlen, hslot⟩
      exact hreplies ((if_neg (not_not.2 hlen)).trans (if_neg (Nat.not_le.2 hslot)))
    case firmware =>
      rintro _ ⟨rfl, hlen, hzero, hwhich, hrises, hruns⟩
      refine hreplies ?_
      simp [hlen, hzero, hwhich, Nat.not_lt.2 hrises, Nat.not_lt.2 hruns, mgmtDone]
    case record =>
      rintro _ ⟨rfl, hlen, hzero, hwhich, hrises, hruns⟩
      refine hreplies ?_
      simp [hlen, hzero, hwhich, Nat.not_lt.2 hrises, Nat.not_lt.2 hruns, mgmtDone]
  case luotte =>
    rintro ⟨hfor, hidentity, hnonce, hsig, hbody⟩
    exact congrArg Host.Outcome.next (mgmtSigned_replies hfor hidentity hnonce hsig (if_neg (by simp [hbody])))
  case flush =>
    rintro hpor _ _ ⟨rfl, rfl⟩
    exact congrArg Host.Outcome.next (if_neg (by simp [hpor]))
  case spdm => exact fun hready x => congrArg Host.Outcome.next (if_pos hready)
  case control => exact fun hpor x => congrArg Host.Outcome.next (if_pos hpor)

end Sys2Proof.Proofs
end

section
/-! PROOFS. Reset, the stages of Gesso, rails, domains and clocks, temperature and voltage (18 R450; 19 R461 to R472; 21 R488 to R490). -/

namespace Sys2Proof.Proofs

open Sys2Proof Sys2Proof.Machine

/-- Settles O46: each event in the state of the part, domain or clock in which it takes effect. -/
theorem powerAndResetComplete : Obligations.PowerAndResetComplete := by
  intro s
  refine ⟨?rise, ?fall, ?reset, ?gesso, ?rails, ?reference, ?domains, ?thermal, ?avs⟩
  case rise => exact fun hpor => congrArg Host.Outcome.next (if_neg (by simp [hpor]))
  case fall => exact fun hpor => congrArg Host.Outcome.next (if_pos hpor)
  case reset =>
    rintro x c t ⟨h, hlen, hzero, hjobs⟩
    refine congrArg Host.Outcome.next (command_of_ok h (o := { s := _, answered := true }) ?_)
    simp only [okLen_of_length hlen, hzero, hjobs, List.isEmpty_nil, okAt_true, okRef_true, exe_ok_bind, exe_pure]
    rfl
  case gesso =>
    rintro ⟨hpor, hboot⟩
    have hhere : ¬ ((!s.part.porN) = true ∨ s.part.state ≠ 1) := by simp [hpor, hboot]
    refine ⟨?rom, ?config, ?puf, ?links, ?memory, ?stores, ?ports, ?ready⟩
    all_goals
      intros
      rename_i hstage
      simp only [exec, execGessoStageEnd, if_neg hhere, hstage]
  case rails =>
    rintro hpor _ rfl
    exact congrArg Host.Outcome.next (if_neg (by simp [hpor]))
  case reference => exact fun die hdie => congrArg Host.Outcome.next (if_pos hdie)
  case domains =>
    rintro die dom ⟨hlive, hdie⟩
    refine ⟨?gate, ?wake, ?clock, ?done, ?memoryDone, ?clockGate⟩
    case gate => exact fun ⟨hon, hidle⟩ => congrArg Host.Outcome.next (if_pos ⟨hlive, hdie, hon, by simp [hidle]⟩)
    case wake =>
      rintro ⟨hdom, hoff, hwanted⟩
      simp [exec, execDomainWake, hlive, Nat.not_le.2 hdie, Nat.not_le.2 hdom, hoff, hwanted]
    case clock =>
      rintro ⟨hdom, hon⟩
      simp [exec, execDomainWake, hlive, Nat.not_le.2 hdie, Nat.not_le.2 hdom, hon]
    case done =>
      intro hwaking hdom
      simp [exec, execDomainWakeDone, hlive, Nat.not_le.2 hdie, hwaking, hdom]
    case memoryDone =>
      rintro hwaking _ rfl
      simp [exec, execDomainWakeDone, hlive, Nat.not_le.2 hdie, hwaking]
    case clockGate =>
      rintro ⟨hdom, hon, hruns⟩
      exact congrArg Host.Outcome.next (if_pos ⟨hlive, hdie, hdom, hon, by simp [hruns, -List.contains_eq_mem]⟩)
  case thermal =>
    rintro sensors mw dieMw _ _ _ _ ⟨hpor, hlen, rfl, rfl, rfl, htrip, rfl⟩
    have hhere : ¬ ((!s.part.porN) = true ∨ sensors.length ≠ 12 * s.dieCount) := by simp [hpor, hlen]
    refine ⟨?trips, ?sets, ?throttles⟩
    case trips =>
      intro hhot
      simp only [exec, execThermalEval, if_neg hhere, htrip, Bool.false_eq_true, if_false, hhot, if_true]
    case sets =>
      rintro ⟨hcool, hsame⟩
      simp only [exec, execThermalEval, if_neg hhere, htrip, Bool.false_eq_true, if_false, Nat.not_le.2 hcool, hsame]
    case throttles =>
      rintro ⟨hcool, hfull, hless⟩
      simp only [exec, execThermalEval, if_neg hhere, htrip, Bool.false_eq_true, if_false, Nat.not_le.2 hcool,
        if_pos (And.intro hfull hless)]
  case avs =>
    rintro die margin r ⟨hrecord, hpor, hdie⟩
    have hhere : ¬ ((!s.part.porN) = true ∨ s.dieCount ≤ die) := by simp [hpor, hdie]
    refine ⟨?lowers, ?raises⟩
    case lowers =>
      intro hmargin
      simp only [exec, execAvsEval, hrecord, if_neg hhere, if_pos hmargin]
    case raises =>
      rintro ⟨hmargin, hbin⟩
      simp only [exec, execAvsEval, hrecord, if_neg hhere, if_neg (Int.not_le.2 hmargin), Nat.min_eq_right hbin,
        Nat.not_lt.2 hbin, false_and, if_false]

end Sys2Proof.Proofs
end
